-- ==== Sys2Proof/Word.lean ====
section
/-!
DEFINITION. Words and bytes of the CN-5 (R10, R11): the register word, the byte, and the two
directions between a byte list in ascending address order and a number.
-/

namespace Sys2Proof

/-- A 32-bit register or mailbox word (R304). -/
abbrev Word := BitVec 32

/-- One byte of a record, image or descriptor (R11). -/
abbrev Byte := BitVec 8

end Sys2Proof
end

