-- ==== Sys2Proof/Syntax.lean ====
section
/-!
DEFINITION. The commands of the block: one constructor of `Instr` per row of the table of operations
and events. The operands of a command are what the outside supplies at that step: pins, data read
from host memory, and which of the outcomes that the manual leaves to time or to physics came about.
A mailbox command names the mailbox; its words are in that mailbox's IN registers (R329).
-/

namespace Sys2Proof

/-- The reset domains of Table 13.1; the band domains are numbered by their band (R324). -/
inductive Domain where
  | management | fabric | timeBase
  | bandCompute (b : Fin 8)
  | hostMatrix (b : Fin 8)
  deriving DecidableEq, Repr

/-- What a read of host memory returned: the bytes, or the first of its requests that failed: whether its
status was POISON, else it was ERROR, and the request's number, one for each 128-byte line (R303). -/
inductive HostRead where
  | data (bytes : List Byte)
  | failed (poison : Bool) (line : BitVec 11)
  deriving DecidableEq, Repr

/-- The two host rings (R397). -/
inductive Ring where
  | event | logMirror
  deriving DecidableEq, Repr

/-- One beat on ACC_IN (Table 12.2). -/
structure AccBeat where
  data   : BitVec 16384
  first  : Bool
  last   : Bool
  nel    : BitVec 13
  poison : Bool
  sid    : BitVec 14
  row    : BitVec 48
  pass   : BitVec 2
  col0   : BitVec 24
  len    : BitVec 25
  scale  : BitVec 16
  deriving DecidableEq, Repr

/-- The kinds of internal error that Table 16.1 detects while a beat is processed. -/
inductive FaultKind where
  | ecc | parity | residue
  deriving DecidableEq, Repr

/-- One internal error met while a beat is processed (Table 16.1): it poisons results of one
stage, or the accumulator of a STAT or PSUM stage (R106, R137, R178, R194, R375). -/
structure HwFault where
  kind        : FaultKind
  unit        : BitVec 8      -- UNIT of layout U (Table 16.4)
  index       : BitVec 16     -- INDEX of layout U
  stage       : Nat           -- stage of the chain at which the error is met
  elem        : Nat           -- element of the beat; ignored where accumulator is set
  accumulator : Bool          -- the error is in the stage's row accumulator
  sweepB      : Bool          -- at a CONVERT stage with an output scale: the error is in sweep B (Table 3.1)
  deriving DecidableEq, Repr

/-- The errors of a step that are corrected and only counted (Table 16.1), per tile counter. -/
structure Corrected where
  staging : Nat
  table   : Nat
  step    : Nat
  entries : Nat
  deriving DecidableEq, Repr

/-- What a full test of a tile finds (R366): the UNIT at which it failed (layout U), and the staging banks that failed their
march, which are switched off (R368). -/
structure SelftestFound where
  unit  : Byte
  banks : BitVec 16
  deriving DecidableEq, Repr

/-- One internal error met while an XEV request is evaluated: it poisons one result (R137). -/
structure XevFault where
  kind  : FaultKind
  unit  : BitVec 8      -- UNIT of layout U (Table 16.4)
  index : BitVec 16     -- INDEX of layout U
  elem  : Nat           -- element of the request
  deriving DecidableEq, Repr

/-- One XEV request (Table 12.7). -/
structure XevReq where
  id   : BitVec 16
  func : BitVec 8
  ifmt : BitVec 5
  ofmt : BitVec 5
  n    : BitVec 7
  data : BitVec 2048
  /-- the errors that poison results of it (R137) -/
  faults : List XevFault
  /-- the table-SRAM errors corrected on the way -/
  corrected : Nat
  deriving DecidableEq, Repr

/-- Outcome of the power-on self-test (Table 13.7 steps 5 to 8): which bands have their clocks and
FAB port, which tiles fail, and which staging banks fail. -/
structure PostReport where
  clocked   : BitVec 8
  fabUp     : BitVec 8
  tileFails : BitVec 88
  bankFails : List (Fin 88 × BitVec 16)
  deriving DecidableEq, Repr

/-- Why a hand-over reverts (R351). -/
inductive RevertCause where
  | missedBound | arcRecheck
  deriving DecidableEq, Repr

/-- What one Drizzle test found (Table 15.4, R364), by UNIT and INDEX of layout U (Table 16.4). -/
inductive DrizzleResult where
  | pass (unit : BitVec 8) (index : BitVec 16) (sweepDone : Bool)
  | corrected (staging table step : Bool)
  | fault (unit : BitVec 8) (index : BitVec 16) (expected observed : Word)
  | eccFault (unit : BitVec 8) (index : BitVec 16) (expected observed : Word)
  | marginLow (index : BitVec 16) (observed : Word)
  deriving DecidableEq, Repr

/-- A chain or stream table entry that had an uncorrectable error (Table 16.1). -/
inductive EntryRef where
  | chain (id : BitVec 10)
  | stream (sid : BitVec 14)
  deriving DecidableEq, Repr

/-- How management SRAM answers a read of one word (Table 16.1): as it is, corrected, or not correctable. -/
inductive SramRead where
  | good | corrected | uncorrectable
  deriving DecidableEq, Repr, Inhabited

/-- What a test access addresses (R411). -/
inductive TestUnit where
  | tile (t : Fin 88)
  | band (b : Fin 8)
  | management
  deriving DecidableEq, Repr

/-- The instruments that the test port reads (Table 18.6), with what a physical one shows. -/
inductive Instrument where
  | status (t : Fin 88)
  | junction (t : Fin 88) (v : BitVec 16)
  | pathMonitor (t : Fin 88) (v : Word)
  | clockCounts (b : Fin 8)
  deriving DecidableEq, Repr

/-- The instructions of an IEEE 1500 wrapper (Table 18.5). -/
inductive WrapperInstr where
  | bypass | preload | extest | intest | clamp
  deriving DecidableEq, Repr

/-- Operations of the test port (Tables 18.4 to 18.7). -/
inductive TestOp where
  | loadIr (code : Byte)
  | wrapper (u : TestUnit) (i : WrapperInstr)
  | scan (u : TestUnit)
  | bistWrite (u : TestUnit)
  | repairWrite (t : Fin 88) (bad : Bool) (bankOff : BitVec 16) (rowMap : List Bool)
  | clock (tms tdi : Bool)            -- one edge of tck
  | readInstrument (i : Instrument)
  deriving DecidableEq, Repr

/-- The commands: one constructor per row of the table of operations and events. -/
inductive Instr where
  | porN (level : Bool)
  | domainResetRelease (d : Domain)
  | romStubStart (keyHash : BitVec 384) (keyValid : Bool) (bootBase : BitVec 52)
  | bootImageCheckDone (img : HostRead) (keyArc : BitVec 64)
  | powerOnSelfTestDone (r : PostReport)
  | getInfo (m : Fin 4)
  | loadTable (m : Fin 4) (img : HostRead)
  | tableWriteDone (slot : Fin 4)
  | retireTable (m : Fin 4)
  | loadChain (m : Fin 4) (desc : HostRead)
  | retireChain (m : Fin 4)
  | openStream (m : Fin 4) (desc : HostRead)
  | closeStream (m : Fin 4)
  | queryStream (m : Fin 4)
  | queryProgress (m : Fin 4)
  | selftest (m : Fin 4)
  | selftestTileDone (t : Fin 88) (pass : Bool) (found : SelftestFound)
  | calibrate (m : Fin 4)
  | calibrateTileDone (t : Fin 88) (pass : Bool)
  | bankOff (m : Fin 4)
  | bankOn (m : Fin 4)
  | tileRetire (m : Fin 4)
  | streamCut (sid : BitVec 14)
  | streamLeavesOldTile (sid : BitVec 14)
  | tileRestore (m : Fin 4)
  | fwStage (m : Fin 4)
  | fwStageDone (img : HostRead) (keyArc : BitVec 64)
  | fwActivate (m : Fin 4)
  | handoverReady (keyArc : BitVec 64)
  | handoverTimeout (cause : RevertCause)
  | arcReqDone (keyArc : BitVec 64)
  | setPolicy (m : Fin 4)
  | setFloorClock (m : Fin 4)
  | readLog (m : Fin 4)
  | surroundingsNoticeBegin (m : Fin 4)
  | surroundingsNoticeEnd (m : Fin 4)
  | surroundingsDurationExpiry (stack : BitVec 4) (chan : BitVec 8)
  | mergeAbandon (m : Fin 4)
  | mergeCombine (m : Fin 4) (area : List HostRead)
  | commandMalformed (m : Fin 4)
  | outAck (m : Fin 4) (v : Word)
  | ringBaseWrite (r : Ring) (hi : Bool) (v : Word)
  | ringSizeWrite (r : Ring) (v : Word)
  | ringHeadWrite (r : Ring) (v : Word)
  | cfgLockWrite (v : Word)
  | nanTrapRearm
  | nanTrapResume
  | telSnap (v : Word)
  | telSnapshotDone (junction : Word)
  | timeLoRead
  | registerWrite (addr : BitVec 10) (v : Word)
  | accBeat (t : Fin 88) (b : AccBeat)
  | accBeatDequeue (t : Fin 88) (faults : List HwFault) (corrected : Corrected)
  | tileRecordCombine (t : Fin 88) (sid : BitVec 14) (row : BitVec 48) (step : Fin 12)
  | bandRecordCombine (sid : BitVec 14) (row : BitVec 48) (step : Fin 12)
  | statisticApplyStart (t : Fin 88) (sid : BitVec 14) (row : BitVec 48) (pass : Fin 4)
  | mergeReread (sid : BitVec 14) (row : BitVec 48) (step : Fin 12)
  | mwaitExpiry (sid : BitVec 14) (row : BitVec 48) (step : Fin 12)
  | gatherListRead (t : Fin 88) (sid : BitVec 14) (pass : Fin 4)
  | gatherListReread (t : Fin 88) (sid : BitVec 14) (pass : Fin 4)
  | gatherWaitExpiry (t : Fin 88) (sid : BitVec 14) (pass : Fin 4)
  | opdBeat (t : Fin 88)
  | opdCreditReturn (t : Fin 88) (n : BitVec 4)
  | xevRequest (t : Fin 88) (r : XevReq)
  | xevResponse (t : Fin 88)
  | fabRequest (b : Fin 8) (tag : BitVec 10)
  | fabCreditReturn (b : Fin 8) (n : BitVec 4)
  | fabResponse (b : Fin 8) (tag : BitVec 10) (status : BitVec 2) (data : BitVec 1024)
  | eventRecordWrite
  | logMirrorWrite
  | timeSample (v : BitVec 64)
  | tclkTimeout
  | clockMonitorWindow (cclk hclk : Vector (BitVec 16) 8)
  | clockPointApplied (b : Fin 8) (p : BitVec 4)
  | throttleCapChange (b : Fin 8) (p : BitVec 4)
  | clockChoiceWindow (b : Fin 8) (u : Vector (Fin 1001) 11)
  | thrNote (kind : BitVec 4) (arg : BitVec 16)
  | tilePowerOff (t : Fin 88)
  | tilePowerLost (t : Fin 88)
  | tilePowered (t : Fin 88)
  | tileResetHoldExpiry (t : Fin 88)
  | tileEntryCheckDone (t : Fin 88) (pass : Bool)
  | drizzleTest (t : Fin 88) (r : DrizzleResult)
  | tableEntryRewrite (t : Fin 88) (e : EntryRef) (r : SramRead)
  | booksAudit
  | watchdogExpiry
  | testAccess (op : TestOp)
  | trstN
  deriving DecidableEq, Repr

end Sys2Proof
end

