-- ==== Sys2Proof/Decode.lean ====
section
/-!
DEFINITION. The block has no instruction decoder: the table gives no row any bits, so no word spells a
command. (The words of a mailbox command are read in Machine/Mailbox.lean.)
-/

namespace Sys2Proof

/-- The command that a word spells by the table's bits: the table gives none of its rows bits. -/
def decodeTableWord (_nbits _w : Nat) : Option Instr := none

end Sys2Proof
end

