-- ==== Sys2Proof/Machine/Bits.lean ====
section
/-!
DEFINITION. Byte order, bit fields, CRC-32C, the SHA-2 digests and ECDSA over P-384: what R11, R140,
R184, R185 and R345 compute over bytes. (FIPS 180-4 and FIPS 186-5, which those rules name.)
-/

namespace Sys2Proof.Machine

/-- Bits [hi:lo] of `w` (R10). -/
def bits (w hi lo : Nat) : Nat := (w >>> lo) % 2 ^ (hi + 1 - lo)

/-- Bit `i` of `w`. -/
def bit (w i : Nat) : Bool := (w >>> i) % 2 == 1

/-- The little-endian number in a byte list (R11). -/
def leNat (bs : List Byte) : Nat := bs.foldr (fun b acc => b.toNat + 256 * acc) 0

/-- The big-endian number in a byte list. -/
def beNat (bs : List Byte) : Nat := bs.foldl (fun acc b => 256 * acc + b.toNat) 0

/-- `n` as `k` bytes, little-endian (R11). -/
def toLe : Nat → Nat → List Byte
  | 0, _ => []
  | k + 1, n => BitVec.ofNat 8 n :: toLe k (n / 256)

/-- `n` as `k` bytes, big-endian. -/
def toBe (k n : Nat) : List Byte := (toLe k n).reverse

/-- `n` bytes of `bs` from byte `off`. -/
def slice (bs : List Byte) (off n : Nat) : List Byte := (bs.drop off).take n

/-- The little-endian field of `n` bytes at byte `off`. -/
def leAt (bs : List Byte) (off n : Nat) : Nat := leNat (slice bs off n)

/-- Assembles a number from (byte offset, value) pairs that do not overlap. -/
def pack (fields : List (Nat × Nat)) : Nat :=
  fields.foldl (fun acc f => acc ||| (f.2 <<< (8 * f.1))) 0

def b2n (b : Bool) : Nat := if b then 1 else 0

/-! ### CRC-32C (R185) -/

/-- One bit of CRC-32C, reflected polynomial 0x82F6_3B78. -/
def crcBit (c : Nat) : Nat := if c % 2 == 1 then (c >>> 1) ^^^ 0x82F63B78 else c >>> 1

def crcByte (c : Nat) (b : Byte) : Nat :=
  crcBit (crcBit (crcBit (crcBit (crcBit (crcBit (crcBit (crcBit (c ^^^ b.toNat))))))))

/-- CRC-32C of a byte list (R185). -/
def crc32c (bs : List Byte) : Nat := (bs.foldl crcByte 0xFFFFFFFF) ^^^ 0xFFFFFFFF

/-! ### SHA-2 -/

/-- A number from 2 on that no number from 2 to its root divides. -/
def primeNat (n : Nat) : Bool := 2 ≤ n && (List.range 20).all (fun d => d < 2 || n ≤ d || n % d != 0)

/-- The first 80 primes: the round constants and the initial words come from their roots. -/
def shaPrimes : List Nat := (List.range 410).filter primeNat

/-- The largest `x` whose `k`-th power is at most `n`, over the candidates of `fuel` bits above `x0`. -/
def rootBelow (k n : Nat) : Nat → Nat → Nat
  | 0, x0 => x0
  | fuel + 1, x0 =>
    let x := x0 + 2 ^ fuel
    rootBelow k n fuel (if x ^ k ≤ n then x else x0)

/-- The first `w` fraction bits of the `k`-th root of a prime below 512 (FIPS 180-4). -/
def rootBits (k w p : Nat) : Nat := rootBelow k (p * 2 ^ (k * w)) (w + 5) 0 % 2 ^ w

/-- The parameters that tell SHA-256 from SHA-384: the word width, the round constants, the amounts of
the two schedule mixes (rotations, then one shift), the rotations of the two round mixes, and the words
a digest starts from. -/
structure ShaParams where
  w       : Nat
  k       : List Nat
  early   : List Nat × Nat
  late    : List Nat × Nat
  mixA    : List Nat
  mixE    : List Nat
  initial : List Nat

def sha256Params : ShaParams where
  w := 32
  k := (shaPrimes.take 64).map (rootBits 3 32)
  early := ([7, 18], 3)
  late := ([17, 19], 10)
  mixA := [2, 13, 22]
  mixE := [6, 11, 25]
  initial := (shaPrimes.take 8).map (rootBits 2 32)

def sha384Params : ShaParams where
  w := 64
  k := shaPrimes.map (rootBits 3 64)
  early := ([1, 8], 7)
  late := ([19, 61], 6)
  mixA := [28, 34, 39]
  mixE := [14, 18, 41]
  initial := ((shaPrimes.drop 8).take 8).map (rootBits 2 64)

/-- Rotation right by `n`: the word doubled, shifted, cut to its width. -/
def rotr (w x n : Nat) : Nat := ((x * 2 ^ w + x) / 2 ^ n) % 2 ^ w

/-- The exclusive or of the rotations of a word. -/
def rotations (w x : Nat) (ns : List Nat) : Nat := ns.foldl (fun y n => y ^^^ rotr w x n) 0

/-- A schedule mix: rotations and one plain shift. -/
def shaMix (w x : Nat) (p : List Nat × Nat) : Nat := rotations w x p.1 ^^^ (x / 2 ^ p.2)

/-- The message schedule: from the window of the last 16 words, `fuel` further words. -/
def shaSchedule (P : ShaParams) : Nat → List Nat → List Nat
  | 0, win => win
  | fuel + 1, win =>
    let at' := fun i => win.getD i 0
    let nxt := at' 0 + shaMix P.w (at' 1) P.early + at' 9 + shaMix P.w (at' 14) P.late
    at' 0 :: shaSchedule P fuel (win.drop 1 ++ [nxt % 2 ^ P.w])

/-- The two recurrences of a round over their last four values, newest first: the upper one (A) and the
lower one (E). -/
structure ShaWork where
  upper : List Nat
  lower : List Nat

/-- One round: the lower value's `f` and `g` are chosen by its newest bits, the upper value takes the
majority of its newest three. -/
def ShaWork.round (P : ShaParams) (v : ShaWork) (kw : Nat × Nat) : ShaWork :=
  let up := fun i => v.upper.getD i 0
  let lo := fun i => v.lower.getD i 0
  let pick := lo 2 ^^^ (lo 0 &&& (lo 1 ^^^ lo 2))
  let most := (up 0 &&& up 1) ||| (up 2 &&& (up 0 ||| up 1))
  let step := kw.1 + kw.2 + lo 3 + rotations P.w (lo 0) P.mixE + pick
  { upper := (step + rotations P.w (up 0) P.mixA + most) % 2 ^ P.w :: v.upper.take 3
    lower := (step + up 3) % 2 ^ P.w :: v.lower.take 3 }

/-- One block: the rounds from the digest so far, added to it word by word. -/
def shaBlock (P : ShaParams) (digest win : List Nat) : List Nat :=
  let work := (P.k.zip (shaSchedule P (P.k.length - 16) win)).foldl (ShaWork.round P)
    { upper := digest.take 4, lower := digest.drop 4 }
  List.zipWith (fun x y => (x + y) % 2 ^ P.w) digest (work.upper ++ work.lower)

/-- The bytes of a message's blocks: the message, a 1 bit, zeros, and its length in bits in the last
eighth of a block (FIPS 180-4). -/
def shaPad (P : ShaParams) (bs : List Byte) : List Byte :=
  let tail := P.w / 4
  let whole := ((bs.length + tail) / (2 * P.w) + 1) * (2 * P.w)
  bs ++ [0x80] ++ List.replicate (whole - tail - bs.length - 1) 0 ++ toBe tail (8 * bs.length)

/-- The digest of a message: eight words, as big-endian bytes. -/
def sha2 (P : ShaParams) (bs : List Byte) : List Byte :=
  let padded := shaPad P bs
  let word := fun n => beNat (slice padded (n * (P.w / 8)) (P.w / 8))
  let blocks := (List.range (padded.length / (2 * P.w))).map
    (fun b => (List.range 16).map (fun i => word (16 * b + i)))
  (blocks.foldl (shaBlock P) P.initial).flatMap (toBe (P.w / 8))

/-- The SHA-256 digest, first octet first (R140, R184). -/
def sha256 (bs : List Byte) : List Byte := sha2 sha256Params bs

/-- The SHA-384 digest, first octet first (R307, R345). -/
def sha384 (bs : List Byte) : List Byte := (sha2 sha384Params bs).take 48

/-! ### ECDSA over P-384 (R345 step 3) -/

def p384p : Nat := 2 ^ 384 - 2 ^ 128 - 2 ^ 96 + 2 ^ 32 - 1
def p384n : Nat :=
  0xffffffffffffffffffffffffffffffffffffffffffffffffc7634d81f4372ddf581a0db248b0a77aecec196accc52973
def p384b : Nat :=
  0xb3312fa7e23ee7e4988e056be3f82d19181d9c6efe8141120314088f5013875ac656398d8a2ed19d2a85c8edd3ec2aef
def p384gx : Nat :=
  0xaa87ca22be8b05378eb1c71ef320ad746e1d3b628ba79b9859f741e082542a385502f25dbf55296c3a545e3872760ab7
def p384gy : Nat :=
  0x3617de4a96262c6f5d9e98bf9292dc29f8f41dbd289a147ce9da3113b5f0b8c00a60b1ce1d7e819d7a431d7c90ea0e5f

/-- `base ^ e mod m`, reading `fuel` bits of `e` from the top. -/
def powMod (m base e : Nat) : Nat → Nat
  | 0 => 1 % m
  | fuel + 1 =>
    let h := powMod m base (e / 2) fuel
    let sq := h * h % m
    if e % 2 == 1 then sq * base % m else sq

/-- The inverse modulo a prime, by Fermat. -/
def invMod (m a : Nat) : Nat := powMod m a (m - 2) 384

def subMod (m a b : Nat) : Nat := (a + (m - b % m)) % m

/-- A point in Jacobian coordinates; z = 0 is the point at infinity. -/
structure JPoint where
  x : Nat
  y : Nat
  z : Nat
  deriving DecidableEq, Repr

def jDouble (a : JPoint) : JPoint :=
  let p := p384p
  if a.z == 0 || a.y == 0 then { x := 1, y := 1, z := 0 }
  else
    let d := a.z * a.z % p
    let al := 3 * (subMod p a.x d * ((a.x + d) % p)) % p
    let g := a.y * a.y % p
    let be := a.x * g % p
    let x3 := subMod p (al * al) (8 * be)
    let z3 := subMod p (subMod p ((a.y + a.z) * (a.y + a.z)) g) d
    let y3 := subMod p (al * subMod p (4 * be) x3) (8 * (g * g))
    { x := x3, y := y3, z := z3 }

def jAdd (a b : JPoint) : JPoint :=
  let p := p384p
  if a.z == 0 then b else if b.z == 0 then a
  else
    let za := a.z * a.z % p
    let zb := b.z * b.z % p
    let u1 := a.x * zb % p
    let u2 := b.x * za % p
    let s1 := a.y * b.z % p * zb % p
    let s2 := b.y * a.z % p * za % p
    if u1 == u2 then
      (if s1 == s2 then jDouble a else { x := 1, y := 1, z := 0 })
    else
      let h := subMod p u2 u1
      let r := subMod p s2 s1
      let h2 := h * h % p
      let h3 := h * h2 % p
      let v := u1 * h2 % p
      let x3 := subMod p (subMod p (r * r) h3) (2 * v)
      let y3 := subMod p (r * subMod p v x3) (s1 * h3)
      { x := x3, y := y3, z := a.z * b.z % p * h % p }

/-- Scalar multiple, reading `fuel` bits. -/
def jMul (a : JPoint) (k : Nat) : Nat → JPoint
  | 0 => { x := 1, y := 1, z := 0 }
  | fuel + 1 =>
    let h := jDouble (jMul a (k / 2) fuel)
    if k % 2 == 1 then jAdd h a else h

/-- Whether (r, s) is a signature of the digest `e` under the public key (qx, qy) (FIPS 186-5). -/
def ecdsaVerify (qx qy e r s : Nat) : Bool :=
  let p := p384p
  let n := p384n
  let onCurve := qx < p && qy < p &&
    qy * qy % p == subMod p (qx * qx % p * qx + p384b) (3 * qx)
  if !(onCurve && 0 < r && r < n && 0 < s && s < n) then false
  else
    let w := invMod n s
    let u1 := e * w % n
    let u2 := r * w % n
    let pt := jAdd (jMul { x := p384gx, y := p384gy, z := 1 } u1 384)
                   (jMul { x := qx, y := qy, z := 1 } u2 384)
    if pt.z == 0 then false
    else
      let zi := invMod p pt.z
      (pt.x * (zi * zi % p) % p) % n == r

end Sys2Proof.Machine
end

