-- ==== Sys2Proof/Config.lean ====
section
/-!
DEFINITION. What the manual leaves open, as constants without a body (free values): no proof can see
a value of one of them, so a theorem holds whatever they are. Each is named in the assumption log.
-/

namespace Sys2Proof

/-- The built-in ROM tables (Table 5.2). -/
inductive Rom where
  | exp2 | log2 | recip | rsqrt
  deriving DecidableEq, Repr

namespace Config

/-- The unpublished coefficient c1 of segment `k` of a ROM table (R116): a free value, which the
evaluator brings into the range R116 and R157 leave for it. Log entry 20. -/
opaque romC1 : Rom → Nat → Int

/-- The CN-3 reciprocal seed ROM (SEEDR of Table 7.4), read with the top 7 fraction bits. Log entry 21. -/
opaque seedR : BitVec 7 → BitVec 32

/-- The CN-3 reciprocal-square-root seed ROM (SEEDQ of Table 7.4), read with the exponent parity and
the top 7 fraction bits. Log entry 21. -/
opaque seedQ : Bool → BitVec 7 → BitVec 32

/-- Whether the CN-3 seeds of a subnormal operand are read after it is normalised, or with its fields as they stand.
Log entry 21. -/
opaque seedNormalises : Bool

/-- The seed of an operand of a sign and a biased exponent, given the word its ROM holds (R167 leaves the exponent's
part to the CN-3). Log entry 21. -/
opaque seedOf : Bool → Int → BitVec 32 → BitVec 32

/-- The threshold of MARGIN_LOW that measurement `n` of a tile's path monitors gives (R367). Log entry 22. -/
opaque calMargin (n : Nat) : Nat

/-- The offset of a tile's junction sensor that measurement `n` gives (R367). Log entry 22. -/
opaque calOffset (n sensor : Nat) : Int

/-- The assist setting that march test `n` selects (R367). Log entry 22. -/
opaque calAssist (n : Nat) : Fin 8

/-- The hash of a tile's calibration record, by the tile and the record's values (R367): the record's layout is not in
the manual. Log entry 22. -/
opaque calHash (t : Nat) (margins : List Nat) (offsets : List Int) (assist : Fin 8) : BitVec 32

/-- The bytes of the declaration record, which the integrator compiles into the block (R407). Log entry 23. -/
opaque declaration : Nat → BitVec 8

/-- How management SRAM answers read `n`, where no operand of the command says it (Table 16.1). Log entry 82. -/
opaque sramOutcome (n : Nat) : SramRead

/-- What word `w` of management SRAM delivers when read `n` has an error that is not correctable. Log entry 82. -/
opaque sramWord (n w : Nat) : BitVec 32

/-- A bit that the serial paths behind WSP_SELECT and IJTAG shift out: their layout is in the ICL file, not in the
manual. Log entry 77. -/
opaque testPath : Nat → Bool

end Config

end Sys2Proof
end

