-- ==== Sys2Proof/Machine/State.lean ====
section
/-!
DEFINITION. The state of the CN-5: every register, queue, buffer, counter, mode and output the manual
gives the block, as plain data, the queue of commands that wait, and the state just after block reset.
-/

namespace Sys2Proof.Machine

/-- Why a run would stop. The block never stops on its own (R3), and no meaning raises this: it is
safe, and it stands because the interface asks for a type of faults. -/
inductive Fault where
  /-- Raised by no command: the manual gives every command an effect (R3). Safe. -/
  | neverRaised
  deriving DecidableEq, Repr

/-- Why a command has no meaning here. -/
inductive Refusal where
  /-- Raised by an arm of `exec` whose command is not modelled yet (none is). Safe. -/
  | notModelled (mnemonic : String)
  deriving DecidableEq, Repr

/-! ### Data-plane values -/

/-- One element: its code in the format its place declares, and whether it is poisoned (R376). -/
structure Elem where
  code   : Nat
  poison : Bool
  deriving DecidableEq, Repr

/-- A held value of a CONVERT stage with an output scale (sweep A of Table 3.1): its code in HOLDF,
whether it is poisoned, and 1 where its saturation is already counted or 2 where an earlier rounding of
the stage already made it zero. -/
structure HeldElem where
  code   : Nat
  poison : Bool
  mark   : Nat
  deriving DecidableEq, Repr

/-- A stage word of a chain descriptor (Table 10.2). -/
structure Stage where
  op     : Nat
  pass   : Nat
  opfD   : Nat
  sa     : Nat
  sb     : Nat
  sc     : Nat
  srcstg : Nat
  resv   : Bool          -- a reserved common bit is set
  param  : Nat
  k0     : Nat
  k1     : Nat
  k2     : Nat
  k3     : Nat
  deriving DecidableEq, Repr

/-- A resident version of a chain (Table 10.1), with the signature of R184. `ver` tells versions apart. -/
structure Chain where
  id     : Nat
  ver    : Nat
  nstg   : Nat
  npass  : Nat
  zcoff  : Bool
  holdok : Bool
  pin    : List Nat      -- PIN1 to PIN3
  rmax   : Nat
  cost   : List Nat
  stages : List Stage
  consts : List Byte     -- the constant area
  header : List Byte     -- the 32 header bytes and the stage words, as loaded (for R184)
  sig    : Word
  deriving DecidableEq, Repr

/-- A narrow array of a loaded table in one short format: the ends of its linear segments, P of R115 at every 2^18th
key and at the table's end, and the keys at which the rounded result changes (R160, R414). -/
structure Narrow where
  ends      : List Int
  crossings : List Nat
  deriving DecidableEq, Repr

/-- A loaded function table (Table 6.1), with its narrow arrays for FM8, LN8 and LN4 where NARROW = 1 (R149). -/
structure Table where
  name    : List Byte
  bits    : Nat
  idx     : Nat
  tailLo  : Nat
  tailHi  : Nat
  mono    : Bool
  dir     : Bool
  narrow  : Bool
  acc     : Nat
  uexp    : Int
  s1      : Nat
  s2      : Nat
  dlo     : Nat
  dhi     : Nat
  slo     : Nat
  shi     : Nat
  hash    : List Byte
  entries : List (Int × Int × Int)
  narrows : List Narrow
  deriving DecidableEq, Repr

/-- A row record (Table 8.2); STREAM and CRC are set by the writer. -/
structure Rec where
  sig    : Word
  stream : BitVec 14
  kind   : Byte
  flags  : Byte
  row    : BitVec 48
  count  : Word
  pass   : BitVec 16
  step   : Byte
  maxkey : Word
  absmax : Word
  sum    : BitVec 64
  sumsq  : BitVec 64
  e      : BitVec 16
  satuf  : Word
  nanc   : Word
  deriving DecidableEq, Repr

/-- A stream descriptor (Table 14.8), with the defaults of Table 11.2 filled in. -/
structure StreamDesc where
  chain   : Nat
  tmask   : BitVec 11
  cls     : Nat
  mig     : Bool
  var     : Bool
  held    : Bool
  rrate   : Nat
  len     : List Nat     -- RLEN, LEN2, LEN3
  shr     : List Nat     -- SHR1 to SHR3
  nrows   : Nat
  rhold   : Nat
  seed    : BitVec 64
  dkey    : BitVec 24
  mbase   : Nat
  mring   : Nat
  p       : Nat
  pidx    : Nat
  obase   : Nat
  ostride : Nat
  sbase   : Nat
  sstride : Nat
  gbase   : Nat
  gring   : Nat
  gmax    : Nat
  gstride : Nat
  deriving DecidableEq, Repr

/-- A statistic accumulator of a tile (R181, R192), one per STAT stage of a row pass. -/
structure StatAcc where
  step    : Nat
  maxkey  : Nat
  absmax  : Nat
  sum     : Nat
  sumsq   : Nat
  allZero : Bool
  nan     : Bool
  sat     : Bool
  poison  : Bool
  deriving DecidableEq, Repr

/-- The accumulator of a PSUM stage in a tile (R101 to R105). Guarded mode: the group's products so
far and the XF running code; exact mode: an integer in units of 2^lsb. -/
structure PsumAcc where
  step    : Nat
  group   : List (Bool × Nat × Int)   -- products of the open group: sign, magnitude, exponent
  acc     : Nat                       -- XF code of the running sum (guarded)
  exact   : Int                       -- exact sum in units of 2^lsb
  lsb     : Int
  invalid : Bool                      -- a NaN product, or 0 times infinity
  posInf  : Bool
  negInf  : Bool
  allNegZero : Bool
  poison  : Bool
  deriving DecidableEq, Repr

/-- One element of a row pass in a tile: the inputs, the results of the stages already run, and whether its
poison is already in NANC, to which a poisoned element adds one (R376). -/
structure RowElem where
  x   : Elem
  y   : Elem
  res : List (Nat × Elem)             -- stage index and its result
  counted : Bool
  deriving DecidableEq, Repr

/-- A final record held for a row: STAT stage, and the record (R180, R211). -/
structure HeldRec where
  step : Nat
  rcd  : Rec
  deriving DecidableEq, Repr

/-- What sweep A of a CONVERT with an output scale decides for the whole row (R77, R78, R80): the scale
that travels with the row, whether it is the neutral scale of R78, ZERO_ROW, and the outliers removed, as
column and held code. -/
structure SweepB where
  scale   : Nat
  neutral : Bool
  zeroRow : Bool
  removed : List (Nat × Nat)
  deriving DecidableEq, Repr

/-- What an internal error at a stage damages: results that the stage writes, results of sweep B of a CONVERT with an
output scale or the held values that it reads, the terms of a STAT stage, or the row accumulator (R106, R194, R375). -/
inductive FaultPart where
  | results | sweepB | terms | accumulator
  deriving DecidableEq, Repr

/-- An internal error that a row pass meets at a stage: the elements of the tile's share from `lo` up to but
not including `hi`, or the row accumulator of the stage (R106, R137, R178, R194, R375). -/
structure PassFault where
  stage : Nat
  lo    : Nat
  hi    : Nat
  part  : FaultPart
  deriving DecidableEq, Repr

/-- The final record that STATISTIC_APPLY_START gave an APPLY or reference stage, and the row length of the
record's pass (R31). -/
structure StageRef where
  stage : Nat
  rcd   : Rec
  n     : Nat
  deriving DecidableEq, Repr

/-- Time that passed while reads were out for waits that they may end: the waits, each as a row and a merge's
stage or as a window and 16 plus its pass, the ticks, and whether the stream was suspended (R205, R250). -/
structure WaitSpan where
  waits : List (Nat × Nat)
  ticks : Nat
  suspended : Bool
  deriving DecidableEq, Repr

/-- A row pass in a tile, from its first beat until its last output beat (R23, R266). -/
structure RowPass where
  sid     : Nat
  row     : Nat
  pass    : Nat
  chain   : Chain
  tables  : List (Option Table)
  desc    : StreamDesc
  col0    : Nat
  len     : Nat                       -- row length of the pass (R289)
  scale   : Nat                       -- input row scale
  opened  : Bool                      -- its last beat has not entered the sequencer
  poison  : Bool                      -- the row pass is POISON
  conflict : Option Nat               -- HOLD_CONFLICT: the row that holds the entry (R212)
  recPoison : Bool                    -- an APPLY stage used a POISON record (R197)
  elems   : List RowElem
  taken   : Nat                       -- elements of the tile's share taken so far
  replay  : List (Elem × Elem)        -- RMSMODE = HELD: the row as staging keeps it
  handed  : Bool                      -- RMSMODE = HELD: the row's next pass has begun
  next    : Nat                       -- first stage of the pass not yet run
  faults  : List PassFault            -- errors that its stages meet
  refs    : List StageRef             -- statistics that its APPLY and reference stages have taken
  accs    : List StatAcc
  psums   : List PsumAcc
  satuf   : Nat
  nanc    : Nat
  nanSeen : Bool
  satSeen : Bool
  zeroRow : Bool
  held    : List HeldElem             -- sweep A of a CONVERT with an output scale
  sweep   : Option SweepB             -- decided when sweep B may start
  output  : List Elem                 -- result of the CONVERT stage
  stored  : List (Nat × List Nat)     -- results of the STORE stages before a PSUM that has its result
  combined : List Nat                 -- STAT and PSUM stages whose tile record has left
  writes  : Nat                       -- host writes without a response (R245)
  unsent  : Nat                       -- host writes that FAB has not yet accepted (R245)
  egress  : Nat                       -- OPD_OUT beats not yet sent
  released : Bool                     -- its output has been handed to egress
  finished : Bool                     -- every stage has run and the input has ended
  units   : Nat                       -- staging units held (R416)
  unitsHeld : Nat                     -- KU units of a HELD row (R416)
  tStart  : Option (BitVec 64)        -- TIME when the last input beat was accepted (R266)
  took    : Option Nat                -- its latency in ticks, once the last of the three events has come (R266)
  excluded : Nat                      -- ticks spent in the waits of Table 11.4, but for suspension
  suspendedFor : Nat                  -- other ticks spent while the stream was suspended
  tentative : List WaitSpan           -- ticks since a read that may end such a wait (R205)
  suspended : Bool                    -- begun while a cause of suspension was in effect (R278)
  promised  : Bool                    -- begun while its stream's promise was in force
  deriving DecidableEq, Repr

/-- One beat on OPD_OUT (Table 12.4). -/
structure OpdBeat where
  data   : BitVec 8192
  first  : Bool
  last   : Bool
  nel    : BitVec 12
  poison : Bool
  sid    : BitVec 14
  row    : BitVec 48
  pass   : BitVec 2
  col0   : BitVec 24
  kind   : BitVec 2
  aux    : BitVec 2112
  /-- the row passes that this beat completes, (row, pass) -/
  ends   : List (Nat × Nat)
  deriving DecidableEq, Repr

/-- A finished row that TRANSPOSE or GATHER holds for its block or window (R246, R249). -/
structure OutRow where
  row    : Nat
  codes  : List Elem
  col0   : Nat
  scale  : Nat
  sck    : Nat
  outl   : Nat
  poison : Bool
  deriving DecidableEq, Repr

/-- How far the list of a GATHER window has been read (R250). -/
inductive ListPhase where
  | collecting | header | waiting | counts | indices | ready
  deriving DecidableEq, Repr

/-- A TRANSPOSE block or a GATHER window of a stream in a tile. -/
structure Block where
  sid     : Nat
  pass    : Nat
  index   : Nat                       -- block j or window n
  gather  : Bool
  stage   : Nat                       -- the TRANSPOSE or GATHER stage
  opf     : Nat
  size    : Nat                       -- rows of a full block or window
  desc    : StreamDesc
  rows    : List OutRow
  phase   : ListPhase
  gbytes  : List Byte                 -- bytes of the list read so far
  want    : Nat                       -- bytes of the list to read in this phase
  asked   : Nat                       -- READs without a response
  readBad : Bool
  waiting : Bool                      -- the list is not yet written for this window
  waitReported : Bool
  count   : Nat                       -- COUNT of the list
  groups  : List Nat                  -- GCNT of each group
  deriving DecidableEq, Repr

/-- A row pass as the port side of ACC_IN sees it (R417). -/
structure OpenPass where
  sid    : Nat
  row    : Nat
  pass   : Nat
  stray  : Bool                       -- R417 case 3: no row pass; beats are stray until acc_first
  isOpen : Bool
  count  : Nat                        -- elements taken
  col0   : Nat
  len    : Nat
  deriving DecidableEq, Repr

/-- An entry of the ACC_IN queue: a beat, or a mark left by a discarded one (R417). -/
structure QEntry where
  isBeat : Bool
  sid    : Nat
  row    : Nat
  pass   : Nat
  first  : Bool
  last   : Bool
  use    : Nat                        -- elements that enter the chain
  poisonElems : Bool
  poisonRow : Bool
  col0   : Nat
  len    : Nat
  scale  : Nat
  data   : BitVec 16384
  deriving DecidableEq, Repr

/-- A response in the XEV response buffer (R298). -/
structure XevRsp where
  id     : BitVec 16
  n      : BitVec 7
  status : BitVec 2
  poison : BitVec 64
  data   : BitVec 2048
  slot   : Option Nat                 -- slot whose table the request holds (R136)
  places : List Nat                   -- evaluators whose queue still holds an element
  deriving DecidableEq, Repr

/-- An entry of the hold ring of a stream in a tile (R211). -/
structure HoldEntry where
  sid   : Nat
  entry : Nat
  row   : Nat
  deriving DecidableEq, Repr

/-! ### Tiles -/

/-- Power stage of a tile (R320, R321). -/
inductive TilePower where
  | off | resetHold | entryCheck | ready
  deriving DecidableEq, Repr

/-- The values that calibration sets in a tile (R367, Table 15.5): the threshold of MARGIN_LOW at each operating point
(0: none measured), the offsets of the two junction sensors, and the assist setting of the SRAMs. -/
structure Calibration where
  margins : List Nat
  offsets : List Int
  assist  : Fin 8
  deriving DecidableEq, Repr

/-- A physical tile. -/
structure Tile where
  active   : Bool                     -- TILES bit of the band's map word
  retired  : Bool                     -- gated by a retirement (R362)
  failed   : Bool                     -- gated after a failed test (R326, R367)
  lost     : Bool                     -- power was lost (R322)
  pgReq    : Bool
  pgState  : Bool
  power    : TilePower
  banksOff : BitVec 16
  banksClosing : BitVec 16
  bankRows : List (Nat × Nat × Nat)   -- row passes that may hold units in a closing bank
  xevq     : Nat                      -- XEVQ in force (R135)
  xevqSet  : Nat                      -- XEVQ set by policy
  queue    : List QEntry
  openPasses : List OpenPass
  rows     : List RowPass
  blocks   : List Block
  hold     : List HoldEntry
  egress   : List OpdBeat
  opdCredits : Nat
  opdReturned : Nat                   -- credits taken into the counter since its reset (book 1)
  opdSpent : Nat                      -- credits that beats have used since then
  opdNext  : Nat                      -- round-robin position: stream ids from here first
  opdOut   : Option OpdBeat           -- the beat last sent
  xevPtr   : Nat
  xevBuf   : List XevRsp
  xevOut   : Option XevRsp
  corrected : List Nat                -- corrected-error counters 0 to 3 (Table 17.7)
  xevLeft  : Nat                      -- responses in their crossing to HCLK since the tile's logic stands still
  lanePtrs : List (Nat × Nat)         -- the arbiters' lane pointers, by evaluator; 0 where none stands here (R131)
  evalGrants : List (Nat × Nat)       -- grants issued, by evaluator (book 6)
  evalResults : List (Nat × Nat)      -- grants whose results have returned, by evaluator (book 6)
  xevCnt   : List Nat                 -- counters 4 to 9
  sweeps   : Nat                      -- counter 10
  occupancy : Nat                     -- gauge 22
  blocked  : Bool                     -- BLOCKED bit (R411)
  repBad   : Bool                     -- repair register (Table 18.7)
  repBanks : BitVec 16
  repRows  : List Bool
  effBad   : Bool                     -- repair data in effect since por_n rose
  effBanks : BitVec 16
  effRows  : List Bool
  calRecord : Calibration             -- the calibration record
  calUsed  : Calibration              -- its values in effect, since the tile last entered service (Table 15.5)
  deriving DecidableEq, Repr

/-! ### FAB and merging -/

/-- Requests of a merge (R200 to R204). -/
inductive MergeReq where
  | readReaders | writePart | readPart (i : Nat) | arm | readSum | addField | addCount
  | readResult | addReaders
  deriving DecidableEq, Repr

/-- Who issued a FAB request and is told of its response (R303). -/
inductive FabOwner where
  | merge (sid row step : Nat) (r : MergeReq)
  | store (tile sid row pass : Nat)
  | list (tile sid pass index at_ : Nat)
  | event (oldRing : Bool)
  | logMirror (seq : Word) (oldRing : Bool)
  | combine
  deriving DecidableEq, Repr

/-- FAB operations (Table 12.9). -/
inductive FabOp where
  | read | write | add32 | add64
  deriving DecidableEq, Repr

/-- A FAB request (Table 12.9). -/
structure FabReq where
  op    : FabOp
  addr  : BitVec 52
  be    : BitVec 128
  data  : BitVec 1024
  owner : FabOwner
  deriving DecidableEq, Repr

/-- A FAB response in the band's response queue, which logic of the band has not yet taken: its tag, its request, whether
it succeeded, and its line (Table 13.2). -/
structure HeldRsp where
  tag  : Nat
  req  : FabReq
  ok   : Bool
  data : BitVec 1024
  deriving DecidableEq, Repr

/-- Where a merge stands (R200 to R205). -/
inductive MergePhase where
  | readers      -- reads READERS for its turn
  | writing      -- part-slot or arming write outstanding
  | reading      -- reads the parts, the sum slot or the result slot
  | arming       -- waits until the sum slot is armed
  | adding       -- adds of Table 8.9 outstanding
  | committing   -- COUNT add outstanding
  | counting     -- reads the sum slot until COUNT = N
  | done         -- final record exists
  deriving DecidableEq, Repr

/-- A merge in progress (R181). -/
structure Merge where
  sid     : Nat
  row     : Nat
  step    : Nat                       -- the STAT stage
  layout  : Nat                       -- MLAY
  base    : Nat                       -- address of the row area
  parts   : Nat
  pidx    : Nat
  need    : Word                      -- READERS that R200 asks for
  total   : Nat                       -- N
  own     : Rec
  phase   : MergePhase
  got     : List (Nat × Option Rec)   -- part slots read in this round
  asked   : Nat                       -- requests without a response
  again   : Bool                      -- a re-read is due (R201)
  began  : Bool                       -- the part's wait has begun (R205)
  waiting : Bool                      -- another part has not yet acted
  waitReported : Bool
  partsSeen : Nat
  countSeen : Nat
  deriving DecidableEq, Repr

/-! ### Service operations -/

/-- Service operations of a band (R357). -/
inductive SvcKind where
  | retire (force : Bool) | restore | selftest | calibrate (item : Nat) | bankOff (k : Nat) | bankOn (k : Nat)
  deriving DecidableEq, Repr

/-- Where a service operation stands with the tile in hand (Table 15.2, R366, R370): the spare is being
powered for it; its streams are being moved; it is being powered for work in place; the test, the
calibration or the march runs; it is being powered to take its role again; the next tile is due. -/
inductive SvcPhase where
  | prepare | move | power | work | restorePower | next
  deriving DecidableEq, Repr

/-- The service operation in progress in a band: the tiles still to come in ascending order, those
deferred behind them, and the tile in hand. -/
structure SvcOp where
  kind   : SvcKind
  origin : Nat
  tag    : BitVec 16
  todo   : List Nat
  late   : List Nat
  cur    : Nat
  rotate : Bool                       -- the tile in hand goes through the spare
  wasActive : Bool                    -- role of a tile handled in place
  steps  : Nat                        -- TILE_RESTORE: steps of R321 that the tile in hand has behind it
  phase  : SvcPhase
  deriving DecidableEq, Repr

/-! ### Bands -/

/-- A band. -/
structure Band where
  cclkOut  : Bool                     -- compute domain has left reset
  hclkOut  : Bool
  clocked  : Bool                     -- CCLK and HCLK run
  fabUp    : Bool
  present  : Bool                     -- PRESENT of the map word
  away     : Bool                     -- left the map because a clock was lost (R328)
  spare    : Option (Fin 11)
  floor    : Nat
  cur      : Nat
  req      : Nat
  cap      : Nat
  cclkMhz  : Nat
  hclkMhz  : Nat
  zeroWins : Nat
  goodWins : Nat
  sqThrottle : Bool                   -- the point last judged lay below the floor
  sqMonitor  : Bool                   -- the last window measured CCLK more than 1 % below the floor
  sqCause  : Nat                      -- cause that opened the squall in progress, 0 for none
  halted   : Bool
  slotCtr  : Nat                      -- s of R130
  dStop    : Nat
  clkMode  : Nat
  uhi      : Nat
  ulo      : Nat
  fabCredits : Nat
  fabReturned : Nat                   -- credits taken into the counter since its reset (book 2)
  fabSpent : Nat                      -- credits that requests have used since then
  fabQueue : List FabReq
  fabOut   : List (Nat × FabReq)      -- outstanding, by tag
  fabLast  : Option (Nat × FabReq)    -- the request last on the port
  fabHeld  : List HeldRsp             -- responses that wait while the band's logic stands still
  opdLeft  : List Nat                 -- of each tile, the beats in OPD_OUT's queue since the band's logic stands still
  fabLeft  : Nat                      -- of the band's own requests, those in the crossing to FCLK since its logic stands still
  merges   : List Merge
  svc      : Option SvcOp
  squalls  : Nat                      -- counter 3
  fabIssued : Nat                     -- counter 11
  fabBytes : Nat                      -- counter 12
  blocked  : Bool
  deriving DecidableEq, Repr

/-! ### Streams -/

/-- A row pass that a tile has ended: its elements, the row length, its latency in ticks, and whether it
began under the stream's promise. -/
structure EndedPass where
  pass      : Nat
  tile      : Nat
  count     : Nat
  len       : Nat
  latency   : Nat
  promised  : Bool
  deriving DecidableEq, Repr

/-- A tile record on its way to level 2, and whether the CONVERT stage of its pass found zeros only in the tile's share,
which sets ZERO_ROW where it did so in every tile of the row (R78, R180). -/
structure TileRec where
  rcd   : Rec
  zeros : Bool
  deriving DecidableEq, Repr

/-- A row of a stream: the versions it reads (R23, R210), the tiles that serve it and its records. -/
structure RowCtx where
  row    : Nat
  chain  : Chain
  tables : List (Option Table)
  tiles  : List Nat
  claimed : Bool                      -- the row's entry of the hold rings has been claimed (R211)
  recs   : List (Nat × Nat × TileRec) -- tile records waiting for level 2: step, tile
  finals : List HeldRec
  psumParts : List (Nat × Nat × PsumAcc)
  psums  : List (Nat × Elem)          -- PSUM results: step, element in the stage's format
  ended  : List EndedPass
  deriving DecidableEq, Repr

/-- Why a stream is suspended (R277, R279, R322, R328, R379); surroundings intervals list their streams. -/
structure Causes where
  squall : Bool
  halt   : Bool
  noClock : Bool
  noPower : Bool
  deriving DecidableEq, Repr

/-- A migration of a stream (R358, R359). -/
structure Migration where
  old : Nat
  new : Nat
  deriving DecidableEq, Repr

/-- The row of a stream that began last, with the versions it reads: they decide whether a change would split a block
or a window (R248). -/
structure BegunRow where
  row    : Nat
  chain  : Chain
  tables : List (Option Table)
  deriving DecidableEq, Repr

/-- A stream context in use (R262, R283). -/
structure Stream where
  sid      : Nat
  desc     : StreamDesc
  hash     : Word                     -- first octets of the descriptor's SHA-256 (Table 16.9)
  closing  : Bool
  closeBy  : Option (Nat × BitVec 16) -- origin and TAG of CLOSE_STREAM
  closeRows : Nat
  suspended : Bool
  causes   : Causes
  migration : Option Migration
  voided   : Bool
  w        : List Nat                 -- W of passes 1 to 3 in ns
  ppm      : Nat
  lateCount : Nat
  lateSat  : Bool
  lateRaised : Bool                   -- LATE_ROW has been raised
  worst    : List Nat                 -- worst latency per pass, ns
  done     : Nat
  npass    : Nat                      -- NPASS of the chain at OPEN_STREAM (R281)
  satArmed : Bool                     -- R75
  satVer   : Nat                      -- chain version the arming belongs to
  lateN    : Nat                      -- late row passes of the present suspension
  lateFirst : Nat
  lateLast : Nat
  latePass : Nat
  lateWorst : Nat
  areas    : List (Nat × Nat)         -- address of a row area, rows that used it since OPEN_STREAM (R200)
  begun    : Option BegunRow
  rows     : List RowCtx
  deriving DecidableEq, Repr

/-! ### Tables and chains -/

/-- Slot states (Table 6.4). -/
inductive SlotState where
  | free | loading | loaded | draining
  deriving DecidableEq, Repr

/-- A loadable table slot. -/
structure Slot where
  state : SlotState
  first : Nat
  table : Option Table
  deriving DecidableEq, Repr

/-- A table load whose writing is not complete (R151, R154). -/
structure TableLoad where
  first    : Nat
  replaces : Option Nat
  origin   : Nat
  tag      : BitVec 16
  deriving DecidableEq, Repr

/-! ### Control plane and management plane -/

/-- IN_STATE.STATE (Table 14.1). -/
inductive MbxState where
  | idle | queued | working
  deriving DecidableEq, Repr

/-- A mailbox (Table 14.1). -/
structure Mailbox where
  inW   : Vector Word 16
  state : MbxState
  lost  : Bool
  len   : BitVec 4                    -- LEN written to IN_BELL
  outW  : Vector Word 16
  outLen : BitVec 4
  valid : Bool
  held  : Option (List Word)          -- a response held until OUT_ACK (R330)
  ready : List (List Word)            -- READY messages that wait their turn (R332)
  deriving DecidableEq, Repr

/-- SERVICE_STATE.STATE (Table 17.5). -/
inductive Service where
  | boot | post | service | noService
  deriving DecidableEq, Repr

/-- SERVICE_STATE.CAUSE (Table 17.5). -/
inductive Cause where
  | none | noKey | auth | noSet
  deriving DecidableEq, Repr

/-- Where start-up stands (Table 13.7). -/
inductive BootPhase where
  | waiting | readA | readB | selfTest | ready | finished | stopped
  deriving DecidableEq, Repr

/-- State of the staging slot (Table 14.6). -/
inductive Staging where
  | empty | loading | staged
  deriving DecidableEq, Repr

/-- A hand-over in progress (Table 14.12, steps 1 to 3). -/
structure Handover where
  origin : Nat
  tag    : BitVec 16
  arcup  : Bool
  paused : Bool                       -- from acceptance to READY
  prior  : List Nat                   -- mailboxes whose doorbells rang before acceptance
  deriving DecidableEq, Repr

/-- An FW_ACTIVATE in step 4 of Table 14.12: the counter it asks for, and what key_arc read when the host had
answered, where that read still waits for room in the change log (R347, R391). -/
structure ArcWait where
  origin : Nat
  tag    : BitVec 16
  want   : BitVec 64
  seen   : Option (BitVec 64)
  deriving DecidableEq, Repr

/-- A long operation in progress (R343). -/
structure LongOp where
  origin : Nat
  tag    : BitVec 16
  opcode : Nat
  done   : Nat
  total  : Nat
  object : BitVec 64                  -- bytes 16 to 23 of layout C
  logObj : Word                       -- OBJECT of its change-log entries
  oldh   : Word                       -- OLDH of its change-log entries
  failed : Option (BitVec 16)         -- a result already known to be other than 0
  deriving DecidableEq, Repr

/-- A change-log entry (Table 16.8). -/
structure LogEntry where
  seq    : Word
  epoch  : Word
  origin : BitVec 3
  kind   : BitVec 5
  time   : BitVec 64
  result : BitVec 16
  tag    : BitVec 16
  object : Word
  oldh   : Word
  newh   : Word
  deriving DecidableEq, Repr

/-- Whether an SRAM log entry has been mirrored, and where (R389). -/
inductive Mirror where
  | unsent | inFlight | at (idx : Nat) | lost
  deriving DecidableEq, Repr

/-- The change log (R388 to R391). -/
structure Log where
  entries : List (LogEntry × Mirror)
  nextSeq : Word
  epoch   : Word
  deriving DecidableEq, Repr

/-- An event on its way to the ring (R380, R381). `pair` is the second payload of a two-record finding. -/
structure Event where
  code    : BitVec 10
  src     : BitVec 7
  payload : BitVec 192
  pair    : Option (BitVec 192)
  arrival : BitVec 64
  deriving DecidableEq, Repr

/-- A telemetry and finding tap: one per source and finding kind (R24, R385). -/
structure Tap where
  src   : Nat
  code  : Nat
  count : Nat
  latch : Option Event
  deriving DecidableEq, Repr

/-- The event arbiter (R380 to R384). -/
structure Arbiter where
  nextSeq  : Word
  held     : List Event
  second   : Option Event             -- second record of a pair whose first has been written
  lost     : Nat
  lostCode : BitVec 10
  mark     : Option (BitVec 64)       -- TIME of the latest TIME_MARK
  inFlight : Bool
  written  : Nat                      -- management counter 1
  notRecorded : Nat                   -- management counter 2
  deriving DecidableEq, Repr

/-- The registers of a host ring (Table 17.4), and the base that its commit took from BASE (R398). -/
structure RingRegs where
  baseLo : Word
  baseHi : Word
  base   : Nat
  size   : Nat
  head   : Nat
  tail   : Nat
  headErr : Bool
  sizeErr : Bool
  deriving DecidableEq, Repr

/-- The first-NaN trap (R377, R378). -/
structure NanTrap where
  record : BitVec 192
  count  : Nat
  valid  : Bool
  halted : Bool
  arm    : Bool
  halt   : Bool
  trig   : Bool
  deriving DecidableEq, Repr

/-- Telemetry registers (Table 17.6). -/
structure Telemetry where
  sel  : Nat
  next : Nat                          -- source of the snapshot under way
  busy : Bool
  src  : Nat
  sat  : Word
  time : BitVec 64
  cnt  : Vector Word 32
  deriving DecidableEq, Repr

/-- An interval announced by SURROUNDINGS_NOTICE (R371, R372). -/
structure Interval where
  stack    : BitVec 4
  chan     : BitVec 8
  duration : Word
  streams  : List Nat
  overdue  : Bool
  deriving DecidableEq, Repr

/-- Block-wide policy items (Table 14.9). -/
structure Policy where
  workload : Bool
  debug    : Bool
  mwait    : Nat
  lFab     : Nat
  fclk     : Nat
  deriving DecidableEq, Repr

/-- The states of the TAP controller of IEEE 1149.1 (R410). -/
inductive TapPhase where
  | reset | idle
  | selectDr | captureDr | shiftDr | exit1Dr | pauseDr | exit2Dr | updateDr
  | selectIr | captureIr | shiftIr | exit1Ir | pauseIr | exit2Ir | updateIr
  deriving DecidableEq, Repr

/-- The test port: the controller, the instruction register, the register being shifted with its bits from tdo on,
tdo, the value that the last read of an instrument delivered, and the instruction of each wrapper, by the number that
the unit has as a source of events (R410, Tables 18.5 and 18.6). -/
structure TapState where
  phase : TapPhase
  ir    : Byte
  shift : List Bool
  tdo   : Bool
  read  : Nat
  wrappers : Vector WrapperInstr 97
  deriving DecidableEq, Repr

/-- The counters that the block keeps of the books whose other side it counts (Table 16.6): the places free in each
tile's ACC_IN queue (book 0), the staging units free in each tile (book 3), the stream contexts free in each band
(book 4), and the references on each table slot and each chain id (book 5). -/
structure BookCounts where
  skid     : List Nat
  units    : List Nat
  contexts : List Nat
  slots    : List Nat
  chains   : List (Nat × Nat)
  deriving DecidableEq, Repr

/-! ### The block -/

/-- The state of the block. -/
structure State where
  pending   : List Instr
  porN      : Bool
  mclk      : Bool                    -- MCLK runs (R319)
  mgmtOut   : Bool
  fclkOut   : Bool
  tclkOut   : Bool
  fresh     : Nat                     -- how many free values have been drawn (the model's own)
  fwVersion : Word
  service   : Service
  cause     : Cause
  slotB     : Bool                    -- the running image is in slot B
  bootPhase : BootPhase
  keyHash   : BitVec 384
  keyArc    : BitVec 64
  keyValid  : Bool
  bootBase  : BitVec 52
  arcReq    : Option (BitVec 64)
  imgA      : List Byte
  imgB      : List Byte
  staging   : Staging
  readyDone : Bool
  vaneRestarts : Nat
  handover  : Option Handover
  arcWaits  : List ArcWait            -- oldest first
  intStatus : Word
  intEnable : Word
  fatal     : Word
  time      : BitVec 64
  timeSeen  : Bool
  timeLost  : Bool
  timeShadow : Option Word
  evq       : RingRegs
  logm      : RingRegs
  cfgLock   : Bool
  trap      : NanTrap
  tel       : Telemetry
  ctlAck    : Bool                     -- a CTL access has completed at this edge (R304)
  ctlRdata  : Word
  mbx       : Vector Mailbox 4
  bells     : List (Fin 4)            -- mailboxes whose doorbell rang, oldest first
  policy    : Policy
  longOps   : List LongOp
  loads     : List TableLoad
  slots     : Vector Slot 4
  chains    : List (Nat × List Chain) -- by id, rising; newest version first
  nextVer   : Nat
  streams   : List Stream             -- by SID, rising
  intervals : List Interval
  log       : Log
  arb       : Arbiter
  taps      : List Tap
  bands     : Vector Band 8
  tiles     : Vector Tile 88
  mgmtCorrected : Nat                 -- management counter 0
  commandsTaken : Nat                 -- management counter 8
  refusals  : Nat                     -- management counter 9
  books     : BookCounts
  booksBad  : List (Nat × Nat × Bool) -- books out of balance at the last audit: book, unit, reported
  mgmtBlocked : Bool
  tap       : TapState
  declaration : List Byte             -- the read-only block of R407
  deriving DecidableEq, Repr

/-! ### Block reset -/

/-- A mailbox after reset (Table 14.1). -/
def Mailbox.reset : Mailbox where
  inW := Vector.replicate 16 0
  state := .idle
  lost := false
  len := 0
  outW := Vector.replicate 16 0
  outLen := 0
  valid := false
  held := none
  ready := []

/-- The repair data of a tile: it survives por_n and takes effect when por_n rises (R412). -/
structure Repair where
  bad   : Bool
  banks : BitVec 16
  rows  : List Bool
  blocked : Bool
  deriving DecidableEq, Repr

/-- A tile that has not been calibrated (DESIGN CHOICE, log entry 104). -/
def Calibration.reset : Calibration where
  margins := List.replicate 9 0
  offsets := [0, 0]
  assist := 0

/-- A tile after por_n, with the repair data its registers hold (R309, R412; Table 18.7). -/
def Tile.resetWith (active : Bool) (r : Repair) : Tile where
  active := active
  retired := false
  failed := false
  lost := false
  pgReq := false
  pgState := true
  power := .ready
  banksOff := 0
  banksClosing := 0
  bankRows := []
  xevq := 0
  xevqSet := 0
  queue := []
  openPasses := []
  rows := []
  blocks := []
  hold := []
  egress := []
  opdCredits := 0
  opdReturned := 0
  opdSpent := 0
  opdNext := 0
  opdOut := none
  xevPtr := 0
  xevBuf := []
  xevOut := none
  corrected := [0, 0, 0, 0]
  xevLeft := 0
  lanePtrs := []
  evalGrants := []
  evalResults := []
  xevCnt := [0, 0, 0, 0, 0, 0]
  sweeps := 0
  occupancy := 0
  blocked := r.blocked
  repBad := r.bad
  repBanks := r.banks
  repRows := r.rows
  effBad := r.bad
  effBanks := r.banks
  effRows := r.rows
  calRecord := Calibration.reset
  calUsed := Calibration.reset

/-- A band after por_n (R25, R318; Table 14.9). -/
def Band.resetWith (blocked : Bool) : Band where
  cclkOut := false
  hclkOut := false
  clocked := false
  fabUp := false
  present := false
  away := false
  spare := some 10
  floor := 2
  cur := 0
  req := 0
  cap := 8
  cclkMhz := 0
  hclkMhz := 0
  zeroWins := 0
  goodWins := 0
  sqThrottle := false
  sqMonitor := false
  sqCause := 0
  halted := false
  slotCtr := 0
  dStop := 64
  clkMode := 0
  uhi := 900
  ulo := 700
  fabCredits := 0
  fabReturned := 0
  fabSpent := 0
  fabQueue := []
  fabOut := []
  fabLast := none
  fabHeld := []
  opdLeft := []
  fabLeft := 0
  merges := []
  svc := none
  squalls := 0
  fabIssued := 0
  fabBytes := 0
  blocked := blocked

/-- The books while no stream is open, no chain is loaded and no bank is off (Table 16.6). -/
def BookCounts.reset : BookCounts where
  skid := List.replicate 88 128
  units := List.replicate 88 192
  contexts := List.replicate 8 2048
  slots := [0, 0, 0, 0]
  chains := []

def RingRegs.reset : RingRegs where
  baseLo := 0
  baseHi := 0
  base := 0
  size := 0
  head := 0
  tail := 0
  headErr := false
  sizeErr := false

def NanTrap.reset : NanTrap where
  record := 0
  count := 0
  valid := false
  halted := false
  arm := false
  halt := false
  trig := false

def Telemetry.reset : Telemetry where
  sel := 0
  next := 0
  busy := false
  src := 0
  sat := 0
  time := 0
  cnt := Vector.replicate 32 0

def Arbiter.reset : Arbiter where
  nextSeq := 0
  held := []
  second := none
  lost := 0
  lostCode := 0
  mark := none
  inFlight := false
  written := 0
  notRecorded := 0

/-- The test port in Test-Logic-Reset, with IDCODE in the instruction register and every wrapper in bypass (R410). -/
def TapState.reset : TapState where
  phase := .reset
  ir := 0x01
  shift := []
  tdo := false
  read := 0
  wrappers := Vector.replicate 97 .bypass

/-- The block with every domain in reset, given what por_n does not reset: the repair registers, the
BLOCKED bits and the test port (R411, R412), the declaration block (R407), and the commands that wait. Tiles b.0 to
b.9 are active and tile b.10 is the spare of its band (R25). -/
def State.porWith (level : Bool) (pending : List Instr) (rep : Vector Repair 88)
    (bandBlocked : Vector Bool 8) (mgmtBlocked : Bool) (tap : TapState) (declaration : List Byte) : State where
  pending := pending
  porN := level
  mclk := true
  mgmtOut := false
  fclkOut := false
  tclkOut := false
  fresh := 0
  fwVersion := 0
  service := .boot
  cause := .none
  slotB := false
  bootPhase := .waiting
  keyHash := 0
  keyArc := 0
  keyValid := false
  bootBase := 0
  arcReq := none
  imgA := []
  imgB := []
  staging := .empty
  readyDone := false
  vaneRestarts := 0
  handover := none
  arcWaits := []
  intStatus := 0
  intEnable := 0
  fatal := 0
  time := 0
  timeSeen := false
  timeLost := false
  timeShadow := none
  evq := RingRegs.reset
  logm := RingRegs.reset
  cfgLock := false
  trap := NanTrap.reset
  tel := Telemetry.reset
  ctlAck := false
  ctlRdata := 0
  mbx := Vector.replicate 4 Mailbox.reset
  bells := []
  policy := { workload := false, debug := false, mwait := 1000, lFab := 1000, fclk := 2000 }
  longOps := []
  loads := []
  slots := Vector.ofFn (fun i => { state := .free, first := i.val, table := none })
  chains := []
  nextVer := 0
  streams := []
  intervals := []
  log := { entries := [], nextSeq := 0, epoch := 0 }
  arb := Arbiter.reset
  taps := []
  bands := bandBlocked.map Band.resetWith
  tiles := rep.mapIdx (fun t r => Tile.resetWith (t % 11 != 10) r)
  mgmtCorrected := 0
  commandsTaken := 0
  refusals := 0
  books := BookCounts.reset
  booksBad := []
  mgmtBlocked := mgmtBlocked
  tap := tap
  declaration := declaration

/-- The block just after block reset: por_n has risen, no repair data has been shifted in, every domain
still waits for its 16 clock edges, and no command waits (R309, R324). The declaration is the integrator's. -/
def State.reset : State :=
  State.porWith true [] (Vector.replicate 88 { bad := false, banks := 0, rows := [], blocked := false })
    (Vector.replicate 8 false) false TapState.reset ((List.range 32).map Config.declaration)

end Sys2Proof.Machine
end

