-- ==== Sys2Proof/Machine/Ops.lean ====
section
/-!
DEFINITION. The named operations over the state that every command shares: access to bands, tiles,
streams and chains, the service map, the change log (R388 to R391), the event arbiter and its taps
(R380 to R385), and the registers that reports set.
-/

namespace Sys2Proof.Machine

/-! ### Units of the block -/

/-- No repair data. -/
def Repair.none : Repair where
  bad := false
  banks := 0
  rows := []
  blocked := false

/-- Band of a physical tile (R25). -/
def bandOf (t : Nat) : Nat := t / 11

/-- Band of a stream id (R261). -/
def sidBand (sid : Nat) : Nat := sid / 2048

/-- Physical tiles of a mask in band `b`, in rising order (R25). -/
def tilesOf (b mask : Nat) : List Nat :=
  ((List.range 11).filter (fun i => bit mask i)).map (fun i => 11 * b + i)

/-- Physical tiles of a band. -/
def bandTiles (b : Nat) : List Nat := (List.range 11).map (fun i => 11 * b + i)

namespace State

def band (s : State) (b : Nat) : Band := (s.bands[b]?).getD (Band.resetWith false)

def tile (s : State) (t : Nat) : Tile := (s.tiles[t]?).getD (Tile.resetWith false Repair.none)

def mailbox (s : State) (m : Nat) : Mailbox := (s.mbx[m]?).getD Mailbox.reset

def setBand (s : State) (b : Nat) (x : Band) : State := { s with bands := s.bands.setIfInBounds b x }

def setTile (s : State) (t : Nat) (x : Tile) : State := { s with tiles := s.tiles.setIfInBounds t x }

def setMailbox (s : State) (m : Nat) (x : Mailbox) : State := { s with mbx := s.mbx.setIfInBounds m x }

def modBand (s : State) (b : Nat) (f : Band → Band) : State := s.setBand b (f (s.band b))

def modTile (s : State) (t : Nat) (f : Tile → Tile) : State := s.setTile t (f (s.tile t))

/-- Applies a change to each tile of a list in order. -/
def modTiles (s : State) (ts : List Nat) (f : Tile → Tile) : State := ts.foldl (fun s t => s.modTile t f) s

/-- The open stream with an id. -/
def stream? (s : State) (sid : Nat) : Option Stream := s.streams.find? (fun x => x.sid == sid)

def modStream (s : State) (sid : Nat) (f : Stream → Stream) : State :=
  { s with streams := s.streams.map (fun x => if x.sid == sid then f x else x) }

def dropStream (s : State) (sid : Nat) : State :=
  { s with streams := s.streams.filter (fun x => x.sid != sid) }

end State

/-- Puts a stream in its place by id. -/
def insertStream (x : Stream) : List Stream → List Stream
  | [] => [x]
  | y :: ys => if x.sid < y.sid then x :: y :: ys else if x.sid == y.sid then x :: ys else y :: insertStream x ys

/-- The versions of a chain id, newest first. -/
def State.versions (s : State) (id : Nat) : List Chain :=
  match s.chains.find? (fun x => x.1 == id) with
  | some x => x.2
  | none => []

/-- The chain that new row passes use. -/
def State.chain? (s : State) (id : Nat) : Option Chain := (s.versions id).head?

/-- Puts a chain id and its versions in its place by id. -/
def insertChain (x : Nat × List Chain) : List (Nat × List Chain) → List (Nat × List Chain)
  | [] => [x]
  | y :: ys => if x.1 < y.1 then x :: y :: ys else y :: insertChain x ys

/-- Replaces the versions of a chain id; no version frees the id. -/
def setVersions (id : Nat) (vs : List Chain) (xs : List (Nat × List Chain)) : List (Nat × List Chain) :=
  let rest := xs.filter (fun x => x.1 != id)
  if vs.isEmpty then rest else insertChain (id, vs) rest

/-! ### Streams on tiles -/

/-- The tiles that serve a stream's new rows, rising. -/
def Stream.tiles (x : Stream) : List Nat := tilesOf (sidBand x.sid) x.desc.tmask.toNat

/-- Whether a tile still has a context of the stream (R359). -/
def Stream.onTile (x : Stream) (t : Nat) : Bool :=
  x.tiles.contains t || (match x.migration with
    | some g => g.old == t
    | none => false)

/-- The streams with a context in a tile. -/
def State.streamsOn (s : State) (t : Nat) : List Stream := s.streams.filter (fun x => x.onTile t)

/-- The streams of a band. -/
def State.streamsIn (s : State) (b : Nat) : List Stream := s.streams.filter (fun x => sidBand x.sid == b)

/-- A row of a stream. -/
def Stream.row? (x : Stream) (row : Nat) : Option RowCtx := x.rows.find? (fun r => r.row == row)

def Stream.modRow (x : Stream) (row : Nat) (f : RowCtx → RowCtx) : Stream :=
  { x with rows := x.rows.map (fun r => if r.row == row then f r else r) }

/-- A row pass in a tile. -/
def Tile.pass? (x : Tile) (sid row pass : Nat) : Option RowPass :=
  x.rows.find? (fun r => r.sid == sid && r.row == row && r.pass == pass)

def Tile.modPass (x : Tile) (sid row pass : Nat) (f : RowPass → RowPass) : Tile :=
  { x with rows := x.rows.map (fun r => if r.sid == sid && r.row == row && r.pass == pass then f r else r) }

/-! ### Service state (R327, R402) -/

/-- Mask of the active tiles of a band. -/
def State.activeMask (s : State) (b : Nat) : Nat :=
  ((List.range 11).map (fun i => if (s.tile (11 * b + i)).active then 2 ^ i else 0)).sum

/-- Service map word of a band (Table 13.8); 0 before READY and for an absent band. -/
def State.mapWord (s : State) (b : Nat) : Nat :=
  let x := s.band b
  if !s.readyDone || !x.present then 0
  else s.activeMask b + 2 ^ 11 + (match x.spare with
      | some i => i.val
      | none => 15) * 2 ^ 12 + x.floor * 2 ^ 16 + x.cur * 2 ^ 20

def State.mapWords (s : State) : List Nat := (List.range 8).map s.mapWord

def Service.code : Service → Nat
  | .boot => 0 | .post => 1 | .service => 2 | .noService => 3

def Cause.code : Cause → Nat
  | .none => 0 | .noKey => 1 | .auth => 2 | .noSet => 3

/-- SERVICE_STATE (Table 17.5). -/
def State.serviceWord (s : State) : Nat :=
  let paused := match s.handover with
    | some h => h.paused
    | none => false
  let bands := ((List.range 8).map (fun b => if s.readyDone && (s.band b).present then 2 ^ b else 0)).sum
  s.service.code + s.cause.code * 2 ^ 4 + b2n paused * 2 ^ 8 + b2n s.slotB * 2 ^ 9 + bands * 2 ^ 16

/-- From acceptance of FW_ACTIVATE to READY (R350). -/
def State.paused (s : State) : Bool :=
  match s.handover with
  | some h => h.paused
  | none => false

/-- A tile is active in the service map. -/
def State.inMap (s : State) (t : Nat) : Bool := (s.tile t).active && (s.band (bandOf t)).present

/-- Once READY has been reported, the block is in service while a band is in the map (R328, R34). -/
def State.refreshService (s : State) : State :=
  if s.readyDone then
    if (List.range 8).any (fun b => (s.band b).present) then { s with service := .service, cause := .none }
    else { s with service := .noService, cause := .noSet }
  else s

/-- The management domain works: it is out of reset, and MCLK runs (R319). -/
def State.mgmtRuns (s : State) : Bool := s.mgmtOut && s.mclk

/-- Requests of the management plane, which need no logic of the band (Table 13.1). -/
def FabOwner.vane : FabOwner → Bool
  | .event _ | .logMirror .. | .combine => true
  | _ => false

/-- The lowest band in the map, whose Vane path carries the management plane's writes. -/
def State.lowestBand (s : State) : Option Nat := (List.range 8).find? (fun b => (s.band b).present)

/-- The band of the Vane path: the lowest in the map, or before the map is formed the lowest whose FAB port has
returned credits (Table 13.7). -/
def State.vaneBand (s : State) : Nat :=
  match s.lowestBand with
  | some b => b
  | none => ((List.range 8).find? (fun b => (s.band b).fabCredits > 0)).getD 0

/-- The FAB port of a band works once the FCLK side has left reset (Table 13.7). -/
def State.fabRuns (s : State) (b : Nat) : Bool := s.fclkOut && b < 8

/-- The Vane path can carry a read: its band's FAB port works, holds a credit and has one of its 1,024 tags free (R302,
R325). -/
def State.vaneReads (s : State) : Bool :=
  s.fabRuns s.vaneBand && (s.band s.vaneBand).fabCredits > 0 && (s.band s.vaneBand).fabOut.length < 1024

/-- `n` reads of the Vane path, of `bytes` in all, have gone out on its band's port and been answered, and are counted
(Table 17.7). Each consumes a credit: those that the counter held, and for the rest the credits that the host returned
while the reads went on (R302, log entry 66). -/
def State.countReads (s : State) (n bytes : Nat) : State :=
  s.modBand s.vaneBand (fun x => { x with
    fabCredits := x.fabCredits - n
    fabReturned := x.fabReturned + (n - x.fabCredits), fabSpent := x.fabSpent + n,
    fabIssued := min (x.fabIssued + n) 0xFFFFFFFF, fabBytes := x.fabBytes + bytes })

/-- A band's compute clock runs, out of reset: what takes CCLK edges goes on (R317, R324). -/
def State.cclkRuns (s : State) (b : Nat) : Bool := (s.band b).cclkOut && (s.band b).clocked

/-- CCLK edges come: the band's clocks are there, or the monitor's last window has measured this one (R310, R317). -/
def Band.cclkTicks (x : Band) : Bool := x.cclkOut && (x.clocked || x.cclkMhz != 0)

/-- The band's own logic stands still: its clock is absent, or the trap has halted it (R328, R379). -/
def Band.stands (x : Band) : Bool := x.away || x.halted

/-- The data plane of a band advances: its compute domain is out of reset, its clocks run, and no trap
halts it (R319, R328, R379). -/
def State.bandRuns (s : State) (b : Nat) : Bool :=
  let x := s.band b
  x.cclkOut && x.hclkOut && x.clocked && !x.halted

/-- A tile that is powered, out of reset and in a band that advances. -/
def State.tileRuns (s : State) (t : Nat) : Bool :=
  t < 88 && (s.tile t).power == .ready && s.bandRuns (bandOf t)

/-! ### Interrupt status (R396) -/

/-- Sets an INT_STATUS bit. -/
def State.setInt (s : State) (k : Nat) : State := { s with intStatus := s.intStatus ||| BitVec.ofNat 32 (2 ^ k) }

def intEvqNew : Nat := 8
def intEvqFull : Nat := 9
def intLogmNew : Nat := 10
def intLogLow : Nat := 11
def intTrap : Nat := 12
def intHalt : Nat := 13

/-- Sets a FATAL_STATUS bit (Table 16.2). -/
def State.setFatal (s : State) (k : Nat) : State := { s with fatal := s.fatal ||| BitVec.ofNat 32 (2 ^ k) }

def fatalPower : Nat := 0
def fatalBooks : Nat := 1
def fatalMgmt : Nat := 2
def fatalWdog : Nat := 3

/-! ### Interrupt lines (R305): outputs that follow the status registers -/

/-- irq_event: an event bit of INT_STATUS is set with its enable. -/
def State.irqEvent (s : State) : Bool := s.intStatus &&& s.intEnable &&& 0x00003F00 != 0

/-- irq_mailbox: a mailbox bit of INT_STATUS is set with its enable. -/
def State.irqMailbox (s : State) : Bool := s.intStatus &&& s.intEnable &&& 0x0000000F != 0

/-- irq_fatal: FATAL_STATUS is nonzero. -/
def State.irqFatal (s : State) : Bool := s.fatal != 0

/-! ### CTL accesses (R304) -/

/-- A CTL access completes: ctl_ack is 1 and ctl_rdata holds what a read returns, 0 for a write; at the next cycle
both are 0 (log entry 78). -/
def State.ctlDone (s : State) (v : Word) : State := { s with ctlAck := true, ctlRdata := v }

/-- A CTL write with its effect; in reset, and while MCLK stands still, the management domain answers none (R319). -/
def State.ctlWrite (s : State) (f : State → State) : State := if s.mgmtRuns then (f s).ctlDone 0 else s

/-! ### Event codes (Table 16.5) -/

def evFirstNan : Nat := 0x001
def evSaturation : Nat := 0x002
def evPoisonEcc : Nat := 0x003
def evPoisonParity : Nat := 0x004
def evPoisonResidue : Nat := 0x005
def evMergeMismatch : Nat := 0x006
def evMergeWait : Nat := 0x007
def evHoldConflict : Nat := 0x008
def evGatherWait : Nat := 0x009
def evGatherList : Nat := 0x00A
def evLateRow : Nat := 0x00B
def evDrizzleFault : Nat := 0x00C
def evTileTestFail : Nat := 0x00D
def evTilePowerLost : Nat := 0x00E
def evMarginLow : Nat := 0x00F
def evClockHigh : Nat := 0x010
def evTimeLost : Nat := 0x011
def evFirmwareRevert : Nat := 0x012
def evBooks : Nat := 0x013
def evLogDropped : Nat := 0x014
def evAccOverrun : Nat := 0x020
def evAccStream : Nat := 0x021
def evAccSeq : Nat := 0x022
def evAccTag : Nat := 0x023
def evOpdCredit : Nat := 0x024
def evFabCredit : Nat := 0x025
def evFabTag : Nat := 0x026
def evFabError : Nat := 0x027
def evTimeStep : Nat := 0x028
def evTimeMark : Nat := 0x100
def evEventsLost : Nat := 0x101
def evSquall : Nat := 0x102
def evSquallEnd : Nat := 0x103
def evLate : Nat := 0x104
def evTileMove : Nat := 0x105
def evServiceMap : Nat := 0x106
def evHostNotice : Nat := 0x107
def evTransposeShort : Nat := 0x108
def evBankShort : Nat := 0x109
def evSurroundingsOverdue : Nat := 0x10A
def evStreamClosed : Nat := 0x10B
def evTableLoaded : Nat := 0x110
def evSelftestDone : Nat := 0x111
def evCalibrateDone : Nat := 0x112
def evTileRetired : Nat := 0x113
def evTileRestored : Nat := 0x114
def evFwStaged : Nat := 0x115
def evFwActivated : Nat := 0x116

/-- Source number of the management plane (R380). -/
def srcMgmt : Nat := 96

/-- Source number of the port and merge logic of a band (R380). -/
def srcBand (b : Nat) : Nat := 88 + b

/-! ### Taps and the arbiter's hold (R24, R380, R384, R385) -/

/-- A 32-bit event counter after one more event (R385). -/
def satInc (n : Nat) : Nat := min (n + 1) 0xFFFFFFFF

/-- The tap of a source and kind. -/
def State.tapOf (s : State) (src code : Nat) : Tap :=
  (s.taps.find? (fun t => t.src == src && t.code == code)).getD { src := src, code := code, count := 0, latch := none }

/-- Counts of a kind at a source. -/
def State.kindCount (s : State) (src code : Nat) : Nat := (s.tapOf src code).count

/-- Replaces a tap, or adds it behind the others. -/
def putTap (x : Tap) : List Tap → List Tap
  | [] => [x]
  | y :: ys => if y.src == x.src && y.code == x.code then x :: ys else y :: putTap x ys

/-- A tap that latches a record goes behind the others: taps stand in the order in which they latched. -/
def latchTap (x : Tap) (ts : List Tap) : List Tap := ts.filter (fun y => !(y.src == x.src && y.code == x.code)) ++ [x]

/-- Room in the arbiter's hold of 64 events. -/
def Arbiter.room (a : Arbiter) : Bool := a.held.length < 64

/-- The event ring is absent or full (R383, R384). -/
def RingRegs.shut (r : RingRegs) : Bool := r.size == 0 || (r.tail + 1) % r.size == r.head

/-- EVQ_FULL: an event is held because the ring is full or absent (R396). -/
def State.markFull (s : State) : State :=
  if s.evq.shut && (!s.arb.held.isEmpty || s.arb.second.isSome) then s.setInt intEvqFull else s

/-- An event enters the arbiter's hold. -/
def State.holdEvent (s : State) (e : Event) : State :=
  State.markFull { s with arb := { s.arb with held := s.arb.held ++ [e] } }

/-- An event that is counted and not recorded (R384). -/
def State.loseEvent (s : State) (code : Nat) : State :=
  { s with arb := { s.arb with
      lost := satInc s.arb.lost
      lostCode := if s.arb.lost == 0 then BitVec.ofNat 10 code else s.arb.lostCode
      notRecorded := satInc s.arb.notRecorded } }

/-- The arbiter takes records from the taps: not during a hand-over (R349), nor while MCLK stands still (R319). -/
def State.taking (s : State) : Bool := s.arb.room && !s.paused && s.mclk

/-- A record that a tap has latched can cross to MCLK, as far as its source goes: the taps of a band, those of its port
and merge logic among them, write their crossing at CCLK edges (Table 13.2; DEDUCED, log entry 118). -/
def State.tapCrosses (s : State) (src : Nat) : Bool :=
  src ≥ 96 || (s.band (if src < 88 then bandOf src else src - 88)).cclkTicks

/-- The order in which latched records that reach the arbiter in one MCLK cycle enter the hold: by ascending source
(R380). -/
def earlier (a b : Event) : Bool := a.src.toNat ≤ b.src.toNat

/-- The latched record that enters the hold next: of one source, which detects in the order in which its taps latch, the
one that latched first (R380). -/
def firstLatched (taps : List Tap) : Option Event :=
  (taps.filterMap (fun (t : Tap) => t.latch)).foldl (fun best e =>
    match best with
    | none => some e
    | some b => if earlier b e then some b else some e) none

/-- Moves latched records that can cross into the hold while it has room: each is stamped as it arrives there (R380). -/
def State.takeTaps (s : State) : Nat → State
  | 0 => s
  | fuel + 1 =>
    if s.taking then
      match firstLatched (s.taps.filter (fun (t : Tap) => s.tapCrosses t.src)) with
      | none => s
      | some e =>
        let s := { s with taps := s.taps.map (fun (t : Tap) => if t.latch == some e then { t with latch := none } else t) }
        (s.holdEvent { e with arrival := s.time }).takeTaps fuel
    else s

/-- Reports an event of a source: a data-plane event through its tap's latch, a management event straight
to the arbiter, each behind the latched records that can cross before it (R380). `payload` is given the kind counter, this
event included. -/
def State.report2 (s : State) (src code : Nat) (payload : Nat → Nat) (pair : Option Nat) : State :=
  let s := s.takeTaps 4096
  let tap := s.tapOf src code
  let n := satInc tap.count
  let e : Event := { code := BitVec.ofNat 10 code, src := BitVec.ofNat 7 src,
                     payload := BitVec.ofNat 192 (payload n), pair := pair.map (BitVec.ofNat 192),
                     arrival := s.time }
  if src == srcMgmt then
    let s := { s with taps := putTap { tap with count := n } s.taps }
    if s.arb.room then s.holdEvent e else s.loseEvent code
  else if tap.latch.isSome then
    ({ s with taps := putTap { tap with count := n } s.taps }).loseEvent code
  else if s.taking && s.tapCrosses src then
    ({ s with taps := putTap { tap with count := n } s.taps }).holdEvent e
  else { s with taps := latchTap { tap with count := n, latch := some e } s.taps }

def State.report (s : State) (src code : Nat) (payload : Nat → Nat) : State := s.report2 src code payload none

/-- A notice whose payload does not hold its kind counter. -/
def State.notice (s : State) (src code payload : Nat) : State := s.report src code (fun _ => payload)

/-! ### Common payload layouts (Table 16.4) -/

/-- Layout E. -/
def layoutE (sid chain pass tile stage stepNo op lop row col time : Nat) : Nat :=
  pack [(0, sid), (2, chain % 1024 + (pass % 4) * 2 ^ 12), (4, tile), (5, stage % 16 + (stepNo % 16) * 16),
    (6, op % 32 + (lop % 8) * 32), (7, row % 2 ^ 48), (13, col % 2 ^ 24), (16, time % 2 ^ 64)]

/-- Layout S. -/
def layoutS (sid pass stage tile row row2 val1 val2 : Nat) : Nat :=
  pack [(0, sid), (2, pass % 4 + (stage % 16) * 16), (3, tile), (4, row % 2 ^ 48), (10, row2 % 2 ^ 48),
    (16, val1 % 2 ^ 32), (20, val2 % 2 ^ 32)]

/-- Layout U. -/
def layoutU (tile unit index sid row expected observed count : Nat) : Nat :=
  pack [(0, tile), (1, unit), (2, index % 2 ^ 16), (4, sid), (6, row % 2 ^ 48), (12, expected % 2 ^ 32),
    (16, observed % 2 ^ 32), (20, count)]

/-- Layout P. -/
def layoutP (tile port sid row addr op status count : Nat) : Nat :=
  pack [(0, tile), (1, port), (2, sid), (4, row % 2 ^ 48), (10, addr % 2 ^ 56), (17, op), (18, status), (20, count)]

/-- Layout C. -/
def layoutC (origin tag opcode result done object : Nat) : Nat :=
  pack [(0, origin), (2, tag), (4, opcode), (6, result), (8, done % 2 ^ 48), (16, object % 2 ^ 64)]

/-! ### Management SRAM (R375) -/

/-- A read of management SRAM: a corrected error is counted, one that is not correctable sets
FATAL_STATUS.MGMT and leaves the data plane as it is (Table 16.1, R21). -/
def State.sramRead (s : State) (r : SramRead) : State :=
  match r with
  | .good => s
  | .corrected => { s with mgmtCorrected := satInc s.mgmtCorrected }
  | .uncorrectable => s.setFatal fatalMgmt

/-- How the next read of management SRAM ends where no operand says it: a free value (log entry 82). -/
def State.sramNext (s : State) : SramRead := Config.sramOutcome s.fresh

/-- What such a read delivers: the words, or free values where the error is not correctable (log entry 82). -/
def State.sramWords (s : State) (ws : List Nat) : List Nat :=
  if s.sramNext == .uncorrectable then (List.range ws.length).map (fun i => (Config.sramWord s.fresh i).toNat) else ws

/-- After such a read; its free values are not drawn again. -/
def State.sramUse (s : State) : State := { s.sramRead s.sramNext with fresh := s.fresh + 1 }

/-! ### The change log (R388 to R391) -/

def kConfig : Nat := 1
def kTable : Nat := 2
def kChain : Nat := 3
def kStream : Nat := 4
def kPolicy : Nat := 5
def kFirmware : Nat := 6
def kCalibration : Nat := 7
def kTileService : Nat := 8
def kFloor : Nat := 9
def kKeyUse : Nat := 10
def kClockReq : Nat := 11
def kPromiseVoid : Nat := 12
def kServiceMap : Nat := 13
def kMerge : Nat := 14
def kSurroundings : Nat := 15
def kLogWrap : Nat := 16

/-- Free SRAM entries. -/
def State.logFree (s : State) : Nat := 4096 - s.log.entries.length

/-- Free entries that no accepted long operation has reserved (R388). -/
def State.logAvail (s : State) : Nat := s.logFree - s.longOps.length

/-- Room for an entry that is not of ORIGIN 6, or for the two of a long operation (R391). -/
def State.logRoom (s : State) (long : Bool) : Bool := s.logAvail ≥ (if long then 18 else 17)

/-- What a change-log entry says (Table 16.8). -/
structure LogInfo where
  origin : Nat
  kind   : Nat
  result : Nat
  tag    : Nat
  object : Nat
  oldh   : Nat
  newh   : Nat
  deriving DecidableEq, Repr

/-- Writes an entry at the next SEQ; room is the caller's affair. -/
def State.logAppend (s : State) (i : LogInfo) : State :=
  let e : LogEntry :=
    { seq := s.log.nextSeq, epoch := s.log.epoch, origin := BitVec.ofNat 3 i.origin,
      kind := BitVec.ofNat 5 i.kind, time := s.time, result := BitVec.ofNat 16 i.result,
      tag := BitVec.ofNat 16 i.tag, object := BitVec.ofNat 32 i.object,
      oldh := BitVec.ofNat 32 i.oldh, newh := BitVec.ofNat 32 i.newh }
  let low := s.logFree == 65
  let s := { s with log := { s.log with entries := s.log.entries ++ [(e, .unsent)], nextSeq := s.log.nextSeq + 1 } }
  if low then s.setInt intLogLow else s

/-- A hardware change that finds no entry: counted, reported, and its SEQ taken (R391). -/
def State.logDrop (s : State) (kind object : Nat) : State :=
  let s := s.report srcMgmt evLogDropped
    (layoutU 0xFF 10 kind 0xFFFF 0 s.log.nextSeq.toNat object)
  { s with log := { s.log with nextSeq := s.log.nextSeq + 1 } }

/-- The LOG_WRAP entry that follows SEQ 0xFFFF_FFFF (R390). -/
def State.logWrap (s : State) : State :=
  if s.log.nextSeq == 0 then
    let old := s.log.epoch
    let s := { s with log := { s.log with epoch := old + 1 } }
    if s.logAvail ≥ 1 then
      s.logAppend { origin := 6, kind := kLogWrap, result := 0, tag := 0xFFFF, object := 0,
                    oldh := old.toNat, newh := (old + 1).toNat }
    else s.logDrop kLogWrap 0
  else s

/-- Writes an entry for which there is room. -/
def State.logPut (s : State) (i : LogInfo) : State := (s.logAppend i).logWrap

/-- An entry of ORIGIN 6 (R391): written, or dropped and reported. -/
def State.logHw (s : State) (kind object oldh newh : Nat) : State :=
  if s.logAvail ≥ 1 then
    s.logPut { origin := 6, kind := kind, result := 0, tag := 0xFFFF, object := object, oldh := oldh, newh := newh }
  else (s.logDrop kind object).logWrap

/-- An entry of ORIGIN 4, for which there is room. -/
def State.logGlomen (s : State) (kind result object oldh newh : Nat) : State :=
  if s.logRoom false then
    s.logPut { origin := 4, kind := kind, result := result, tag := 0xFFFF, object := object, oldh := oldh, newh := newh }
  else s

/-- A change that Glomen makes on its own, with its entry: without room for the entry it is not made (R391). -/
def State.glomenChange (s : State) (kind object oldh newh : Nat) (change : State → State) : State :=
  if s.logRoom false then (change s).logGlomen kind 0 object oldh newh else s

/-- A 32-byte entry (Table 16.8). -/
def LogEntry.bytes (e : LogEntry) : List Byte :=
  toLe 4 e.seq.toNat ++ toLe 2 e.epoch.toNat ++ [BitVec.ofNat 8 (e.origin.toNat + e.kind.toNat * 8), 0] ++
  toLe 8 e.time.toNat ++ toLe 2 e.result.toNat ++ toLe 2 e.tag.toNat ++ toLe 4 e.object.toNat ++
  toLe 4 e.oldh.toNat ++ toLe 4 e.newh.toNat

/-- An entry as words. -/
def LogEntry.words (e : LogEntry) : List Nat := (List.range 8).map (fun i => leAt e.bytes (4 * i) 4)

/-! ### Long operations (R343) -/

/-- The long operation of an origin and TAG. -/
def State.longOp? (s : State) (origin : Nat) (tag : BitVec 16) : Option LongOp :=
  s.longOps.find? (fun x => x.origin == origin && x.tag == tag)

def State.modLong (s : State) (origin : Nat) (tag : BitVec 16) (f : LongOp → LongOp) : State :=
  { s with longOps := s.longOps.map (fun x => if x.origin == origin && x.tag == tag then f x else x) }

/-- The change kind of a changing opcode (Table 16.9). -/
def kindOfOp (op : Nat) : Nat :=
  match op with
  | 0x0010 | 0x0011 => kTable
  | 0x0020 | 0x0021 => kChain
  | 0x0030 | 0x0031 => kStream
  | 0x0050 | 0x0060 | 0x0061 => kTileService
  | 0x0051 => kCalibration
  | 0x0070 | 0x0071 => kFirmware
  | 0x0080 => kPolicy
  | 0x0081 => kFloor
  | 0x00A0 => kSurroundings
  | _ => kMerge

/-- Completion notice of a long opcode (Table 14.10). -/
def doneEvent (op : Nat) : Nat :=
  match op with
  | 0x0010 => evTableLoaded
  | 0x0031 => evStreamClosed
  | 0x0050 => evSelftestDone
  | 0x0051 => evCalibrateDone
  | 0x0060 => evTileRetired
  | 0x0061 => evTileRestored
  | 0x0070 => evFwStaged
  | _ => evFwActivated

/-- Ends a long operation: its completion entry, on the room reserved at acceptance, and its completion
notice (R343, R388). -/
def State.finishLong (s : State) (origin : Nat) (tag : BitVec 16) (result oldh newh : Nat) : State :=
  match s.longOp? origin tag with
  | none => s
  | some x =>
    let s := { s with longOps := s.longOps.filter (fun y => !(y.origin == origin && y.tag == tag)) }
    let s := s.logPut { origin := origin, kind := kindOfOp x.opcode, result := result, tag := tag.toNat,
                        object := x.logObj.toNat, oldh := oldh, newh := newh }
    s.notice srcMgmt (doneEvent x.opcode) (layoutC origin tag.toNat x.opcode result x.done x.object.toNat)

/-! ### Map changes (R328) -/

/-- Reports that a band's map word changed: the log entry of ORIGIN 6 and the notice. -/
def State.reportMap (s : State) (b old : Nat) : State :=
  let new := s.mapWord b
  (s.logHw kServiceMap b old new).notice srcMgmt evServiceMap (pack [(0, b), (4, new)])

/-- Once the map is formed, a band is in it while its clocks run, its FAB port is up and a tile of it is
active, also while READY waits behind mailbox 0 (R35, R328; DEDUCED, log entry 55). -/
def State.refreshBand (s : State) (b : Nat) : State :=
  if s.readyDone || s.bootPhase == .ready then
    s.modBand b (fun x => { x with present := x.clocked && x.fabUp && !x.away && s.activeMask b != 0 })
  else s

/-- Makes a change to the map of band `b` and reports it when the band's word has changed. -/
def State.changeMap (s : State) (b : Nat) (f : State → State) : State :=
  let old := s.mapWord b
  let s := ((f s).refreshBand b).refreshService
  if s.mapWord b == old then s else s.reportMap b old

end Sys2Proof.Machine
end

