-- ==== Sys2Proof/Machine/Refuse.lean ====
section
/-!
DEFINITION. Response status codes and what a command refusal carries (R16, R18; Table 14.4).
-/

namespace Sys2Proof.Machine

def stOk : Nat := 0x0000
def stAccepted : Nat := 0x0001
def stCapacity : Nat := 0x0101
def stTableCheck : Nat := 0x0102
def stPromise : Nat := 0x0103
def stPermission : Nat := 0x0104
def stFormat : Nat := 0x0105
def stSignature : Nat := 0x0106
def stLogFull : Nat := 0x0107
def stStatOrder : Nat := 0x0108
def stBusy : Nat := 0x0201
def stHandover : Nat := 0x0202

/-- Why a command is not carried out: the status and the result words from word 1 on. -/
structure Refuse where
  status : Nat
  words  : List Nat
  deriving DecidableEq, Repr

/-- A FORMAT refusal. -/
def Refuse.format (words : List Nat) : Refuse := { status := stFormat, words := words }

/-- A CAPACITY refusal with the words of R256. -/
def Refuse.capacity (res stage tile need have1 need2 have2 : Nat) : Refuse where
  status := stCapacity
  words := [res + stage * 2 ^ 8 + tile * 2 ^ 16, need, have1, need2, have2]

/-- The first refusal of a list of checks. -/
def firstRefuse : List (Option Refuse) → Option Refuse
  | [] => none
  | some r :: _ => some r
  | none :: rest => firstRefuse rest

/-- A check: refused unless `ok`. -/
def need (ok : Bool) (r : Refuse) : Option Refuse := if ok then none else some r

/-- a/b rounded up. -/
def ceilDiv (a b : Nat) : Nat := (a + b - 1) / b

end Sys2Proof.Machine
end

