-- ==== Sys2Proof/Machine/Mailbox.lean ====
section
/-!
DEFINITION. The mailbox exchange (R329 to R343): command words, the malformed outcomes, permissions, busy
and hand-over answers, refusals with their log entries, and how a command is taken and answered.
-/

namespace Sys2Proof.Machine

/-! ### A command (R331, Table 14.5) -/

/-- The command in a mailbox. -/
structure Cmd where
  m   : Nat
  op  : Nat
  tag : BitVec 16
  len : Nat                           -- words, LEN + 1
  w   : List Nat
  cls : Nat                           -- CLASS of the stream descriptor, once it has been read
  deriving DecidableEq, Repr

def Cmd.arg (c : Cmd) (i : Nat) : Nat := c.w.getD i 0

/-- A 52-bit host address in words `i` and `i + 1` (R339). -/
def Cmd.addr (c : Cmd) (i : Nat) : Nat := c.arg i + bits (c.arg (i + 1)) 19 0 * 2 ^ 32

def State.cmd (s : State) (m : Nat) : Cmd :=
  let x := s.mailbox m
  let ws := (x.inW.toList.map (fun w => w.toNat)).take (x.len.toNat + 1)
  { m := m, op := ws.getD 0 0 % 2 ^ 16, tag := BitVec.ofNat 16 (ws.getD 0 0 / 2 ^ 16), len := x.len.toNat + 1, w := ws,
    cls := 0 }

def opGetInfo : Nat := 0x0001
def opLoadTable : Nat := 0x0010
def opRetireTable : Nat := 0x0011
def opLoadChain : Nat := 0x0020
def opRetireChain : Nat := 0x0021
def opOpenStream : Nat := 0x0030
def opCloseStream : Nat := 0x0031
def opQueryStream : Nat := 0x0032
def opQueryProgress : Nat := 0x0040
def opSelftest : Nat := 0x0050
def opCalibrate : Nat := 0x0051
def opTileRetire : Nat := 0x0060
def opTileRestore : Nat := 0x0061
def opFwStage : Nat := 0x0070
def opFwActivate : Nat := 0x0071
def opSetPolicy : Nat := 0x0080
def opSetFloor : Nat := 0x0081
def opReadLog : Nat := 0x0090
def opSurroundings : Nat := 0x00A0
def opMergeCmd : Nat := 0x00B0

/-- The defined bits of argument words 1 onward; the length of the list is the argument count. -/
def argMasks (op w1 : Nat) : Option (List Nat) :=
  let all := 0xFFFFFFFF
  match op with
  | 0x0001 => some [0x03FF000F]
  | 0x0010 => some [all, 0xFFFFF, 0x03131FFF]
  | 0x0011 => some [0x3]
  | 0x0020 => some [all, 0xFFFFF, 0x3FFFF, 0x103FF]
  | 0x0021 => some [0x3FF]
  | 0x0030 => some [0x3FFF, all, 0xFFFFF]
  | 0x0031 => some [0x3FFF]
  | 0x0032 => some [0x3FFF]
  | 0x0040 => some [if bit w1 31 then 0x8003FFFF else 0x80003FFF]
  | 0x0050 => some [0x7F]
  | 0x0051 => some [0xFF7F]
  | 0x0060 => some [0x17F]
  | 0x0061 => some [0x7F]
  | 0x0070 => some [all, 0xFFFFF, 0x7FFFF]
  | 0x0071 => some [0x1]
  | 0x0080 => some [0x7F00FF, all]
  | 0x0081 => some [0xF07]
  | 0x0090 => some [all, all]
  | 0x00A0 => some [0xFFF0F, all]
  | 0x00B0 => some [0x3FFF0F01, all, 0xFFFF, all, 0xFFFFF]
  | _ => none

/-- Index of the first word with a bit outside its mask. -/
def firstReserved : List Nat → List Nat → Nat → Option Nat
  | m :: ms, w :: ws, i => if w &&& m == w then firstReserved ms ws (i + 1) else some i
  | _, _, _ => none

/-- The malformed status and the index of the first offending word, in the order of Table 14.2 (R333). -/
def Cmd.malformed (c : Cmd) : Option (Nat × Nat) :=
  match argMasks c.op (c.arg 1) with
  | none => some (0x0301, 0)
  | some ms =>
    if c.len != ms.length + 1 then some (0x0302, c.len)
    else
      match firstReserved ms (c.w.drop 1) 1 with
      | some i => some (0x0303, i)
      | none =>
        if c.op == opGetInfo && bits (c.arg 1) 3 0 > 3 then some (0x0303, 1)
        else if c.tag == 0xFFFF then some (0x0304, 0)
        else none

/-- The four read-only commands (Table 14.3). -/
def readOnly (op : Nat) : Bool :=
  op == opGetInfo || op == opQueryStream || op == opQueryProgress || op == opReadLog

/-- The commands marked long (Table 14.5). -/
def isLongOp (op : Nat) : Bool :=
  op == opLoadTable || op == opCloseStream || op == opSelftest || op == opCalibrate || op == opTileRetire ||
    op == opTileRestore || op == opFwStage || op == opFwActivate

/-- Table 14.3 (R334, R335). -/
def State.permitted (s : State) (c : Cmd) : Bool :=
  let dbg := c.m == 3 && s.policy.debug
  if readOnly c.op then true
  else if c.op == opLoadTable || c.op == opRetireTable || c.op == opLoadChain || c.op == opRetireChain then
    c.m == 0 || (c.m == 1 && s.policy.workload)
  else if c.op == opOpenStream || c.op == opCloseStream || c.op == opMergeCmd then c.m ≤ 1
  else if c.op == opTileRetire then c.m == 0 || ((c.m == 2 || dbg) && !bit (c.arg 1) 8)
  else if c.op == opFwActivate || c.op == opSetPolicy || c.op == opSetFloor then c.m == 0
  else c.m == 0 || c.m == 2 || dbg

/-! ### Answers (R330, R332) -/

/-- Writes words over the first words of a register file. -/
def overlay (v : Vector Word 16) (ws : List Nat) : Vector Word 16 :=
  Vector.ofFn (fun i => match ws[i.val]? with
    | some w => BitVec.ofNat 32 w
    | none => v.get i)

/-- Writes a response or READY into a mailbox whose OUT_BELL.VALID is 0. -/
def State.writeOut (s : State) (m : Nat) (ws : List Nat) : State :=
  let x := s.mailbox m
  (s.setMailbox m { x with outW := overlay x.outW ws, outLen := BitVec.ofNat 4 (ws.length - 1), valid := true }).setInt m

/-- Answers the command in a mailbox: STATE returns to IDLE, or stays WORKING while the previous response
waits for its acknowledgement (R330). -/
def State.respond (s : State) (m : Nat) (ws : List Nat) : State :=
  let x := s.mailbox m
  if x.valid then s.setMailbox m { x with state := .working, held := some (ws.map (BitVec.ofNat 32)) }
  else (s.setMailbox m { x with state := .idle }).writeOut m ws

/-- READY on mailbox 0, behind any response not acknowledged (R332). -/
def State.writeReady (s : State) : State :=
  let ws := [0xFFFF0000, s.fwVersion.toNat, s.serviceWord] ++ s.mapWords
  let x := s.mailbox 0
  if x.valid then s.setMailbox 0 { x with ready := x.ready ++ [ws.map (BitVec.ofNat 32)] }
  else s.writeOut 0 ws

/-- Takes the command out of the order of doorbells. -/
def State.takeBell (s : State) (m : Nat) : State :=
  { s with
    bells := s.bells.filter (fun b => b.val != m)
    commandsTaken := satInc s.commandsTaken
    handover := s.handover.map (fun h => { h with prior := h.prior.filter (fun b => b != m) }) }

/-- The answer to a command. -/
def State.answer (s : State) (c : Cmd) (status : Nat) (ws : List Nat) : State :=
  (s.takeBell c.m).respond c.m ((status + c.tag.toNat * 2 ^ 16) :: ws)

/-- OBJECT of a changing command (Table 16.9). -/
def State.logObject (s : State) (c : Cmd) : Nat :=
  let w1 := c.arg 1
  match c.op with
  | 0x0010 => bits (c.arg 3) 17 16 + (if bit (c.arg 3) 20 then bits (c.arg 3) 25 24 else 0xFF) * 2 ^ 8
  | 0x0011 => bits w1 1 0
  | 0x0020 => bits (c.arg 4) 9 0
  | 0x0021 => bits w1 9 0
  | 0x0030 => bits w1 13 0 + c.cls * 2 ^ 16
  | 0x0031 =>
    let sid := bits w1 13 0
    sid + (match s.stream? sid with
      | some x => x.desc.cls
      | none => 0) * 2 ^ 16
  | 0x0050 | 0x0060 | 0x0061 => bits w1 6 0 + c.op * 2 ^ 16
  | 0x0051 => bits w1 6 0
  | 0x0070 | 0x0071 => b2n (!s.slotB)
  | 0x0080 => w1
  | 0x0081 => bits w1 2 0
  | 0x00A0 => bits w1 11 8 + bits w1 19 12 * 2 ^ 8
  | _ => bits w1 29 16 + bits w1 0 0 * 2 ^ 31

/-- A refusal, a busy answer or a hand-over answer: a refusal of a changing command makes its log entry,
and one that cannot be logged is LOG_FULL (R17, R18, R391). -/
def State.refuse (s : State) (c : Cmd) (r : Refuse) : State :=
  if r.status / 256 != 1 then s.answer c r.status r.words
  else
    let s := { s with refusals := satInc s.refusals }
    if readOnly c.op then s.answer c r.status r.words
    else if r.status == stLogFull || !s.logRoom false then s.answer c stLogFull []
    else
      (s.logPut { origin := c.m, kind := kindOfOp c.op, result := r.status, tag := c.tag.toNat,
                  object := s.logObject c, oldh := 0, newh := 0 }).answer c r.status r.words

/-- Carries out a change: `change` is applied, the entry made, and the result words of the changed state
answered; LOG_FULL where the log has no room (R388, R391). -/
def State.commit (s : State) (c : Cmd) (oldh newh : Nat) (change : State → State)
    (result : State → List Nat) : State :=
  if s.logRoom false then
    let i : LogInfo := { origin := c.m, kind := kindOfOp c.op, result := stOk, tag := c.tag.toNat,
                         object := s.logObject c, oldh := oldh, newh := newh }
    let s := (change s).logPut i
    s.answer c stOk (result s)
  else s.refuse c { status := stLogFull, words := [] }

/-- Accepts a long operation (R343): the entry at acceptance with RESULT ACCEPTED and the room of its
second one, the operation's position, and the answer ACCEPTED. -/
def State.accept (s : State) (c : Cmd) (total object oldh newh : Nat) (change : State → State) : State :=
  if s.logRoom true then
    let obj := s.logObject c
    let i : LogInfo := { origin := c.m, kind := kindOfOp c.op, result := stAccepted, tag := c.tag.toNat,
                         object := obj, oldh := oldh, newh := newh }
    let op : LongOp := { origin := c.m, tag := c.tag, opcode := c.op, done := 0, total := total,
                         object := BitVec.ofNat 64 object, logObj := BitVec.ofNat 32 obj,
                         oldh := BitVec.ofNat 32 oldh, failed := none }
    let s := s.logPut i
    let s := { s with longOps := s.longOps ++ [op] }
    (change s).answer c stAccepted []
  else s.refuse c { status := stLogFull, words := [] }

/-! ### Taking a command -/

/-- Busy, hand-over and permission, before the command's own checks (R334, R338, R350). -/
def State.guard (s : State) (c : Cmd) : Option Refuse :=
  let handing := match s.handover with
    | some h => h.paused && !h.prior.contains c.m
    | none => false
  if handing then some { status := stHandover, words := [] }
  else if s.service != .service && c.op != opGetInfo then some { status := stBusy, words := [] }
  else if isLongOp c.op && ((s.longOp? c.m c.tag).isSome || s.longOps.length ≥ 16) then
    some { status := stBusy, words := [] }
  else if !s.permitted c then some { status := stPermission, words := [] }
  else none

/-- The queued command of a mailbox is the next of the changing ones in doorbell order (R336); answers of
the hand-over and read-only commands do not wait. -/
def State.itsTurn (s : State) (c : Cmd) : Bool :=
  let waiting := s.bells.filter (fun b =>
    let x := s.cmd b.val
    x.malformed.isNone && !readOnly x.op)
  readOnly c.op || (s.guard c).any (fun r => r.status == stHandover) ||
    waiting.head?.any (fun b => b.val == c.m)

/-- Mailbox `m` holds a queued, well-formed command with this opcode that may be taken now. -/
def State.takes (s : State) (m op : Nat) : Bool :=
  let c := s.cmd m
  s.mgmtRuns && (s.mailbox m).state == .queued && c.op == op && c.malformed.isNone && s.itsTurn c

/-- Takes a command: `body` carries out one that is neither busy nor refused by its origin. -/
def State.runCmd (s : State) (m op : Nat) (pick : Cmd → Bool) (body : Cmd → State → State) : State :=
  let c := s.cmd m
  if s.takes m op && pick c then
    match s.guard c with
    | some r => s.refuse c r
    | none => body c s
  else s

/-- A failed read on the Vane path: a FAB_ERROR finding of the band `b` that carried it, with the status and the
address of the request that failed (R303). -/
def State.readError (s : State) (b addr : Nat) (poison : Bool) : State :=
  s.report (srcBand b) evFabError (fun n => layoutP (0x80 + b) 3 0 0 addr 0 (if poison then 2 else 1) n)

/-- A read of `bytes` from `addr` has gone over the Vane path, line by line: its requests are counted, and a failed
one is reported. -/
def State.vaneRead (s : State) (addr bytes : Nat) (img : HostRead) : State :=
  match img with
  | .data _ => s.countReads (ceilDiv bytes 128) bytes
  | .failed poison line =>
    (s.countReads (line.toNat + 1) (min bytes (128 * (line.toNat + 1)))).readError s.vaneBand
      (addr + 128 * line.toNat) poison

/-- A host read of `bytes` that a command names (R303, R341): FORMAT 0xFFFF_FFFE where the address is not aligned,
FORMAT 0xFFFF_FFFF where the read failed. While the Vane path has no credit the command waits. -/
def State.withRead (s : State) (c : Cmd) (addr align bytes : Nat) (img : HostRead)
    (body : List Byte → State → State) : State :=
  if addr % align != 0 then s.refuse c (.format [0xFFFFFFFE])
  else if !s.vaneReads then s
  else
    match img with
    | .failed .. => (s.vaneRead addr bytes img).refuse c (.format [0xFFFFFFFF])
    | .data bs => body bs (s.vaneRead addr bytes img)

/-- Answers a check's refusal, or goes on. -/
def State.orRefuse (s : State) (c : Cmd) (r : Option Refuse) (body : State → State) : State :=
  match r with
  | some x => s.refuse c x
  | none => body s

/-! ### COMMAND_MALFORMED and OUT_ACK -/

/-- COMMAND_MALFORMED: the malformed status and the index of the first offending word; nothing else
changes (R18, R333). -/
def execCommandMalformed (m : Fin 4) (s : State) : Host.Outcome State Fault Refusal :=
  let c := s.cmd m.val
  .next (match c.malformed with
    | some (status, word) =>
      if s.mgmtRuns && (s.mailbox m.val).state == .queued then s.answer c status [word] else s
    | none => s)

/-- OUT_ACK with bit 0 set: VALID and the mailbox's INT_STATUS bit clear, and what waited behind the
response is written: a held response, then READY (R329, R330, R332). -/
def State.acknowledge (s : State) (m : Nat) : State :=
  let x := s.mailbox m
  let s := { s with intStatus := s.intStatus &&& ~~~(BitVec.ofNat 32 (2 ^ m)) }
  match x.held, x.ready with
  | some ws, _ =>
    (s.setMailbox m { x with valid := false, state := .idle, held := none }).writeOut m (ws.map (fun w => w.toNat))
  | none, ws :: rest => (s.setMailbox m { x with valid := false, ready := rest }).writeOut m (ws.map (fun w => w.toNat))
  | none, [] => s.setMailbox m { x with valid := false }

end Sys2Proof.Machine
end

