-- ==== Sys2Proof/Machine/Exact.lean ====
section
/-!
DEFINITION. Exact values (R88): a NaN with its sign and its fraction as XF carries it, an infinity, or a
rational times a power of two. Every operation of this file is exact, but for the square root and the
functions of Transcend.lean, whose results carry far more bits than any rounding looks at and stand off
the grid of every format (so that rounding them once is rounding the true value).
-/

namespace Sys2Proof.Machine

/-- An exact value: NaN (sign, 26-bit XF fraction), infinity, or (-1)^neg * n/d * 2^e with d > 0. -/
inductive Val where
  | nan (neg : Bool) (frac : Nat)
  | inf (neg : Bool)
  | fin (neg : Bool) (n d : Nat) (e : Int)
  deriving DecidableEq, Repr

namespace Val

/-- The default quiet NaN (R62). -/
def default : Val := .nan false (2 ^ 25)

def zero : Val := .fin false 0 1 0
def one : Val := .fin false 1 1 0

/-- A dyadic value. -/
def dy (neg : Bool) (m : Nat) (e : Int) : Val := .fin neg m 1 e

def ofInt (i : Int) : Val := .fin (i < 0) i.natAbs 1 0

/-- The quiet bit set, sign kept (R62). -/
def quiet : Val → Val
  | .nan s f => .nan s (f ||| 2 ^ 25)
  | v => v

def isNan : Val → Bool
  | .nan .. => true
  | _ => false

def isInf : Val → Bool
  | .inf _ => true
  | _ => false

def isZero : Val → Bool
  | .fin _ n _ _ => n == 0
  | _ => false

def neg? : Val → Bool
  | .nan s _ | .inf s | .fin s .. => s

def negate : Val → Val
  | .nan s f => .nan (!s) f
  | .inf s => .inf (!s)
  | .fin s n d e => .fin (!s) n d e

def abs : Val → Val
  | .nan _ f => .nan false f
  | .inf _ => .inf false
  | .fin _ n d e => .fin false n d e

end Val

/-- `n * 2^k` for a signed `k` that is not negative, `n` otherwise. -/
def shl (n : Nat) (k : Int) : Nat := n <<< k.toNat

/-- Order of two magnitudes n/d * 2^e. -/
def cmpMag (n d : Nat) (e : Int) (n' d' : Nat) (e' : Int) : Ordering :=
  let g := min e e'
  compare (shl (n * d') (e - g)) (shl (n' * d) (e' - g))

/-- floor(log2 (n/d * 2^e)), for n > 0. -/
def floorLog2 (n d : Nat) (e : Int) : Int :=
  let l : Int := (Nat.log2 n : Int) - Nat.log2 d
  let ge := if l ≥ 0 then decide (shl d l ≤ n) else decide (d ≤ shl n (-l))
  (if ge then l else l - 1) + e

/-- floor of n/d * 2^e as a multiple of 2^q. -/
def floorAt (q : Int) (n d : Nat) (e : Int) : Nat :=
  let sh := e - q
  if sh ≥ 0 then shl n sh / d else n / shl d (-sh)

namespace Val

/-- The first NaN operand in operand order, quieted (R62). -/
def firstNan : List Val → Option Val
  | [] => none
  | v :: vs => if v.isNan then some v.quiet else firstNan vs

/-- Signed numerators of two finite values over the common denominator d*d' and exponent g. -/
def addFin (s : Bool) (n d : Nat) (e : Int) (s' : Bool) (n' d' : Nat) (e' : Int) : Val :=
  let g := min e e'
  let a : Int := (shl (n * d') (e - g) : Int)
  let b : Int := (shl (n' * d) (e' - g) : Int)
  let t : Int := (if s then -a else a) + (if s' then -b else b)
  if t == 0 then
    -- x + (-x) is +0, and (-0) + (-0) is -0 (IEEE 754-2019, roundTiesToEven)
    .fin (s && s') 0 1 0
  else .fin (t < 0) t.natAbs (d * d') g

/-- a + b (R62, R88). -/
def add (a b : Val) : Val :=
  match firstNan [a, b] with
  | some v => v
  | none =>
    match a, b with
    | .inf s, .inf s' => if s == s' then .inf s else default
    | .inf s, _ => .inf s
    | _, .inf s => .inf s
    | .fin s n d e, .fin s' n' d' e' => addFin s n d e s' n' d' e'
    | _, _ => default

def sub (a b : Val) : Val :=
  match firstNan [a, b] with
  | some v => v
  | none => add a b.negate

/-- a * b (R62, R88). -/
def mul (a b : Val) : Val :=
  match firstNan [a, b] with
  | some v => v
  | none =>
    let s := xor a.neg? b.neg?
    match a, b with
    | .inf _, b => if b.isZero then default else .inf s
    | a, .inf _ => if a.isZero then default else .inf s
    | .fin _ n d e, .fin _ n' d' e' => .fin s (n * n') (d * d') (e + e')
    | _, _ => default

/-- a * b + c with no rounding between (R91). -/
def fma (a b c : Val) : Val :=
  match firstNan [a, b, c] with
  | some v => v
  | none =>
    let p := mul a b
    if p.isNan then p else add p c

/-- a / b (R98). -/
def div (a b : Val) : Val :=
  match firstNan [a, b] with
  | some v => v
  | none =>
    let s := xor a.neg? b.neg?
    match a, b with
    | .inf _, .inf _ => default
    | .inf _, _ => .inf s
    | _, .inf _ => .fin s 0 1 0
    | .fin _ n d e, .fin _ n' d' e' =>
      if n' == 0 then (if n == 0 then default else .inf s)
      else .fin s (n * d') (d * n') (e - e')
    | _, _ => default

end Val

/-- Integer square root by bits: `fuel` bits of the result from the top. -/
def isqrtBits (x : Nat) : Nat → Nat → Nat
  | 0, r => r
  | fuel + 1, r =>
    let c := r + 2 ^ fuel
    isqrtBits x fuel (if c * c ≤ x then c else r)

def isqrt (x : Nat) : Nat := isqrtBits x (Nat.log2 x / 2 + 1) 0

/-- The square root of n/d * 2^e, exact where it is a dyadic number of 160 bits, and otherwise a value
of 160 bits off every shorter grid and within one unit of its last place. -/
def sqrtMag (n d : Nat) (e : Int) : Nat × Int :=
  -- n/d * 2^e = (n*d) / d^2 * 2^e; the scale is made even
  let sh : Int := 320 + ((Nat.log2 d : Int) * 2) + (if e % 2 == 0 then 0 else 1)
  let x := shl (n * d) sh
  let r := isqrt x
  let ex := (e - sh) / 2
  let q := r / d
  if r * r == x && q * d == r then (q, ex) else (2 * q + 1, ex - 1)

/-- The square root (R98). -/
def Val.sqrt : Val → Val
  | .nan s f => (Val.nan s f).quiet
  | .inf s => if s then Val.default else .inf false
  | .fin s n d e =>
    if n == 0 then .fin s 0 1 0
    else if s then Val.default
    else
      let r := sqrtMag n d e
      .fin false r.1 1 r.2

namespace Val

/-- Numeric comparison of two values that are not NaN; -0 and +0 are equal. -/
def cmp (a b : Val) : Ordering :=
  match a, b with
  | .inf s, .inf s' => if s == s' then .eq else if s then .lt else .gt
  | .inf s, _ => if s then .lt else .gt
  | _, .inf s => if s then .gt else .lt
  | .fin s n d e, .fin s' n' d' e' =>
    if n == 0 && n' == 0 then .eq
    else if n == 0 then (if s' then .gt else .lt)
    else if n' == 0 then (if s then .lt else .gt)
    else if s != s' then (if s then .lt else .gt)
    else if s then cmpMag n' d' e' n d e else cmpMag n d e n' d' e'
  | _, _ => .eq

def lt (a b : Val) : Bool := cmp a b == .lt
def le (a b : Val) : Bool := cmp a b != .gt

/-- IEEE 754-2019 minimum and maximum: a NaN operand gives NaN, and -0 < +0 (Table 4.1). -/
def minimum (a b : Val) : Val :=
  match firstNan [a, b] with
  | some v => v
  | none =>
    match cmp a b with
    | .lt => a
    | .gt => b
    | .eq => if a.neg? then a else b

def maximum (a b : Val) : Val :=
  match firstNan [a, b] with
  | some v => v
  | none =>
    match cmp a b with
    | .lt => b
    | .gt => a
    | .eq => if a.neg? then b else a

/-- Multiplies by 2^k. -/
def scale2 (k : Int) : Val → Val
  | .fin s n d e => .fin s n d (e + k)
  | v => v

/-- Whether a finite value is an integer. -/
def isInteger : Val → Bool
  | .fin _ n d e => if e ≥ 0 then (shl n e) % d == 0 else n % (shl d (-e)) == 0
  | _ => false

/-- The floor of a finite value. -/
def floor : Val → Int
  | .fin s n d e =>
    let q := floorAt 0 n d e
    let exact := isInteger (.fin s n d e)
    if s then (if exact then -(q : Int) else -(q : Int) - 1) else q
  | _ => 0

end Val

end Sys2Proof.Machine
end

