-- ==== Sys2Proof/Machine/Operands.lean ====
section
/-!
DEFINITION. Operand forms: the formats of 02_number_formats.md, to the bit. `decode` gives the exact
value of a code, `encode` rounds a value once into a format and says what it lost (R50 to R56), `element`
takes an element out of a beat (R39).
-/

namespace Sys2Proof.Machine

/-- The formats of Table 2.1; the integers carry the SGN bit (R37, R49). -/
inductive Fmt where
  | b32 | b16 | fm16 | fm8 | ln8 | ln4
  | iq8 (signed : Bool)
  | iq4 (signed : Bool)
  | xf
  deriving DecidableEq, Repr

/-- The format an OPF field names; none for what R38 refuses. -/
def Fmt.ofOpf (o : Nat) : Option Fmt :=
  let s := bit o 4
  match o % 16 with
  | 0 => if s then none else some .b32
  | 1 => if s then none else some .b16
  | 2 => if s then none else some .fm16
  | 3 => if s then none else some .fm8
  | 4 => if s then none else some .ln8
  | 5 => if s then none else some .ln4
  | 6 => some (.iq8 s)
  | 7 => some (.iq4 s)
  | 8 => if s then none else some .xf
  | _ => none

/-- The format of an OPF field known to be valid. -/
def fmtOf (o : Nat) : Fmt := (Fmt.ofOpf o).getD .b32

namespace Fmt

/-- Width in bits (Table 2.1). -/
def width : Fmt → Nat
  | .b32 => 32 | .b16 => 16 | .fm16 => 16 | .fm8 => 8 | .ln8 => 8 | .ln4 => 4
  | .iq8 _ => 8 | .iq4 _ => 4 | .xf => 37

def isLong : Fmt → Bool
  | .b32 | .b16 => true
  | _ => false

def isShort : Fmt → Bool
  | .b32 | .b16 | .xf => false
  | _ => true

def isLog : Fmt → Bool
  | .ln8 | .ln4 => true
  | _ => false

def isInt : Fmt → Bool
  | .iq8 _ | .iq4 _ => true
  | _ => false

/-- The NaN code of a format, or 0 where it has none (R54, R376). -/
def nanCode : Fmt → Nat
  | .b32 => 0x7FC00000 | .b16 => 0x7E00 | .fm16 => 0x8001 | .fm8 => 0x81 | .ln8 => 0x80
  | .xf => 1023 * 2 ^ 26 + 2 ^ 25
  | _ => 0

/-- Whether a format has a NaN code. -/
def hasNan : Fmt → Bool
  | .ln4 | .iq8 _ | .iq4 _ => false
  | _ => true

end Fmt

/-! ### Logarithmic values (R40, R41) -/

/-- The 24-bit significands of C[0] to C[7] (Table 2.2). -/
def lnC : List Nat :=
  [0x800000, 0x8B95C2, 0x9837F0, 0xA5FED7, 0xB504F3, 0xC5672A, 0xD744FD, 0xEAC0C7]

/-- V for n eighth-steps: a significand and an exponent (R41). -/
def lnV (n : Int) : Nat × Int := (lnC.getD (n % 8).toNat 0, n / 8 - 23)

/-- The signed value V of a logarithmic code with sign `s` and `n` eighth-steps. -/
def lnVal (s : Bool) (n : Int) : Val := .fin s (lnV n).1 1 (lnV n).2

/-- The LN8 position of a nonzero log code (R43: LN4 maps to 4m + 92), with its sign; none for zero or NaN. -/
def lnPos (f : Fmt) (c : Nat) : Option (Bool × Int) :=
  match f with
  | .ln8 => if c % 128 == 0 then none else some (bit c 7, (c % 128 : Nat))
  | .ln4 => if c % 8 == 0 then none else some (bit c 3, (4 * (c % 8) + 92 : Nat))
  | _ => none

/-! ### Decoding -/

/-- A minifloat code: `fb` fraction bits, `eb` exponent bits, bias; the only NaN is sign 1, E 0, F 1
(R47, R48). -/
def decodeMini (fb eb : Nat) (bias : Int) (c : Nat) : Val :=
  let s := bit c (fb + eb)
  let e := bits c (fb + eb - 1) fb
  let f := c % 2 ^ fb
  if e == 0 then (if s && f == 1 then Val.default else .fin s 0 1 0)
  else .fin s (2 ^ fb + f) 1 ((e : Int) - bias - fb)

/-- An IEEE 754 interchange code with `fb` fraction and `eb` exponent bits (R62, R65). -/
def decodeIeee (fb eb : Nat) (c : Nat) : Val :=
  let s := bit c (fb + eb)
  let e := bits c (fb + eb - 1) fb
  let f := c % 2 ^ fb
  let bias : Int := 2 ^ (eb - 1) - 1
  if e == 2 ^ eb - 1 then (if f == 0 then .inf s else .nan s (f <<< (26 - fb)))
  else if e == 0 then .fin s f 1 (1 - bias - fb)
  else .fin s (2 ^ fb + f) 1 ((e : Int) - bias - fb)

/-- The exact value of a code (R41 to R49, R57, R62). -/
def decode (f : Fmt) (c : Nat) : Val :=
  match f with
  | .b32 => decodeIeee 23 8 c
  | .b16 => decodeIeee 10 5 c
  | .fm16 => decodeMini 9 6 31 c
  | .fm8 => decodeMini 3 4 8 c
  | .ln8 =>
    if c % 128 == 0 then (if bit c 7 then Val.default else Val.zero)
    else lnVal (bit c 7) (((c % 128 : Nat) : Int) - 120)
  | .ln4 =>
    if c % 8 == 0 then Val.zero
    else lnVal (bit c 3) (4 * (((c % 8 : Nat) : Int) - 7))
  | .iq8 s => Val.ofInt (if s && c ≥ 128 then (c : Int) - 256 else c)
  | .iq4 s => Val.ofInt (if s && c ≥ 8 then (c : Int) - 16 else c)
  | .xf =>
    let s := bit c 36
    let e := bits c 35 26
    let fr := c % 2 ^ 26
    if e == 1023 then (if fr == 0 then .inf s else .nan s fr)
    else if e == 0 then .fin s 0 1 0
    else .fin s (2 ^ 26 + fr) 1 ((e : Int) - 511 - 26)

/-! ### Rounding -/

/-- The rounding method of step 5 (R51, R82). -/
inductive Rnd where
  | rne
  | dither (u : Nat)
  deriving DecidableEq, Repr

/-- What overflow does: the lanes' IEEE infinity (R90), or OVF of a CONVERT stage (Table 3.3). -/
inductive Ovf where
  | lane | saturate | ieee
  deriving DecidableEq, Repr

/-- What a written element lost (R53). -/
inductive Ev where
  | none
  | sat          -- saturated or overflowed
  | under        -- a finite nonzero value written as zero
  | nanCode      -- a NaN written as the format's NaN
  | nanZero      -- a NaN written as 0
  deriving DecidableEq, Repr

structure Enc where
  code : Nat
  ev   : Ev
  deriving DecidableEq, Repr

/-- Whether the magnitude n/d * 2^e between lo * 2^f and hi * 2^f goes to hi (R51, R82). -/
def pickHi (r : Rnd) (loEven : Bool) (n d : Nat) (e : Int) (lo hi : Nat) (f : Int) : Bool :=
  let g := min e f
  let a := shl n (e - g)
  let l := shl (lo * d) (f - g)
  let h := shl (hi * d) (f - g)
  if a ≤ l then false
  else
    match r with
    | .rne =>
      match compare (2 * a) (l + h) with
      | .gt => true
      | .lt => false
      | .eq => !loEven
    | .dither u => decide (u < 2 ^ 24 * (a - l) / (h - l))

/-- A magnitude rounded to `p` significant bits, and no finer than 2^emin where that is given: a
significand and its exponent (R50, R62). -/
def roundSig (r : Rnd) (p : Nat) (emin : Option Int) (n d : Nat) (e : Int) : Nat × Int :=
  let q0 := floorLog2 n d e - (p - 1 : Nat)
  let q := match emin with
    | some m => max q0 m
    | none => q0
  let lo := floorAt q n d e
  let m := if pickHi r (lo % 2 == 0) n d e lo (lo + 1) q then lo + 1 else lo
  if m == 2 ^ p then (2 ^ (p - 1), q + 1) else (m, q)

/-- A magnitude rounded to an integer. -/
def roundInt (r : Rnd) (n d : Nat) (e : Int) : Nat :=
  let lo := floorAt 0 n d e
  if pickHi r (lo % 2 == 0) n d e lo (lo + 1) 0 then lo + 1 else lo

/-- The largest j in 0..7, of the step given, with C[j] * 2^(k - 23) at most the magnitude. -/
def lnFindJ (n d : Nat) (e k : Int) (step : Nat) : Nat → Nat
  | 0 => 0
  | j + 1 =>
    if (j + 1) % step == 0 && cmpMag n d e (lnC.getD (j + 1) 0) 1 (k - 23) != .lt then j + 1
    else lnFindJ n d e k step j

/-- A magnitude rounded to a position of the extended code sequence, in steps of `step` eighths: the
result in eighths (R50 to R52). The position's parity is that of the target's own sequence. -/
def roundLog (r : Rnd) (step : Nat) (n d : Nat) (e : Int) : Int :=
  let k := floorLog2 n d e
  let j := lnFindJ n d e k step 7
  let n8 : Int := 8 * k + j
  let lo := (lnV n8).1
  let f := (lnV n8).2
  let nx := lnV (n8 + step)
  let hi := shl nx.1 (nx.2 - f)
  -- LN8: m = n + 120; LN4: m = n/4 + 7
  let even := if step == 1 then (n8 % 2 == 0) else ((n8 / 4 + 7) % 2 == 0)
  if pickHi r even n d e lo hi f then n8 + step else n8

/-- The code of an IEEE format for significand `m` and exponent `q` in its range. -/
def ieeeCode (fb eb : Nat) (s : Bool) (m : Nat) (q : Int) : Nat :=
  let bias : Int := 2 ^ (eb - 1) - 1
  let sgn := b2n s * 2 ^ (fb + eb)
  if m < 2 ^ fb then sgn + m
  else sgn + (q + fb + bias).toNat * 2 ^ fb + (m - 2 ^ fb)

/-- Encodes into binary32 or binary16 (R62, R64, R69, R74). -/
def encodeIeee (fb eb : Nat) (o : Ovf) (zc : Bool) (v : Val) : Enc :=
  let bias : Int := 2 ^ (eb - 1) - 1
  let sgn (s : Bool) := b2n s * 2 ^ (fb + eb)
  let infC (s : Bool) := sgn s + (2 ^ eb - 1) * 2 ^ fb
  let zeroC (s : Bool) := if zc then 0 else sgn s
  match v with
  | .nan s f => { code := sgn s + (2 ^ eb - 1) * 2 ^ fb + ((f >>> (26 - fb)) ||| 2 ^ (fb - 1)), ev := .nanCode }
  | .inf s =>
    match o with
    | .lane => { code := infC s, ev := .none }
    | .saturate => { code := infC s - 1, ev := .sat }
    | .ieee => { code := infC s, ev := .sat }
  | .fin s n d e =>
    if n == 0 then { code := zeroC s, ev := .none }
    else
      let mq := roundSig .rne (fb + 1) (some (1 - bias - fb)) n d e
      if mq.1 == 0 then { code := zeroC s, ev := .under }
      else if mq.2 + fb > bias then
        { code := (if o == .saturate then infC s - 1 else infC s), ev := .sat }
      else { code := ieeeCode fb eb s mq.1 mq.2, ev := .none }

/-- Encodes into a minifloat (R47, R48, R50 to R56). -/
def encodeMini (fb eb : Nat) (bias : Int) (r : Rnd) (zc : Bool) (v : Val) : Enc :=
  let sgn (s : Bool) := b2n s * 2 ^ (fb + eb)
  let maxC (s : Bool) := sgn s + (2 ^ (fb + eb) - 1)
  let zeroC (s : Bool) := if zc then 0 else sgn s
  match v with
  | .nan .. => { code := sgn true + 1, ev := .nanCode }
  | .inf s => { code := maxC s, ev := .sat }
  | .fin s n d e =>
    if n == 0 then { code := zeroC s, ev := .none }
    else
      let mq := roundSig r (fb + 1) none n d e
      let ex := mq.2 + fb
      if ex > 2 ^ eb - 1 - bias then { code := maxC s, ev := .sat }
      else if ex < 1 - bias then { code := zeroC s, ev := .under }
      else { code := sgn s + (ex + bias).toNat * 2 ^ fb + (mq.1 - 2 ^ fb), ev := .none }

/-- Encodes into a log format: `step` eighths a position, `off` eighths at position 0, `mb` position
bits (R42, R44, R50 to R54). -/
def encodeLog (step : Nat) (off : Int) (mb : Nat) (r : Rnd) (v : Val) : Enc :=
  let sgn (s : Bool) := b2n s * 2 ^ mb
  let top := 2 ^ mb - 1
  match v with
  | .nan .. => if step == 1 then { code := 2 ^ mb, ev := .nanCode } else { code := 0, ev := .nanZero }
  | .inf s => { code := sgn s + top, ev := .sat }
  | .fin s n d e =>
    if n == 0 then { code := 0, ev := .none }
    else
      let m := (roundLog r step n d e - off) / step
      if m > top then { code := sgn s + top, ev := .sat }
      else if m < 1 then { code := 0, ev := .under }
      else { code := sgn s + m.toNat, ev := .none }

/-- Encodes into an integer format of `w` bits (R49, R50, R54, R55). -/
def encodeInt (w : Nat) (signed : Bool) (r : Rnd) (v : Val) : Enc :=
  let hi : Int := if signed then 2 ^ (w - 1) - 1 else 2 ^ w - 1
  let lo : Int := if signed then -2 ^ (w - 1) else 0
  let codeOf (i : Int) : Nat := (i % 2 ^ w).toNat
  match v with
  | .nan .. => { code := 0, ev := .nanZero }
  | .inf s => { code := codeOf (if s then lo else hi), ev := .sat }
  | .fin s n d e =>
    if n == 0 then { code := 0, ev := .none }
    else
      let m : Int := roundInt r n d e
      let i := if s then -m else m
      if i == 0 then { code := 0, ev := .under }
      else if i > hi then { code := codeOf hi, ev := .sat }
      else if i < lo then { code := codeOf lo, ev := .sat }
      else { code := codeOf i, ev := .none }

/-- Encodes into XF (R57, R58). A finite result beyond the largest finite magnitude becomes the infinity and
counts as a saturation, as an IEEE overflow does (R90). DESIGN CHOICE, log entry 61. -/
def encodeXf (v : Val) : Enc :=
  let sgn (s : Bool) := b2n s * 2 ^ 36
  match v with
  | .nan s f => { code := sgn s + 1023 * 2 ^ 26 + (f ||| 2 ^ 25), ev := .nanCode }
  | .inf s => { code := sgn s + 1023 * 2 ^ 26, ev := .none }
  | .fin s n d e =>
    if n == 0 then { code := sgn s, ev := .none }
    else
      let mq := roundSig .rne 27 none n d e
      let ex := mq.2 + 26
      if ex < -510 then { code := sgn s, ev := .under }
      else if ex > 511 then { code := sgn s + 1023 * 2 ^ 26, ev := .sat }
      else { code := sgn s + (ex + 511).toNat * 2 ^ 26 + (mq.1 - 2 ^ 26), ev := .none }

/-- Rounds a value once into a format (R50, R62, R57), with the overflow mode, the zero rule (R56) and
the rounding method of its stage. -/
def encode (f : Fmt) (o : Ovf) (r : Rnd) (zc : Bool) (v : Val) : Enc :=
  match f with
  | .b32 => encodeIeee 23 8 o zc v
  | .b16 => encodeIeee 10 5 o zc v
  | .fm16 => encodeMini 9 6 31 r zc v
  | .fm8 => encodeMini 3 4 8 r zc v
  | .ln8 => encodeLog 1 (-120) 7 r v
  | .ln4 => encodeLog 4 (-28) 3 r v
  | .iq8 s => encodeInt 8 s r v
  | .iq4 s => encodeInt 4 s r v
  | .xf => encodeXf v

/-- A lane or evaluator result (R89, R90): round to nearest even, IEEE infinity on overflow. Zeros keep
their sign until a store (R56). -/
def encodeLane (f : Fmt) (v : Val) : Enc := encode f .lane .rne false v

/-- Rounds a value to binary32, to binary16 or to XF and takes the result as a value again. -/
def reround (f : Fmt) (v : Val) : Val := decode f (encodeLane f v).code

/-- Rounds to XF-12: 27 significant bits, exponents -2046 to 2047 (R67). -/
def roundXf12 (v : Val) : Val :=
  match v with
  | .nan s f => .nan s (f ||| 2 ^ 25)
  | .inf s => .inf s
  | .fin s n d e =>
    if n == 0 then .fin s 0 1 0
    else
      let mq := roundSig .rne 27 none n d e
      if mq.2 + 26 > 2047 then .inf s
      else if mq.2 + 26 < -2046 then .fin s 0 1 0
      else .fin s mq.1 1 mq.2

/-- The value of an SE8 code other than 255 (R60). -/
def se8Val (c : Nat) : Val := .fin false 1 1 ((c : Int) - 127)

/-- The rank of a code among the values of its format, in ascending order; +0 and -0 share one rank
(R414). -/
def rankOf (f : Fmt) (c : Nat) : Int :=
  let w := f.width
  let m := c % 2 ^ (w - 1)
  match f with
  | .iq8 s => if s && c ≥ 128 then (c : Int) - 256 else c
  | .iq4 s => if s && c ≥ 8 then (c : Int) - 16 else c
  | .fm8 =>
    let k : Int := if m < 8 then 0 else (m : Int) - 7
    if bit c (w - 1) then -k else k
  | .fm16 =>
    let k : Int := if m < 512 then 0 else (m : Int) - 511
    if bit c (w - 1) then -k else k
  | _ => if bit c (w - 1) then -(m : Int) else m

/-! ### Elements of a beat (R39) -/

/-- Element `i` of a vector of `w`-bit elements held in the number `n`. -/
def element (w n i : Nat) : Nat := (n >>> (w * i)) % 2 ^ w

/-- Elements packed by R39 into one number. -/
def packElems (w : Nat) (codes : List Nat) : Nat :=
  codes.foldr (fun c acc => c % 2 ^ w + (acc <<< w)) 0

/-- Elements packed by R39 into bytes; a last odd half byte is filled with 0. -/
def elemBytes (w : Nat) (codes : List Nat) : List Byte :=
  toLe ((w * codes.length + 7) / 8) (packElems w codes)

end Sys2Proof.Machine
end

