-- ==== Sys2Proof/Machine/Flags.lean ====
section
/-!
DEFINITION. The counts and flags of a row: how what a written element lost enters the saturation and
underflow count, the NaN count, SAT_SEEN and NAN_SEEN (R53, R76, R90, R111).
-/

namespace Sys2Proof.Machine

/-- A row's counts and flags (R53). -/
structure Tally where
  satuf   : Nat
  nanc    : Nat
  satSeen : Bool
  nanSeen : Bool
  deriving DecidableEq, Repr

def Tally.none : Tally where
  satuf := 0
  nanc := 0
  satSeen := false
  nanSeen := false

def Tally.plus (a b : Tally) : Tally where
  satuf := a.satuf + b.satuf
  nanc := a.nanc + b.nanc
  satSeen := a.satSeen || b.satSeen
  nanSeen := a.nanSeen || b.nanSeen

/-- What one written element of a lane or evaluator stage adds (R53, R76, R90, R111; Table 8.4): a NaN
counts where the format has no code for it and 0 is written; written as a NaN it only sets NAN_SEEN. -/
def Tally.ofLane : Ev → Tally
  | .sat => { satuf := 1, nanc := 0, satSeen := true, nanSeen := false }
  | .under => { satuf := 1, nanc := 0, satSeen := false, nanSeen := false }
  | .nanZero => { satuf := 0, nanc := 1, satSeen := false, nanSeen := true }
  | .nanCode => { satuf := 0, nanc := 0, satSeen := false, nanSeen := true }
  | .none => Tally.none

/-- What one written element of a CONVERT stage adds: every NaN source counts (R85). -/
def Tally.ofConvert : Ev → Tally
  | .nanCode => { satuf := 0, nanc := 1, satSeen := false, nanSeen := true }
  | ev => Tally.ofLane ev

/-- A poisoned element: its result is counted as a NaN (R137, R376). -/
def Tally.poisoned : Tally where
  satuf := 0
  nanc := 1
  satSeen := false
  nanSeen := true

/-- A row counter of 32 bits saturates. -/
def sat32 (n : Nat) : Nat := min n 0xFFFFFFFF

end Sys2Proof.Machine
end

