-- ==== Sys2Proof/Machine/Lane.lean ====
section
/-!
DEFINITION. The lanes (R88 to R98) and the product sums (R99 to R106): exact results of an operation,
each rounded once to its destination.
-/

namespace Sys2Proof.Machine

/-- The poisoned element of a format (R376). -/
def Elem.poisoned (f : Fmt) : Elem := { code := f.nanCode, poison := true }

/-- An operand of a stage: a code in its format, and whether it is poisoned. -/
structure Opnd where
  fmt    : Fmt
  code   : Nat
  poison : Bool
  deriving DecidableEq, Repr

/-- The exact value of an operand (R88). -/
def Opnd.val (a : Opnd) : Val := decode a.fmt a.code

/-- A written element and what it adds to the row's counts. -/
structure Written where
  elem  : Elem
  tally : Tally
  deriving DecidableEq, Repr

/-- An unpoisoned result of a lane or evaluator stage. -/
def Written.ofEnc (e : Enc) : Written :=
  { elem := { code := e.code, poison := false }, tally := Tally.ofLane e.ev }

/-- A poisoned result: the NaN code, or 0 (R376), counted as a NaN. -/
def Written.poisoned (f : Fmt) : Written := { elem := Elem.poisoned f, tally := Tally.poisoned }

/-- A product (R45, R46, R97): of two logarithmic operands the value of the extended position, of any
others the exact product. -/
def mulVal (a b : Opnd) : Val :=
  match lnPos a.fmt a.code, lnPos b.fmt b.code with
  | some (sa, ma), some (sb, mb) => lnVal (xor sa sb) (ma + mb - 240)
  | _, _ => Val.mul a.val b.val

/-- The lane operations of Table 4.1 that have a result per element. -/
inductive LaneOp where
  | add | sub | mul | fma | min | max | neg | abs | cvt | div | sqrt
  deriving DecidableEq, Repr

/-- NEG and ABS of a NaN kept in its own long format touch the sign bit alone; a NaN of a short format
converts to the default NaN (R62). -/
def signOp (neg : Bool) (d : Fmt) (a : Opnd) : Enc :=
  let v := a.val
  if v.isNan && a.fmt == d && d.isLong then
    let top := 2 ^ (d.width - 1)
    let m := a.code % top
    { code := if neg && a.code < top then m + top else m, ev := .nanCode }
  else if v.isNan && a.fmt.isShort then encodeLane d Val.default
  else encodeLane d (if neg then v.negate else v.abs)

/-- A lane operation: exact, then rounded once to the destination (R88 to R90). -/
def laneOp (op : LaneOp) (d : Fmt) (a b c : Opnd) : Enc :=
  match op with
  | .add => encodeLane d (Val.add a.val b.val)
  | .sub => encodeLane d (Val.sub a.val b.val)
  | .mul => encodeLane d (mulVal a b)
  | .fma => encodeLane d (Val.fma a.val b.val c.val)
  | .min => encodeLane d (Val.minimum a.val b.val)
  | .max => encodeLane d (Val.maximum a.val b.val)
  | .neg => signOp true d a
  | .abs => signOp false d a
  | .cvt => encodeLane d a.val
  | .div => encodeLane d (Val.div a.val b.val)
  | .sqrt => encodeLane d (Val.sqrt a.val)

/-- min(max(v, lo), hi) with -0 equal to +0; a NaN passes (R70, Table 10.4). -/
def clipVal (lo hi v : Val) : Val :=
  if v.isNan then v
  else if Val.lt v lo then lo
  else if Val.lt hi v then hi
  else v

/-! ### Product sums -/

/-- Least-significant-bit exponent of Table 4.3. -/
def lsbExp : Fmt → Int
  | .b16 => -24 | .fm16 => -39 | .fm8 => -10 | .ln8 => -38 | .ln4 => -26
  | _ => 0

/-- Most-significant-bit exponent of Table 4.3. -/
def msbExp : Fmt → Int
  | .b16 => 15 | .fm16 => 32 | .fm8 => 7 | .iq8 _ => 7 | .iq4 _ => 3
  | _ => 0

/-- Bits from the top of the largest product to the lowest bit (R104). -/
def psumSpan (a b : Fmt) : Int :=
  if a.isLog && b.isLog then 55 else (msbExp a + msbExp b + 1) - (lsbExp a + lsbExp b) + 1

/-- The accumulator at the start of a row's share (R102, R103). A row without a product has the result of one whose every
product is -0, of which R105 does not speak (DESIGN CHOICE, log entry 123). -/
def PsumAcc.start (step : Nat) (lsb : Int) : PsumAcc where
  step := step
  group := []
  acc := 0
  exact := 0
  lsb := lsb
  invalid := false
  posInf := false
  negInf := false
  allNegZero := true
  poison := false

/-- The exponent X of a group: floor(log2) of its largest product (R101). -/
def groupX (g : List (Bool × Nat × Int)) : Option Int :=
  g.foldl (fun m p => if p.2.1 == 0 then m else
    let x := floorLog2 p.2.1 1 p.2.2
    match m with
    | none => some x
    | some y => some (max x y)) none

/-- The sum of a group's truncated products, in units of 2^(X - 28) (R101). -/
def groupSum (g : List (Bool × Nat × Int)) (x : Int) : Int :=
  g.foldl (fun t p =>
    let q : Int := floorAt (x - 28) p.2.1 1 p.2.2
    t + (if p.1 then -q else q)) 0

/-- Closes the open group: its sum enters the XF accumulator with one rounding (R102). -/
def PsumAcc.closeGroup (a : PsumAcc) : PsumAcc :=
  match groupX a.group with
  | none => { a with group := [] }
  | some x =>
    let sum := unitsXf (groupSum a.group x) (x - 28)
    { a with group := [], acc := (encodeLane .xf (Val.add (decode .xf a.acc) sum)).code }
where
  unitsXf (p e : Int) : Val := .fin (p < 0) p.natAbs 1 e

/-- Takes one product (R101, R103, R105); in guarded mode a group of 16 closes. -/
def PsumAcc.product (a : PsumAcc) (exact : Bool) (v : Val) : PsumAcc :=
  match v with
  | .nan .. => noted { a with invalid := true, allNegZero := false } (false, 0, 0)
  | .inf s =>
    noted (if s then { a with negInf := true, allNegZero := false }
      else { a with posInf := true, allNegZero := false }) (false, 0, 0)
  | .fin s n _ e =>
    let a := if n == 0 && s then a else { a with allNegZero := false }
    if exact then
      let u : Int := floorAt a.lsb n 1 e
      { a with exact := a.exact + (if s then -u else u) }
    else noted a (s, n, e)
where
  noted (a : PsumAcc) (p : Bool × Nat × Int) : PsumAcc :=
    if exact then a
    else
      let a := { a with group := a.group ++ [p] }
      if a.group.length == 16 then a.closeGroup else a

/-- Combines the partial of one more tile (R102, R103): an XF addition, or an integer addition. -/
def PsumAcc.combine (exact : Bool) (a b : PsumAcc) : PsumAcc :=
  { a with
    acc := if exact then a.acc else (encodeLane .xf (Val.add (decode .xf a.acc) (decode .xf b.acc))).code
    exact := a.exact + b.exact
    invalid := a.invalid || b.invalid
    posInf := a.posInf || b.posInf
    negInf := a.negInf || b.negInf
    allNegZero := a.allNegZero && b.allNegZero
    poison := a.poison || b.poison }

/-- The row's result before its one rounding (R105). -/
def PsumAcc.value (exact : Bool) (a : PsumAcc) : Val :=
  if a.invalid || (a.posInf && a.negInf) then Val.default
  else if a.posInf then .inf false
  else if a.negInf then .inf true
  else
    let v := if exact then .fin (a.exact < 0) a.exact.natAbs 1 a.lsb else decode .xf a.acc
    if v.isZero then .fin a.allNegZero 0 1 0 else v

/-- The row result in the stage's destination (R102, R103, R106). -/
def PsumAcc.result (exact : Bool) (d : Fmt) (a : PsumAcc) : Written :=
  if a.poison then Written.poisoned d else Written.ofEnc (encodeLane d (a.value exact))

end Sys2Proof.Machine
end

