-- ==== Sys2Proof/Machine/Convert.lean ====
section
/-!
DEFINITION. The CONVERT stage (R66 to R87, R217): Table 3.1 element by element, the output row scale from
the exact absolute maximum, the outlier block and the dither generator.
-/

namespace Sys2Proof.Machine

/-! ### Constant objects (R238, R239) -/

/-- COUNT of the constant object at reference `k`. -/
def objCount (cs : List Byte) (k : Nat) : Nat := leAt cs (8 * k) 4

/-- FMT of the constant object at reference `k`. -/
def objFmt (cs : List Byte) (k : Nat) : Nat := leAt cs (8 * k + 4) 1

/-- Entry `i` of the constant object at reference `k`, packed by R39. -/
def objEntry (cs : List Byte) (k i : Nat) : Nat :=
  let w := (fmtOf (objFmt cs k)).width
  if w == 4 then element 4 (leAt cs (8 * k + 8 + i / 2) 1) (i % 2)
  else leAt cs (8 * k + 8 + i * (w / 8)) (w / 8)

/-- The entry as an operand. -/
def objOpnd (cs : List Byte) (k i : Nat) : Opnd :=
  { fmt := fmtOf (objFmt cs k), code := objEntry cs k i, poison := false }

/-- A scalar, or the entry of column `col` (R233, R239). A column past COUNT, which OPEN_STREAM refuses, reads the bytes
that follow: a replacement of the chain can make one (DESIGN CHOICE, log entry 128). -/
def objAt (cs : List Byte) (k col : Nat) : Opnd :=
  objOpnd cs k (if objCount cs k == 1 then 0 else col)

/-! ### Fields of Table 10.6 -/

namespace Stage
def ovf (s : Stage) : Nat := bits s.param 1 0
def rnd (s : Stage) : Bool := bit s.param 2
def scin (s : Stage) : Nat := bits s.param 4 3
def scch (s : Stage) : Nat := bits s.param 6 5
def biasK (s : Stage) : Nat := bits s.param 8 7
def imf2 (s : Stage) : Nat := bits s.param 10 9
def imf3 (s : Stage) : Nat := bits s.param 12 11
def clip (s : Stage) : Bool := bit s.param 13
def scout (s : Stage) : Nat := bits s.param 15 14
def holdf (s : Stage) : Fmt := if bit s.param 16 then .b16 else .b32
def outl (s : Stage) : Nat := bits s.param 19 17
def dest (s : Stage) : Nat := bits s.param 21 20
def fmt (s : Stage) : Fmt := fmtOf s.opfD
end Stage

/-- An identity CONVERT (R217), given the format of its source. -/
def isIdentity (s : Stage) (src : Nat) : Bool :=
  src == s.opfD && s.scin == 0 && s.scch == 0 && s.biasK == 0 && !s.clip && s.scout == 0

/-! ### Dither (R83) -/

def ditherU (seed dkey stage row col : Nat) : Nat :=
  let m := 2 ^ 64
  let k1 := 0xA24B1F6D3C8E5907
  let k2 := 0x7C15E3A904D2B86F
  let w0 := ((dkey % 2 ^ 24) <<< 40) ||| ((stage % 16) <<< 24) ||| (col % 2 ^ 24)
  let x := (seed % m) ^^^ (row % 2 ^ 48)
  let x := ((x ^^^ (x >>> 31)) * k1) % m
  let x := x ^^^ (x >>> 29) ^^^ w0
  let x := (x * k2) % m
  let x := ((x ^^^ (x >>> 32)) * k1) % m
  (x ^^^ (x >>> 29)) >>> 40

/-! ### Steps 1 to 4 -/

/-- What a CONVERT stage is run with for one row. -/
structure ConvEnv where
  st    : Stage
  idx   : Nat
  cs    : List Byte
  zc    : Bool          -- ZCANON is on
  scale : Nat           -- the input row's scale
  row   : Nat
  seed  : Nat
  dkey  : Nat
  deriving DecidableEq, Repr

/-- A value on its way through steps 1 to 4: whether a rounding there made it zero, and the step at
which it became a NaN (R86). -/
structure ConvMid where
  v       : Val
  under   : Bool
  nanStep : Option Nat
  deriving DecidableEq, Repr

/-- The SE8 or binary16 scale of a field of kind 1 or 2; none for an invalid one (R60, R61). -/
def rowScale (kind code : Nat) : Option Val :=
  if kind == 1 then (if code % 256 == 255 then none else some (se8Val (code % 256)))
  else
    match decode .b16 (code % 65536) with
    | .fin false n d e => if n == 0 then none else some (.fin false n d e)
    | _ => none

/-- The result format of steps 2 and 3 (Table 3.2). A NaN is rounded like any value, so at binary16 it keeps
only the fraction bits that fit (R62, R69); R85 says that it passes unchanged. DESIGN CHOICE, log entry 58. -/
def roundImf (imf : Nat) (v : Val) : Val :=
  match imf with
  | 1 => reround .b32 v
  | 2 => reround .b16 v
  | _ => roundXf12 v

/-- Whether rounding made a finite nonzero value zero. -/
def wentZero (before after : Val) : Bool := !before.isZero && after.isZero

/-- One of the steps 2 and 3: `v` before, `x` exact, rounded by `imf`. -/
def ConvMid.round (m : ConvMid) (step imf : Nat) (x : Val) : ConvMid :=
  let r := roundImf imf x
  { v := r, under := m.under || wentZero x r,
    nanStep := if m.nanStep.isNone && r.isNan then some step else m.nanStep }

/-- Steps 1 to 4 of Table 3.1 at column `col`. A step with nothing selected passes its value (R66). A NaN that
comes from a NaN bias constant gets step 3, the step where it appears, and is not taken for one that an invalid
operation created (R86, R377). DESIGN CHOICE, log entry 59. -/
def convIn (E : ConvEnv) (col : Nat) (src : Opnd) : ConvMid :=
  let s := E.st
  let scIn := if s.scin == 0 then some Val.one else rowScale s.scin E.scale
  let v1 := if src.poison || scIn.isNone then Val.default else src.val
  let m1 : ConvMid := { v := v1, under := false, nanStep := if v1.isNan then some 1 else none }
  let m2 :=
    if s.scin == 0 && s.scch == 0 then m1
    else
      let ch := if s.scch == 0 then some Val.one else rowScale s.scch (objEntry E.cs s.k0 col)
      m1.round 2 s.imf2 (Val.mul m1.v (Val.mul (scIn.getD Val.one) (ch.getD Val.one)))
  let m3 :=
    if s.biasK == 0 then m2
    else m2.round 3 s.imf3 (Val.add m2.v (objOpnd E.cs s.k1 col).val)
  if s.clip then
    { m3 with v := clipVal (objOpnd E.cs s.k2 0).val (objOpnd E.cs s.k2 1).val m3.v }
  else m3

/-! ### Steps 5 to 8 -/

/-- What one element of a CONVERT stage gives: its code and counts, the step of an overflow (R75), the
step at which a NaN appeared (R86), and whether its step-4 value is zero (R78). -/
structure ConvOut where
  w       : Written
  satAt   : Option Nat
  nanStep : Option Nat
  zero    : Bool
  deriving DecidableEq, Repr

/-- Steps 5 to 7, with the counts of Table 3.6; `mark` is that of a held value. -/
def convFinish (E : ConvEnv) (col mark : Nat) (nanStep : Option Nat) (v : Val) : ConvOut :=
  let s := E.st
  let r := if s.rnd then Rnd.dither (ditherU E.seed E.dkey E.idx E.row col) else .rne
  let o := if s.ovf == 2 then Ovf.ieee else .saturate
  let e := encode s.fmt o r E.zc v
  let counted := mark == 1
  let t :=
    match e.ev with
    | .nanCode | .nanZero => Tally.ofConvert e.ev
    | .sat | .under => if counted then Tally.none else Tally.ofConvert e.ev
    | .none => if mark == 2 && (decode s.fmt e.code).isZero then Tally.ofConvert .under else Tally.none
  { w := { elem := { code := e.code, poison := false }, tally := t },
    satAt := if e.ev == .sat && !counted then some 6 else none,
    nanStep := nanStep, zero := v.isZero }

/-- A poisoned element (R376). -/
def convPoisoned (E : ConvEnv) (step : Option Nat) : ConvOut :=
  { w := Written.poisoned E.st.fmt, satAt := none, nanStep := step, zero := false }

/-- A stage with no output scale, on one element. -/
def convElem (E : ConvEnv) (col : Nat) (src : Opnd) : ConvOut :=
  if src.poison then convPoisoned E (some 1)
  else
    let m := convIn E col src
    convFinish E col (if m.under then 2 else 0) m.nanStep m.v

/-- An identity stage (R217): the source code, whose zeros follow R56; a NaN source reaches step 5 and counts
there as in every CONVERT stage (R85, Table 9.3). An infinite source passes unchanged and uncounted in every OVF, since R56
alone applies, where Table 3.3 saturates or counts one (DEDUCED, log entry 121). -/
def convIdentity (E : ConvEnv) (src : Opnd) : ConvOut :=
  if src.poison then convPoisoned E (some 1)
  else
    let v := src.val
    let zeroCode := if E.zc || src.fmt.isLog then 0 else (encodeLane src.fmt v).code
    { w := { elem := { code := if v.isZero then zeroCode else src.code, poison := false },
             tally := if v.isNan then Tally.ofConvert .nanCode else Tally.none },
      satAt := none, nanStep := if v.isNan then some 1 else none, zero := v.isZero }

/-! ### Sweep A and the output scale -/

/-- hold_round of a value (R79: an infinity saturates), with its counts and the overflow step 5. -/
def holdElem (E : ConvEnv) (col : Nat) (src : Opnd) : HeldElem × Tally × Option Nat × Option Nat :=
  let m := convIn E col src
  let e := encode E.st.holdf .saturate .rne false m.v
  match e.ev with
  | .sat => ({ code := e.code, poison := src.poison, mark := 1 }, Tally.ofConvert .sat, some 5, m.nanStep)
  | ev =>
    ({ code := e.code, poison := src.poison, mark := if m.under || ev == .under then 2 else 0 },
      Tally.none, none, m.nanStep)

/-- The magnitude of a held code: positive codes of an IEEE format are ordered as integers. -/
def heldMag (f : Fmt) (code : Nat) : Nat := code % 2 ^ (f.width - 1)

/-- A held value that is neither a NaN nor zero. -/
def heldCounts (f : Fmt) (h : HeldElem) : Bool :=
  let v := decode f h.code
  !v.isNan && !v.isZero

/-- Inserts (column, code) into a list by falling magnitude, lower column first, kept to `n` entries. -/
def topInsert (f : Fmt) (n : Nat) (x : Nat × Nat) : List (Nat × Nat) → List (Nat × Nat)
  | [] => [x].take n
  | y :: ys =>
    let before := heldMag f x.2 > heldMag f y.2 || (heldMag f x.2 == heldMag f y.2 && x.1 < y.1)
    if before then (x :: y :: ys).take n else (y :: topInsert f (n - 1) x ys).take n

/-- The n largest magnitudes of (column, held value) pairs, zeros and NaNs excluded (R80). -/
def topHeld (f : Fmt) (n : Nat) (hs : List (Nat × HeldElem)) : List (Nat × Nat) :=
  hs.foldl (fun acc p => if heldCounts f p.2 then topInsert f n (p.1, p.2.code) acc else acc) []

/-- Mx of Table 3.5. -/
def refMag : Fmt → Val
  | .fm16 => .fin false 1023 1 23
  | .fm8 => .fin false 240 1 0
  | .ln8 => .fin false 0xEAC0C7 1 (-23)
  | .iq8 s => .fin false (if s then 127 else 255) 1 0
  | .iq4 s => .fin false (if s then 7 else 15) 1 0
  | _ => Val.one

/-- The smallest k with v ≤ 2^k, for positive v. -/
def ceilLog2 (v : Val) : Int :=
  match v with
  | .fin _ n d e =>
    let k := floorLog2 n d e
    if cmpMag n d e 1 1 k == .eq then k else k + 1
  | _ => 0

/-- SE8 scale of R77 with the limits of R240. Limits of 255 and 255, which R240 lets pass, leave no scale between them: the
upper one, 254, holds then (DESIGN CHOICE, log entry 141). -/
def se8Scale (E : ConvEnv) (r : Val) : Nat :=
  let k := ceilLog2 r + 127
  let lim := E.st.k3 != 0xFFFF
  let lo : Int := if lim then objEntry E.cs E.st.k3 0 else 0
  let hi : Int := if lim then min (objEntry E.cs E.st.k3 1) 254 else 254
  (min (max k lo) hi).toNat

/-- binary16 fine scale of R77 with the limits of R240: rounded toward +infinity. -/
def fineScale (E : ConvEnv) (r : Val) : Nat :=
  let c := (encodeLane .b16 r).code
  let c := if Val.lt (decode .b16 c) r then c + 1 else c
  let lim := E.st.k3 != 0xFFFF
  let lo := if lim then objEntry E.cs E.st.k3 0 else 1
  let hi := if lim then objEntry E.cs E.st.k3 1 else 0x7BFF
  if Val.lt (decode .b16 c) (decode .b16 lo) then lo
  else if Val.lt (decode .b16 hi) (decode .b16 c) then hi
  else c

/-- The scale that marks a row of NaNs (R78). -/
def nanScale (scout : Nat) : Nat := if scout == 1 then 255 else 0x7E00

/-- The row's scale, outliers and ZERO_ROW from every held value of the row with its column. -/
def convRow (E : ConvEnv) (hs : List (Nat × HeldElem)) : SweepB :=
  let s := E.st
  let f := s.holdf
  let tops := topHeld f (s.outl + 1) hs
  let removed := tops.take s.outl
  let neutral := if s.scout == 1 then 127 else 0x3C00
  let allNan := hs.all (fun p => (decode f p.2.code).isNan)
  match tops.drop s.outl with
  | (_, a) :: _ =>
    let r := Val.div (decode f (heldMag f a)) (refMag s.fmt)
    { scale := if s.scout == 1 then se8Scale E r else fineScale E r, neutral := false, zeroRow := false,
      removed := removed }
  | [] =>
    if removed.isEmpty && allNan then
      { scale := nanScale s.scout, neutral := false, zeroRow := false, removed := [] }
    else { scale := neutral, neutral := true, zeroRow := removed.isEmpty, removed := removed }

/-- Sweep B on one element: an outlier's place takes a 0 that is not counted (R80); under the scale of a
row of NaNs every element is a NaN source, and the zeros of a row with the neutral scale are not counted (R78). -/
def sweepB (E : ConvEnv) (R : SweepB) (col : Nat) (h : HeldElem) : ConvOut :=
  if R.removed.any (fun p => p.1 == col) then
    { w := { elem := { code := 0, poison := false }, tally := Tally.none },
      satAt := none, nanStep := none, zero := false }
  else if h.poison then convPoisoned E none
  else
    let v := decode E.st.holdf h.code
    match rowScale E.st.scout R.scale with
    | none => convFinish E col h.mark none (if v.isNan then v else Val.default)
    | some d => convFinish E col (if R.neutral then 0 else h.mark) none (Val.div v d)

/-- One outlier entry, with ZCANON on or off: its five bytes, and whether the value saturates or is written as zero
(R53, R56, R81). -/
def outlierEntry (zc : Bool) (f : Fmt) (x : Nat × Nat) : Nat × Ev :=
  let e := encode .b16 .saturate .rne zc (decode f x.2)
  (x.1 % 2 ^ 24 + e.code * 2 ^ 24, e.ev)

/-- The outlier block as a number, byte 0 least significant (R81). -/
def outlierBlock (zc : Bool) (f : Fmt) (removed : List (Nat × Nat)) : Nat :=
  let body := (removed.map (fun x => (outlierEntry zc f x).1)).foldr (fun e acc => e + acc * 2 ^ 40) 0
  body + removed.length * 2 ^ 160

end Sys2Proof.Machine
end

