-- ==== Sys2Proof/Machine/Transcend.lean ====
section
/-!
DEFINITION. The mathematical functions behind the built-in ROM tables: 2^x, e^x, log2 x, ln x, 1/x and
1/sqrt x (R116, R124). A result is exact where it is dyadic; otherwise it is a value within 2^-270 of
the function, with a low bit that stands off the grid of every format, so that rounding it once is
rounding the function's value (log entry 19).
-/

namespace Sys2Proof.Machine

/-- Fraction bits of the working numbers. -/
def fixBits : Nat := 288

/-- ln 2 in units of 2^-288. -/
def ln2Fix : Nat := 0xb17217f7d1cf79abc9e3b39803f2f6af40f343267298b62d8a0d175b8baafa2be7b87620

/-- Terms `t` y/(k+1), ... of the exponential series, added up: `fuel` terms after term `k`. -/
def expSeries (y : Nat) : Nat → Nat → Nat → Nat → Nat
  | 0, _, _, acc => acc
  | fuel + 1, k, t, acc =>
    let t' := ((t * y) >>> fixBits) / (k + 1)
    expSeries y fuel (k + 1) t' (acc + t')

/-- e^y for y in [0, 1), both in units of 2^-288. -/
def expFix (y : Nat) : Nat := expSeries y 70 0 (1 <<< fixBits) (1 <<< fixBits)

/-- Sum of z^(2k+1) / (2k+1) from term `k` on: `fuel` terms. -/
def atanhSeries (z2 : Nat) : Nat → Nat → Nat → Nat → Nat
  | 0, _, _, acc => acc
  | fuel + 1, k, p, acc =>
    let p' := (p * z2) >>> fixBits
    atanhSeries z2 fuel (k + 1) p' (acc + p' / (2 * k + 3))

/-- ln m for m = n/d in [1, 2), in units of 2^-288. -/
def lnFix (n d : Nat) : Nat :=
  let z := ((n - d) <<< fixBits) / (n + d)
  2 * atanhSeries ((z * z) >>> fixBits) 100 0 z z

/-- A value of 288 fraction bits and a low bit off the grid. -/
def offGrid (neg : Bool) (m : Nat) (e : Int) : Val := .fin neg (2 * m + 1) 1 (e - fixBits - 1)

/-- The built-in functions by code (R108). -/
inductive Fn where
  | exp2 | exp | log2 | log | recip | rsqrt
  deriving DecidableEq, Repr

def Fn.ofCode (c : Nat) : Option Fn :=
  match c with
  | 1 => some .exp2 | 2 => some .exp | 3 => some .log2
  | 4 => some .log | 5 => some .recip | 6 => some .rsqrt
  | _ => none

/-- x in units of 2^-288, rounded down. -/
def toFix (x : Val) : Int := (Val.scale2 fixBits x).floor

/-- ln x for positive x, in units of 2^-288. -/
def lnOf (n d : Nat) (e : Int) : Int :=
  let k := floorLog2 n d e
  -- x = 2^k * m, with m = n' / d'
  let sh := e - k
  let m : Nat × Nat := if sh ≥ 0 then (shl n sh, d) else (n, shl d (-sh))
  k * ln2Fix + lnFix m.1 m.2

/-- The function's value at a finite nonzero argument of its domain (positive for the logarithms and the
reciprocal square root). The exponentials are asked only for |x| < 2^12 (R117). -/
def trueFn (f : Fn) (x : Val) : Val :=
  match x with
  | .fin s n d e =>
    match f with
    | .exp2 =>
      let k := x.floor
      let r := toFix (Val.sub x (Val.ofInt k))
      if r == 0 && x.isInteger then .fin false 1 1 k
      else offGrid false (expFix ((r.toNat * ln2Fix) >>> fixBits)) k
    | .exp =>
      let y := toFix x
      let k := y / (ln2Fix : Int)
      offGrid false (expFix (y - k * ln2Fix).toNat) k
    | .log2 =>
      let k := floorLog2 n d e
      if cmpMag n d e 1 1 k == .eq then Val.ofInt k
      else
        let t := lnOf n d e
        offGrid (t < 0) ((t.natAbs <<< fixBits) / ln2Fix) 0
    | .log =>
      let t := lnOf n d e
      if cmpMag n d e 1 1 0 == .eq then Val.zero else offGrid (t < 0) t.natAbs 0
    | .recip => .fin s d n (-e)
    | .rsqrt => Val.sqrt (.fin false d n (-e))
  | v => v

end Sys2Proof.Machine
end

