-- ==== Sys2Proof/Machine/Eval.lean ====
section
/-!
DEFINITION. The evaluator (R108 to R129, R142 to R146): what an EVAL stage or an XEV request computes
from a function code, a table, an input and an output format. The unpublished ROM coefficients are free
values within what R116, R156, R157 and Table 5.5 leave (log entry 20).
-/

namespace Sys2Proof.Machine

/-! ### The exact quadratic (R113 to R115) -/

/-- P of R115, in units of 2^(U - 32); T = 2^16 is the value at t = 1 (R144). -/
def polyP (c0 c1 c2 : Int) (s1 s2 T : Nat) : Int :=
  if T == 0 then c0 * 2 ^ 32
  else c0 * 2 ^ 32 + c1 * T * 2 ^ (16 + s1) + c2 * T * T * 2 ^ s2

/-- A signed number of units as a value. -/
def unitsVal (p : Int) (e : Int) : Val := .fin (p < 0) p.natAbs 1 e

/-- Q = RNE(w * 2^k) of R114. -/
def qOf (w : Val) (k : Int) : Nat :=
  match w with
  | .fin _ n d e => roundInt .rne n d (e + k)
  | _ => 0

/-! ### The ROM tables (R116, Table 5.2) -/

/-- U of a ROM table, negated. -/
def romU : Rom → Nat
  | .log2 => 29
  | _ => 28

/-- S1 of a ROM table. -/
def romS1 : Rom → Nat
  | .log2 => 3
  | _ => 2

/-- The function at the start of segment `k`; 256 is the end of the table (R116, R123). -/
def romValue (r : Rom) (k : Nat) : Val :=
  match r with
  | .exp2 => trueFn .exp2 (.fin false k 1 (-8))
  | .log2 => trueFn .log2 (.fin false (256 + k) 1 (-8))
  | .recip => trueFn .recip (.fin false (256 + k) 1 (-8))
  | .rsqrt =>
    if k < 128 then trueFn .rsqrt (.fin false (128 + k) 1 (-7))
    else trueFn .rsqrt (.fin false k 1 (-6))

/-- c0 of segment `k`: the value at its start, rounded to nearest in units of 2^U (R116). -/
def romC0 (r : Rom) (k : Nat) : Int :=
  match romValue r k with
  | .fin _ n d e => roundInt .rne n d (e + romU r)
  | _ => 0

/-- c1 of a segment whose values rise by `delta` units: the free value of Config, brought into what the
seam rule with S2 = 0, the width of c2 and the monotonicity of the ROM tables leave (R113, R116, R156,
R157). -/
def romC1 (r : Rom) (k : Nat) (delta : Int) : Int :=
  let w : Int := 2 ^ romS1 r
  let lo := max (min 0 (2 * delta)) (delta - 8191)
  let hi := min (max 0 (2 * delta)) (delta + 8192)
  max (-((-lo) / w)) (min (hi / w) (Config.romC1 r k))

/-- P of a ROM table at segment `k` and position `T`. -/
def romP (r : Rom) (k T : Nat) : Int :=
  let c0 := romC0 r k
  if T == 0 then c0 * 2 ^ 32
  else
    let delta := romC0 r (k + 1) - c0
    let c1 := romC1 r k delta
    polyP c0 c1 (delta - c1 * 2 ^ romS1 r) (romS1 r) 0 T

/-- p = P * 2^(U - 32) of R115. -/
def romVal (r : Rom) (k T : Nat) : Val := unitsVal (romP r k T) (-(romU r : Int) - 32)

/-- log2 e to 40 bits (R118). -/
def l2e : Val := .fin false 0xB8AA3B295C 1 (-39)

/-- ln 2 to 40 bits (R121). -/
def ln2 : Val := .fin false 0xB17217F7D2 1 (-40)

/-- The main path of a built-in function at an ordinary input, before rounding (R117 to R123). -/
def mainPath (f : Fn) (x : Val) : Val :=
  match f, x with
  | .exp2, _ | .exp, _ =>
    let y := if f == .exp then Val.mul x l2e else x
    let k := y.floor
    let q := qOf (Val.sub y (Val.ofInt k)) 24
    if q == 2 ^ 24 then Val.scale2 (k + 1) (romVal .exp2 0 0)
    else Val.scale2 k (romVal .exp2 (q / 65536) (q % 65536))
  | .log2, .fin _ n d e | .log, .fin _ n d e =>
    let k := floorLog2 n d e
    let q := qOf (Val.sub (.fin false n d (e - k)) Val.one) 24
    let r := if q == 2 ^ 24 then Val.ofInt (k + 1)
      else Val.add (Val.ofInt k) (romVal .log2 (q / 65536) (q % 65536))
    if f == .log then Val.mul r ln2 else r
  | .recip, .fin s n d e =>
    let k := floorLog2 n d e
    let q := qOf (Val.sub (.fin false n d (e - k)) Val.one) 24
    let r := if q == 2 ^ 24 then Val.scale2 (-(k + 1)) (romVal .recip 0 0)
      else Val.scale2 (-k) (romVal .recip (q / 65536) (q % 65536))
    if s then r.negate else r
  | .rsqrt, .fin _ n d e =>
    let k := floorLog2 n d e
    let q := qOf (Val.sub (.fin false n d (e - k)) Val.one) 23
    let k' := if q == 2 ^ 23 then k + 1 else k
    let q' := if q == 2 ^ 23 then 0 else q
    let b := k' % 2
    Val.scale2 (-((k' - b) / 2)) (romVal .rsqrt (b.toNat * 128 + q' / 65536) (q' % 65536))
  | _, v => v

/-- floor92 of R120. -/
def floor92 (v : Val) : Val := Val.scale2 (-92) (Val.ofInt (Val.scale2 92 v).floor)

/-- The near-one path (R120), u = x - 1. -/
def nearOne (f : Fn) (x : Val) : Val :=
  let k (c : Nat) : Val := .fin false c 1 (-24)
  let u := Val.sub x Val.one
  let s2 := Val.mul u u
  let s3 := Val.mul u s2
  let s4 := floor92 (Val.mul u s3)
  let s5 := floor92 (Val.mul u s4)
  let s6 := floor92 (Val.mul u s5)
  let s7 := floor92 (Val.mul u s6)
  let s := Val.add (Val.sub (Val.add (Val.sub (Val.add (Val.sub u (floor92 (Val.scale2 (-1) s2)))
    (floor92 (Val.mul (k 0x555555) s3))) (floor92 (Val.scale2 (-2) s4)))
    (floor92 (Val.mul (k 0x333333) s5))) (floor92 (Val.mul (k 0x2AAAAB) s6)))
    (floor92 (Val.mul (k 0x249249) s7))
  if f == .log2 then Val.mul l2e s else s

/-- Whether a value is a value of a format. -/
def isOf (f : Fmt) (v : Val) : Bool := Val.cmp (reround f v) v == .eq

/-- Rounding to 24 significant bits with an unbounded exponent (R222). -/
def round24 (v : Val) : Val :=
  match v with
  | .fin s n d e =>
    if n == 0 then v
    else
      let r := roundSig .rne 24 none n d e
      .fin s r.1 1 r.2
  | _ => v

/-- The next values toward and away from zero among the multiples of 2^q, of a finite value. -/
def steps (q : Int) (v : Val) : Val × Val :=
  match v with
  | .fin s n d e =>
    let m := floorAt q n d e
    (.fin s m 1 q, .fin s (m + 1) 1 q)
  | _ => (v, v)

/-- Between two bounds, in whichever order they come. -/
def within (a b r : Val) : Val :=
  let lo := if Val.lt b a then b else a
  let hi := if Val.lt b a then a else b
  if Val.lt r lo then lo else if Val.lt hi r then hi else r

/-- The lesser of two values. -/
def Val.least (a b : Val) : Val := if Val.lt b a then b else a

/-- How far from a value of magnitude `m`, between 2^k and 2^(k + 1), the result of a function may lie before rounding:
less than half a unit of a binary32 significand (Table 5.5). RSQRT lies nearer at the low end, so that its result in XF,
which adds at most half a unit of XF, is within 2^-24 + 2^-28 relatively (R225). -/
def errorRoom (f : Fn) (m : Val) (k : Int) : Val :=
  let half : Val := .fin false 65535 1 (k - 40)
  match f with
  | .rsqrt => half.least (Val.mul (.fin false 65535 1 (-16)) (Val.sub (Val.mul (.fin false 17 1 (-28)) m) (.fin false 1 1 (k - 27))))
  | .exp2 | .exp | .log2 | .log | .recip => half

/-- Bounds on what is rounded where the function's value is `x` (Table 5.5, R225). Both bounds rise with `x`, the lower
one also where the unit doubles, so that results keep the order of the function (R128, R159). -/
def resultRoom (f : Fn) (x : Val) : Val × Val :=
  match x with
  | .fin s n d e =>
    if n == 0 then (x, x)
    else
      let k := floorLog2 n d e
      let m := x.abs
      let h := errorRoom f m k
      let start := Val.sub (.fin false 1 1 k) (.fin false 65535 1 (k - 41))
      let lo := Val.sub m h
      let lo := if Val.lt lo start then start else lo
      let hi := Val.add m h
      if s then (hi.negate, lo.negate) else (lo, hi)
  | _ => (x, x)

/-- The value before rounding at an input of 24 significant bits: the near-one path, or the main path within the
bounds of Table 5.5 (R120, R129, R225). -/
def evalExact24 (f : Fn) (x : Val) : Val :=
  if (f == .log2 || f == .log) && Val.lt (Val.sub x Val.one).abs (.fin false 1 1 (-4)) then nearOne f x
  else
    let h := resultRoom f (trueFn f x)
    within h.1 h.2 (mainPath f x)

/-- The value before rounding at any ordinary input. An input with more bits, which Table 5.5 does not cover, keeps
its place between its neighbours of 24 bits (R128, R159). -/
def evalAnyInput (f : Fn) (x : Val) : Val :=
  if Val.cmp (round24 x) x == .eq || ((f == .log2 || f == .log) && Val.lt (Val.sub x Val.one).abs (.fin false 1 1 (-4))) then
    evalExact24 f x
  else
    match x with
    | .fin _ n d e =>
      let p := steps (floorLog2 n d e - 23) x
      within (evalExact24 f p.1) (evalExact24 f p.2) (mainPath f x)
    | _ => x

/-- A value past the largest binary16 number: it does not come back behind the function's value `edge` there, from
which the logarithms rise and the reciprocals fall in magnitude (R128, R159). -/
def beyond (f : Fn) (edge v : Val) : Val :=
  match f with
  | .recip | .rsqrt => if Val.lt edge.abs v.abs then edge else v
  | _ => if Val.lt v edge then edge else v

/-- At a 16-bit output every binary16 input gives the function's own value rounded (Table 5.5); another input keeps
its place between its binary16 neighbours. -/
def evalSixteen (f : Fn) (x : Val) : Val :=
  if isOf .b16 x then trueFn f x
  else
    match x with
    | .fin _ n d e =>
      let p := steps (max (floorLog2 n d e - 10) (-24)) x
      let top : Val := .fin false 65504 1 0
      let v := evalAnyInput f x
      if p.1.isZero then v
      else if !Val.lt x.abs top then beyond f (trueFn f (if x.neg? then top.negate else top)) v
      else within (trueFn f p.1) (trueFn f p.2) v
    | _ => x

/-- A built-in function at an ordinary input: finite, nonzero, in its domain, and for the exponentials
below the limit of R117. The value that is rounded once to the output format (R111, R124, R129). -/
def evalOrdinary (f : Fn) (o : Fmt) (x : Val) : Val :=
  if !(o.isLong || o == .fm16 || o == .xf) then trueFn f x
  else if o == .b16 || o == .fm16 then evalSixteen f x
  else evalAnyInput f x

/-- A built-in function at any input (Table 5.4), before PSH and rounding. -/
def evalBuiltin (f : Fn) (o : Fmt) (x : Val) : Val :=
  match x with
  | .nan .. => x.quiet
  | .inf s =>
    match f with
    | .exp2 | .exp => if s then Val.zero else .inf false
    | .log2 | .log => if s then Val.default else .inf false
    | .recip => .fin s 0 1 0
    | .rsqrt => if s then Val.default else Val.zero
  | .fin s n _ _ =>
    if n == 0 then
      match f with
      | .exp2 | .exp => Val.one
      | .log2 | .log => .inf true
      | .recip | .rsqrt => .inf s
    else
      match f with
      | .exp2 | .exp =>
        let y := if f == .exp then Val.mul x l2e else x
        if Val.lt y.abs (.fin false 1 1 12) then evalOrdinary f o x
        else if s then .fin false 1 1 (-8192) else .fin false 1 1 8192
      | .log2 | .log | .rsqrt => if s then Val.default else evalOrdinary f o x
      | .recip => evalOrdinary f o x

/-! ### Loaded tables (R142 to R146) -/

def Table.entry (t : Table) (k : Nat) : Int × Int × Int := t.entries.getD k (0, 0, 0)

/-- P of a loaded table at segment `k` and position `T`; T = 2^16 is t = 1. -/
def Table.polyAt (t : Table) (k T : Nat) : Int :=
  let c := t.entry k
  polyP c.1 c.2.1 c.2.2 t.s1 t.s2 T

/-- The exact result at segment `k` and position `T` (R145). -/
def Table.valAt (t : Table) (k T : Nat) : Val := unitsVal (t.polyAt k T) (t.uexp - 32)

/-- V_lo and V_hi of Table 6.2. -/
def Table.vlo (t : Table) : Val := t.valAt 0 0
def Table.vhi (t : Table) : Val := t.valAt (2 ^ t.bits - 1) 65536

/-- floor(log2) of a positive finite value. -/
def log2Floor (v : Val) : Int :=
  match v with
  | .fin _ n d e => floorLog2 n d e
  | _ => 0

/-- A tail (Table 6.2) with its slope, its domain bound and the domain's value there. -/
def tableTail (code : Nat) (slope bound edge x : Val) : Val :=
  match code with
  | 0 => edge
  | 1 => if slope.isZero then edge else Val.add edge (Val.mul slope (Val.sub x bound))
  | _ => x

/-- A loaded table at any input, before rounding (R142 to R146). In uniform mode both zeros are one input, +0. -/
def evalTable (t : Table) (x : Val) : Val :=
  let x := if t.idx == 0 && x.isZero then Val.zero else x
  let lo := decode .b32 t.dlo
  let hi := decode .b32 t.dhi
  if x.isNan then x.quiet
  else if Val.lt x lo then tableTail t.tailLo (decode .b32 t.slo) lo t.vlo x
  else if !Val.lt x hi then tableTail t.tailHi (decode .b32 t.shi) hi t.vhi x
  else if t.idx == 0 then
    let k := log2Floor (Val.sub hi lo)
    let q := qOf (Val.scale2 (-k) (Val.sub x lo)) (t.bits + 16)
    let seg := min (q / 65536) (2 ^ t.bits - 1)
    t.valAt seg (q - seg * 65536)
  else
    let a := log2Floor lo
    let j := Nat.log2 (log2Floor hi - a).toNat
    let b := t.bits - j
    let e := log2Floor x
    let q := qOf (Val.sub (Val.scale2 (-e) x) Val.one) (b + 16)
    let seg := min (q / 65536) (2 ^ b - 1)
    t.valAt ((e - a).toNat * 2 ^ b + seg) (q - seg * 65536)

/-! ### One evaluation -/

/-- The value that an evaluation rounds once: a function code of R108, the table a loaded code names,
PSH, and the effective output format. A narrow result of a built-in function takes its input rounded to
binary32 (R124); every input is taken as XF (R110). -/
def evalExact (func : Nat) (tab : Option Table) (psh : Nat) (o : Fmt) (x : Val) : Val :=
  match Fn.ofCode func with
  | some f =>
    let narrow := !(o.isLong || o == .fm16 || o == .xf)
    Val.scale2 psh (evalBuiltin f o (if narrow then reround .b32 x else x))
  | none =>
    match tab with
    | some t => evalTable t x
    | none => Val.default

/-- One evaluation: the code in the output format and what it lost (R111). -/
def evalEnc (func : Nat) (tab : Option Table) (psh : Nat) (o : Fmt) (x : Val) : Enc :=
  encodeLane o (evalExact func tab psh o x)

/-! ### Arbitration (R130 to R132) -/

/-- The kind of a request (R131): the function code, the table of the row's version where the code is that of a loaded
function, and the output format, which selects the mode (R108); `size` is G of that mode (Table 5.1). -/
structure EvalKind where
  func  : Nat
  table : Option Table
  ofmt  : Nat
  size  : Nat
  deriving DecidableEq, Repr

/-- Lanes of one grant: from lane `p` on, the requesting lanes of the first one's kind, at most G of them,
stopping at a requesting lane of another kind. `fuel` lanes are still to be looked at. -/
def arbScan (req : List (Option EvalKind)) : Nat → Nat → Option EvalKind → Nat → List Nat → List Nat
  | 0, _, _, _, acc => acc
  | fuel + 1, p, kind, room, acc =>
    match req.getD (p % 16) none with
    | none => arbScan req fuel (p + 1) kind room acc
    | some k =>
      match kind with
      | none => arbScan req fuel (p + 1) (some k) (k.size - 1) (acc ++ [p % 16])
      | some k' =>
        if k == k' && room > 0 then arbScan req fuel (p + 1) kind (room - 1) (acc ++ [p % 16])
        else acc

/-- The lanes granted and the new pointer (R131). -/
def arbLanes (req : List (Option EvalKind)) (ptr : Nat) : List Nat × Nat :=
  let ls := arbScan req 16 ptr none 0 []
  match ls.getLast? with
  | none => (ls, ptr)
  | some l => (ls, (l + 1) % 16)

/-- What a slot of an evaluator goes to (R132). -/
inductive Grant where
  | lanes (ls : List Nat)
  | xev
  | drizzle
  deriving DecidableEq, Repr

/-- The grant of one CCLK: slot `s` of the band's counter, XEVQ, the lanes' requests, whether an XEV
request waits, and the lane pointer; with the pointer afterwards (R130 to R132). -/
def arbGrant (s xevq : Nat) (req : List (Option EvalKind)) (xevWaits : Bool) (ptr : Nat) : Grant × Nat :=
  let ls := arbLanes req ptr
  if s < xevq && xevWaits then (.xev, ptr)
  else if !ls.1.isEmpty then (.lanes ls.1, ls.2)
  else if xevWaits then (.xev, ptr)
  else (.drizzle, ptr)

/-- The lanes of one evaluator are served in lane slots until none has a request left: each lane presents its requests
one after the other. How many grants that takes, and the pointer afterwards (R131). -/
def arbServe : Nat → List (List EvalKind) → Nat → Nat × Nat
  | 0, _, ptr => (0, ptr)
  | fuel + 1, lanes, ptr =>
    match arbGrant 0 0 (lanes.map List.head?) false ptr with
    | (.lanes ls, p) =>
      let r := arbServe fuel (lanes.mapIdx (fun i q => if ls.contains i then q.tail else q)) p
      (r.1 + 1, r.2)
    | _ => (0, ptr)

end Sys2Proof.Machine
end

