-- ==== Sys2Proof/Machine/Overcast.lean ====
section
/-!
DEFINITION. Overcast mode (R164 to R170): CN-3 micro-program images, their checks and their steps.
-/

namespace Sys2Proof.Machine

/-- A micro-program (Table 7.1): formats, constants and step words. -/
structure Micro where
  ifmt   : Nat
  ofmt   : Nat
  consts : List Nat
  steps  : List Nat
  deriving DecidableEq, Repr

/-- Words of four bytes. -/
def words4 : Nat → List Byte → List Nat
  | 0, _ => []
  | n + 1, bs => leNat (bs.take 4) :: words4 n (bs.drop 4)

/-- The micro-program in an image, unchecked. -/
def parseMicro (img : List Byte) : Micro :=
  let ns := leAt img 5 1
  let nc := leAt img 6 1
  { ifmt := leAt img 7 1, ofmt := leAt img 8 1,
    consts := words4 nc (img.drop 16), steps := words4 ns (img.drop (16 + 4 * nc)) }

/-- binary32 or binary16 by IFMT or OFMT. -/
def microFmt (n : Nat) : Fmt := if n == 0 then .b32 else .b16

/-- Which of A, B and C an operation reads (Table 7.4). -/
def stepReads (op : Nat) : Bool × Bool × Bool :=
  match op with
  | 0x01 | 0x05 | 0x06 | 0x07 | 0x09 | 0x0A | 0x0D => (true, false, false)
  | 0x02 | 0x03 | 0x08 | 0x0B | 0x0C => (true, true, false)
  | 0x04 => (true, true, true)
  | _ => (false, false, false)

/-- A selector is valid: used and present, or unused and 0 (Tables 7.2 and 7.3); R166 does not name an unused one that is
not 0, which is refused as a nonzero reserved field is (R12; DEDUCED, log entry 137). -/
def selOk (used : Bool) (nconst sel : Nat) : Bool :=
  if used then sel ≤ 7 || (8 ≤ sel && sel < 8 + nconst) || (0x18 ≤ sel && sel ≤ 0x1A) else sel == 0

/-- One step word's checks (R166). FIX with map 0, which R168 describes and Table 7.5 does not list, is accepted
(DESIGN CHOICE, log entry 81). -/
def stepOk (nconst : Nat) (last : Bool) (w : Nat) : Bool :=
  let op := bits w 31 27
  let r := stepReads op
  let imm := bits w 6 0
  1 ≤ op && op ≤ 0x0D && bit w 25 == last &&
    selOk r.1 nconst (bits w 21 17) && selOk r.2.1 nconst (bits w 16 12) && selOk r.2.2 nconst (bits w 11 7) &&
    (if op == 0x0D then imm ≤ 4 else imm == 0)

/-- The first bad step, from step `i` on. -/
def firstBadStep (nconst : Nat) : Nat → List Nat → Option Nat
  | _, [] => none
  | i, w :: rest => if stepOk nconst rest.isEmpty w then firstBadStep nconst (i + 1) rest else some i

/-- The checks of R166 on an image: none, or the step index of the first failure (0 for the header). -/
def checkMicro (img : List Byte) : Option Nat :=
  let ns := leAt img 5 1
  let nc := leAt img 6 1
  let head := slice img 0 4 == [0x43, 0x4E, 0x33, 0x4D] && leAt img 4 1 == 2 &&
    1 ≤ ns && ns ≤ 32 && nc ≤ 16 && img.length == 16 + 4 * nc + 4 * ns &&
    leAt img 7 1 ≤ 1 && leAt img 8 1 ≤ 1 && leAt img 9 3 == 0 &&
    leAt img 12 4 == crc32c (slice img 0 12 ++ img.drop 16)
  if !head then some 0 else firstBadStep nc 0 (parseMicro img).steps

/-! ### Running -/

/-- The registers of an element (Table 7.3). -/
structure StepRegs where
  w : List Nat            -- W0 to W7, binary32
  p : List Nat
  x : Nat
  deriving DecidableEq, Repr

def StepRegs.read (r : StepRegs) (sel : Nat) : Nat :=
  if sel ≤ 7 then r.w.getD sel 0
  else if sel < 0x18 then r.p.getD (sel - 8) 0
  else if sel == 0x18 then r.x
  else if sel == 0x1A then 0x3F800000
  else 0

/-- Rounded once to binary32. -/
def rn32 (v : Val) : Nat := (encodeLane .b32 v).code

/-- RINT: to an integer, ties to even, the sign of a zero kept. -/
def rintVal (v : Val) : Val :=
  match v with
  | .fin s n d e => .fin s (roundInt .rne n d e) 1 0
  | .inf s => .inf s
  | v => v.quiet

/-- The biased exponent and the top 7 fraction bits that a seed is read with: the operand's own fields, or those of a
subnormal after it is normalised, which below the least exponent continue it downwards. -/
def seedFields (normalise : Bool) (a : Nat) : Int × BitVec 7 :=
  let frac := bits a 22 0
  if bits a 30 23 == 0 && frac != 0 && normalise then
    let k := frac.log2
    ((k : Int) - 22, BitVec.ofNat 7 (bits (frac * 2 ^ (23 - k)) 22 16))
  else (bits a 30 23, BitVec.ofNat 7 (bits a 22 16))

/-- A seed of SEEDR or SEEDQ of a number (R167; a NaN passes by R62): the ROM word is read with the top 7 fraction bits,
and for SEEDQ the exponent's parity, so no lower fraction bit changes the seed. The ROM contents, the part of the sign
and the exponent, and whether a subnormal is normalised are the CN-3's and free values here (log entry 21). -/
def seedOf (sqrt : Bool) (a : Nat) : Nat :=
  let f := seedFields Config.seedNormalises a
  let rom := if sqrt then Config.seedQ (f.1 % 2 == 1) f.2 else Config.seedR f.2
  (Config.seedOf (bit a 31) f.1 rom).toNat

/-- FIX (Table 7.5): the map's value where X falls in one of its classes. -/
def fixMap (imm x a : Nat) : Nat :=
  let v := decode .b32 x
  let s := v.neg?
  let nan := rn32 Val.default
  let infS (s : Bool) := rn32 (.inf s)
  let zeroS (s : Bool) := rn32 (.fin s 0 1 0)
  if imm == 0 then a
  else if v.isNan then rn32 v.quiet
  else if v.isInf && s then (match imm with | 1 => 0 | 3 => zeroS true | _ => nan)
  else if v.isInf then (match imm with | 1 | 2 => infS false | _ => 0)
  else if v.isZero then
    (match imm with | 1 => 0x3F800000 | 2 => infS true | _ => infS s)
  else if s then (match imm with | 2 | 4 => nan | _ => a)
  else a

/-- The result of one step (Table 7.4). -/
def stepResult (r : StepRegs) (w : Nat) : Nat :=
  let a := r.read (bits w 21 17)
  let b := r.read (bits w 16 12)
  let c := r.read (bits w 11 7)
  let va := decode .b32 a
  let vb := decode .b32 b
  let vc := decode .b32 c
  let neg := bit w 26
  match bits w 31 27 with
  | 0x01 => a
  | 0x02 => rn32 (if neg then Val.sub va vb else Val.add va vb)
  | 0x03 => rn32 (negProduct neg (Val.mul va vb) va vb)
  | 0x04 =>
    match Val.firstNan [va, vb, vc] with
    | some v => rn32 v
    | none =>
      let p := Val.mul va vb
      rn32 (if p.isNan then p else Val.add (if neg then p.negate else p) vc)
  | 0x05 => rn32 (rintVal va)
  | 0x06 => if va.isNan then rn32 va.quiet else if va.isInf || va.isZero then 0
      else rn32 (Val.ofInt (log2OfMag va))
  | 0x07 => if va.isNan || va.isInf || va.isZero then rn32 va.quiet
      else rn32 (Val.scale2 (-(log2OfMag va)) va)
  | 0x08 => rn32 (scl2 va vb)
  | 0x09 => if va.isNan then rn32 va.quiet else seedOf false a
  | 0x0A => if va.isNan then rn32 va.quiet else seedOf true a
  | 0x0B =>
    let e := rn32 (newton (.fin false 1 1 1) vb va)
    rn32 (Val.mul va (decode .b32 e))
  | 0x0C =>
    let t := rn32 (Val.mul va va)
    let e := rn32 (newton (.fin false 3 1 (-1)) (Val.scale2 (-1) vb) (decode .b32 t))
    rn32 (Val.mul va (decode .b32 e))
  | 0x0D => fixMap (bits w 6 0) r.x a
  | _ => a
where
  log2OfMag (v : Val) : Int :=
    match v with
    | .fin _ n d e => floorLog2 n d e
    | _ => 0
  negProduct (neg : Bool) (p va vb : Val) : Val :=
    if neg && !va.isNan && !vb.isNan && !p.isNan then p.negate else p
  /-- k - b * a, exactly; a NaN operand passes. -/
  newton (k b a : Val) : Val :=
    match Val.firstNan [b, a] with
    | some v => v
    | none =>
      let p := Val.mul b a
      if p.isNan then p else Val.sub k p
  /-- A * 2^n, n = B clamped; B must hold an integer. -/
  scl2 (a b : Val) : Val :=
    match b with
    | .fin .. =>
      if !b.isInteger then Val.default
      else Val.scale2 (max (-512) (min 512 b.floor)) a
    | _ => Val.default

/-- Runs the step words in order; the END word's result is the element's. -/
def runSteps : StepRegs → List Nat → Nat
  | r, [] => r.w.getD 0 0
  | r, w :: ws =>
    let v := stepResult r w
    if bit w 25 then v
    else runSteps { r with w := r.w.set (bits w 24 22) v } ws

/-- The registers as a batch enters the step engine, with the input rounded to IFMT (R165, R169). -/
def stepStart (m : Micro) (a : Opnd) : StepRegs :=
  { w := List.replicate 8 0, p := m.consts, x := rn32 (reround (microFmt m.ifmt) a.val) }

/-- A STEP stage on one element (R169, R170). Its counts are those of the rounding to OFMT: an overflow or a flush of
the END step's own rounding to binary32 counts as one of an intermediate step, that is not at all, so with OFMT binary32
none is counted (DESIGN CHOICE, log entry 110). -/
def stepStage (m : Micro) (a : Opnd) : Enc :=
  encodeLane (microFmt m.ofmt) (decode .b32 (runSteps (stepStart m a) m.steps))

/-- Whether a NaN result of a step comes from an invalid operation, given which working registers hold such a NaN:
a NaN operand passes on what it is, in the order of R62, and the input and the constants are made by no operation. -/
def stepBorn (r : StepRegs) (born : List Bool) (w : Nat) : Bool :=
  let u := stepReads (bits w 31 27)
  let used := [(u.1, bits w 21 17), (u.2.1, bits w 16 12), (u.2.2, bits w 11 7)].filterMap
    (fun p => if p.1 then some p.2 else none)
  let nan (v : Nat) : Bool := (decode .b32 v).isNan
  if bits w 31 27 == 0x0D && nan r.x && bits w 6 0 != 0 then false
  else match used.find? (fun sel => nan (r.read sel)) with
    | some sel => if bits w 31 27 == 0x0D && stepResult r w != r.read sel then true else born.getD sel false
    | none => true

/-- Whether an invalid operation of the micro-program created its NaN result (R170, R377). -/
def runBorn : StepRegs → List Bool → List Nat → Bool
  | _, _, [] => false
  | r, born, w :: ws =>
    let b := stepBorn r born w
    if bit w 25 then b
    else runBorn { r with w := r.w.set (bits w 24 22) (stepResult r w) } (born.set (bits w 24 22) b) ws

def stepCreates (m : Micro) (a : Opnd) : Bool := runBorn (stepStart m a) (List.replicate 8 false) m.steps

end Sys2Proof.Machine
end

