-- ==== Sys2Proof/Machine/Records.lean ====
section
/-!
DEFINITION. Row records (R183 to R197, R418): keys, terms, the accumulators of the statistic unit, the
64-byte layout with its CRC, and how records combine.
-/

namespace Sys2Proof.Machine

/-! ### KIND and FLAGS (Tables 8.3 and 8.4) -/

def kMax (k : Nat) : Bool := bit k 0
def kSum (k : Nat) : Bool := bit k 1
def kAbsmax (k : Nat) : Bool := bit k 2
def kSumsq (k : Nat) : Bool := bit k 3
def kExpo (k : Nat) : Bool := bit k 4

def fZero : Nat := 1
def fPoison : Nat := 2
def fNan : Nat := 4
def fSat : Nat := 8
def fMerged : Nat := 16

/-- A FLAGS byte from its bits. -/
def flagsOf (zero poison nan sat merged : Bool) : Byte :=
  BitVec.ofNat 8 (b2n zero + 2 * b2n poison + 4 * b2n nan + 8 * b2n sat + 16 * b2n merged)

def Rec.has (r : Rec) (flag : Nat) : Bool := r.flags.toNat &&& flag != 0

/-! ### MAXKEY and E (R186, R187) -/

/-- The order-preserving key of a binary32 pattern. -/
def maxKey (b : Nat) : Nat := if bit b 31 then 0xFFFFFFFF - b else b + 2 ^ 31

/-- The binary32 pattern of a key. -/
def unKey (k : Nat) : Nat := if bit k 31 then k % 2 ^ 31 else 0xFFFFFFFF - k

/-- E of an absolute maximum (R187), as an integer. -/
def expoOf (absmax : Nat) : Int :=
  match decode .b32 absmax with
  | .inf _ => 32767
  | .fin _ n d e =>
    if n == 0 then -32768
    else
      let k := floorLog2 n d e
      if cmpMag n d e 1 1 k == .eq then k else k + 1
  | .nan .. => -32768

/-- The signed value of the E field. -/
def eInt (e : BitVec 16) : Int := e.toInt

/-! ### Terms (R189, R190) -/

/-- A term, and whether it was clamped. -/
structure Term where
  t   : Nat
  sat : Bool
  deriving DecidableEq, Repr

/-- The SUM term of v = x / 2^PSH (R189, R218); x is not a NaN. -/
def sumTerm (psh : Nat) (x : Val) : Term :=
  if x.isZero then { t := 0, sat := false }
  else if x.neg? then { t := 0, sat := true }
  else
    match x with
    | .fin _ n d e =>
      if cmpMag n d (e - psh) 1 1 0 == .gt then { t := 2 ^ 38, sat := true }
      else { t := roundInt .rne n d (e - psh + 38), sat := false }
    | _ => { t := 2 ^ 38, sat := true }

/-- The SUMSQ term of x against the reference E (R190); x is not a NaN. -/
def sumsqTerm (e : Int) (x : Val) : Term :=
  if x.isZero then { t := 0, sat := false }
  else
    match x with
    | .fin _ n d x =>
      if e == -32768 || e == 32767 || cmpMag n d x 1 1 e == .gt then { t := 2 ^ 46, sat := true }
      else { t := roundInt .rne (n * n) (d * d) (2 * x - 2 * e + 46), sat := false }
    | _ => { t := 2 ^ 46, sat := true }

/-! ### The statistic unit (R181, R188 to R194) -/

def StatAcc.start (step : Nat) : StatAcc where
  step := step
  maxkey := 0
  absmax := 0
  sum := 0
  sumsq := 0
  allZero := true
  nan := false
  sat := false
  poison := false

/-- What a STAT stage of KIND `kind` adds for one input, with the reference E and PSH of its terms. -/
def StatAcc.take (a : StatAcc) (kind psh : Nat) (refE : Int) (f : Fmt) (x : Val) : StatAcc :=
  let v := if f == .xf then reround .b32 x else x
  if v.isNan then { a with nan := true, allZero := false }
  else
    let c := (encodeLane .b32 v).code
    let s := if kSum kind then sumTerm psh v else { t := 0, sat := false }
    let q := if kSumsq kind then sumsqTerm refE v else { t := 0, sat := false }
    { a with
      maxkey := if kMax kind then max a.maxkey (maxKey c) else a.maxkey
      absmax := if kAbsmax kind then max a.absmax (c % 2 ^ 31) else a.absmax
      sum := a.sum + s.t
      sumsq := a.sumsq + q.t
      allZero := a.allZero && v.isZero
      sat := a.sat || s.sat || q.sat }

/-- The SUM term alone, of a value that is not the stage's declared input (R189, R218). -/
def StatAcc.takeSum (a : StatAcc) (psh : Nat) (v : Val) : StatAcc :=
  if v.isNan then { a with nan := true }
  else
    let s := sumTerm psh v
    { a with sum := a.sum + s.t, sat := a.sat || s.sat }

/-- An input under a poisoned reference: it is taken as a poisoned element (R212). ZERO_ROW is cleared as by a NaN,
also where the input's format has none and R194 takes a poisoned element as 0 (DESIGN CHOICE, log entry 112). -/
def StatAcc.takePoisoned (a : StatAcc) : StatAcc :=
  { a with nan := true, allZero := false, poison := true }

/-! ### The 64 bytes (Table 8.2) -/

def recBody (r : Rec) : List Byte :=
  toLe 4 r.sig.toNat ++ toLe 2 r.stream.toNat ++ [r.kind, r.flags] ++ toLe 8 r.row.toNat ++
  toLe 4 r.count.toNat ++ toLe 2 r.pass.toNat ++ [r.step, 0] ++ toLe 4 r.maxkey.toNat ++
  toLe 4 r.absmax.toNat ++ toLe 8 r.sum.toNat ++ toLe 8 r.sumsq.toNat ++ toLe 2 r.e.toNat ++ [0, 0] ++
  toLe 4 r.satuf.toNat ++ toLe 4 r.nanc.toNat

/-- A record as the block writes it to host memory, with its CRC (R185). -/
def recBytes (r : Rec) : List Byte := recBody r ++ toLe 4 (crc32c (recBody r))

/-- The record in 64 bytes. -/
def parseRec (bs : List Byte) : Rec where
  sig := BitVec.ofNat 32 (leAt bs 0 4)
  stream := BitVec.ofNat 14 (leAt bs 4 2)
  kind := BitVec.ofNat 8 (leAt bs 6 1)
  flags := BitVec.ofNat 8 (leAt bs 7 1)
  row := BitVec.ofNat 48 (leAt bs 8 8)
  count := BitVec.ofNat 32 (leAt bs 16 4)
  pass := BitVec.ofNat 16 (leAt bs 20 2)
  step := BitVec.ofNat 8 (leAt bs 22 1)
  maxkey := BitVec.ofNat 32 (leAt bs 24 4)
  absmax := BitVec.ofNat 32 (leAt bs 28 4)
  sum := BitVec.ofNat 64 (leAt bs 32 8)
  sumsq := BitVec.ofNat 64 (leAt bs 40 8)
  e := BitVec.ofNat 16 (leAt bs 48 2)
  satuf := BitVec.ofNat 32 (leAt bs 52 4)
  nanc := BitVec.ofNat 32 (leAt bs 56 4)

/-- CRC check of a record read from host memory (R185). -/
def recCrcOk (bs : List Byte) : Bool := leAt bs 60 4 == crc32c (slice bs 0 60)

/-- A slot belongs to a record's row when ROW, PASS and STEP match (R201). -/
def Rec.sameRow (a b : Rec) : Bool := a.row == b.row && a.pass == b.pass && a.step == b.step

/-! ### Merging (R195, R196) -/

/-- The reason of a mismatch between a first record and a second one (Table 8.11), 0 for none. Of several fields that
differ the first in the order of the table gives the reason (DESIGN CHOICE, log entry 139). -/
def mismatchReason (a b : Rec) : Nat :=
  if a.sig != b.sig then 1
  else if a.kind != b.kind then 2
  else if kSum a.kind.toNat && a.maxkey != b.maxkey then 3
  else if kSumsq a.kind.toNat && a.e != b.e then 4
  else 0

/-- R196. -/
def mergeRec (a b : Rec) : Rec :=
  let k := a.kind.toNat
  { a with
    maxkey := if kMax k then (if a.maxkey.toNat ≥ b.maxkey.toNat then a.maxkey else b.maxkey) else a.maxkey
    absmax := if kAbsmax k then (if a.absmax.toNat ≥ b.absmax.toNat then a.absmax else b.absmax) else a.absmax
    e := if kExpo k then (if a.e.toInt ≥ b.e.toInt then a.e else b.e) else a.e
    sum := if kSum k then a.sum + b.sum else a.sum
    sumsq := if kSumsq k then a.sumsq + b.sumsq else a.sumsq
    count := a.count + b.count
    satuf := a.satuf + b.satuf
    nanc := a.nanc + b.nanc
    flags := ((a.flags ||| b.flags) &&& 0x0E) ||| (a.flags &&& b.flags &&& 0x01) }

/-- The zero record of a merge: the identity of `mergeRec`, but for STREAM, which is 0 in it (R196, Table 8.2). -/
def zeroRec (a : Rec) : Rec :=
  let k := a.kind.toNat
  { a with
    stream := 0
    maxkey := if kSum k then a.maxkey else 0
    absmax := 0
    e := if kExpo k then 0x8000 else if kSumsq k then a.e else 0
    sum := 0
    sumsq := 0
    count := 0
    satuf := 0
    nanc := 0
    flags := 0x01 }

/-- All records of a list merged, the first one's identity kept. -/
def mergeAll : List Rec → Option Rec
  | [] => none
  | r :: rs => some (rs.foldl mergeRec r)

/-- A completed final merge (R197): MERGED set, the writer's STREAM. -/
def finalOf (sid : Nat) (r : Rec) : Rec :=
  { r with flags := r.flags ||| 0x10, stream := BitVec.ofNat 14 sid }

/-- A poisoned final record (R418): the part's own identity, STREAM and references, the counts and the NAN_SEEN
and SAT_SEEN flags of `counts`. -/
def poisonedFinal (own counts : Rec) : Rec :=
  let z := zeroRec own
  { z with
    stream := own.stream
    count := counts.count
    satuf := counts.satuf
    nanc := counts.nanc
    flags := (counts.flags &&& 0x0C) ||| 0x02 }

/-- The held record that stands for one that a HOLD_CONFLICT leaves missing (R212, R418). -/
def conflictRec (sig : Word) (sid kind row pass step : Nat) : Rec where
  sig := sig
  stream := BitVec.ofNat 14 sid
  kind := BitVec.ofNat 8 kind
  flags := 0x02
  row := BitVec.ofNat 48 row
  count := 0
  pass := BitVec.ofNat 16 pass
  step := BitVec.ofNat 8 step
  maxkey := 0
  absmax := 0
  sum := 0
  sumsq := 0
  e := 0x8000
  satuf := 0
  nanc := 0

/-- S of R219: SUM in units of 2^-38, rounded to binary32, as a value. -/
def sumValue (r : Rec) : Val := reround .b32 (.fin false r.sum.toNat 1 (-38))

end Sys2Proof.Machine
end

