-- ==== Sys2Proof/Machine/Tables.lean ====
section
/-!
DEFINITION. Table images: the header and the load-time checks of R141, Table 6.5 and R414, in their order.
-/

namespace Sys2Proof.Machine

/-- `n` bytes of what a read returned; bytes past its end read as 0 (log entry 18). -/
def padTake (bs : List Byte) (n : Nat) : List Byte :=
  bs.take n ++ List.replicate (n - bs.length) 0

/-- `w`-bit two's complement. -/
def signed (w n : Nat) : Int := if n ≥ 2 ^ (w - 1) then (n : Int) - 2 ^ w else n

/-- Why an image is refused: FORMAT (R141), or a reason of Table 6.5 with SEG and NFMT. -/
inductive TableBad where
  | format
  | check (reason seg nfmt : Nat)
  deriving DecidableEq, Repr

/-- A character of NAME (Table 6.1). -/
def nameChar (b : Byte) : Bool :=
  (0x41 ≤ b.toNat && b.toNat ≤ 0x5A) || (0x30 ≤ b.toNat && b.toNat ≤ 0x39) || b == 0x5F

/-- NAME: at least one character of the set, padded with 0x00. -/
def nameOk (bs : List Byte) : Bool :=
  let rest := bs.dropWhile nameChar
  bs.length != rest.length && rest.all (· == 0)

/-- Whether a slope field is valid for its tail (R141). -/
def slopeOk (tail code : Nat) : Bool :=
  if tail == 1 then (decode .b32 code).isNan.not && (decode .b32 code).isInf.not else code == 0

/-- An entry of eight bytes (R139). -/
def parseEntry (bs : List Byte) : Int × Int × Int :=
  let w := leNat bs
  (signed 30 (bits w 29 0), signed 20 (bits w 49 30), signed 14 (bits w 63 50))

/-- Entries from a byte list, eight bytes at a time. -/
def parseEntries : Nat → List Byte → List (Int × Int × Int)
  | 0, _ => []
  | n + 1, bs => parseEntry (bs.take 8) :: parseEntries n (bs.drop 8)

/-- The format checks of R141 on a header of 64 bytes; the table has no entries yet. -/
def parseHeader (h : List Byte) : Option Table :=
  let at1 (i : Nat) := leAt h i 1
  let tail := at1 11
  let prop := at1 12
  let shift := at1 15
  let b := at1 9
  let lo := tail % 16
  let hi := tail / 16
  let ok := at1 8 == 1 && 7 ≤ b && b ≤ 9 && at1 10 ≤ 1 && lo ≤ 2 && hi ≤ 2 &&
    prop < 8 && (bit prop 0 || !bit prop 1) && !bit shift 3 && !bit shift 7 &&
    at1 13 ≤ 3 && (at1 13 != 3 || bit prop 2) && nameOk (slice h 0 8) &&
    slopeOk lo (leAt h 24 4) && slopeOk hi (leAt h 28 4)
  if !ok then none
  else some {
    name := slice h 0 8, bits := b, idx := at1 10, tailLo := lo, tailHi := hi,
    mono := bit prop 0, dir := bit prop 1, narrow := bit prop 2, acc := at1 13,
    uexp := signed 8 (at1 14), s1 := bits shift 2 0, s2 := bits shift 6 4,
    dlo := leAt h 16 4, dhi := leAt h 20 4, slo := leAt h 24 4, shi := leAt h 28 4,
    hash := slice h 32 32, entries := [], narrows := [] }

/-- The exponent of a power of two. -/
def pow2Exp (v : Val) : Option Int :=
  match v with
  | .fin false n 1 e => if n != 0 && n == 2 ^ Nat.log2 n then some (Nat.log2 n + e) else none
  | _ => none

/-- R142 and R143. -/
def domainOk (t : Table) : Bool :=
  let lo := decode .b32 t.dlo
  let hi := decode .b32 t.dhi
  if lo.isNan || lo.isInf || hi.isNan || hi.isInf then false
  else if t.idx == 0 then Val.lt lo hi && (pow2Exp (Val.sub hi lo)).isSome
  else
    match pow2Exp lo, pow2Exp hi with
    | some a, some b =>
      let n := (b - a).toNat
      a < b && n == 2 ^ Nat.log2 n && Nat.log2 n ≤ t.bits - 4
    | _, _ => false

/-- f_k(1) in table units (R156). -/
def segEnd (t : Table) (c : Int × Int × Int) : Int := c.1 + c.2.1 * 2 ^ t.s1 + c.2.2 * 2 ^ t.s2

/-- Whether a derivative's end value has the sign that DIR declares (R157). -/
def signOk (t : Table) (d : Int) : Bool := if t.dir then d ≤ 0 else d ≥ 0

/-- The segment checks from segment `k` on: SEAM, MONO_START, MONO_END. -/
def segCheck (t : Table) : Nat → List (Int × Int × Int) → Option TableBad
  | _, [] => none
  | k, c :: rest =>
    let seam := match rest with
      | c' :: _ => segEnd t c == c'.1
      | [] => true
    let d0 := c.2.1 * 2 ^ t.s1
    let d1 := d0 + c.2.2 * 2 ^ (t.s2 + 1)
    if !seam then some (.check 0x04 k 0)
    else if t.mono && !signOk t d0 then some (.check 0x05 k 0)
    else if t.mono && !signOk t d1 then some (.check 0x06 k 0)
    else segCheck t (k + 1) rest

/-- One tail condition of R158: `inside` is the identity tail's own condition. -/
def tailOk (t : Table) (code slope : Nat) (inside : Bool) : Bool :=
  match code with
  | 1 =>
    let v := decode .b32 slope
    if t.dir then v.neg? || v.isZero else !v.neg? || v.isZero
  | 2 => !t.dir && inside
  | _ => true

/-- The rank of a value rounded once to a narrow format (R414). -/
def rankAt (f : Fmt) (v : Val) : Int := rankOf f (encodeLane f v).code

/-- The monotone pieces of segment `k` (R162): its keys are split at the vertex of its quadratic. -/
def pieces (t : Table) (k : Nat) : List (Nat × Nat) :=
  let c := t.entry k
  let a := c.2.1 * 2 ^ t.s1
  let b := 2 * (c.2.2 * 2 ^ t.s2)
  -- the vertex -a/b, in units of 2^-16, lies strictly inside (0, 65536)
  let num := if b < 0 then a * 65536 else -a * 65536
  let den := b.natAbs
  if b != 0 && num > 0 && num < 65536 * den then
    let cut := (num / den).toNat
    if cut < 65535 then [(0, cut), (cut + 1, 65535)] else [(0, 65535)]
  else [(0, 65535)]

/-- Crossings strictly inside a monotone piece [a, b] whose ends have the ranks given, by bisection: the positions
at which the rank differs from that before. -/
def crossPiece (r : Nat → Int) : Nat → Nat → Nat → Int → Int → List Nat
  | 0, _, _, _, _ => []
  | fuel + 1, a, b, ra, rb =>
    if ra == rb then []
    else if b ≤ a + 1 then [b]
    else
      let m := (a + b) / 2
      let rm := r m
      crossPiece r fuel a m ra rm ++ crossPiece r fuel m b rm rb

/-- Crossings of a segment's pieces, given the rank at the key before, with the last key's rank. -/
def crossSeg (r : Nat → Int) (before : Option Int) (ps : List (Nat × Nat)) : List Nat × Option Int :=
  ps.foldl (fun acc p =>
    let ra := r p.1
    let rb := r p.2
    let edge := match acc.2 with
      | some x => if x == ra then [] else [p.1]
      | none => []
    (acc.1 ++ edge ++ crossPiece r 17 p.1 p.2 ra rb, some rb)) ([], before)

/-- The crossings of R160, or the segment in which they pass `limit`: segments `ks` still to come, the keys found so
far, and the rank before. The keys are those of R414: a change at the table's end, key 2^(B+16), is no crossing (DESIGN
CHOICE, log entry 124). Ranks are compared, so a change between the codes of -0 and +0 is no crossing (DESIGN
CHOICE, log entry 76). -/
def crossKeys (t : Table) (f : Fmt) (limit : Nat) : List Nat → List Nat → Option Int → Except Nat (List Nat)
  | [], found, _ => .ok found
  | k :: ks, found, before =>
    let x := crossSeg (fun T => rankAt f (t.valAt k T)) before (pieces t k)
    if found.length + x.1.length > limit then .error k
    else crossKeys t f limit ks (found ++ x.1.map (fun T => 65536 * k + T)) x.2

/-- P of R115 at the start of linear segment `i`; at the table's end for the one past the last (R414). -/
def Table.linearEnd (t : Table) (i : Nat) : Int :=
  if 4 * i < 2 ^ t.bits then t.polyAt (4 * i) 0 else t.polyAt (2 ^ t.bits - 1) 65536

/-- The estimate L of R414 at position `T` of table segment `k`. -/
def estimateAt (t : Table) (k T : Nat) : Val :=
  let i := k / 4
  let p0 := t.linearEnd i
  let p1 := t.linearEnd (i + 1)
  unitsVal (p0 * 2 ^ 18 + (p1 - p0) * ((k - 4 * i) * 65536 + T : Nat)) (t.uexp - 50)

/-- Whether some key of [a, b], on which both ranks are monotone, has them more than 1 apart. -/
def estBad (r l : Nat → Int) : Nat → Nat → Nat → Bool
  | 0, a, _ => (r a - l a).natAbs > 1
  | fuel + 1, a, b =>
    if (r a - l a).natAbs > 1 || (r b - l b).natAbs > 1 then true
    else if r a == r b && l a == l b then false
    else if b ≤ a + 1 then false
    else
      let m := (a + b) / 2
      estBad r l fuel a m || estBad r l fuel m b

/-- The first segment with a key at which the estimate is more than one code position off. -/
def estFail (t : Table) (f : Fmt) : List Nat → Option Nat
  | [] => none
  | k :: ks =>
    if (pieces t k).any (fun p =>
        estBad (fun T => rankAt f (t.valAt k T)) (fun T => rankAt f (estimateAt t k T)) 17 p.1 p.2) then some k
    else estFail t f ks

/-- The narrow derivation in one format: the array, or the segment of its first failure (R160 to R162, R414). -/
def narrowArray (t : Table) (f : Fmt) : Except Nat Narrow :=
  let ks := List.range (2 ^ t.bits)
  match crossKeys t f (256 * 2 ^ (t.bits - 7)) ks [] none, estFail t f ks with
  | .error a, some b => .error (min a b)
  | .error a, none => .error a
  | .ok _, some b => .error b
  | .ok keys, none => .ok { ends := (List.range (2 ^ (t.bits - 2) + 1)).map t.linearEnd, crossings := keys }

/-- The narrow derivations in the order FM8, LN8, LN4; NFMT is the format's code. -/
def narrowArrays (t : Table) : List (Fmt × Nat) → Except TableBad (List Narrow)
  | [] => .ok []
  | (f, nfmt) :: fs =>
    match narrowArray t f with
    | .error k => .error (.check 0x08 k nfmt)
    | .ok n => (narrowArrays t fs).map (fun ns => n :: ns)

/-- The image's checks after its header (Table 6.5, in table order): the table with its narrow arrays. -/
def tableChecks (t : Table) (named : Nat) (img : List Byte) : Except TableBad Table :=
  if named != 64 + 8 * 2 ^ t.bits then .error (.check 0x01 0 0)
  else if sha256 (slice img 0 32 ++ img.drop 64) != t.hash then .error (.check 0x02 0 0)
  else if !domainOk t then .error (.check 0x03 0 0)
  else
    match segCheck t 0 t.entries with
    | some bad => .error bad
    | none =>
      if t.mono && !tailOk t t.tailLo t.slo (Val.le (decode .b32 t.dlo) t.vlo) then .error (.check 0x07 0 0)
      else if t.mono && !tailOk t t.tailHi t.shi (Val.le t.vhi (decode .b32 t.dhi)) then
        .error (.check 0x07 (2 ^ t.bits - 1) 0)
      else if t.narrow then
        (narrowArrays t [(.fm8, 3), (.ln8, 4), (.ln4, 5)]).map (fun ns => { t with narrows := ns })
      else .ok t

/-- Steps 3 and 4 of R151 on an image of the length named: the table, or why it is refused. -/
def checkImage (named : Nat) (data : List Byte) : Except TableBad Table :=
  if named < 64 then .error (.check 0x01 0 0)
  else
    match parseHeader (padTake data 64) with
    | none => .error .format
    | some h =>
      let size := 64 + 8 * 2 ^ h.bits
      let img := padTake data size
      tableChecks { h with entries := parseEntries (2 ^ h.bits) (img.drop 64) } named img

/-- Slots a table occupies (R148). -/
def Table.nslots (t : Table) : Nat := 2 ^ (t.bits - 7)

end Sys2Proof.Machine
end

