-- ==== Sys2Proof/Machine/Chains.lean ====
section
/-!
DEFINITION. Chain descriptors (R230 to R259): parsing, the checks of LOAD_CHAIN in the order of R252,
the signature, costs, staging units and the beat interval.
-/

namespace Sys2Proof.Machine

/-! ### Stage words (Tables 10.2 and 10.4) -/

def opScale : Nat := 1
def opBias : Nat := 2
def opEval : Nat := 3
def opMul : Nat := 4
def opAdd : Nat := 5
def opClip : Nat := 6
def opStat : Nat := 7
def opApply : Nat := 8
def opMerge : Nat := 9
def opConvert : Nat := 10
def opTranspose : Nat := 11
def opGather : Nat := 12
def opStep : Nat := 13
def opStore : Nat := 14
def opPsum : Nat := 15

namespace Stage
def func (s : Stage) : Nat := bits s.param 7 0
def psh (s : Stage) : Nat := bits s.param 11 8
def spliteq (s : Stage) : Bool := bit s.param 12
def splf (s : Stage) : Nat := bits s.param 17 13
def kind (s : Stage) : Nat := bits s.param 7 0
def sumw (s : Stage) : Bool := bit s.param 8
def ref (s : Stage) : Nat := bits s.param 12 9
def mulOp (s : Stage) : Nat := bits s.param 1 0
def addOp (s : Stage) : Nat := bits s.param 2 0
def aop (s : Stage) : Nat := bits s.param 1 0
def astat (s : Stage) : Nat := bits s.param 5 2
def mlay (s : Stage) : Nat := bits s.param 1 0
def mstat (s : Stage) : Nat := bits s.param 5 2
def gwin (s : Stage) : Nat := bits s.param 3 0
def pmode (s : Stage) : Bool := bit s.param 0
/-- A STAT stage whose terms need a reference record (R189, R190). -/
def needsRef (s : Stage) : Bool := s.op == opStat && (kSum s.kind || kSumsq s.kind)
end Stage

/-- A stage word of 16 bytes (R232). -/
def parseStage (bs : List Byte) : Stage :=
  let w := leAt bs 0 4
  { op := bits w 4 0, pass := bits w 6 5, opfD := bits w 12 8, sa := bits w 15 13, sb := bits w 18 16,
    sc := bits w 21 19, srcstg := bits w 25 22, resv := bit w 7 || bits w 31 26 != 0,
    param := leAt bs 4 4, k0 := leAt bs 8 2, k1 := leAt bs 10 2, k2 := leAt bs 12 2, k3 := leAt bs 14 2 }

def parseStages : Nat → List Byte → List Stage
  | 0, _ => []
  | n + 1, bs => parseStage (bs.take 16) :: parseStages n (bs.drop 16)

def Chain.pinOpf (c : Chain) (pass : Nat) : Nat := c.pin.getD (pass - 1) 0 % 32
def Chain.pair (c : Chain) (pass : Nat) : Bool := bit (c.pin.getD (pass - 1) 0) 5
/-- No stage. -/
def Stage.blank : Stage where
  op := 0
  pass := 0
  opfD := 0
  sa := 0
  sb := 0
  sc := 0
  srcstg := 0
  resv := false
  param := 0
  k0 := 0xFFFF
  k1 := 0xFFFF
  k2 := 0xFFFF
  k3 := 0xFFFF

def Chain.stage (c : Chain) (k : Nat) : Stage := c.stages.getD k Stage.blank

/-- The stages of a pass with their indices. -/
def Chain.inPass (c : Chain) (p : Nat) : List (Nat × Stage) :=
  (c.stages.zipIdx.filter (fun x => x.1.pass == p)).map (fun x => (x.2, x.1))

/-- Elements per beat (R231). -/
def Chain.beatElems (c : Chain) (p : Nat) : Nat :=
  16384 / ((fmtOf (c.pinOpf p)).width * (if c.pair p then 2 else 1))

/-- The stage before, if it is of the same pass. -/
def Chain.prev (c : Chain) (k : Nat) : Option Nat :=
  if k > 0 && (c.stage (k - 1)).pass == (c.stage k).pass then some (k - 1) else none

/-- How many of SA, SB, SC an operation reads (Table 10.4). -/
def Stage.operands (s : Stage) : Nat :=
  if s.op == opMerge || s.op == opTranspose || s.op == opGather then 0
  else if s.op == opMul then (match s.mulOp with | 1 => 3 | 3 => 1 | _ => 2)
  else if s.op == opAdd then (if s.addOp == 4 || s.addOp == 5 then 1 else 2)
  else if s.op == opPsum then 2
  else 1

/-- The selectors an operation reads. -/
def Stage.sels (s : Stage) : List Nat := [s.sa, s.sb, s.sc].take s.operands

/-- Stages whose results stage `k` takes (R233); the operations without operands pass PREV on. -/
def Chain.deps (c : Chain) (k : Nat) : List Nat :=
  let s := c.stage k
  let sels := if s.operands == 0 then [0] else s.sels
  sels.filterMap (fun v => if v == 0 then c.prev k else if v == 6 then some s.srcstg else none)

/-- The OPF of what a selector of stage `k` names (Table 10.3); a statistic counts as binary32. -/
def Chain.selOpf (c : Chain) (k sel : Nat) : Nat :=
  let s := c.stage k
  match sel with
  | 0 => match c.prev k with
    | some j => (c.stage j).opfD
    | none => c.pinOpf s.pass
  | 1 | 2 => c.pinOpf s.pass
  | 3 | 4 => objFmt c.consts s.k0
  | 6 => (c.stage s.srcstg).opfD
  | _ => 0

/-- A MUL fused into the EVAL before it (R241). -/
def Chain.fused (c : Chain) (k : Nat) : Bool :=
  let s := c.stage k
  if s.op == opMul && s.mulOp == 0 && s.sa == 0 then
    match c.prev k with
    | none => false
    | some j =>
      let e := c.stage j
      e.op == opEval && e.opfD == 8 && c.selOpf k s.sb != 8 &&
        !(List.range c.stages.length).any (fun i => i != k && (c.deps i).contains j)
  else false

/-- The EVAL stage whose results stage `k` takes, if it is one. A stage between them that passes results through, STAT or
STORE, hides it: PSH is then 0, and SUMW finds no EVAL (R218; DESIGN CHOICE, log entry 97). -/
def Chain.evalOf (c : Chain) (k : Nat) : Option Nat :=
  let s := c.stage k
  let src := if s.sa == 0 then c.prev k else if s.sa == 6 then some s.srcstg else none
  src.filter (fun j => (c.stage j).op == opEval)

/-- PSH of the EVAL stage whose results a SUM stage takes (R236). -/
def Chain.pshOf (c : Chain) (k : Nat) : Nat :=
  match c.evalOf k with
  | some j => (c.stage j).psh
  | none => 0

/-! ### The signature (R184) -/

/-- Stage words with every loadable function code replaced by 0x00. -/
def zeroFunc : Nat → List Byte → List Byte
  | 0, _ => []
  | n + 1, bs =>
    let w := bs.take 16
    let s := parseStage w
    let w' := if s.op == opEval && 0x10 ≤ s.func && s.func ≤ 0x13 then w.set 4 0 else w
    w' ++ zeroFunc n (bs.drop 16)

/-- The first slots of the loaded tables the chain names, in stage order: a table that two EVAL stages name stands here
twice, and its HASH enters SIG for each of them (R184; DESIGN CHOICE, log entry 86). -/
def Chain.slotsNamed (c : Chain) : List Nat :=
  c.stages.filterMap (fun s =>
    if s.op == opEval && 0x10 ≤ s.func && s.func ≤ 0x13 then some (s.func - 0x10) else none)

/-- SIG of a descriptor whose tables have the given hashes. -/
def chainSig (nstg : Nat) (header consts : List Byte) (hashes : List (List Byte)) : Word :=
  BitVec.ofNat 32 (leAt (sha256 (header.take 32 ++ zeroFunc nstg (header.drop 32) ++ consts ++
    hashes.flatten)) 0 4)

/-! ### FORMAT refusals (R253, Table 10.10) -/

def fHeader : Nat := 0x01
def fOp : Nat := 0x02
def fPass : Nat := 0x03
def fOpfD : Nat := 0x04
def fSource : Nat := 0x05
def fConst : Nat := 0x06
def fEval : Nat := 0x07
def fStat : Nat := 0x08
def fMerge : Nat := 0x09
def fApply : Nat := 0x0A
def fConvert : Nat := 0x0B
def fPmode : Nat := 0x0C
def fStep : Nat := 0x0D
def fScaleMatch : Nat := 0x0E
def fEgress : Nat := 0x0F
def fCost : Nat := 0x10

/-- FIELD, STAGE, SUB and STEPIDX of R253. -/
def badChain (field stage sub stepidx : Nat) : Refuse :=
  .format [field + stage * 2 ^ 8 + sub * 2 ^ 12 + stepidx * 2 ^ 16]

/-- Step 2 of R252: the header and the length (R230, R231). -/
def headerOk (h : List Byte) (len : Nat) : Bool :=
  let at1 (i : Nat) := leAt h i 1
  let nstg := at1 1
  let npass := at1 2
  let cfl := at1 3
  let clen := leAt h 8 4
  let rmax := leAt h 12 4
  let pinOk (p : Nat) :=
    let v := at1 (3 + p)
    if p > npass then v == 0
    else v / 64 == 0 && (Fmt.ofOpf (v % 32)).isSome && v % 32 != 8
  let holdOk := !bit cfl 1 || (npass ≥ 2 && at1 5 == at1 4 && (npass < 3 || at1 6 == at1 4))
  at1 0 == 1 && 1 ≤ nstg && nstg ≤ 12 && 1 ≤ npass && npass ≤ 3 && cfl < 4 && at1 7 == 0 &&
    leAt h 22 10 == 0 && clen % 8 == 0 && clen ≤ 131072 && 1 ≤ rmax && rmax ≤ 2 ^ 24 &&
    pinOk 1 && pinOk 2 && pinOk 3 && holdOk && len == 32 + 16 * nstg + clen

/-- The chain in a descriptor whose header is in order; no version number and no signature yet. -/
def parseChain (id : Nat) (desc : List Byte) : Chain :=
  let nstg := leAt desc 1 1
  let n := 32 + 16 * nstg
  { id := id, ver := 0, nstg := nstg, npass := leAt desc 2 1,
    zcoff := bit (leAt desc 3 1) 0, holdok := bit (leAt desc 3 1) 1,
    pin := [leAt desc 4 1, leAt desc 5 1, leAt desc 6 1], rmax := leAt desc 12 4,
    cost := [leAt desc 16 2, leAt desc 18 2, leAt desc 20 2],
    stages := parseStages nstg (desc.drop 32), consts := desc.drop n, header := desc.take n, sig := 0 }

/-! ### Step 4: common fields -/

/-- Whether an OPF field names a format at all (R38). -/
def opfOk (o : Nat) : Bool := (Fmt.ofOpf o).isSome

/-- One selector is valid in its stage (Table 10.3). -/
def selValid (c : Chain) (k sel : Nat) : Bool :=
  let s := c.stage k
  match sel with
  | 2 => c.pair s.pass
  | 5 => s.op == opApply
  | 6 => s.srcstg < k && (c.stage s.srcstg).pass == s.pass
  | 7 => false
  | _ => true

/-- SA, SB, SC and SRCSTG (R232, R233). -/
def sourcesOk (c : Chain) (k : Nat) : Bool :=
  let s := c.stage k
  s.sels.all (selValid c k) && ([s.sa, s.sb, s.sc].drop s.operands).all (· == 0) &&
    (s.srcstg == 0 || s.sels.contains 6)

/-- PASS of stage `k` (R234): the passes start at 1 and none is left out. -/
def passOk (c : Chain) (k : Nat) : Bool :=
  let p := (c.stage k).pass
  if k == 0 then p == 1
  else
    let q := (c.stage (k - 1)).pass
    q ≤ p && p ≤ q + 1 && p ≤ c.npass

/-- Whether an operation permits its OPF_D (R38, R98, R235, Table 4.1). The OPF_D of a CONVERT is its
OPF_T, and the integers of an EVAL are judged under EVAL. -/
def opfDOk (c : Chain) (k : Nat) : Bool :=
  let s := c.stage k
  let o := s.opfD
  let divLike := (s.op == opMul && s.mulOp ≥ 2) || (s.op == opApply && s.aop == 1)
  let passes := s.op == opStat || s.op == opMerge || s.op == opStore || s.op == opTranspose || s.op == opGather
  let termOk := !(s.op == opStat && (kSumsq s.kind || kSum s.kind)) || !(fmtOf o).isInt
  opfOk o &&
    (o != 8 || !(s.op == opStore || s.op == opTranspose || s.op == opGather)) &&
    (!divLike || o ≤ 1) && (s.op != opPsum || o == 0 || o == 8) && termOk &&
    (!passes || o == c.selOpf k (if s.operands == 0 then 0 else s.sa))

/-- XF as an operand of DIV, SQRT or PSUM (Table 4.1). -/
def xfOperandOk (c : Chain) (k : Nat) : Bool :=
  let s := c.stage k
  let bars := (s.op == opMul && s.mulOp ≥ 2) || (s.op == opApply && s.aop == 1) || s.op == opPsum
  !bars || s.sels.all (fun v => c.selOpf k v != 8)

/-- The common fields of a stage. A selector that the stage does not use must be 0 (Table 10.2), and one that is not is
refused with FIELD SOURCE: Table 10.10 names no field for it (R253; DESIGN CHOICE, log entry 101). Of several fields that
fail the first of this list answers, since R252 does not order them (DESIGN CHOICE, log entry 130). -/
def commonCheck (c : Chain) (k : Nat) : Option Refuse :=
  let s := c.stage k
  firstRefuse [
    need (1 ≤ s.op && s.op ≤ 15) (badChain fOp k 0 0),
    need (passOk c k) (badChain fPass k 0 0),
    need (!s.resv) (badChain fOp k 0 0),
    need (s.op != opConvert || (opfOk s.opfD && s.opfD != 8)) (badChain fConvert k 0 0),
    need (sourcesOk c k) (badChain fSource k 0 0),
    need (s.op == opConvert || opfDOk c k) (badChain fOpfD k 0 0),
    need (xfOperandOk c k) (badChain fSource k 0 0)]

/-! ### Step 4: PARAM -/

/-- Largest magnitude 2^PSH may have (R216). -/
def pshLimit (o : Nat) : Nat :=
  match fmtOf o with
  | .fm8 => 7
  | .ln8 | .ln4 => 0
  | _ => 15

/-- EVAL by R109, R216 and R242, against the slot states of the moment. -/
def evalCheck (slots : Vector Slot 4) (s : Stage) : Bool :=
  let eff := if s.spliteq then s.splf else s.opfD
  let f := fmtOf eff
  let narrow := f == .fm8 || f == .ln8 || f == .ln4
  let codeOk :=
    if 1 ≤ s.func && s.func ≤ 6 then true
    else if 0x10 ≤ s.func && s.func ≤ 0x13 then
      let i := s.func - 0x10
      match slots.toList.drop i with
      | sl :: _ => sl.state == .loaded && sl.first == i &&
          (match sl.table with
            | some t => t.narrow || !narrow
            | none => false)
      | [] => false
    else false
  s.param < 2 ^ 18 && codeOk && !(fmtOf s.opfD).isInt &&
    (if s.spliteq then s.opfD == 8 && s.splf ≤ 5 else s.splf == 0) &&
    (s.psh == 0 || s.func == 1 || s.func == 2) && s.psh ≤ pshLimit eff

/-- Exclusions of Table 8.3 and the reserved bits of a STAT PARAM. -/
def statCheck (s : Stage) : Bool :=
  let k := s.kind
  s.param < 2 ^ 13 && k < 32 && !(kMax k && kSum k) && !(kSumsq k && kExpo k) && (!kExpo k || kAbsmax k) &&
    (!s.sumw || kSum k) && (s.ref == 0 || kSum k || kSumsq k)

/-- SUB of the first field of a CONVERT PARAM that R73 refuses. -/
def convertParamBad (s : Stage) : Option Nat :=
  let long := s.opfD ≤ 1
  let bad : List (Bool × Nat) := [
    (s.ovf == 3 || (s.ovf == 2 && !long), 1), (s.rnd && long, 2), (s.scin == 3, 3), (s.scch == 3, 4),
    (s.biasK == 3, 5), (s.imf2 == 3, 6), (s.imf3 == 3, 7),
    (s.scout == 3 || (s.scout != 0 && long), 9), (s.outl ≥ 5 || (s.outl != 0 && s.scout == 0), 11),
    (s.dest == 3, 12), (bits s.param 31 22 != 0, 14)]
  (bad.find? (·.1)).map (·.2)

/-- Whether an earlier stage of the pass is a CONVERT. -/
def convertBefore (c : Chain) (k : Nat) : Option Stage :=
  (c.inPass (c.stage k).pass).findSome? (fun x => if x.1 < k && x.2.op == opConvert then some x.2 else none)

/-- TRANSPOSE and GATHER (Table 10.10, R246, R249): last in the pass, after its CONVERT with DEST = 0. -/
def egressOk (c : Chain) (k : Nat) : Bool :=
  let s := c.stage k
  let last := k + 1 ≥ c.stages.length || (c.stage (k + 1)).pass != s.pass
  let paramOk := if s.op == opTranspose then s.param == 0 else s.param ≤ 12
  match convertBefore c k with
  | none => false
  | some v => last && paramOk && v.dest == 0 &&
      (s.op != opTranspose || ((fmtOf s.opfD).width ≤ 16 && v.outl == 0))

/-- PARAM of a stage. No field of a second CONVERT in a pass has failed, and its refusal carries SUB 0 (R253; DESIGN
CHOICE, log entry 87). -/
def paramCheck (slots : Vector Slot 4) (c : Chain) (k : Nat) : Option Refuse :=
  let s := c.stage k
  if s.op == opEval then need (evalCheck slots s) (badChain fEval k 0 0)
  else if s.op == opMul then need (s.param < 4) (badChain fOp k 0 0)
  else if s.op == opAdd then need (s.param < 6) (badChain fOp k 0 0)
  else if s.op == opStat then need (statCheck s) (badChain fStat k 0 0)
  else if s.op == opApply then need (s.param < 64 && s.aop != 3) (badChain fApply k 0 0)
  else if s.op == opMerge then
    let t := c.stage s.mstat
    need (s.param < 64 && !(s.mlay == 2 && s.mstat < c.stages.length && t.op == opStat &&
      (kMax t.kind || kAbsmax t.kind || kExpo t.kind))) (badChain fMerge k 0 0)
  else if s.op == opConvert then
    match convertParamBad s with
    | some sub => some (badChain fConvert k sub 0)
    | none => need (convertBefore c k).isNone (badChain fConvert k 0 0)
  else if s.op == opTranspose || s.op == opGather then need (egressOk c k) (badChain fEgress k 0 0)
  else if s.op == opStep then need (s.param == 0) (badChain fStep k 0 0)
  else if s.op == opPsum then
    let a := c.selOpf k s.sa
    let b := c.selOpf k s.sb
    need (s.param < 2 && (!s.pmode || (a != 0 && b != 0 && psumSpan (fmtOf a) (fmtOf b) ≤ 123)))
      (badChain fPmode k 0 0)
  else need (s.param == 0) (badChain fOp k 0 0)

/-! ### Step 4: constants -/

/-- Bytes of an object's entries with their padding. -/
def objBytes (cs : List Byte) (k : Nat) : Nat :=
  ceilDiv (objCount cs k * (fmtOf (objFmt cs k)).width) 64 * 8

/-- A valid constant object wholly inside the area (R238): its FMT byte is an OPF code, so bits [7:5] are 0 (R37). The
padding behind its entries may hold anything (DESIGN CHOICE, log entry 140). -/
def objOk (cs : List Byte) (k : Nat) : Bool :=
  k != 0xFFFF && 8 * k + 8 ≤ cs.length && 1 ≤ objCount cs k && objFmt cs k < 32 && opfOk (objFmt cs k) && objFmt cs k != 8 &&
    leAt cs (8 * k + 5) 3 == 0 && 8 * k + 8 + objBytes cs k ≤ cs.length

/-- An object of a wanted COUNT (0: any) and FMT (none: any). -/
def objIs (cs : List Byte) (k count : Nat) (fmts : List Nat) : Bool :=
  objOk cs k && (count == 0 || objCount cs k == count) && (fmts.isEmpty || fmts.contains (objFmt cs k))

/-- Every entry of an object meets a test. -/
def objAll (cs : List Byte) (k : Nat) (ok : Nat → Bool) : Bool :=
  (List.range (objCount cs k)).all (fun i => ok (objEntry cs k i))

/-- LO and HI (or limits) in order: neither a NaN, the first not above the second (R73, R240). For LO and HI R73 says so
itself; of the output scale limits R240 refuses a lower one above the upper, and says nothing of a NaN: that a NaN among
them is refused as well is the model's (DESIGN CHOICE, log entry 113). -/
def limitsOk (cs : List Byte) (k : Nat) : Bool :=
  let a := (objOpnd cs k 0).val
  let b := (objOpnd cs k 1).val
  !a.isNan && !b.isNan && Val.le a b

/-- The constants of a CONVERT stage. -/
def convertConsts (c : Chain) (k : Nat) : Option Refuse :=
  let s := c.stage k
  let cs := c.consts
  let bad (sub : Nat) := badChain fConvert k sub 0
  let noObj := badChain fConst k 0 0
  firstRefuse [
    need (s.scch == 0 || objIs cs s.k0 0 (if s.scch == 1 then [6] else [1])) noObj,
    need (s.scch == 0 || objAll cs s.k0 (fun e => (rowScale s.scch e).isSome)) (bad 4),
    need (s.biasK == 0 || objIs cs s.k1 0 (if s.biasK == 1 then [0] else [1])) noObj,
    need (!s.clip || objIs cs s.k2 2 [0]) noObj,
    need (!s.clip || limitsOk cs s.k2) (bad 8),
    need (s.scout == 0 || s.k3 == 0xFFFF || objIs cs s.k3 2 (if s.scout == 1 then [6] else [1])) noObj,
    need (s.scout == 0 || s.k3 == 0xFFFF || limitsOk cs s.k3) (bad 13)]

/-- The micro-program image of a STEP stage: the entries of its object. -/
def stepImage (cs : List Byte) (k : Nat) : List Byte := slice cs (8 * k + 8) (objCount cs k)

/-- The constants of a STEP stage (R164, R166). -/
def stepConsts (c : Chain) (k : Nat) : Option Refuse :=
  let s := c.stage k
  if !objIs c.consts s.k0 0 [6] then some (badChain fConst k 0 0)
  else
    let img := stepImage c.consts s.k0
    match checkMicro img with
    | some i => some (badChain fStep k 0 i)
    | none =>
      if c.selOpf k s.sa == 8 then some (badChain fStep k 0 0)
      else need (s.opfD == (parseMicro img).ofmt) (badChain fOpfD k 0 0)

/-- Every reference of a stage, also one that its operation does not read, is none or points to a constant object
(R232, R238). -/
def refsOk (c : Chain) (k : Nat) : Bool :=
  let s := c.stage k
  [s.k0, s.k1, s.k2, s.k3].all (fun r => r == 0xFFFF || objOk c.consts r)

/-- Constant references and objects of a stage. An eps of -0 is not negative, of which R222 does not speak (DESIGN CHOICE,
log entry 127). -/
def constCheck (c : Chain) (k : Nat) : Option Refuse :=
  let s := c.stage k
  let cs := c.consts
  let noObj := badChain fConst k 0 0
  let sel := firstRefuse [
    need (refsOk c k) noObj,
    need (!s.sels.contains 3 || objIs cs s.k0 1 []) noObj,
    need (!s.sels.contains 4 || objOk cs s.k0) noObj]
  match sel with
  | some r => some r
  | none =>
    if s.op == opScale || s.op == opBias then need (objOk cs s.k0) noObj
    else if s.op == opClip then need (objIs cs s.k0 2 [0]) noObj
    else if s.op == opApply && s.aop == 2 then
      let finite (f : Fmt) (e : Nat) := !(decode f e).isNan && !(decode f e).isInf
      let eps := (objOpnd cs s.k1 0).val
      firstRefuse [
        need (objIs cs s.k0 0 [0, 1] && objIs cs s.k1 1 [0]) noObj,
        need (finite .b32 (objEntry cs s.k1 0) && (!eps.neg? || eps.isZero) &&
          objAll cs s.k0 (finite (fmtOf (objFmt cs s.k0)))) (badChain fApply k 0 0)]
    else if s.op == opConvert then convertConsts c k
    else if s.op == opStep then stepConsts c k
    else none

/-! ### R215 -/

/-- The SCALE stage whose result stage `k` takes. -/
def Chain.scaleOf (c : Chain) (k : Nat) : Option Nat :=
  let s := c.stage k
  let src := if s.sa == 0 then c.prev k else if s.sa == 6 then some s.srcstg else none
  src.filter (fun j => (c.stage j).op == opScale)

/-- Stage `k` takes its source from the pass's input as it is. -/
def Chain.fromInput (c : Chain) (k : Nat) : Bool :=
  let s := c.stage k
  s.sa == 1 || (s.sa == 0 && (c.prev k).isNone)

/-- APPLY of a maximum: the scores it takes are scaled as those of the maximum were, by one SC and in one SFMT, or
both are not (R215). -/
def scaleMatch (c : Chain) (k : Nat) : Option Refuse :=
  let s := c.stage k
  if s.op == opApply && s.aop == 0 && s.astat < k then
    match c.scaleOf s.astat, c.scaleOf k with
    | some a, some b =>
      let x := c.stage a
      let y := c.stage b
      let obj (r : Nat) := slice c.consts (8 * r) (8 + objBytes c.consts r)
      need (x.opfD == y.opfD && obj x.k0 == obj y.k0) (badChain fScaleMatch b 0 0)
    | some a, none => need (!c.fromInput k) (badChain fScaleMatch a 0 0)
    | none, some b => need (!c.fromInput s.astat) (badChain fScaleMatch b 0 0)
    | none, none => none
  else none

/-- Step 4 for the stages `ks`. No stage word is at fault where the last pass has no stage: STAGE is that of the header,
which holds NPASS (R253; DESIGN CHOICE, log entry 87). -/
def stagesCheck (slots : Vector Slot 4) (c : Chain) : List Nat → Option Refuse
  | [] => need ((c.stage (c.stages.length - 1)).pass == c.npass) (badChain fPass 0xF 0 0)
  | k :: ks =>
    match firstRefuse [commonCheck c k, paramCheck slots c k, constCheck c k, scaleMatch c k] with
    | some r => some r
    | none => stagesCheck slots c ks

/-! ### Step 5: statistic order (R254) -/

def badOrder (reason stage ref : Nat) : Refuse :=
  { status := stStatOrder, words := [reason + stage * 2 ^ 8 + ref * 2 ^ 12] }

/-- The statistic that an APPLY or a reference needs of the stage it names. -/
def Stage.hasStat (user t : Stage) : Bool :=
  if user.op == opApply then
    (match user.aop with | 0 => kMax t.kind | 1 => kSum t.kind | _ => kSumsq t.kind)
  else (!kSum user.kind || kMax t.kind) && (!kSumsq user.kind || kExpo t.kind)

/-- The check of one stage. A STAT that a SUM or SUMSQ refers to and that lacks MAX or EXPO is REFERENCE; NOT_STAT
is left for an APPLY, and for a stage that is no STAT (DEDUCED, log entry 54). -/
def orderCheck (c : Chain) (k : Nat) : Option Refuse :=
  let s := c.stage k
  let n := c.stages.length
  if s.op == opApply || s.needsRef then
    let r := if s.op == opApply then s.astat else s.ref
    let t := c.stage r
    if r < n && t.op == opStat && t.pass ≥ s.pass then some (badOrder 1 k r)
    else if r ≥ n || t.op != opStat then some (badOrder 2 k r)
    else if !s.hasStat t then some (badOrder (if s.op == opApply then 2 else 3) k r)
    else none
  else if s.op == opMerge then
    let r := s.mstat
    let twice := (List.range k).any (fun j => (c.stage j).op == opMerge && (c.stage j).mstat == r)
    if r ≥ n || (c.stage r).op != opStat then some (badOrder 2 k r)
    else if r > k || twice then some (badOrder 4 k r)
    else none
  else none

/-! ### Costs (R92 to R95, Tables 4.2 and 10.4) -/

/-- Width of an operand in an operation (R93); `prod` in a product without an addend. -/
def opWidth (o : Nat) (prod : Bool) : Nat :=
  match fmtOf o with
  | .xf => 32
  | .ln4 | .iq4 _ => if prod then 4 else 8
  | f => f.width

/-- Lane cycles per element in eighths, by the widest operand (Table 4.2). -/
def laneEighths (os : List Nat) (prod : Bool) : Nat :=
  match (os.map (fun o => opWidth o prod)).foldl max 0 with
  | 4 => 1
  | 8 => 2
  | 16 => 4
  | _ => 8

/-- Lane cycles per element of a stage, in eighths (Table 10.4). -/
def Chain.laneCost (c : Chain) (k : Nat) : Nat :=
  let s := c.stage k
  let a := c.selOpf k s.sa
  if s.op == opScale then laneEighths [a, objFmt c.consts s.k0] true
  else if s.op == opBias then laneEighths [a, objFmt c.consts s.k0] false
  else if s.op == opMul then
    if s.mulOp ≥ 2 then 48
    else if c.fused k then 0
    else laneEighths (s.sels.map (c.selOpf k)) (s.mulOp == 0)
  else if s.op == opAdd then laneEighths (s.sels.map (c.selOpf k)) false
  else if s.op == opClip then laneEighths [a, 0] false
  else if s.op == opStat then
    let term (o : Nat) := if opWidth o false ≤ 16 then 4 else 8
    (if kSum s.kind then (if s.sumw then 8 else term a) else 0) + (if kSumsq s.kind then term a else 0)
  else if s.op == opApply then
    (match s.aop with | 0 => laneEighths [a] false | 1 => 48 | _ => 8)
  else if s.op == opConvert then
    if isIdentity s a then 0
    else if s.scout != 0 then
      let h := if s.holdf == .b16 then 1 else 0
      laneEighths [a, h] false + laneEighths [h, s.opfD] false
    else laneEighths [a, s.opfD] false
  else if s.op == opPsum then laneEighths [a, c.selOpf k s.sb] true
  else 0

/-- COSTp as the loader computes it. -/
def Chain.passCost (c : Chain) (p : Nat) : Nat := ((c.inPass p).map (fun x => c.laneCost x.1)).sum

/-! ### Staging (R237, R255) -/

/-- Bytes of the distinct STEP images of a chain. -/
def Chain.stepBytes (c : Chain) : Nat :=
  (((c.stages.filter (fun s => s.op == opStep)).map (fun s => s.k0)).dedup.map (objCount c.consts)).sum

/-- CU of R255. -/
def Chain.constUnits (c : Chain) : Nat := ceilDiv (c.consts.length - c.stepBytes) 4096

/-- Units for `share` elements of `w` bits. -/
def unitsOf (share w : Nat) : Nat := ceilDiv (share * w) (8 * 4096)

/-- Bits of a PIN1 element. -/
def Chain.inBits (c : Chain) : Nat := (fmtOf (c.pinOpf 1)).width * (if c.pair 1 then 2 else 1)

/-- What TRANSPOSE or GATHER multiplies a pass's output by (R255). -/
def Chain.egressFactor (c : Chain) (p : Nat) : Nat :=
  match (c.inPass p).find? (fun x => x.2.op == opTranspose || x.2.op == opGather) with
  | some (_, s) => if s.op == opTranspose then 128 else 2 ^ s.gwin
  | none => 1

/-- The share of RU_p that one stage takes (R255). -/
def Chain.stageUnits (c : Chain) (share k : Nat) : Nat :=
  let s := c.stage k
  let w := (fmtOf s.opfD).width
  if s.op == opConvert then
    (if s.scout != 0 then unitsOf share s.holdf.width else 0) +
      (if s.dest ≤ 1 then unitsOf share (w * (if s.dest == 0 then c.egressFactor s.pass else 1)) else 0)
  else if s.op == opStore then unitsOf share w
  else 0

/-- RU_p with `share` elements per tile (R255). -/
def Chain.rowUnits (c : Chain) (p share : Nat) : Nat :=
  ((c.inPass p).map (fun x => c.stageUnits share x.1)).sum

/-- Passes 1 to NPASS. -/
def Chain.passes (c : Chain) : List Nat := (List.range c.npass).map (· + 1)

/-- The largest of a list. -/
def maxOf (l : List Nat) : Nat := l.foldl max 0

/-- CU + KU + max RU_p at RMAX (R255). -/
def Chain.leastUnits (c : Chain) : Nat :=
  c.constUnits + (if c.holdok then unitsOf c.rmax c.inBits else 0) +
    maxOf (c.passes.map (fun p => c.rowUnits p c.rmax))

/-- The share of stage `k` in the units that NEED counts, which come from the passes with the largest RU_p: none for a
stage of another pass (R255, R256). `share` gives the elements of a pass. -/
def Chain.needUnits (c : Chain) (share : Nat → Nat) (k : Nat) : Nat :=
  let p := (c.stage k).pass
  if c.rowUnits p (share p) == maxOf (c.passes.map (fun q => c.rowUnits q (share q))) then c.stageUnits (share p) k else 0

/-- The first stage with the largest value of a measure, or 0xF where all are 0 (R256). -/
def Chain.largestStage (c : Chain) (m : Nat → Nat) : Nat :=
  (List.range c.stages.length).foldl (fun best k => if m k > (if best == 0xF then 0 else m best) then k else best) 0xF

/-! ### The step store (R176) -/

/-- Distinct STEP images of a list of chains. -/
def stepImages (cs : List Chain) : List (List Byte) :=
  (cs.flatMap (fun c => (c.stages.filter (fun s => s.op == opStep)).map (fun s => stepImage c.consts s.k0))).dedup

def stepWords (imgs : List (List Byte)) : Nat := (imgs.map (fun i => leAt i 5 1)).sum
def stepConstants (imgs : List (List Byte)) : Nat := (imgs.map (fun i => leAt i 6 1)).sum

/-- Step words of stage `k`. -/
def Chain.nstep (c : Chain) (k : Nat) : Nat :=
  let s := c.stage k
  if s.op == opStep then leAt (stepImage c.consts s.k0) 5 1 else 0

/-- The share of one stage in the step words that a chain adds to the step store: none where its image is stored. -/
def Chain.newSteps (c : Chain) (new : List (List Byte)) (k : Nat) : Nat :=
  if new.contains (stepImage c.consts (c.stage k).k0) then c.nstep k else 0

/-- The step store against the chains already resident. STAGE names the stage with the most step words of the need,
also where only the constants do not fit (R176, R256; DESIGN CHOICE, log entry 88). -/
def stepStoreCheck (resident : List Chain) (c : Chain) : Option Refuse :=
  let old := stepImages resident
  let new := (stepImages [c]).filter (fun i => !old.contains i)
  let haveW := 2048 - stepWords old
  let haveC := 512 - stepConstants old
  need (stepWords new ≤ haveW && stepConstants new ≤ haveC)
    (.capacity 0x03 (c.largestStage (c.newSteps new)) 0xFFFF (stepWords new) haveW (stepConstants new) haveC)

/-! ### Steps 2 to 7 of R252 -/

/-- Steps 4 to 7: the chain, unless a check fails. -/
def chainChecks (slots : Vector Slot 4) (resident : List Chain) (c : Chain) : Option Refuse :=
  let ks := List.range c.stages.length
  match stagesCheck slots c ks with
  | some r => some r
  | none =>
    match ks.findSome? (orderCheck c) with
    | some r => some r
    | none =>
      let costs := [1, 2, 3].map (fun p => if p ≤ c.npass then c.passCost p else 0)
      if costs != c.cost then some (badChain fCost 0xF 0 0)
      else
        match stepStoreCheck resident c with
        | some r => some r
        | none => need (c.leastUnits ≤ 192)
            (.capacity 0x02 (c.largestStage (c.needUnits (fun _ => c.rmax))) 0xFFFF c.leastUnits 192 0 0)

/-! ### The beat interval (R259) -/

/-- Demands per element of a pass (Table 10.13): lane cycles in eighths, grant cycles in quarters,
statistic inputs, staging bits read and written, OPD_OUT bits, step words. -/
structure Demand where
  lanes : Nat
  evals : Nat
  stats : Nat
  rd    : Nat
  wr    : Nat
  opd   : Nat
  steps : Nat
  deriving DecidableEq, Repr

def Demand.plus (a b : Demand) : Demand :=
  { lanes := a.lanes + b.lanes, evals := a.evals + b.evals, stats := a.stats + b.stats,
    rd := a.rd + b.rd, wr := a.wr + b.wr, opd := a.opd + b.opd, steps := a.steps + b.steps }

def Demand.none : Demand := { lanes := 0, evals := 0, stats := 0, rd := 0, wr := 0, opd := 0, steps := 0 }

/-- Elements of one grant (Table 5.1). -/
def grantElems (o : Nat) : Nat :=
  match fmtOf o with
  | .b32 | .xf => 1
  | .b16 | .fm16 => 2
  | _ => 4

/-- Statistic inputs of a KIND (Table 8.6). -/
def kindInputs (k : Nat) : Nat := b2n (kMax k) + b2n (kSum k) + b2n (kAbsmax k) + b2n (kSumsq k)

/-- The demand of one stage. -/
def Chain.stageDemand (c : Chain) (k : Nat) : Demand :=
  let s := c.stage k
  let w := (fmtOf s.opfD).width
  let base := { Demand.none with lanes := c.laneCost k }
  if s.op == opEval then { base with evals := 4 / grantElems s.opfD }
  else if s.op == opStat then
    { base with stats := kindInputs s.kind, evals := if s.sumw then 4 else 0 }
  else if s.op == opConvert then
    let hold := if s.scout != 0 then s.holdf.width else 0
    let out := if s.dest ≤ 1 then w else 0
    { base with
      stats := if s.scout != 0 then (if s.outl != 0 then 5 else 1) else 0
      rd := hold + out, wr := hold + out, opd := if s.dest == 0 then w else 0 }
  else if s.op == opStore then { base with rd := w, wr := w }
  else if s.op == opStep then { base with steps := c.nstep k }
  else base

def Chain.passDemand (c : Chain) (p : Nat) : Demand :=
  (c.inPass p).foldl (fun d x => d.plus (c.stageDemand x.1)) Demand.none

/-- The larger of two fractions. -/
def maxFrac (a b : Nat × Nat) : Nat × Nat := if a.1 * b.2 ≥ b.1 * a.2 then a else b

/-- D of R259 as a fraction; with HELD the passes share the traversal of pass 1 (R259, R221). -/
def Chain.beatInterval (c : Chain) (p xevq : Nat) (held : Bool) : Nat × Nat :=
  let d :=
    if held then
      let t := c.passes.foldl (fun d q => d.plus (c.passDemand q)) Demand.none
      { t with wr := t.wr + c.inBits, rd := t.rd + (c.npass - 1) * c.inBits }
    else c.passDemand p
  let e := c.beatElems (if held then 1 else p)
  [(e * d.lanes, 8 * 4096), (e * d.evals, 4 * 16 * (16 - xevq)), (e * d.stats, 1024),
    (e * d.rd, 8 * 2048), (e * d.wr, 8 * 2048), (e * d.opd, 8192),
    (d.steps * ceilDiv e 64, 1)].foldl maxFrac (1, 1)

end Sys2Proof.Machine
end

