-- ==== Sys2Proof/Machine/Stages.lean ====
section
/-!
DEFINITION. The chain sequencer of a tile (R233 to R242): one stage on one element, a batch of elements
through the stages up to the next one that must wait for the whole row, and the records a row pass leaves.
-/

namespace Sys2Proof.Machine

/-! ### Operands of a stage -/

/-- The loaded table a function code names, in the row's version. -/
def RowPass.tab (rp : RowPass) (func : Nat) : Option Table := (rp.tables.getD (func - 0x10) none)

/-- Column in the whole row of element `i` of the tile's share. -/
def RowPass.colAt (rp : RowPass) (i : Nat) : Nat := rp.col0 + i

/-- The result of stage `j` for an element. -/
def RowElem.at (e : RowElem) (f : Fmt) (j : Nat) : Opnd :=
  match e.res.find? (fun r => r.1 == j) with
  | some (_, x) => { fmt := f, code := x.code, poison := x.poison }
  | none => { fmt := f, code := f.nanCode, poison := true }

/-- An operand of stage `k` (Table 10.3); `stat` is what selector 5 names. -/
def RowPass.opnd (rp : RowPass) (k sel col : Nat) (e : RowElem) (stat : Opnd) : Opnd :=
  let c := rp.chain
  let s := c.stage k
  let pin := fmtOf (c.pinOpf s.pass)
  let inX : Opnd := { fmt := pin, code := e.x.code, poison := e.x.poison }
  match sel with
  | 0 => match c.prev k with
    | some j => e.at (fmtOf (c.stage j).opfD) j
    | none => inX
  | 1 => inX
  | 2 => { fmt := pin, code := e.y.code, poison := e.y.poison }
  | 3 => objOpnd c.consts s.k0 0
  | 4 => objAt c.consts s.k0 col
  | 5 => stat
  | _ => e.at (fmtOf (c.stage s.srcstg).opfD) s.srcstg

/-- The value an operation takes: a poisoned element is a NaN input, or a 0 where its format has none
(R194, R376). -/
def Opnd.nanIn (a : Opnd) : Bool := a.poison || a.val.isNan

/-- The row's CONVERT environment. -/
def RowPass.convEnv (rp : RowPass) (k : Nat) : ConvEnv where
  st := rp.chain.stage k
  idx := k
  cs := rp.chain.consts
  zc := !rp.chain.zcoff
  scale := rp.scale
  row := rp.row
  seed := rp.desc.seed.toNat
  dkey := rp.desc.dkey.toNat

/-! ### Statistics that an APPLY stage uses (R215, R219, R222) -/

/-- The row factor r (R222, R224): `n` is the row length of the statistic's pass. -/
def rowFactor (r : Rec) (n : Nat) (eps : Val) : Val :=
  if r.has fZero then Val.one
  else if r.e == 0x7FFF then Val.zero
  else
    let m := round24 (.fin false r.sumsq.toNat n (2 * r.e.toInt - 46))
    let a := round24 (Val.add m eps)
    reround .xf (evalBuiltin .rsqrt .xf a)

/-- What an APPLY stage takes from its record: M, S times 2^PSH, or r. -/
def applyStat (c : Chain) (k : Nat) (r : Rec) (n : Nat) : Val :=
  let s := c.stage k
  match s.aop with
  | 0 => decode .b32 (unKey r.maxkey.toNat)
  | 1 => Val.scale2 (c.pshOf s.astat) (sumValue r)
  | _ => rowFactor r n (objOpnd c.consts s.k1 0).val

/-- The statistic as selector 5 names it: M, S or r. As SA of an APPLY it is the code in XF of the value that the stage
takes from its record, and counts as binary32 in the cost: R233 names neither the value nor its format (DESIGN CHOICE, log
entry 100). -/
def statOpnd (c : Chain) (k : Nat) (r : Rec) (n : Nat) : Opnd :=
  let s := c.stage k
  let v := match s.aop with
    | 1 => sumValue r
    | _ => applyStat c k r n
  { fmt := .xf, code := (encodeLane .xf v).code, poison := false }

/-- APPLY on one element (Table 10.4, R63, R220). The zeros that a finite x gives in a row with an infinite element are
products with r = 0, and count as no underflow: Table 9.5 only refers to R53 there (R224; DESIGN CHOICE, log entry 95). -/
def applyElem (c : Chain) (k col : Nat) (st : Val) (a : Opnd) : Enc :=
  let s := c.stage k
  let d := fmtOf s.opfD
  let x := a.val
  match s.aop with
  | 0 =>
    if x.isInf && st.isInf && x.neg? && st.neg? then encodeLane d (.inf true)
    else encodeLane d (Val.sub x st)
  | 1 =>
    if st.isZero && !x.isNan then encodeLane d Val.zero
    else encodeLane d (Val.div x st)
  | _ => encodeLane d (Val.mul (Val.mul x (objAt c.consts s.k0 col).val) st)

/-! ### One stage on one element -/

/-- What a stage gives for one element: the written element and its counts, whether an operand was a NaN,
and of a CONVERT the overflow step, the step of a new NaN and whether step 4 gave zero. -/
structure ElemOut where
  w       : Written
  nanIn   : Bool
  satAt   : Option Nat
  nanStep : Option Nat
  zero    : Bool
  deriving DecidableEq, Repr

def ElemOut.plain (w : Written) (nanIn : Bool) : ElemOut :=
  { w := w, nanIn := nanIn, satAt := none, nanStep := none, zero := false }

/-- The EVAL of a stage on a value: with SPLITEQ the value of the SPLF result, in XF (R242). -/
def evalStage (rp : RowPass) (s : Stage) (a : Opnd) : Enc :=
  if s.spliteq then
    let f := fmtOf s.splf
    let e := evalEnc s.func (rp.tab s.func) s.psh f a.val
    { code := (encodeLane .xf (decode f e.code)).code, ev := e.ev }
  else evalEnc s.func (rp.tab s.func) s.psh (fmtOf s.opfD) a.val

/-- Counts of a fused pair (R241): the product's when it lost something, else the evaluation's. -/
def fusedTally (product evaluation : Ev) : Tally :=
  let p := Tally.ofLane product
  let e := Tally.ofLane evaluation
  if product == .sat || product == .under then { p with nanSeen := p.nanSeen || e.nanSeen }
  else { p.plus e with nanc := max p.nanc e.nanc }

/-- The constants that stage `k` takes as operands at column `col`, besides its selectors: a NaN among them is
no NaN that an invalid operation created (R377). -/
def Chain.constsAt (c : Chain) (k col : Nat) : List Opnd :=
  let s := c.stage k
  if s.op == opScale || s.op == opBias then [objAt c.consts s.k0 col]
  else if s.op == opClip then [objOpnd c.consts s.k0 0, objOpnd c.consts s.k0 1]
  else if s.op == opApply && s.aop == 2 then [objAt c.consts s.k0 col]
  else if s.op == opConvert && s.biasK != 0 then [objOpnd c.consts s.k1 col]
  else []

/-- The lane operation of a MUL or ADD stage. -/
def stageLane (s : Stage) : LaneOp :=
  if s.op == opMul then (match s.mulOp with | 0 => .mul | 1 => .fma | 2 => .div | _ => .sqrt)
  else (match s.addOp with | 0 => .add | 1 => .sub | 2 => .min | 3 => .max | 4 => .neg | _ => .abs)

/-- Stage `k` of a kind that works element by element, on element `e` at column `col`; `stat` is the
statistic of an APPLY stage, none where its record is flagged POISON (R197). A poisoned element gives the poisoned NaN
of the destination in every kind; that a STEP stage does not run its program on one, though its image could map a NaN
input to a number, is the model's reading of R169 beside R376 (DESIGN CHOICE, log entry 111). -/
def stageElem (rp : RowPass) (k col : Nat) (e : RowElem) (stat : Option (Val × Opnd)) : ElemOut :=
  let c := rp.chain
  let s := c.stage k
  let d := fmtOf s.opfD
  let st := match stat with
    | some x => x.2
    | none => { fmt := .xf, code := Fmt.nanCode .xf, poison := true }
  let a := rp.opnd k s.sa col e st
  let b := rp.opnd k s.sb col e st
  let g := rp.opnd k s.sc col e st
  let used := [a, b, g].take s.operands
  let nanIn := used.any Opnd.nanIn || (c.constsAt k col).any Opnd.nanIn
  let lane (r : Enc) : ElemOut :=
    if used.any (fun o => o.poison) then ElemOut.plain (Written.poisoned d) true
    else ElemOut.plain (Written.ofEnc r) nanIn
  let k0 := objAt c.consts s.k0 col
  if s.op == opScale then lane (laneOp .mul d a k0 k0)
  else if s.op == opBias then lane (laneOp .add d a k0 k0)
  else if s.op == opEval then
    let out := lane (evalStage rp s a)
    if c.fused (k + 1) then { out with w := { out.w with tally := Tally.none } } else out
  else if s.op == opMul || s.op == opAdd then
    let r := laneOp (stageLane s) d a b g
    let out := lane r
    if c.fused k && !used.any (fun o => o.poison) then
      let j := k - 1
      let x := rp.opnd j (c.stage j).sa col e st
      { out with w := { out.w with tally := fusedTally r.ev (evalStage rp (c.stage j) x).ev } }
    else out
  else if s.op == opClip then
    lane (encodeLane d (Val.minimum (Val.maximum a.val (objOpnd c.consts s.k0 0).val) (objOpnd c.consts s.k0 1).val))
  else if s.op == opApply then
    match stat with
    | none => ElemOut.plain (Written.poisoned d) nanIn
    | some x => lane (applyElem c k col x.1 a)
  else if s.op == opStep then
    let m := parseMicro (stepImage c.consts s.k0)
    let out := lane (stepStage m a)
    { out with nanIn := if out.w.tally.nanSeen && !out.w.elem.poison then !stepCreates m a else nanIn }
  else if s.op == opConvert then
    let E := rp.convEnv k
    let o := if isIdentity s (c.selOpf k s.sa) then convIdentity E a else convElem E col a
    { w := o.w, nanIn := nanIn, satAt := o.satAt, nanStep := o.nanStep, zero := o.zero }
  else
    -- STAT, STAT_MERGE, STORE, TRANSPOSE and GATHER pass their source on (R235)
    let x := if s.operands == 0 then rp.opnd k 0 col e st else a
    ElemOut.plain { elem := { code := x.code, poison := x.poison }, tally := Tally.none } (x.nanIn)

/-! ### A batch of elements through a run of stages -/

/-- A NaN that entered or left a stage (R377): stage, step, column, and whether the stage created it. -/
structure NanNote where
  stage   : Nat
  step    : Nat
  col     : Nat
  created : Bool
  deriving DecidableEq, Repr

/-- What a batch adds to what is reported: NaNs and overflows (stage, step, column), in order. -/
structure Notes where
  nans : List NanNote
  sats : List (Nat × Nat × Nat)
  deriving DecidableEq, Repr

def Notes.none : Notes := { nans := [], sats := [] }

def Notes.append (a b : Notes) : Notes := { nans := a.nans ++ b.nans, sats := a.sats ++ b.sats }

/-- An error of the row pass hits a part of element `n` of its share at stage `k`. -/
def RowPass.partFault (rp : RowPass) (part : FaultPart) (k n : Nat) : Bool :=
  rp.faults.any (fun f => f.stage == k && f.part == part && f.lo ≤ n && n < f.hi)

/-- An error hits the result of element `n` at stage `k`. -/
def RowPass.faultAt (rp : RowPass) (k n : Nat) : Bool := rp.partFault .results k n

/-- An error in the row accumulator of stage `k` (R106, R194). -/
def RowPass.accFault (rp : RowPass) (k : Nat) : Bool := rp.faults.any (fun f => f.stage == k && f.part == .accumulator)

/-- Lane cycles per element, in eighths, of the one operation of a stage that an error hits (R92, R93): of the two
sweeps of a CONVERT with an output scale the one named, and of a STAT stage the TERM operation. Where a STAT stage has
SUMSQ terms beside wide SUM terms, the cycle is taken to be one of SUMSQ (DESIGN CHOICE, log entry 62). -/
def Chain.cycleCost (c : Chain) (k : Nat) (sweepB : Bool) : Nat :=
  let s := c.stage k
  let hold := if s.holdf == .b16 then 1 else 0
  if s.op == opStat then (if opWidth (c.selOpf k s.sa) false ≤ 16 && (kSumsq s.kind || !s.sumw) then 4 else 8)
  else if s.op == opConvert && s.scout != 0 then
    laneEighths (if sweepB then [hold, s.opfD] else [c.selOpf k s.sa, hold]) false
  else c.laneCost k

/-- How many results at stage `k` one error of a layout-U unit poisons, which start at a multiple of that
number: the 64 elements of a STEP issue (R178), the results that share a lane cycle (R92, Table 4.2), or the
elements of a staging word (Table 16.1), which is taken to hold the stage's results, in HOLDF where a CONVERT
stage holds them (DESIGN CHOICE, log entry 62). An evaluator, table or ROM error poisons one result (R137); in the
one grant that forms the row factor r of an APPLY it reaches every element of the row in the tile (R222). -/
def Chain.faultSpan (c : Chain) (k unit : Nat) (sweepB : Bool) : Nat :=
  let s := c.stage k
  if s.op == opStep then 64
  else if unit == 0 then 8 / min 8 (max 1 (c.cycleCost k sweepB))
  else if s.op == opApply && s.aop == 2 && (unit == 1 || unit == 6) then 2 ^ 24
  else if unit == 2 then
    64 / (if s.op == opConvert && s.scout != 0 then s.holdf else fmtOf s.opfD).width
  else 1

/-- An error that the beat brings, in the row pass that has already taken `n0` elements. -/
def RowPass.takeFault (rp : RowPass) (n0 : Nat) (f : HwFault) : PassFault :=
  let w := rp.chain.faultSpan f.stage f.unit.toNat f.sweepB
  let first := (n0 + f.elem) / w * w
  let s := rp.chain.stage f.stage
  { stage := f.stage, lo := first, hi := first + w,
    part := if f.accumulator then .accumulator
      else if s.op == opStat && f.unit == 0 then .terms
      else if s.op == opConvert && s.scout != 0 && (f.unit == 2 || f.sweepB) then .sweepB else .results }

/-- Counts and flags of a row pass after a stage wrote elements. -/
def RowPass.addTally (rp : RowPass) (t : Tally) : RowPass :=
  { rp with
    satuf := rp.satuf + t.satuf
    nanc := rp.nanc + t.nanc
    nanSeen := rp.nanSeen || t.nanSeen
    satSeen := rp.satSeen || t.satSeen }

/-- An element at its place in the row pass: index in the share, element. -/
structure Slotted where
  n : Nat
  e : RowElem
  deriving DecidableEq, Repr

/-- The notes of one result: a NaN entered, or left as a NaN or as the 0 that a format without NaN codes has
(R377). A CONVERT creates one by an invalid operation in step 2 or 3 only (R86). -/
def ElemOut.notes (o : ElemOut) (f : Fmt) (k col : Nat) (ovf1 : Bool) : Notes :=
  let out := o.w.elem.poison || (decode f o.w.elem.code).isNan || o.w.tally.nanSeen || o.nanStep.isSome
  { nans := if o.nanIn || out then
      [{ stage := k, step := o.nanStep.getD 0, col := col,
         created := out && !o.nanIn && !o.w.elem.poison && o.nanStep != some 1 }] else []
    sats := match o.satAt with
      | some p => if ovf1 then [(k, p, col)] else []
      | none => [] }

/-- What a result adds to the row's counts: a poisoned element adds one to NANC, once (R376). -/
def Written.count (w : Written) (counted : Bool) : Tally :=
  if w.elem.poison then (if counted then { Tally.none with nanSeen := true } else Tally.poisoned) else w.tally

/-- An element-by-element stage over a batch. An element that an error poisons inside a CONVERT stage gets step 1 in
the first-NaN trap, as one that comes in poisoned (DESIGN CHOICE, log entry 80). -/
def runElems (rp : RowPass) (k : Nat) (stat : Option (Val × Opnd)) :
    List Slotted → RowPass × List Slotted × Notes
  | [] => (rp, [], Notes.none)
  | x :: xs =>
    let s := rp.chain.stage k
    let d := fmtOf s.opfD
    let col := rp.colAt x.n
    let o0 := stageElem rp k col x.e stat
    let o := if rp.faultAt k x.n then
        { o0 with w := Written.poisoned d, satAt := none, zero := false, nanStep := if s.op == opConvert then some 1 else none }
      else o0
    let rp1 := rp.addTally (o.w.count x.e.counted)
    let rp2 := { rp1 with
      poison := rp1.poison || o.w.elem.poison
      zeroRow := rp1.zeroRow && (s.op != opConvert || o.zero)
      output := if s.op == opConvert then rp1.output ++ [o.w.elem] else rp1.output }
    let rest := runElems rp2 k stat xs
    (rest.1,
      { x with e := { x.e with res := (k, o.w.elem) :: x.e.res, counted := x.e.counted || o.w.elem.poison } } :: rest.2.1,
      (o.notes d k col (s.op == opConvert && s.ovf == 1)).append rest.2.2)

/-- The reference of a SUM or SUMSQ stage, from the final record it names; `bad` where that record is
flagged POISON (R212). -/
structure StatRef where
  key : Word
  e   : BitVec 16
  bad : Bool
  deriving DecidableEq, Repr

def StatRef.none : StatRef := { key := 0, e := 0, bad := false }

/-- A STAT stage takes one element (R188, R189, R190, R218). With SUMW = 1 the SUM term alone comes from the wide
result of the second grant, which an error of the evaluator or of an operand makes a NaN (R137, R194); where no EVAL
forms the source, so that R218 names no second result, it comes from the stage's own source (DESIGN CHOICE, log
entry 108). -/
def statTake (rp : RowPass) (k : Nat) (ref : StatRef) (x : Slotted) (a : StatAcc) : StatAcc :=
  let c := rp.chain
  let s := c.stage k
  let no : Opnd := { fmt := .xf, code := Fmt.nanCode .xf, poison := true }
  let col := rp.colAt x.n
  let v := rp.opnd k s.sa col x.e no
  if ref.bad then a.takePoisoned
  else
    match if s.sumw then c.evalOf k else none with
    | some j =>
      let st := c.stage j
      let arg := rp.opnd j st.sa col x.e no
      let wide := if v.poison || arg.poison || rp.faultAt j x.n then Val.default
        else decode .b32 (evalEnc st.func (rp.tab st.func) st.psh .b32 arg.val).code
      (a.take (s.kind - 2 * b2n (kSum s.kind)) (c.pshOf k) (eInt ref.e) v.fmt v.val).takeSum (c.pshOf k) wide
    | none => a.take s.kind (c.pshOf k) (eInt ref.e) v.fmt v.val

/-- Applies a change to the accumulator of stage `k`. -/
def modAcc (k : Nat) (f : StatAcc → StatAcc) (as : List StatAcc) : List StatAcc :=
  as.map (fun a => if a.step == k then f a else a)

def modPsum (k : Nat) (f : PsumAcc → PsumAcc) (as : List PsumAcc) : List PsumAcc :=
  as.map (fun a => if a.step == k then f a else a)

/-- A STAT stage over a batch: the accumulator, and a NaN input seen (Table 8.4). A term that a residue failure of its
lane cycle hits is that of a poisoned element, and the row is POISON (R194, R375). -/
def runStat (rp : RowPass) (k : Nat) (ref : StatRef) (xs : List Slotted) : RowPass :=
  let bad := rp.accFault k
  let upd (a : StatAcc) : StatAcc :=
    let a := xs.foldl (fun a x => if rp.partFault .terms k x.n then a.takePoisoned else statTake rp k ref x a) a
    if bad then { a with poison := true } else a
  { rp with accs := modAcc k upd rp.accs, poison := rp.poison || xs.any (fun x => rp.partFault .terms k x.n) }

/-- A PSUM stage over a batch (R100 to R106): its accumulator, and the NaNs that enter it or that a product
creates (R377). -/
def runPsum (rp : RowPass) (k : Nat) (xs : List Slotted) : RowPass × Notes :=
  let c := rp.chain
  let s := c.stage k
  let no : Opnd := { fmt := .xf, code := Fmt.nanCode .xf, poison := true }
  let ops (x : Slotted) : Opnd × Opnd :=
    (rp.opnd k s.sa (rp.colAt x.n) x.e no, rp.opnd k s.sb (rp.colAt x.n) x.e no)
  let one (a : PsumAcc) (x : Slotted) : PsumAcc :=
    let o := ops x
    if o.1.poison || o.2.poison || rp.faultAt k x.n then { a with poison := true }
    else a.product s.pmode (mulVal o.1 o.2)
  let upd (a : PsumAcc) : PsumAcc :=
    let a := xs.foldl one a
    if rp.accFault k then { a with poison := true } else a
  let bad := xs.any (fun x => rp.faultAt k x.n) || rp.accFault k
  let note (x : Slotted) : List NanNote :=
    let o := ops x
    let nanIn := o.1.nanIn || o.2.nanIn
    if nanIn || (mulVal o.1 o.2).isNan then
      [{ stage := k, step := 0, col := rp.colAt x.n, created := !nanIn }] else []
  ({ rp with psums := modPsum k upd rp.psums, poison := rp.poison || bad },
    { nans := xs.flatMap note, sats := [] })

/-- Sweep A of a CONVERT with an output scale over a batch. -/
def runSweepA (rp : RowPass) (k : Nat) : List Slotted → RowPass × Notes
  | [] => (rp, Notes.none)
  | x :: xs =>
    let s := rp.chain.stage k
    let E := rp.convEnv k
    let col := rp.colAt x.n
    let no : Opnd := { fmt := .xf, code := Fmt.nanCode .xf, poison := true }
    let src0 := rp.opnd k s.sa col x.e no
    let src := if rp.faultAt k x.n then { src0 with poison := true } else src0
    let h := holdElem E col src
    let t := if src.poison && !x.e.counted then Tally.poisoned else h.2.1
    let rp1 := { rp.addTally t with held := rp.held ++ [h.1], poison := rp.poison || src.poison }
    let nanIn := src.nanIn || (rp.chain.constsAt k col).any Opnd.nanIn
    let nan := nanIn || (decode s.holdf h.1.code).isNan
    let rest := runSweepA rp1 k xs
    (rest.1, Notes.append
      { nans := if nan then
          [{ stage := k, step := h.2.2.2.getD 0, col := col, created := !nanIn && h.2.2.2 != some 1 }] else []
        sats := match h.2.2.1 with
          | some p => if s.ovf == 1 then [(k, p, col)] else []
          | none => [] } rest.2)

/-! ### Where a row pass waits for the whole row -/

/-- A stage that begins only when something about the whole row exists: an APPLY or a reference (R31), the
output scale of a CONVERT (R77), the result of a PSUM (R102). -/
def Chain.waits (c : Chain) (k : Nat) : Bool :=
  let s := c.stage k
  s.op == opApply || s.needsRef || (s.op == opConvert && s.scout != 0) || s.op == opPsum

/-- One past the last stage of a pass. -/
def Chain.passEnd (c : Chain) (p : Nat) : Nat := (c.stages.filter (fun s => s.pass ≤ p)).length

/-- First stage of a pass. -/
def Chain.passStart (c : Chain) (p : Nat) : Nat := (c.stages.filter (fun s => s.pass < p)).length

/-- The first stage of the pass that waits, or the end of the pass. -/
def Chain.firstWait (c : Chain) (p : Nat) : Nat :=
  ((List.range c.stages.length).find? (fun k => c.passStart p ≤ k && k < c.passEnd p && c.waits k)).getD (c.passEnd p)

/-- What STATISTIC_APPLY_START gave stage `k`. -/
def RowPass.refAt (rp : RowPass) (k : Nat) : Option StageRef := rp.refs.find? (fun r => r.stage == k)

/-- One stage over a batch. A STAT stage also accumulates, with the record it refers to (R190); an APPLY stage
takes its record, and a record flagged POISON poisons the row (R197). -/
def runStage (rp : RowPass) (k : Nat) (xs : List Slotted) : RowPass × List Slotted × Notes :=
  let s := rp.chain.stage k
  match rp.refAt k with
  | none => runElems (if s.op == opStat then runStat rp k StatRef.none xs else rp) k none xs
  | some r =>
    let bad := r.rcd.has fPoison
    if s.op == opStat then
      runElems (runStat rp k { key := r.rcd.maxkey, e := r.rcd.e, bad := bad } xs) k none xs
    else if bad then runElems { rp with poison := true, recPoison := true } k none xs
    else runElems rp k (some (applyStat rp.chain k r.rcd r.n, statOpnd rp.chain k r.rcd r.n)) xs

/-- The stages `ks`, at none of which a batch still waits. -/
def runPlain (rp : RowPass) : List Nat → List Slotted → RowPass × List Slotted × Notes
  | [], xs => (rp, xs, Notes.none)
  | k :: ks, xs =>
    let r := runStage rp k xs
    let rest := runPlain r.1 ks r.2.1
    (rest.1, rest.2.1, r.2.2.append rest.2.2)

/-- What a batch does on reaching the stage at which it waits: sweep A, or products. -/
def runArrive (rp : RowPass) (k : Nat) (xs : List Slotted) : RowPass × Notes :=
  let s := rp.chain.stage k
  if k ≥ rp.chain.passEnd rp.pass then (rp, Notes.none)
  else if s.op == opConvert then runSweepA rp k xs
  else if s.op == opPsum then runPsum rp k xs
  else (rp, Notes.none)

/-- Stages from `a` up to and not including `b`. -/
def stagesFrom (a b : Nat) : List Nat := (List.range b).filter (fun k => a ≤ k)

/-- The next stage from `start` on that waits, or the end of the pass. -/
def Chain.nextWait (c : Chain) (p start : Nat) : Nat :=
  ((List.range c.stages.length).find? (fun k => start ≤ k && k < c.passEnd p && c.waits k)).getD (c.passEnd p)

/-- A batch of elements runs from stage `start` to the next stage that waits, and stands there. -/
def runBatch (rp : RowPass) (start stop : Nat) (xs : List Slotted) : RowPass × List Slotted × Notes :=
  let r := runPlain rp (stagesFrom start stop) xs
  let a := runArrive r.1 stop r.2.1
  (a.1, r.2.1, r.2.2.append a.2)

/-- A poisoned element counts as it comes in (R376). -/
def RowPass.countPoison (rp : RowPass) (new : List RowElem) : RowPass :=
  let n := new.countP (fun e => e.x.poison)
  if n == 0 then rp
  else { rp.addTally { Tally.none with nanc := n, nanSeen := true } with poison := true }

/-- New elements enter a row pass, with the errors of their beat, and run as far as the earlier ones stand. -/
def RowPass.enter (rp : RowPass) (fs : List PassFault) (new : List RowElem) : RowPass × Notes :=
  let n0 := rp.elems.length
  let es := new.map (fun e => { e with counted := e.x.poison })
  let xs := es.zipIdx.map (fun p => { n := n0 + p.2, e := p.1 : Slotted })
  let rp1 := { rp.countPoison new with faults := rp.faults ++ fs }
  let r := runBatch rp1 (rp.chain.passStart rp.pass) rp.next xs
  ({ r.1 with
      elems := rp.elems ++ r.2.1.map (fun x => x.e)
      taken := rp.taken + new.length
      replay := if rp.desc.held && rp.pass == 1 then rp.replay ++ new.map (fun e => (e.x, e.y)) else rp.replay },
    r.2.2)

/-- All elements of a row pass, at their places. -/
def RowPass.slotted (rp : RowPass) : List Slotted :=
  rp.elems.zipIdx.map (fun p => { n := p.2, e := p.1 : Slotted })

/-- Goes on behind stage `next`, which every element has passed: to the next stage that waits. -/
def RowPass.goOn (rp : RowPass) (xs : List Slotted) : RowPass × Notes :=
  let start := rp.next + 1
  let stop := rp.chain.nextWait rp.pass start
  let r := runBatch { rp with next := stop } start stop xs
  ({ r.1 with elems := r.2.1.map (fun x => x.e) }, r.2.2)

/-! ### Passing a stage that waits -/

/-- An APPLY stage, or a STAT stage with a reference, has its record: the elements that wait pass it, and those
that come later take the same record (R31, R190, R197, R215, R219, R222). -/
def RowPass.startRef (rp : RowPass) (r : Rec) (n : Nat) : RowPass × Notes :=
  let k := rp.next
  let rp1 := { rp with refs := rp.refs ++ [{ stage := k, rcd := r, n := n }] }
  let out := runStage rp1 k rp1.slotted
  let go := out.1.goOn out.2.1
  (go.1, out.2.2.append go.2)

/-- Sweep B on the tile's held values; sweep A has counted the poisoned ones. An error of a lane cycle of sweep B, or
of a staging word that holds such values, poisons the results here, so that it leaves the row's maximum as it was
(R375). A result that was no NaN in sweep A leaves the stage as one, and is offered to the first-NaN trap (R377) with
the step of log entry 80. -/
def sweepAll (E : ConvEnv) (R : SweepB) (rp : RowPass) (k : Nat) : List (Slotted × HeldElem) → RowPass × List Elem × Notes
  | [] => (rp, [], Notes.none)
  | (x, h) :: rest =>
    let s := rp.chain.stage k
    let col := rp.colAt x.n
    let hit := rp.partFault .sweepB k x.n
    let o := if hit then convPoisoned E none else sweepB E R col h
    let rp1 := { rp.addTally (o.w.count (h.poison || x.e.counted)) with
      output := rp.output ++ [o.w.elem]
      poison := rp.poison || o.w.elem.poison }
    let more := sweepAll E R rp1 k rest
    let sats := match o.satAt with
      | some p => if s.ovf == 1 then [(k, p, col)] else []
      | none => []
    let nans := if hit && !h.poison && !(decode s.holdf h.code).isNan then
      [{ stage := k, step := 1, col := col, created := false : NanNote }] else []
    (more.1, o.w.elem :: more.2.1, { nans := nans ++ more.2.2.nans, sats := sats ++ more.2.2.sats })

/-- The outliers of a row that lie in the tile's share: the values that saturate or become zero in the outlier block
count there (R53, R81), but no element counts twice, so not where its hold saturated already (R76). -/
def outlierNotes (rp : RowPass) (k : Nat) (R : SweepB) : Tally × List (Nat × Nat × Nat) :=
  let s := rp.chain.stage k
  let mine := R.removed.filter (fun x => rp.col0 ≤ x.1 && x.1 < rp.col0 + rp.taken)
  let counted (col : Nat) : Bool := (rp.held[col - rp.col0]?).any (fun (h : HeldElem) => h.mark == 1)
  let lost (x : Nat × Nat) : Ev := if counted x.1 then .none else (outlierEntry (!rp.chain.zcoff) s.holdf x).2
  (mine.foldl (fun t x => t.plus (Tally.ofConvert (lost x))) Tally.none,
    if s.ovf == 1 then (mine.filter (fun x => lost x == .sat)).map (fun x => (k, 8, x.1)) else [])

/-- Sweep B of the CONVERT stage, with the row's scale (R77 to R81). Of the overflows that one sweep B meets,
those of step 6 are reported before those of step 8, so they decide which is the first of R75. DESIGN CHOICE, log
entry 63. -/
def RowPass.startSweepB (rp : RowPass) (R : SweepB) : RowPass × Notes :=
  let k := rp.next
  let E := rp.convEnv k
  let hs := rp.slotted.zip rp.held
  let r := sweepAll E R { rp with sweep := some R, zeroRow := R.zeroRow } k hs
  let o := outlierNotes rp k R
  let rp1 := { r.1.addTally o.1 with held := [] }
  let xs := (rp1.slotted.zip r.2.1).map (fun p => { p.1 with e :=
    { p.1.e with res := (k, p.2) :: p.1.e.res, counted := p.1.e.counted || p.2.poison } })
  let go := rp1.goOn xs
  (go.1, Notes.append { nans := r.2.2.nans, sats := r.2.2.sats ++ o.2 } go.2)

/-- Results of stage `k` of a row pass, in column order. -/
def RowPass.results (rp : RowPass) (k : Nat) : List Nat :=
  rp.elems.map (fun e => (e.at (fmtOf (rp.chain.stage k).opfD) k).code)

/-- The STORE stages of the pass before stage `k` keep what they write, now that their elements go no further (R245). -/
def RowPass.keepStores (rp : RowPass) (k : Nat) : RowPass :=
  let new := (stagesFrom (rp.chain.passStart rp.pass) k).filter (fun j =>
    (rp.chain.stage j).op == opStore && !rp.stored.any (fun x => x.1 == j))
  { rp with stored := rp.stored ++ new.map (fun j => (j, rp.results j)) }

/-- What a STORE stage writes, in column order. -/
def RowPass.storeCodes (rp : RowPass) (k : Nat) : List Nat :=
  match rp.stored.find? (fun x => x.1 == k) with
  | some x => x.2
  | none => rp.results k

/-- The one result of a PSUM stage goes on as a row of one element in one tile (R102, R103, log entry 11); the
other tiles have none. Its column is that of the lowest tile's first element, and a stage behind it that reads IN_X, IN_Y or
an earlier result reads those of that element (DESIGN CHOICE, log entry 122). `created` says that infinities of both signs made it a NaN (R105, R377). -/
def RowPass.startPsum (rp : RowPass) (here created : Bool) (w : Written) : RowPass × Notes :=
  let k := rp.next
  let rp := rp.keepStores k
  if here then
    let e0 : RowElem := (rp.elems.head?).getD { x := w.elem, y := w.elem, res := [], counted := false }
    let rp1 := { rp.addTally w.tally with poison := rp.poison || w.elem.poison }
    let go := rp1.goOn [{ n := 0, e := { e0 with res := (k, w.elem) :: e0.res, counted := w.elem.poison } }]
    let nan := w.elem.poison || w.tally.nanSeen
    (go.1, Notes.append
      { nans := if nan then [{ stage := k, step := 0, col := rp.colAt 0, created := created }] else [], sats := [] } go.2)
  else rp.goOn []

/-! ### What the lanes ask of the evaluators (R131) -/

/-- The requests that an element makes at stage `k` of its lane group's evaluator: an EVAL's own, and the wide one of a
STAT SUM with SUMW = 1, for the function of its EVAL stage (R218). -/
def RowPass.evalKinds (rp : RowPass) (k : Nat) : List EvalKind :=
  let s := rp.chain.stage k
  let ask (func ofmt : Nat) : EvalKind := { func := func, table := rp.tab func, ofmt := ofmt, size := grantElems ofmt }
  if s.op == opEval then [ask s.func s.opfD]
  else if s.op == opStat && s.sumw then
    match rp.chain.evalOf k with
    | some j => [ask (rp.chain.stage j).func 0]
    | none => []
  else []

/-- Elements `lo` to `hi` of a share that lane `l` of lane group `e` takes: element n is taken by lane n mod 16 of lane
group ⌊n / 16⌋ mod 256 (DESIGN CHOICE, log entry 119). -/
def laneShare (lo hi e l : Nat) : Nat :=
  let upTo (n : Nat) : Nat := (n + 4095 - (16 * e + l)) / 4096
  upTo hi - upTo lo

/-- What the lanes of a row pass ask of their evaluators for the elements from `lo` on, which pass the stages `ks`: each
evaluator with the requests of its 16 lanes, in the order in which each lane presents them, stage by stage (DESIGN
CHOICE, log entry 119). -/
def RowPass.requests (rp : RowPass) (ks : List Nat) (lo : Nat) : List (Nat × List (List EvalKind)) :=
  let kinds := ks.flatMap rp.evalKinds
  let hi := rp.elems.length
  if kinds.isEmpty || hi ≤ lo then []
  else (List.range (min 256 ((hi - 1) / 16 - lo / 16 + 1))).map (fun j =>
    let e := (lo / 16 + j) % 256
    (e, (List.range 16).map (fun l => kinds.flatMap (List.replicate (laneShare lo hi e l)))))

/-- The request that forms the row factor of an APPLY at stage `k`, once in a tile, in wide mode to XF: lane 0 asks it of
evaluator 0 (R222; DESIGN CHOICE, log entry 119). A row of zeros has its factor without one (Table 9.5). -/
def RowPass.factorRequest (rp : RowPass) (k : Nat) : List (Nat × List (List EvalKind)) :=
  let s := rp.chain.stage k
  if s.op == opApply && s.aop == 2 && (rp.refAt k).any (fun r => !r.rcd.has fPoison && !r.rcd.has fZero) then
    [(0, [[{ func := 6, table := none, ofmt := 8, size := 1 }]])]
  else []

/-! ### A new row pass -/

/-- The accumulators of a pass's STAT stages. -/
def startAccs (c : Chain) (p : Nat) : List StatAcc :=
  (c.inPass p).filterMap (fun x => if x.2.op == opStat then some (StatAcc.start x.1) else none)

/-- The accumulators of a pass's PSUM stages. -/
def startPsums (c : Chain) (p : Nat) : List PsumAcc :=
  (c.inPass p).filterMap (fun x =>
    if x.2.op == opPsum then
      let lsb := lsbExp (fmtOf (c.selOpf x.1 x.2.sa)) + lsbExp (fmtOf (c.selOpf x.1 x.2.sb))
      some (PsumAcc.start x.1 lsb)
    else none)

/-- The CONVERT stage of a pass. -/
def Chain.convertOf (c : Chain) (p : Nat) : Option (Nat × Stage) := (c.inPass p).find? (fun x => x.2.op == opConvert)

/-- The units a row pass of pass `p` takes: RU_p at SHRp (R416). -/
def Chain.passUnits (c : Chain) (d : StreamDesc) (p : Nat) : Nat := c.rowUnits p (d.shr.getD (p - 1) 0)

/-- KU of a HELD row, at SHR1 (R416). -/
def Chain.heldUnits (c : Chain) (d : StreamDesc) : Nat := if d.held then unitsOf (d.shr.getD 0 0) c.inBits else 0

def RowPass.new (chain : Chain) (tables : List (Option Table)) (desc : StreamDesc)
    (sid row pass col0 len scale : Nat) (suspended promised : Bool) : RowPass where
  sid := sid
  row := row
  pass := pass
  chain := chain
  tables := tables
  desc := desc
  col0 := col0
  len := len
  scale := scale
  opened := true
  poison := false
  conflict := none
  recPoison := false
  elems := []
  taken := 0
  replay := []
  handed := false
  next := chain.firstWait pass
  faults := []
  refs := []
  accs := startAccs chain pass
  psums := startPsums chain pass
  satuf := 0
  nanc := 0
  nanSeen := false
  satSeen := false
  zeroRow := match chain.convertOf pass with
    | some (_, s) => s.scout == 0
    | none => false
  held := []
  sweep := none
  output := []
  stored := []
  combined := []
  writes := 0
  unsent := 0
  egress := 0
  released := false
  finished := false
  units := chain.passUnits desc pass
  unitsHeld := if pass == 1 then chain.heldUnits desc else 0
  tStart := none
  took := none
  excluded := 0
  suspendedFor := 0
  tentative := []
  suspended := suspended
  promised := promised

/-! ### Records of a row pass -/

/-- The tile record of a STAT stage (R181, R183; Table 8.4); `ref` is the record of its reference. -/
def RowPass.tileRec (rp : RowPass) (a : StatAcc) (ref : StatRef) : TileRec :=
  let s := rp.chain.stage a.step
  let k := s.kind
  let n := rp.taken
  let rcd : Rec :=
    { sig := rp.chain.sig, stream := BitVec.ofNat 14 rp.sid, kind := BitVec.ofNat 8 k
      flags := flagsOf (a.allZero || n == 0) (rp.poison || a.poison) (a.nan || rp.nanSeen) (a.sat || rp.satSeen) false
      row := BitVec.ofNat 48 rp.row, count := BitVec.ofNat 32 n, pass := BitVec.ofNat 16 rp.pass
      step := BitVec.ofNat 8 a.step
      maxkey := if kMax k then BitVec.ofNat 32 a.maxkey else if kSum k then ref.key else 0
      absmax := if kAbsmax k then BitVec.ofNat 32 a.absmax else 0
      sum := if kSum k then BitVec.ofNat 64 a.sum else 0
      sumsq := if kSumsq k then BitVec.ofNat 64 a.sumsq else 0
      e := if kExpo k then BitVec.ofInt 16 (expoOf a.absmax) else if kSumsq k then ref.e else 0
      satuf := BitVec.ofNat 32 rp.satuf, nanc := BitVec.ofNat 32 rp.nanc }
  { rcd := rcd, zeros := rp.zeroRow || n == 0 }

end Sys2Proof.Machine
end

