-- ==== Sys2Proof/Machine/Streams.lean ====
section
/-!
DEFINITION. Streams in service (R261 to R284): state codes, promises under suspension, late rows, the
release of chain versions and table slots (R150, R257), and the end of a closing stream.
-/

namespace Sys2Proof.Machine

/-! ### Operating points and classes (Tables 13.3 and 11.3) -/

/-- CCLK of a point in MHz. -/
def pointMhz (p : Nat) : Nat := [400, 500, 650, 800, 900, 1000, 1100, 1200, 1300].getD p 0

/-- Bound of a latency class, in ns. -/
def classBound (cls : Nat) : Nat :=
  match cls with
  | 0 => 1500 | 1 => 12000 | 2 => 100000 | _ => 1000000

/-! ### Stream states (Tables 11.1 and 14.7) -/

/-- STATE of QUERY_STREAM; a stream reads MIGRATING throughout its migration, also while it closes (R387, log entry
37). -/
def Stream.code (x : Stream) : Nat :=
  if x.migration.isSome then 3 else if x.closing then 4 else if x.suspended then 2 else 1

/-- A squall, a halt, or an absent clock or power suspends the stream. -/
def Causes.any (c : Causes) : Bool := c.squall || c.halt || c.noClock || c.noPower

def Causes.none : Causes := { squall := false, halt := false, noClock := false, noPower := false }

/-- A cause of suspension is in effect: its own, or an announced interval that lists it (R372). -/
def State.causeNow (s : State) (x : Stream) : Bool :=
  x.causes.any || s.intervals.any (fun i => i.streams.contains x.sid)

/-- The stream's chain issues FAB traffic inside a row pass (R371). -/
def Chain.usesFab (c : Chain) : Bool :=
  c.stages.any (fun s => (s.op == opMerge && s.mlay != 0) || s.op == opStore || s.op == opGather ||
    (s.op == opConvert && s.dest == 1))

def State.atRisk (s : State) (x : Stream) : Bool :=
  match s.chain? x.desc.chain with
  | some c => c.usesFab
  | none => false

/-- The row passes of a stream in every tile. -/
def State.passesOf (s : State) (sid : Nat) : List RowPass :=
  s.tiles.toList.flatMap (fun t => t.rows.filter (fun r => r.sid == sid))

/-! ### Suspension and return (R277, R278, R372) -/

/-- Changes a stream's causes; a stream that was not suspended enters its suspension. -/
def State.suspend (s : State) (sid : Nat) (f : Causes → Causes) : State :=
  s.modStream sid (fun x =>
    let x := if x.suspended then x
      else { x with suspended := true, lateN := 0, lateFirst := 0, lateLast := 0, latePass := 0, lateWorst := 0 }
    { x with causes := f x.causes })

/-- Payload of LATE and LATE_ROW (Table 11.9). -/
def latePayload (x : Stream) (pass n first last worst : Nat) : Nat :=
  pack [(0, x.sid), (2, x.desc.cls + pass * 16), (4, min n 0xFFFF), (8, first % 2 ^ 48), (14, last % 2 ^ 48),
    (20, worst % 2 ^ 32)]

/-- A stream with no cause left returns to OPEN once the last row pass begun during its suspension has
ended, with one LATE notice where any was late (R278). -/
def State.resume (s : State) (sid : Nat) : State :=
  match s.stream? sid with
  | none => s
  | some x =>
    if x.suspended && !s.causeNow x && !(s.passesOf sid).any (fun r => r.suspended && r.took.isNone) then
      let s := s.modStream sid (fun x => { x with suspended := false })
      if x.lateN > 0 && !x.voided then
        s.notice (srcBand (sidBand sid)) evLate
          (latePayload x x.latePass x.lateN x.lateFirst x.lateLast x.lateWorst)
      else s
    else s

/-- Every stream of a list returns to OPEN where it can. -/
def State.resumeAll (s : State) (sids : List Nat) : State := sids.foldl (fun s sid => s.resume sid) s

/-- Ends a cause for the streams of a list. -/
def State.unsuspend (s : State) (sids : List Nat) (f : Causes → Causes) : State :=
  sids.foldl (fun s sid => (s.modStream sid (fun x => { x with causes := f x.causes })).resume sid) s

/-! ### Late row passes (R275, R278) -/

/-- A counter of 32 bits with its sticky SAT bit (R385). -/
def satBit (n : Nat) : Bool := n ≥ 0xFFFFFFFF

/-- A row pass of the stream has ended everywhere, with its latency in ticks of 10 ns. -/
def State.passEnded (s : State) (sid row pass ticks : Nat) (promised : Bool) : State :=
  match s.stream? sid with
  | none => s
  | some x =>
    let ns := ticks * 10
    let bound := classBound x.desc.cls
    let x1 := { x with
      done := min (x.done + 1) (2 ^ 48 - 1)
      worst := x.worst.set (pass - 1) (max (x.worst.getD (pass - 1) 0) ns) }
    if x.voided then s.modStream sid (fun _ => x1)
    else if x.suspended || !promised then
      if x.suspended && ns > bound then
        s.modStream sid (fun _ => { x1 with
          lateN := x.lateN + 1
          lateFirst := if x.lateN == 0 then row else x.lateFirst
          lateLast := row
          latePass := if x.lateN == 0 then pass else x.latePass
          lateWorst := max x.lateWorst ns })
      else s.modStream sid (fun _ => x1)
    else if ns > bound + 10 then
      let n := satInc x.lateCount
      let s := s.modStream sid (fun _ => { x1 with lateCount := n, lateSat := x.lateSat || satBit n, lateRaised := true })
      if x.lateRaised then s
      else s.notice (srcBand (sidBand sid)) evLateRow (latePayload x pass 1 row row ns)
    else s.modStream sid (fun _ => x1)

/-! ### Releasing chain versions and table slots (R150, R257) -/

/-- Rows of the blocks or windows of a chain: a chain has one size (R246, R249). -/
def Chain.blockSize (c : Chain) : Nat := maxOf (c.passes.map c.egressFactor)

/-- A row whose block or window, in the version that the row reads, holds row `row` too: a change never splits
one, so both read that version (R23, R248). -/
def Stream.versionFor (x : Stream) (row : Nat) : Option RowCtx :=
  x.rows.find? (fun r => r.chain.blockSize > 1 && r.row / r.chain.blockSize == row / r.chain.blockSize)

/-- The tables behind the four slots. -/
def State.tablesNow (s : State) : List (Option Table) := s.slots.toList.map (fun x => x.table)

/-- The row that began last keeps its version for row `row` too: a new version, whose block or window would hold both,
applies from its next block or window on (R248). -/
def BegunRow.binds (b : BegunRow) (newest : Chain) (row : Nat) : Bool :=
  b.chain.ver != newest.ver && newest.blockSize > 1 && b.row / newest.blockSize == row / newest.blockSize

/-- The versions that a row of a stream reads which has not begun (R23, R210, R248). -/
def State.rowVersion (s : State) (x : Stream) (row : Nat) : Option (Chain × List (Option Table)) :=
  (s.chain? x.desc.chain).map (fun newest =>
    match x.versionFor row, x.begun with
    | some r, _ => (r.chain, r.tables)
    | none, some b => if b.binds newest row then (b.chain, b.tables) else (newest, s.tablesNow)
    | none, none => (newest, s.tablesNow))

/-- Chain versions that a row of any stream still reads, or that its next row is to read. -/
def State.heldVersions (s : State) : List Nat :=
  s.streams.flatMap (fun x => x.rows.map (fun r => r.chain.ver) ++
    (match x.begun with
    | some b => ((s.rowVersion x (b.row + 1)).map (fun v => v.1.ver)).toList
    | none => []))

/-- Old versions that no row reads are released. -/
def State.pruneChains (s : State) : State :=
  let held := s.heldVersions
  { s with chains := s.chains.map (fun c => (c.1, match c.2 with
      | [] => []
      | v :: vs => v :: vs.filter (fun w => held.contains w.ver))) }

/-- Queued XEV requests that hold the table whose first slot is `i` (R136). -/
def State.xevHolds (s : State) (i : Nat) : Nat :=
  (s.tiles.toList.flatMap (fun t => t.xevBuf)).countP (fun r => r.slot == some i && !r.places.isEmpty)

/-- Row passes of a row: its passes that stand in a tile. A row between two passes holds its version for those to come and
counts as one (DEDUCED, log entry 134). -/
def State.rowPassCount (s : State) (sid : Nat) (r : RowCtx) : Nat :=
  max 1 (r.chain.passes.countP (fun p => r.tiles.any (fun t => ((s.tile t).pass? sid r.row p).isSome)))

/-- Row passes whose chain version meets a test (R387). -/
def State.passesWith (s : State) (p : Chain → Bool) : Nat :=
  (s.streams.flatMap (fun x => (x.rows.filter (fun r => p r.chain)).map (s.rowPassCount x.sid))).sum

/-- References on the table whose first slot is `i`: the resident chains that name it, each by its newest version, the row
passes that hold it, those of older versions among them, and the queued XEV requests (R136, R150, R387). -/
def State.slotRefs (s : State) (i : Nat) : Nat :=
  s.chains.countP (fun c => c.2.head?.any (fun v => v.slotsNamed.contains i)) +
    s.passesWith (fun v => v.slotsNamed.contains i) + s.xevHolds i

/-- Something still names or holds the table whose first slot is `i`: a chain version, one kept for rows that may still
begin in it too (R248), a row, or a queued XEV request. -/
def State.slotHeld (s : State) (i : Nat) : Bool :=
  (s.chains.flatMap (fun c => c.2)).any (fun v => v.slotsNamed.contains i) ||
    (s.streams.flatMap (fun x => x.rows)).any (fun r => r.chain.slotsNamed.contains i) || s.xevHolds i != 0

/-- A DRAINING table that nothing holds frees its slots (R150). -/
def State.drainSlots (s : State) : State :=
  { s with slots := s.slots.mapIdx (fun i x =>
      if x.state == .draining && !s.slotHeld x.first then { state := .free, first := i, table := none } else x) }

/-! ### The promise record (R273) -/

/-- Exact TILE_TIME terms are fractions; this adds two. -/
def addFrac (a b : Nat × Nat) : Nat × Nat := (a.1 * b.2 + b.1 * a.2, a.2 * b.2)

/-- Words 1 to 6 of the promise record, as last recomputed. -/
def State.promiseWords (s : State) (x : Stream) : List Nat :=
  let w := if x.voided then [0xFFFFFFFF, 0xFFFFFFFF, 0xFFFFFFFF] else (List.range 3).map (fun i => x.w.getD i 0)
  [x.sid + x.desc.cls * 2 ^ 16 + b2n x.desc.mig * 2 ^ 18, pointMhz (s.band (sidBand x.sid)).floor] ++ w ++ [x.ppm]

end Sys2Proof.Machine
end

