-- ==== Sys2Proof/Machine/Books.lean ====
section
/-!
DEFINITION. What the books of R387 count: the staging of streams (R255, R369, Table 11.6), the references on chains
and tables, and the counters that the block keeps beside them (Table 16.6).
-/

namespace Sys2Proof.Machine

/-! ### Staging units (R211, R237, R255, R416) -/

/-- The chain keeps a hold ring (R211). -/
def Chain.needsHold (c : Chain) : Bool := c.stages.any (fun s => s.op == opApply || s.needsRef)

/-- H of R211: the most final records that one row holds at once. A record is held from the end of its
pass to the end of the last pass that reads it; at the end of a pass the records read last there make room. -/
def Chain.holdSlots (c : Chain) : Nat :=
  let readers (k : Nat) := (c.stages.filter (fun s =>
    (s.op == opApply && s.astat == k) || (s.needsRef && s.ref == k))).map (fun s => s.pass)
  let live (p : Nat) := ((List.range c.stages.length).filter (fun k =>
    let s := c.stage k
    s.op == opStat && s.pass ≤ p && (readers k).any (fun q => q > p))).length
  max 1 (maxOf (c.passes.map live))

/-- 2 × max RU_p + KU_s: the stream's share for its row passes (R416). -/
def Chain.streamShare (c : Chain) (d : StreamDesc) : Nat :=
  2 * maxOf (c.passes.map (c.passUnits d)) + 2 * c.heldUnits d

/-- Staging of a stream without the chain's constants: hold ring, two row passes, and HELD rows. -/
def streamUnits (c : Chain) (d : StreamDesc) : Nat :=
  ceilDiv (d.rhold * c.holdSlots) 64 + c.streamShare d

/-- Staging units of a tile in service (R255, R369). -/
def Tile.units (x : Tile) : Nat :=
  12 * (16 - ((List.range 16).filter (fun i => (x.banksOff ||| x.banksClosing).getLsbD i)).length)

/-- Streams on a tile with their chains, each with its newest version, also where rows begun in an older one still use it:
N_max and Dmax of an admission count the newest alone (R173; DESIGN CHOICE, log entry 85). -/
def State.tileLoad (s : State) (t : Nat) (besides : Nat) : List (Chain × StreamDesc) :=
  (s.streamsOn t).filterMap (fun x =>
    if x.sid == besides then none else (s.chain? x.desc.chain).map (fun c => (c, x.desc)))

/-- Staging units reserved on a tile: constants once per chain (R237). -/
def unitsReserved (ls : List (Chain × StreamDesc)) : Nat :=
  (ls.map (fun x => streamUnits x.1 x.2)).sum +
    (((ls.map (fun x => (x.1.id, x.1.constUnits))).dedup).map (fun x => x.2)).sum

/-! ### What is in use (Table 16.6) -/

/-- References on chain `id`: the streams open with it and the row passes on its versions. -/
def State.chainRefs (s : State) (id : Nat) : Nat :=
  s.streams.countP (fun x => x.desc.chain == id) +
    s.passesWith (fun v => v.id == id)

/-- The chain ids to which something refers: streams open with them, and row passes on their versions. -/
def State.chainsNamed (s : State) : List Nat :=
  (s.streams.map (fun x => x.desc.chain) ++ (s.streams.flatMap (fun x => x.rows)).map (fun r => r.chain.id)).dedup

/-- Units of a tile that are not free: those that its streams reserve, their chains' constants and hold rings, and the
banks that are off (book 3). -/
def State.unitsTaken (s : State) (t : Nat) : Nat := unitsReserved (s.tileLoad t 0x4000) + (192 - (s.tile t).units)

/-- What each book counts as it stands. -/
def State.inUse (s : State) : BookCounts where
  skid := s.tiles.toList.map (fun t => t.queue.countP (fun q => q.isBeat))
  units := (List.range 88).map s.unitsTaken
  contexts := (List.range 8).map (fun b => (s.streamsIn b).length)
  slots := (List.range 4).map s.slotRefs
  chains := s.chainsNamed.map (fun id => (id, s.chainRefs id))

/-! ### The counters -/

/-- A counter of what is free, as what is taken changes. -/
def spend (free was now : List Nat) : List Nat :=
  free.zipWith (fun f (p : Nat × Nat) => f + p.1 - p.2) (was.zip now)

/-- Entry of a list by chain id. -/
def refOf (xs : List (Nat × Nat)) (id : Nat) : Nat := ((xs.find? (fun x => x.1 == id)).map (fun x => x.2)).getD 0

/-- The counters of references on chains, as references come and go. -/
def refer (refs was now : List (Nat × Nat)) : List (Nat × Nat) :=
  ((refs ++ now).map (fun x => x.1)).dedup.filterMap (fun id =>
    let n := refOf refs id + refOf now id - refOf was id
    if n == 0 then none else some (id, n))

/-- The counters after an operation that changes what is in use from `was` to `now`. -/
def BookCounts.follow (b was now : BookCounts) : BookCounts :=
  if was = now then b
  else
    { skid := spend b.skid was.skid now.skid
      units := spend b.units was.units now.units
      contexts := spend b.contexts was.contexts now.contexts
      slots := spend b.slots now.slots was.slots
      chains := refer b.chains was.chains now.chains }

/-- An operation that takes or returns what the books count: each counter goes up or down with it. -/
def State.booked (s : State) (f : State → State) : State :=
  { f s with books := s.books.follow s.inUse (f s).inUse }

/-- Releases what the last row pass on an old version held. -/
def State.prune (s : State) : State := s.booked (fun s => s.pruneChains.drainSlots)

/-! ### Grants of the evaluators (book 6) -/

/-- Counts one more for an evaluator. -/
def countAt (e : Nat) : List (Nat × Nat) → List (Nat × Nat)
  | [] => [(e, 1)]
  | x :: xs => if e == x.1 then (e, x.2 + 1) :: xs else x :: countAt e xs

/-- The evaluators `es` of a tile have each issued a grant, one as often as it stands there, and returned its results:
between two commands, nothing stands in their pipelines (log entry 9). -/
def Tile.grant (x : Tile) (es : List Nat) : Tile :=
  { x with evalGrants := es.foldl (fun l e => countAt e l) x.evalGrants, evalResults := es.foldl (fun l e => countAt e l) x.evalResults }

/-- An evaluator's entry becomes `n`. -/
def setAt (e n : Nat) : List (Nat × Nat) → List (Nat × Nat)
  | [] => [(e, n)]
  | x :: xs => if e == x.1 then (e, n) :: xs else x :: setAt e n xs

/-- An evaluator serves what its lanes ask: its grants go out, and its lane pointer moves on with them (R131). -/
def Tile.serve (x : Tile) (q : Nat × List (List EvalKind)) : Tile :=
  let r := arbServe (q.2.map List.length).sum q.2 (refOf x.lanePtrs q.1)
  { x.grant (List.replicate r.1 q.1) with lanePtrs := setAt q.1 r.2 x.lanePtrs }

end Sys2Proof.Machine
end

