-- ==== Sys2Proof/Machine/Rotation.lean ====
section
/-!
DEFINITION. Power gating of tiles and the service operation of a band (R320 to R322, R357 to R362, R366 to
R370): which tile is in hand, its move through the spare, and how an operation ends.
-/

namespace Sys2Proof.Machine

/-! ### Gating and powering (R320, R321) -/

/-- A tile as it leaves reset: nothing in its ports, and its credit counter (Table 12.11) and its occupancy gauge at
0 (Table 17.7). -/
def Tile.cleared (x : Tile) : Tile :=
  { x with
    queue := [], openPasses := [], rows := [], blocks := [], hold := [], egress := [], opdCredits := 0,
    opdReturned := 0, opdSpent := 0, opdNext := 0, opdOut := none, xevPtr := 0, xevBuf := [], xevOut := none, xevLeft := 0, lanePtrs := [], evalGrants := [], evalResults := [], bankRows := [],
    banksOff := x.banksOff ||| x.banksClosing, banksClosing := 0, occupancy := 0 }

namespace State

/-- Isolates a tile and releases it for power-off. -/
def gate (s : State) (t : Nat) : State :=
  s.booked (fun s => s.modTile t (fun x => { x.cleared with pgReq := true, power := .off }))

/-- Asks for a tile's power; a tile that still has it goes into reset at once. -/
def powerUp (s : State) (t : Nat) : State :=
  s.booked (fun s => s.modTile t (fun x =>
    { x.cleared with pgReq := false, power := if x.pgState then .resetHold else .off }))

def setActive (s : State) (t : Nat) (on : Bool) : State := s.modTile t (fun x => { x with active := on })

def setSpare (s : State) (b : Nat) (t : Option Nat) : State :=
  s.modBand b (fun x => { x with spare := t.map (fun t => Fin.ofNat 11 (t % 11)) })

/-- The spare of a band, as a physical tile. -/
def spareTile (s : State) (b : Nat) : Option Nat := (s.band b).spare.map (fun i => 11 * b + i.val)

/-- A failed test, power-up or march of a tile (layout U). -/
def testFail (s : State) (t unit index : Nat) : State :=
  s.report srcMgmt evTileTestFail (layoutU t unit index 0xFFFF 0 0 0)

/-! ### Service operations -/

def setSvc (s : State) (b : Nat) (o : Option SvcOp) : State := s.modBand b (fun x => { x with svc := o })

/-- The spare that takes a moving tile's streams has been prepared, and counts as active for them (R26). -/
def receiving (s : State) (t : Nat) : Bool :=
  let b := bandOf t
  match (s.band b).svc with
  | some o => o.rotate && o.phase == .move && s.spareTile b == some t
  | none => false

/-- The tile counts as absent for admission: an operation is moving its streams away (R357). -/
def leaving (s : State) (t : Nat) : Bool :=
  match (s.band (bandOf t)).svc with
  | some o => o.cur == t && o.rotate && (o.phase == .prepare || o.phase == .move)
  | none => false

/-- A stream on the tile has no migration allowance. -/
def blocked (s : State) (t : Nat) : Bool := (s.streamsOn t).any (fun x => !x.desc.mig)

/-- A tile's calibration-record hash (R367): a free value of the tile and of the record's values. -/
def calHashOf (s : State) (t : Nat) : Nat :=
  let r := (s.tile t).calRecord
  (Config.calHash t r.margins r.offsets r.assist).toNat

/-- A tile enters service: what its last calibration set takes effect (Table 15.5). -/
def enterService (s : State) (t : Nat) : State := s.modTile t (fun x => { x with calUsed := x.calRecord })

/-- What a service entry records of one tile (Table 16.9): the band's map word, or for CALIBRATE the tile's
calibration-record hash; 0 where every tile is named. -/
def svcWord (s : State) (op t : Nat) : Nat :=
  if t ≥ 88 then 0 else if kindOfOp op == kCalibration then s.calHashOf t else s.mapWord (bandOf t)

/-- OLDH and NEWH of the completion entry. -/
def svcWords (s : State) (o : SvcOp) : Nat × Nat :=
  match s.longOp? o.origin o.tag with
  | some l => (l.oldh.toNat, s.svcWord l.opcode (l.logObj.toNat % 128))
  | none => (0, 0)

/-- The operation is over in band `b`; when it is over in every band, it ends. -/
def svcEnd (s : State) (b : Nat) : State :=
  match (s.band b).svc with
  | none => s
  | some o =>
    let s := s.setSvc b none
    if s.bands.toList.any (fun x => match x.svc with
      | some p => p.origin == o.origin && p.tag == o.tag
      | none => false) then s
    else
      let result := ((s.longOp? o.origin o.tag).bind (fun l => l.failed)).getD 0
      let w := s.svcWords o
      s.finishLong o.origin o.tag result.toNat w.1 w.2

/-- The operation has no further tile in band `b`, and ends there; during a hand-over its end waits (R349). -/
def svcStop (s : State) (b : Nat) : State :=
  match (s.band b).svc with
  | none => s
  | some o => if s.paused then s.setSvc b (some { o with todo := [], late := [], phase := .next }) else s.svcEnd b

/-- The operation ends in band `b` with CAPACITY. -/
def svcFail (s : State) (b : Nat) : State :=
  match (s.band b).svc with
  | none => s
  | some o => (s.modLong o.origin o.tag (fun l => { l with failed := some (BitVec.ofNat 16 stCapacity) })).svcStop b

/-- A tile of the operation is completed. -/
def svcCount (s : State) (o : SvcOp) : State := s.modLong o.origin o.tag (fun l => { l with done := l.done + 1 })

/-- Streams of tile `t` that no lost tile serves any more are no longer without power (R322). -/
def powerBack (s : State) (t : Nat) : State :=
  let back := (s.streamsOn t).filter (fun x => !x.tiles.any (fun u => (s.tile u).lost))
  s.unsuspend (back.map (fun x => x.sid)) (fun c => { c with noPower := false })

/-- A tile that has failed the entry check since the operation began, and holds no stream: it has no role to return to
(R326; DEDUCED, log entry 105). -/
def outOfTurn (s : State) (t : Nat) : Bool := (s.tile t).failed && (s.streamsOn t).isEmpty

/-- The next tile in turn: one that holds a stream without an allowance is deferred once, and waited for
when only deferred ones are left (R366). -/
def pickTile (s : State) : List Nat → List Nat → Option (Nat × List Nat × List Nat)
  | [], [] => none
  | [], t :: late => some (t, [], late)
  | t :: todo, late => if s.blocked t then s.pickTile todo (late ++ [t]) else some (t, todo, late)

/-- Takes tile `t` in hand: through the spare where it holds streams, else in place. An active tile in hand is out
of the map meanwhile, and so is a spare whose bank marches (R370). An active tile that has lost its power since the
operation began keeps its role: it waits for the power, as the steps of R321 give it back (R366, R322). -/
def svcBegin (s : State) (b : Nat) (o : SvcOp) (t : Nat) : State :=
  let always := match o.kind with
    | .retire _ => true
    | _ => false
  if (s.streamsOn t).isEmpty && !always then
    if (s.tile t).active then
      (s.changeMap b (fun s => s.setActive t false)).setSvc b
        (some { o with cur := t, rotate := false, wasActive := true, phase := .work })
    else if (s.tile t).lost then s.setSvc b (some { o with cur := t, rotate := false, wasActive := true, phase := .power })
    else
      let s := match o.kind with
        | .bankOn _ => s.changeMap b (fun s => s.setSpare b none)
        | _ => s
      (s.powerUp t).setSvc b (some { o with cur := t, rotate := false, wasActive := false, phase := .power })
  else
    match s.spareTile b with
    | some sp => (s.powerUp sp).setSvc b (some { o with cur := t, rotate := true, wasActive := true, phase := .prepare })
    | none => (s.setSvc b (some o)).svcFail b

/-- Goes on to the next tile of the operation, or ends it. -/
def svcNext (s : State) (b : Nat) : State :=
  match (s.band b).svc with
  | none => s
  | some o =>
    let inTurn := List.filter (fun t => !s.outOfTurn t)
    match s.pickTile (inTurn o.todo) (inTurn o.late) with
    | none => s.svcEnd b
    | some (t, todo, late) => s.svcBegin b { o with todo := todo, late := late } t

/-- Closes the gap to the next tile; a hand-over pauses it (R349). -/
def svcGoOn (s : State) (b : Nat) : State :=
  if s.paused then
    (match (s.band b).svc with
    | some o => s.setSvc b (some { o with phase := .next })
    | none => s)
  else s.svcNext b

/-- A tile that has left the map is restored (R362, R366): it runs the steps of R321 before it takes its role. -/
def svcRestore (s : State) (b : Nat) (o : SvcOp) : State := (s.powerUp o.cur).setSvc b (some { o with phase := .restorePower })

/-- The tile in hand ends the operation gated and out of the map, as a retired tile: it failed an entry check. -/
def svcRetire (s : State) (b : Nat) (o : SvcOp) : State :=
  ((s.gate o.cur).modTile o.cur (fun x => { x with retired := true })).svcFail b

/-- Gate (Table 15.2): the tile in hand leaves the map and the spare joins it as active; a spare that has lost its
power joins once it returns by R321 (R35, R322). A tile that failed an entry check meanwhile is not worked on. -/
def svcGate (s : State) (b : Nat) (o : SvcOp) : State :=
  match s.spareTile b with
  | none => s.svcFail b
  | some sp =>
    let has := (s.tile sp).power == .ready
    let failed := (s.tile o.cur).failed
    let s := s.changeMap b (fun s => ((s.setActive o.cur false).setActive sp has).setSpare b none)
    let s := s.modTile o.cur (fun x => { x with lost := false })
    match o.kind with
    | .retire _ =>
      let s := s.modLong o.origin o.tag (fun l => { l with object := BitVec.ofNat 64 (o.cur + sp * 2 ^ 8) })
      (((s.gate o.cur).modTile o.cur (fun x => { x with retired := true }))).svcEnd b
    | .bankOff k =>
      let s := s.booked (fun s => s.modTile o.cur (fun x => { x with banksOff := x.banksOff ||| BitVec.ofNat 16 (2 ^ k) }))
      if failed then s.svcRetire b o else s.svcRestore b o
    | _ => if failed then s.svcRetire b o else (s.booked (fun s => s.modTile o.cur Tile.cleared)).setSvc b (some { o with phase := .work })

/-- The restore that has tile `t` in hand. -/
def restoring (s : State) (t : Nat) : Option SvcOp :=
  (s.band (bandOf t)).svc.filter (fun o => o.kind == .restore && o.phase == .power && o.cur == t)

/-- Steps of R321 that tile `t` has behind it in its restore. -/
def restoreSteps (s : State) (t : Nat) : Nat := ((s.restoring t).map (fun o => o.steps)).getD 0

/-- A step of a restore is completed (Table 14.10); one that is done again after a loss of power does not count twice,
so that DONE never falls (R282). -/
def restoreStep (s : State) (t : Nat) : State :=
  match s.restoring t with
  | some o => (s.setSvc (bandOf t) (some { o with steps := o.steps + 1 })).modLong o.origin o.tag
      (fun l => { l with done := max l.done (o.steps + 1) })
  | none => s

/-- The steps of a restore that a lost tile has behind it are to be done again. -/
def restoreAnew (s : State) (t : Nat) : State :=
  match s.restoring t with
  | some o => s.setSvc (bandOf t) (some { o with steps := 0 })
  | none => s

/-- A restore that a hand-over held at the end of a step takes the next one (R321, R349). -/
def restoreGoOn (s : State) (t : Nat) : State :=
  let x := s.tile t
  if x.power == .off && x.pgState && !x.pgReq then s.modTile t (fun x => { x with power := .resetHold })
  else if x.power == .resetHold && s.restoreSteps t ≥ 2 then s.modTile t (fun x => { x with power := .entryCheck })
  else s

/-- Lets the operation of a band go on as far as nothing but the streams held it. -/
def svcSettle (s : State) (b : Nat) : State :=
  match (s.band b).svc with
  | none => s
  | some o =>
    let left := (s.streamsOn o.cur).length
    let s := match o.kind with
      | .retire _ => s.modLong o.origin o.tag (fun l => { l with done := l.total - left })
      | _ => s
    match o.phase, o.kind with
    | .move, _ => if left == 0 && !s.paused then s.svcGate b o else s
    | .work, .bankOff _ => if (s.tile o.cur).banksClosing == 0 then (s.svcCount o).svcStop b else s
    | .next, _ => if s.paused then s else s.svcNext b
    | .power, .restore => if s.paused then s else s.restoreGoOn o.cur
    | _, _ => s

/-! ### A tile enters service (R321) -/

/-- The tile enters the map as active: one that had lost its power, or one that takes a failed tile's place. -/
def joinMap (s : State) (t : Nat) : State :=
  (s.changeMap (bandOf t) (fun s =>
    (s.modTile t (fun x => { x with power := .ready, active := true, lost := false, failed := false })).enterService t)).powerBack t

/-- The band's spare from now on: gated while idle (R27). -/
def becomeSpare (s : State) (b t : Nat) : State :=
  s.changeMap b (fun s => ((s.gate t).modTile t (fun x => { x with retired := false, lost := false, failed := false })).setSpare b (some t))

/-- The operation is done with the tile in hand; a test or a calibration goes on to the next. -/
def svcDone (s : State) (b : Nat) (o : SvcOp) : State :=
  match o.kind with
  | .selftest | .calibrate _ => (s.svcCount o).svcGoOn b
  | _ => (s.svcCount o).svcStop b

/-- The spare fails while it is prepared or powered: it stays gated, and the band has none. -/
def loseSpare (s : State) (b t : Nat) : State :=
  s.changeMap b (fun s => ((s.gate t).modTile t (fun x => { x with failed := true })).setSpare b none)

/-- An entry check ends: the tile takes the role it was powered for. One that fails after a rotation stays gated and
out of the map, as a retired tile (R362); so does a tile of a rotation that lost its power under its test. A spare that
fails while streams move to it ends the operation, as one that fails while it is prepared (R374; DEDUCED, log
entry 105). -/
def entryChecked (s : State) (t : Nat) (pass : Bool) : State :=
  let b := bandOf t
  let ready (s : State) : State := s.modTile t (fun x => { x with power := .ready })
  let role : Option SvcOp := match (s.band b).svc with
    | some o => if o.phase == .prepare && s.spareTile b == some t then some o
        else if (o.phase == .power || o.phase == .restorePower || o.phase == .work) && o.cur == t then some o
        else if o.phase == .move && s.spareTile b == some t then some o else none
    | none => none
  let old : Bool := match (s.band b).svc with
    | some o => o.phase == .move && o.cur == t
    | none => false
  let back (s : State) : State := ((ready s).modTile t (fun x => { x with lost := false, failed := false })).powerBack t
  match role, pass with
  | none, true => if old then back s else s.joinMap t
  | none, false => (s.testFail t 0 0).changeMap b (fun s => ((s.gate t).setActive t false).modTile t (fun x => { x with failed := true }))
  | some o, true =>
    if o.phase == .prepare then (((ready s).enterService t).setSvc b (some { o with phase := .move })).svcSettle b
    else if o.phase == .work || o.phase == .move then back s
    else if o.phase == .power then
      match o.kind with
      | .restore => ((s.becomeSpare b t).svcCount o).svcStop b
      | _ => (ready s).setSvc b (some { o with phase := .work })
    else if o.wasActive && !o.rotate then (s.joinMap t).svcDone b o
    else (s.becomeSpare b t).svcDone b o
  | some o, false =>
    let s := s.testFail t 0 0
    if o.kind == .restore then (s.gate t).svcFail b
    else if (o.phase == .restorePower || o.phase == .work) && o.rotate then s.svcRetire b o
    else if s.spareTile b == some t then (s.loseSpare b t).svcFail b
    else ((s.gate t).modTile t (fun x => { x with failed := true })).svcFail b

end State

end Sys2Proof.Machine
end

