-- ==== Sys2Proof/Machine/Closing.lean ====
section
/-!
DEFINITION. The end of a closing stream (R284), and what it lets a service operation of its band do.
-/

namespace Sys2Proof.Machine

/-! ### Closing (R284) -/

/-- Nothing of the stream is left in any tile: no row, no block, no queued beat. -/
def State.idle (s : State) (x : Stream) : Bool :=
  x.rows.isEmpty && s.tiles.toList.all (fun t =>
    t.blocks.all (fun b => b.sid != x.sid || b.rows.isEmpty) && !t.queue.any (fun q => q.sid == x.sid) &&
      !t.openPasses.any (fun o => o.sid == x.sid && o.isOpen && !o.stray))

/-- A closing stream whose last row pass has ended becomes FREE (R284); a close that
a hand-over has paused ends after READY (R349). STREAM_CLOSED has the SID in bytes 16 to 19 and the late count in bytes 20
to 23: layout C does not divide the eight (DESIGN CHOICE, log entry 132). -/
def State.finishClose (s : State) (sid : Nat) : State :=
  match s.stream? sid with
  | none => s
  | some x =>
    if x.closing && s.idle x && !s.paused then
      let s := s.booked (fun s => s.dropStream sid)
      let s := { s with
        tiles := s.tiles.map (fun (t : Tile) => { t with
          hold := t.hold.filter (fun h => h.sid != sid)
          blocks := t.blocks.filter (fun b => b.sid != sid)
          openPasses := t.openPasses.filter (fun o => o.sid != sid) })
        intervals := s.intervals.map (fun (i : Interval) => { i with streams := i.streams.filter (fun n => n != sid) }) }
      match x.closeBy with
      | none => s.prune.svcSettle (sidBand sid)
      | some (origin, tag) =>
        let s := s.modLong origin tag (fun o => { o with done := o.total, object := BitVec.ofNat 64 (sid + x.lateCount * 2 ^ 32) })
        ((s.finishLong origin tag stOk x.hash.toNat 0).prune).svcSettle (sidBand sid)
    else s

end Sys2Proof.Machine
end

