-- ==== Sys2Proof/Machine/Egress.lean ====
section
/-!
DEFINITION. What leaves a row pass: writes to host memory (R245, R415), OPD_OUT beats of plain rows,
TRANSPOSE blocks and GATHER windows (R243 to R251, R294, R295).
-/

namespace Sys2Proof.Machine

/-! ### Host writes -/

/-- Bytes `bs` at address `a` as writes of 64-byte aligned pieces (R245, R301). -/
def hostWrites (owner : FabOwner) : Nat → Nat → List Byte → List FabReq
  | 0, _, _ => []
  | _, _, [] => []
  | fuel + 1, a, bs =>
    let n := 64 - a % 64
    let here := bs.take n
    let off := a % 128
    { op := .write, addr := BitVec.ofNat 52 (a - off),
      be := BitVec.ofNat 128 ((2 ^ here.length - 1) * 2 ^ off),
      data := BitVec.ofNat 1024 (leNat here * 2 ^ (8 * off)), owner := owner } ::
      hostWrites owner fuel (a + n) (bs.drop n)

/-- Codes as bytes, packed by R39; a last half byte is completed with 0 (R415). -/
def codeBytes (w : Nat) (codes : List Nat) : List Byte :=
  toLe (ceilDiv (codes.length * w) 8) (packElems w codes)

/-- The pass writes a 4-bit format to host memory (R415). -/
def Chain.halfBytes (c : Chain) (p : Nat) : Bool :=
  (c.inPass p).any (fun x => (x.2.op == opStore || (x.2.op == opConvert && x.2.dest == 1)) && (fmtOf x.2.opfD).width == 4)

/-- What of a share of `taken` elements the stages of a pass write to host memory, where `half` says that one of them
writes a 4-bit format (R415): nothing from an odd column, and not the last element of an odd share that does not end
the row. The result of a PSUM, one code for the whole row, is the last element of a share of one element only (DESIGN
CHOICE, log entry 114: R415 does not say which element a PSUM's result is). -/
def hostPart (half : Bool) (col0 taken len : Nat) (codes : List Nat) : List Nat :=
  if !half then codes
  else if col0 % 2 == 1 then []
  else if taken % 2 == 1 && col0 + taken != len then codes.take (taken - 1)
  else codes

/-- The writes of a row pass's share of a row at base + ROW × stride + col0 × element size. -/
def shareWrites (owner : FabOwner) (w base stride row col0 : Nat) (part : List Nat) : List FabReq :=
  let a := (base + row * stride + col0 * w / 8) % 2 ^ 52
  if part.isEmpty then [] else hostWrites owner (part.length * w) a (codeBytes w part)

/-- What a STORE stage writes of a code: a zero as R56 has it, everything else unchanged (R63, R235). -/
def storeCode (zc : Bool) (f : Fmt) (c : Nat) : Nat :=
  let v := decode f c
  if v.isZero then (encode f .lane .rne zc v).code else c

/-- The STORE and DEST = 1 writes of a row pass in tile `t`. A CONVERT with DEST = 1 writes its codes alone: Table 3.1
step 8 stores row scale and outlier block with the row, R240 gives the codes an address and those none (DESIGN CHOICE,
log entry 107). -/
def RowPass.hostWrites (rp : RowPass) (t : Nat) : List FabReq :=
  let owner := FabOwner.store t rp.sid rp.row rp.pass
  let d := rp.desc
  let part := hostPart (rp.chain.halfBytes rp.pass) rp.col0 rp.taken rp.len
  (rp.chain.inPass rp.pass).flatMap (fun x =>
    let f := fmtOf x.2.opfD
    let w := f.width
    if x.2.op == opStore then
      shareWrites owner w d.sbase d.sstride rp.row rp.col0 (part ((rp.storeCodes x.1).map (storeCode (!rp.chain.zcoff) f)))
    else if x.2.op == opConvert && x.2.dest == 1 then
      shareWrites owner w d.obase d.ostride rp.row rp.col0 (part (rp.output.map (fun e => e.code)))
    else [])

/-! ### OPD_OUT beats (Tables 12.4 and 12.5) -/

/-- Splits a list into pieces of `n`. -/
def chunks (n : Nat) : Nat → List α → List (List α)
  | 0, _ => []
  | _, [] => []
  | fuel + 1, xs => xs.take n :: chunks n fuel (xs.drop n)

/-- The CONVERT stage sends on OPD_OUT. -/
def Chain.sends (c : Chain) (p : Nat) : Bool :=
  match c.convertOf p with
  | some (_, s) => s.dest == 0
  | none => false

/-- The egress operation of a pass: 0 plain, 1 TRANSPOSE, 2 GATHER. -/
def Chain.egressKind (c : Chain) (p : Nat) : Nat :=
  match (c.inPass p).find? (fun x => x.2.op == opTranspose || x.2.op == opGather) with
  | some (_, s) => if s.op == opTranspose then 1 else 2
  | none => 0

/-- The TRANSPOSE or GATHER stage of a pass. -/
def Chain.egressStage (c : Chain) (p : Nat) : Nat :=
  match (c.inPass p).find? (fun x => x.2.op == opTranspose || x.2.op == opGather) with
  | some x => x.1
  | none => 0

/-- Rows of a block or window of the pass. -/
def Chain.blockRows (c : Chain) (p : Nat) : Nat := c.egressFactor p

/-- The row's metadata of a plain or gathered row (Table 12.5). -/
def rowAux (scale sck outl : Nat) : Nat := pack [(0, scale), (2, outl), (26, sck)]

/-- The finished row as it leaves: codes, scale, SCK, outlier block. -/
def RowPass.outRow (rp : RowPass) : OutRow :=
  match rp.chain.convertOf rp.pass with
  | none => { row := rp.row, codes := rp.output, col0 := rp.col0, scale := 0, sck := 0, outl := 0, poison := rp.recPoison }
  | some (_, s) =>
    let sw := rp.sweep.getD { scale := 0, neutral := false, zeroRow := false, removed := [] }
    { row := rp.row, codes := rp.output, col0 := rp.col0,
      scale := if s.scout == 0 then 0 else sw.scale,
      sck := s.scout, outl := if s.outl == 0 then 0 else outlierBlock (!rp.chain.zcoff) s.holdf sw.removed,
      poison := rp.recPoison }

/-- The beats of one output row: `kind` and what its first beat carries besides the row's own fields. The bits of
`opd_data` at and above the `opd_nel` elements of a last beat are 0, of which the manual says nothing (DESIGN CHOICE, log
entry 106). -/
def rowBeats (f : Fmt) (sid pass kind extra : Nat) (ends : List (Nat × Nat)) (r : OutRow) : List OpdBeat :=
  let per := 8192 / f.width
  let pieces := chunks per r.codes.length r.codes
  pieces.zipIdx.map (fun p =>
    let first := p.2 == 0
    let last := p.2 + 1 == pieces.length
    { data := BitVec.ofNat 8192 (packElems f.width (p.1.map (fun e => e.code)))
      first := first, last := last, nel := BitVec.ofNat 12 p.1.length
      poison := r.poison || p.1.any (fun e => e.poison)
      sid := BitVec.ofNat 14 sid, row := BitVec.ofNat 48 r.row, pass := BitVec.ofNat 2 pass
      col0 := BitVec.ofNat 24 (r.col0 + per * p.2), kind := BitVec.ofNat 2 kind
      aux := if first then BitVec.ofNat 2112 (rowAux r.scale r.sck r.outl ||| extra) else 0
      ends := if last then ends else [] : OpdBeat })

/-- Output format of a pass. -/
def Chain.outFmt (c : Chain) (p : Nat) : Fmt :=
  match c.convertOf p with
  | some (_, s) => fmtOf s.opfD
  | none => .b32

/-- The row of a block or window that shows what its rows have in common, their first column and SCK: the first that has
elements in the tile. -/
def Block.lead (b : Block) : OutRow :=
  (b.rows.find? (fun r => !r.codes.isEmpty)).getD
    { row := b.index * b.size, codes := [], col0 := 0, scale := 0, sck := 0, outl := 0, poison := true }

/-! ### TRANSPOSE (R246, R247) -/

/-- The element of a row of a block at column offset `i`; an absent row reads as +0 (R247), and so does a column that a
shorter row of the block does not have (R246 gives no fill; DESIGN CHOICE, log entry 129). -/
def blockElem (rows : List OutRow) (row i : Nat) : Elem :=
  match rows.find? (fun r => r.row == row) with
  | some r => r.codes.getD i { code := 0, poison := false }
  | none => { code := 0, poison := false }

/-- Scales of the block's rows, two bytes each, and its own fields (Table 12.5). -/
def blockAux (b : Block) (col : Nat) : Nat :=
  let base := b.index * b.size
  let scales := (List.range b.size).map (fun i =>
    match b.rows.find? (fun r => r.row == base + i) with
    | some r => (2 * i, r.scale)
    | none => (2 * i, 0))
  pack (scales ++ [(256, b.rows.length), (257, b.lead.sck), (258, col)])

/-- The beats of one block column: 128 lines of 128 elements; the rest of a beat as in `rowBeats` (DESIGN CHOICE, log
entry 106). -/
def columnBeats (b : Block) (cols col : Nat) : List OpdBeat :=
  let f := fmtOf b.opf
  let base := b.index * b.size
  let elems := (List.range 128).flatMap (fun i =>
    (List.range b.size).map (fun r => blockElem b.rows (base + r) (128 * col + i)))
  let per := 8192 / (128 * f.width) * 128
  let pieces := chunks per elems.length elems
  pieces.zipIdx.map (fun p =>
    let first := p.2 == 0
    let last := p.2 + 1 == pieces.length
    { data := BitVec.ofNat 8192 (packElems f.width (p.1.map (fun e => e.code)))
      first := first, last := last, nel := BitVec.ofNat 12 p.1.length
      poison := p.1.any (fun e => e.poison) || b.rows.any (fun r => r.poison)
      sid := BitVec.ofNat 14 b.sid, row := BitVec.ofNat 48 base, pass := BitVec.ofNat 2 b.pass
      col0 := BitVec.ofNat 24 (b.lead.col0 + 128 * col), kind := 1
      aux := if first then BitVec.ofNat 2112 (blockAux b col) else 0
      ends := if last && col + 1 == cols then b.rows.map (fun r => (r.row, b.pass)) else [] : OpdBeat })

/-- The beats of a TRANSPOSE block. -/
def blockBeats (b : Block) : List OpdBeat :=
  let cols := ceilDiv (maxOf (b.rows.map (fun r => r.codes.length))) 128
  (List.range cols).flatMap (columnBeats b cols)

/-! ### GATHER (R249 to R251) -/

/-- The address of a window's list. GRING = 0, which the manual gives neither a default nor a check, is one list area
(R249; DESIGN CHOICE, log entry 98). -/
def listAddr (b : Block) : Nat := (b.desc.gbase + b.index % max b.desc.gring 1 * b.desc.gstride) % 2 ^ 52

/-- The index entries of a list, group by group: group, GCNT, and the entries. -/
def listGroups : List Nat → Nat → List Byte → List (Nat × Nat × List Nat)
  | [], _, _ => []
  | n :: ns, g, bs =>
    (g, n, (List.range n).map (fun i => leAt bs (2 * i) 2)) :: listGroups ns (g + 1) (bs.drop (2 * n))

/-- An index that names no row of the window (R251). One that names a row which a window closed short lacks is bad as well
(DESIGN CHOICE, log entry 99). -/
def indexBad (b : Block) (x : Nat) : Bool :=
  x ≥ 4096 || x % 4096 ≥ b.size || !b.rows.any (fun r => r.row == b.index * b.size + x)

/-- The row an index emits: the window's row, or a row of NaN codes with its poison sideband (R251). Of the latter the
manual gives no more: its row number is the window's base plus the index, its length and first column are those of the
window's first row with elements in the tile, and its scale and SCK are 0 (DESIGN CHOICE, log entry 99). -/
def gatherRow (b : Block) (x : Nat) : OutRow :=
  let f := fmtOf b.opf
  let row := b.index * b.size + x
  match (if indexBad b x then none else b.rows.find? (fun r => r.row == row)) with
  | some r => r
  | none =>
    { row := row, codes := b.lead.codes.map (fun _ => Elem.poisoned f), col0 := b.lead.col0, scale := 0, sck := 0,
      outl := 0, poison := true }

/-- The beats of a GATHER window, given the index bytes of its list. -/
def windowBeats (b : Block) (indices : List Byte) : List OpdBeat :=
  let groups := listGroups b.groups 0 indices
  let beats := groups.flatMap (fun g => g.2.2.flatMap (fun x =>
    rowBeats (fmtOf b.opf) b.sid b.pass 2 (pack [(32, g.1), (36, g.2.1), (40, b.index % 2 ^ 48)]) [] (gatherRow b x)))
  let ends := b.rows.map (fun r => (r.row, b.pass))
  match beats.reverse with
  | [] => []
  | x :: xs => (({ x with ends := ends } : OpdBeat) :: xs).reverse

/-- The indices of a window's list that name no row of it, in list order (R251). -/
def badIndices (b : Block) (indices : List Byte) : List Nat :=
  ((listGroups b.groups 0 indices).flatMap (fun g => g.2.2)).filter (indexBad b)

/-! ### Blocks of a tile -/

/-- Adds a finished row to its block, opening the block where it is the first; a row stands in its block once. -/
def addToBlock (r : OutRow) (fresh : Block) : List Block → List Block
  | [] => [{ fresh with rows := [r] }]
  | b :: bs =>
    if b.sid == fresh.sid && b.pass == fresh.pass && b.index == fresh.index then
      { b with rows := b.rows.filter (fun o => o.row != r.row) ++ [r] } :: bs
    else b :: addToBlock r fresh bs

/-- The block that a finished row pass belongs to. -/
def RowPass.block (rp : RowPass) : Block :=
  let n := rp.chain.blockRows rp.pass
  { sid := rp.sid, pass := rp.pass, index := rp.row / n, gather := rp.chain.egressKind rp.pass == 2,
    stage := rp.chain.egressStage rp.pass,
    opf := match rp.chain.convertOf rp.pass with
      | some (_, s) => s.opfD
      | none => 0
    size := n, desc := rp.desc, rows := [], phase := .collecting, gbytes := [], want := 0, asked := 0,
    readBad := false, waiting := false, waitReported := false, count := 0, groups := [] }

/-- A row of a pass that has no element in a tile which serves it, because the row's other tiles have taken all of it: to
a block or window it is a row without elements (R246, R250; DEDUCED, log entry 120). -/
def absentRow (row : Nat) : OutRow := { row := row, codes := [], col0 := 0, scale := 0, sck := 0, outl := 0, poison := false }

/-- All rows of a block or window are present. -/
def Block.full (b : Block) : Bool := b.rows.length ≥ b.size

end Sys2Proof.Machine
end

