-- ==== Sys2Proof/Machine/Rows.lean ====
section
/-!
DEFINITION. Row passes in the tiles: reports of what a batch met (R75, R375, R377), the start and the
end of a row pass (R211, R212, R243, R266, R416), and the STATISTIC_APPLY_START step (R31).
-/

namespace Sys2Proof.Machine

/-! ### Reports of a batch -/

/-- LOP or AOP of a stage, as layout E has it. -/
def Stage.subOp (s : Stage) : Nat :=
  if s.op == opMul then s.mulOp else if s.op == opAdd then s.addOp else if s.op == opApply then s.aop else 0

/-- Layout E for a place in a row pass. -/
def State.elemPayload (s : State) (t : Nat) (rp : RowPass) (stage stepNo col : Nat) : Nat :=
  let st := rp.chain.stage stage
  layoutE rp.sid rp.chain.id rp.pass t stage stepNo st.op st.subOp rp.row col s.time.toNat

/-- Counts repeats of a kind at a tap, without a record (R75). -/
def State.countTap (s : State) (src code n : Nat) : State :=
  if n == 0 then s
  else
    let tap := s.tapOf src code
    { s with taps := putTap { tap with count := min (tap.count + n) 0xFFFFFFFF } s.taps }

/-- The first overflow of an armed stream is a SATURATION finding; later ones are counted (R75). -/
def State.noteSats (s : State) (t : Nat) (rp : RowPass) (sats : List (Nat × Nat × Nat)) : State :=
  match sats, s.stream? rp.sid with
  | x :: rest, some st =>
    if st.satArmed || rp.chain.ver > st.satVer then
      let s := s.report t evSaturation (fun _ => s.elemPayload t rp x.1 x.2.1 x.2.2)
      (s.modStream rp.sid (fun y => { y with satArmed := false, satVer := rp.chain.ver })).countTap t evSaturation rest.length
    else s.countTap t evSaturation (x :: rest).length
  | xs, none => s.countTap t evSaturation xs.length
  | [], _ => s

/-- The responses of a tile whose elements the evaluators have all taken, as far as they stand before every other: they
are in the response queue (R298). -/
def Tile.xevReturned (x : Tile) : Nat := (x.xevBuf.takeWhile (fun r => r.places.isEmpty)).length

/-- The logic of a running band is about to stand still: of the beats of each tile, the 16 that OPD_OUT's queue holds at
most have crossed to HCLK, and so have the XEV responses that have returned (R310, R311, Table 13.2). -/
def State.opdCross (s : State) (b : Nat) : State :=
  if s.bandRuns b then
    let s := s.modBand b (fun x => { x with opdLeft := (bandTiles b).map (fun t => min 16 (s.tile t).egress.length) })
    { s with tiles := s.tiles.mapIdx (fun t (x : Tile) => if bandOf t == b then { x with xevLeft := x.xevReturned } else x) }
  else s

/-- The band's logic is about to stand still, if it does not already: of its own requests, the 32 that the crossing holds
at most have crossed to FCLK (R310, R311, Table 13.2). -/
def State.fabCross (s : State) (b : Nat) : State :=
  s.modBand b (fun x => if x.stands then x else { x with fabLeft := min 32 (x.fabQueue.countP (fun r => !r.owner.vane)) })

/-- HALTED of the trap. -/
def State.trapHalted (s : State) : State := { s with trap := { s.trap with halted := true } }

/-- The trap halts the band of tile `t`: its streams are suspended (R379). -/
def State.haltBand (s : State) (b : Nat) : State :=
  let s := ((((s.opdCross b).fabCross b).modBand b (fun x => { x with halted := true })).setInt intHalt).trapHalted
  (s.streamsIn b).foldl (fun s x => s.suspend x.sid (fun c => { c with halt := true })) s

/-- The NaNs of a batch that meet TRIG: the armed trap latches the first (R377). Those after the latch are counted,
armed or not (R378). -/
def State.noteNans (s : State) (t : Nat) (rp : RowPass) (nans : List NanNote) : State :=
  let meets := nans.filter (fun n => !s.trap.trig || n.created)
  match meets with
  | [] => s
  | n :: rest =>
    if s.trap.valid then
      { s with trap := { s.trap with count := min (s.trap.count + meets.length) 0xFFFFFFFF } }
    else if !s.trap.arm then s
    else
      let p := s.elemPayload t rp n.stage n.step n.col
      let s := { s with trap := { s.trap with
        record := BitVec.ofNat 192 p, valid := true, count := min rest.length 0xFFFFFFFF } }
      let s := (s.setInt intTrap).notice t evFirstNan p
      if s.trap.halt then s.haltBand (bandOf t) else s

/-- The finding of a kind of error (Table 16.1). -/
def faultEvent : FaultKind → Nat
  | .ecc => evPoisonEcc
  | .parity => evPoisonParity
  | .residue => evPoisonResidue

/-- The POISON finding of one error of the step (R375, Table 16.1). -/
def State.noteFault (s : State) (t : Nat) (rp : RowPass) (f : HwFault) : State :=
  s.report t (faultEvent f.kind) (layoutU t f.unit.toNat f.index.toNat rp.sid rp.row 0 0)

def State.addNotes (s : State) (t : Nat) (rp : RowPass) (n : Notes) : State :=
  (s.noteNans t rp n.nans).noteSats t rp n.sats

/-! ### Rows of a stream -/

/-- The final record of a stage in a row. -/
def RowCtx.final? (r : RowCtx) (k : Nat) : Option Rec := (r.finals.find? (fun h => h.step == k)).map (fun h => h.rcd)

/-- Begins a row of a stream where it has none yet, as its first element enters a tile: the port judges the row's
beats, and the chain runs it, by this one version (R23, R210). -/
def State.openRow (s : State) (x : Stream) (row : Nat) : State :=
  if (x.row? row).isSome then s
  else
    match s.rowVersion x row with
    | none => s
    | some version =>
      let ctx : RowCtx := { row := row, chain := version.1, tables := version.2, tiles := x.tiles,
                            claimed := false, recs := [], finals := [], psumParts := [], psums := [], ended := [] }
      (s.booked (fun s => s.modStream x.sid (fun y => { y with
        rows := y.rows ++ [ctx], begun := some { row := row, chain := version.1, tables := version.2 } }))).prune

/-! ### Staging units and accumulators of a tile (R181, R416) -/

/-- Units of the output of a TRANSPOSE block or a GATHER window, which RU_p counts whole (R255): its rows share
them (log entry 25). -/
def Chain.blockUnits (c : Chain) (d : StreamDesc) (p : Nat) : Nat :=
  match c.convertOf p with
  | some (_, s) =>
    if c.egressKind p == 0 then 0 else unitsOf (d.shr.getD (p - 1) 0) ((fmtOf s.opfD).width * c.egressFactor p)
  | none => 0

/-- The block or window that a row pass belongs to. -/
def RowPass.blockKey (rp : RowPass) : Nat × Nat := (rp.pass, rp.row / max (rp.chain.blockRows rp.pass) 1)

/-- Units of a pass's STORE outputs and DEST = 1 output, which FAB takes (R245, R255). -/
def Chain.storeUnits (c : Chain) (d : StreamDesc) (p : Nat) : Nat :=
  ((c.inPass p).map (fun x =>
    if x.2.op == opStore || (x.2.op == opConvert && x.2.dest == 1) then
      unitsOf (d.shr.getD (p - 1) 0) (fmtOf x.2.opfD).width else 0)).sum

/-- Units of a pass's DEST = 0 output, which leaves on OPD_OUT (R243, R255). -/
def Chain.outUnits (c : Chain) (d : StreamDesc) (p : Nat) : Nat :=
  match c.convertOf p with
  | some (_, s) => if s.dest == 0 then unitsOf (d.shr.getD (p - 1) 0) (fmtOf s.opfD).width else 0
  | none => 0

/-- Units a row pass holds by itself now: all of them until it has run; then those of the writes until FAB has
accepted them (R245), and those of the output as its beats leave (R243). The KU units of a HELD row go when its last
pass has ended (R266). -/
def RowPass.unitsNow (rp : RowPass) : Nat :=
  let c := rp.chain
  let out := c.outUnits rp.desc rp.pass
  (if rp.pass == c.npass && rp.took.isSome then 0 else rp.unitsHeld) +
    (if !rp.finished then rp.units - c.blockUnits rp.desc rp.pass
     else (if rp.unsent > 0 then c.storeUnits rp.desc rp.pass else 0) +
       (if c.egressKind rp.pass != 0 then 0 else if rp.released then min out (ceilDiv rp.egress 4) else out))

/-- Units of the blocks and windows that some row passes belong to, each counted once. -/
def blockUnitsOf (rs : List RowPass) : Nat :=
  let bs := (rs.filter (fun r => r.chain.egressKind r.pass != 0)).map (fun r => (r.blockKey, r.chain.blockUnits r.desc r.pass))
  (bs.foldl (fun (seen : List ((Nat × Nat) × Nat)) b => if seen.any (fun x => x.1 == b.1) then seen else b :: seen) []).foldl
    (fun n b => n + b.2) 0

/-- Units of a row's later passes, which the block runs by itself: KU, the most that a pass takes by itself, and the
blocks that are still to be opened for it. `rs`: the stream's row passes, `at_` the row's latest pass. -/
def Chain.laterUnits (c : Chain) (d : StreamDesc) (rs : List RowPass) (row at_ : Nat) : Nat :=
  let fresh (p : Nat) : Bool := p > at_ && !rs.any (fun r => r.blockKey == (p, row / max (c.blockRows p) 1))
  c.heldUnits d + maxOf (c.passes.map (fun p => c.passUnits d p - c.blockUnits d p)) +
    ((c.passes.filter fresh).map (c.blockUnits d)).sum

/-- Units that count for a row of a stream: those that its row passes hold, and for a HELD row whose last pass has not
begun at least those of its later passes, so that only a first beat ever waits for other rows (R416, log entry 83). -/
def rowUnitsOf (rs : List RowPass) (row : Nat) : Nat :=
  let own := rs.filter (fun r => r.row == row)
  let now := (own.map RowPass.unitsNow).sum
  let at_ := maxOf (own.map (fun r => r.pass))
  match own with
  | [] => 0
  | r :: _ => if r.desc.held && at_ < r.chain.npass then max now (r.chain.laterUnits r.desc rs row at_) else now

/-- Units of a stream's share that its row passes in a tile take. -/
def stagingOf (rs : List RowPass) : Nat :=
  ((rs.map (fun r => r.row)).dedup.map (rowUnitsOf rs)).sum + blockUnitsOf rs

/-- Accumulators of the statistic unit that a row pass holds until its tile records have left (R181). -/
def RowPass.accsHeld (rp : RowPass) : Nat := rp.accs.countP (fun a => !rp.combined.contains a.step)

/-- The statistic unit has accumulators for a pass, of its 64 for all streams of the tile (R181). -/
def Tile.accRoom (x : Tile) (c : Chain) (pass : Nat) : Bool :=
  (x.rows.map RowPass.accsHeld).sum + (startAccs c pass).length ≤ 64

/-- The stream's share of the staging has the units of the row pass of a first beat (R416). -/
def Tile.stagingRoom (x : Tile) (sid row : Nat) (c : Chain) (d : StreamDesc) (pass : Nat) : Bool :=
  stagingOf (x.rows.filter (fun r => r.sid == sid) ++ [RowPass.new c [] d sid row pass 0 0 0 false false]) ≤ c.streamShare d

/-- The stream's staging has the units of the row pass of a first beat, and the statistic unit its accumulators. -/
def State.canBegin (s : State) (t sid row : Nat) (c : Chain) (d : StreamDesc) (pass : Nat) : Bool :=
  (s.tile t).stagingRoom sid row c d pass && (s.tile t).accRoom c pass

/-- The next pass of a HELD row has its units, once the row's own output no longer holds them, and its accumulators. -/
def State.canHandOn (s : State) (t : Nat) (rp : RowPass) : Bool :=
  let mine := ((s.tile t).rows.filter (fun r => r.sid == rp.sid))
  let next := RowPass.new rp.chain [] rp.desc rp.sid rp.row (rp.pass + 1) 0 0 0 false false
  stagingOf (mine ++ [next]) ≤ rp.chain.streamShare rp.desc && (s.tile t).accRoom rp.chain (rp.pass + 1)

/-! ### The hold ring (R211, R212) -/

/-- The row that holds an entry of the ring. -/
def Tile.holder (x : Tile) (sid entry : Nat) : Option Nat :=
  (x.hold.find? (fun h => h.sid == sid && h.entry == entry)).map (fun h => h.row)

/-- Claims a row's entry of the hold ring where no row holds it. -/
def Tile.claim (x : Tile) (sid row rhold : Nat) : Tile :=
  let e := row % max rhold 1
  if (x.holder sid e).isNone then { x with hold := x.hold ++ [{ sid := sid, entry := e, row := row }] } else x

/-- A beat of a row's first pass has been accepted: it begins its row pass, or it waits in the queue of a tile. -/
def State.firstCame (s : State) (rp : RowPass) : Bool :=
  rp.pass == 1 || s.tiles.toList.any (fun x => x.queue.any (fun q => q.sid == rp.sid && q.row == rp.row && q.pass == 1))

/-- The first beat of a row's first pass, in whichever tile it comes, claims the row's entry in every tile that serves
the row, one that has no share of that pass among them: once, as the row's first row pass begins in a tile, be it of a
later pass whose tile takes its beat before that one has left its queue (R211, R209, R36; DEDUCED, log entry 96). -/
def State.claimRow (s : State) (rp : RowPass) : State :=
  match (s.stream? rp.sid).bind (fun x => x.row? rp.row) with
  | none => s
  | some r =>
    if !r.claimed && s.firstCame rp then
      (s.modStream rp.sid (fun x => x.modRow rp.row (fun r => { r with claimed := true }))).modTiles r.tiles
        (fun x => x.claim rp.sid rp.row rp.desc.rhold)
    else s

/-- The holder of a conflict of a row pass: another row that holds its entry, or 0 where none does (R212). An entry that
the row itself holds is no conflict. -/
def Tile.conflict (x : Tile) (rp : RowPass) : Option Nat :=
  match x.holder rp.sid (rp.row % max rp.desc.rhold 1) with
  | some r => if r == rp.row then none else some r
  | none => some 0

/-- A row pass takes its place in a tile. -/
def State.placePass (s : State) (t : Nat) (rp : RowPass) : State :=
  s.booked (fun s => s.modTile t (fun x => { x with rows := x.rows ++ [rp] }))

/-- Begins a row pass in a tile: the entry of the hold ring, and HOLD_CONFLICT (R211, R212). -/
def State.beginPass (s : State) (t : Nat) (rp : RowPass) : State :=
  if rp.chain.needsHold then
    let s := s.claimRow rp
    let c := (s.tile t).conflict rp
    let s := s.placePass t { rp with conflict := c }
    match c with
    | none => s
    | some h => s.notice t evHoldConflict (layoutS rp.sid rp.pass 0 t rp.row h 0 0)
  else s.placePass t rp

/-! ### The end of a row pass (R266) -/

/-- Replaces a row pass of a tile. -/
def State.putPass (s : State) (t : Nat) (rp : RowPass) : State :=
  s.modTile t (fun x => x.modPass rp.sid rp.row rp.pass (fun _ => rp))

/-- The row passes of pass `p` of a row, with their tiles. -/
def State.rowPasses (s : State) (r : RowCtx) (sid p : Nat) : List (Nat × RowPass) :=
  r.tiles.filterMap (fun t => ((s.tile t).pass? sid r.row p).map (fun rp => (t, rp)))

/-- A row pass after a run of its elements, in which the evaluators served the requests `qs` of their lanes. -/
def State.passRan (s : State) (t : Nat) (rp : RowPass) (qs : List (Nat × List (List EvalKind))) : State :=
  (s.putPass t rp).modTile t (fun x => qs.foldl Tile.serve x)

/-- Every stage has run and the input has ended. -/
def RowPass.ran (rp : RowPass) : Bool := !rp.opened && rp.next ≥ rp.chain.passEnd rp.pass

/-- The STAT and PSUM stages of a pass, whose tile records must leave. -/
def Chain.recordStages (c : Chain) (p : Nat) : List Nat :=
  (c.inPass p).filterMap (fun x => if x.2.op == opStat || x.2.op == opPsum then some x.1 else none)

/-- The final record of every STAT stage of the pass exists. -/
def RowCtx.passFinal (r : RowCtx) (p : Nat) : Bool :=
  (r.chain.inPass p).all (fun x => x.2.op != opStat || (r.final? x.1).isSome)

/-- A row pass keeps its place in the tile until the row's next pass has begun, where the block runs that pass
itself (R221, R416). -/
def RowPass.handsOn (rp : RowPass) : Bool := rp.desc.held && rp.pass < rp.chain.npass

/-- The final record of every STAT_MERGE stage of the pass is complete. -/
def RowCtx.mergesFinal (r : RowCtx) (p : Nat) : Bool :=
  (r.chain.inPass p).all (fun x => x.2.op != opMerge || (r.final? x.2.mstat).isSome)

/-- The three events that end a row pass have come: its last OPD_OUT beat, the response to its last host write, and
the final records of its STAT_MERGE stages (R266). -/
def RowPass.over (rp : RowPass) (r : RowCtx) : Bool :=
  rp.finished && rp.writes == 0 && rp.released && rp.egress == 0 && r.mergesFinal rp.pass

/-- A row pass that has ended and has nothing left to do in its tile: its tile records have left, and a HELD row's
next pass has begun. -/
def RowPass.done (rp : RowPass) (r : RowCtx) : Bool :=
  rp.finished && rp.took.isSome && (rp.chain.recordStages rp.pass).all (fun k => rp.combined.contains k) &&
    r.passFinal rp.pass && (!rp.handsOn || rp.handed)

/-- The next pass of a HELD row before its elements are replayed (R221): it meets the errors of the beats that
brought them, and keeps the KU units. -/
def RowPass.successor (rp : RowPass) (t0 : BitVec 64) (suspended promised : Bool) : RowPass :=
  { RowPass.new rp.chain rp.tables rp.desc rp.sid rp.row (rp.pass + 1) rp.col0 rp.len rp.scale suspended promised with
    poison := rp.poison, faults := rp.faults, opened := false, tStart := some t0, replay := rp.replay,
    unitsHeld := rp.unitsHeld }

/-- The latency of a row pass begins now, with its last input beat; for a TRANSPOSE block it runs from the last input
beat of the block's last row (R266). -/
def State.startClock (s : State) (t : Nat) (rp : RowPass) : State :=
  if rp.chain.egressKind rp.pass == 1 then
    s.modTile t (fun x => { x with rows := x.rows.map (fun r =>
      if r.sid == rp.sid && r.blockKey == rp.blockKey && r.tStart.isSome then
        { r with tStart := some s.time, excluded := 0, suspendedFor := 0, tentative := [] } else r) })
  else s

/-- A row pass whose stages have run: its host writes are queued, and a row of a TRANSPOSE or GATHER pass enters
its block, one without elements too, which a block or window needs to be complete (R246, R250). -/
def State.finishPass (s : State) (t : Nat) (rp : RowPass) : State :=
  let ws := rp.hostWrites t
  let kind := rp.chain.egressKind rp.pass
  let sends := rp.chain.sends rp.pass && (kind != 0 || !rp.output.isEmpty)
  let blocked := sends && kind != 0
  let s := s.modBand (bandOf t) (fun b => { b with fabQueue := b.fabQueue ++ ws })
  s.modTile t (fun x =>
    let x := x.modPass rp.sid rp.row rp.pass (fun r =>
      { r with finished := true, writes := ws.length, unsent := ws.length, egress := if sends then 1 else 0,
               released := !sends || blocked })
    { x with blocks := if blocked then addToBlock rp.outRow rp.block x.blocks else x.blocks })

/-- Elements of a row's pass that its tiles have taken or have ended. -/
def State.passTaken (s : State) (r : RowCtx) (sid p : Nat) : Nat :=
  ((s.rowPasses r sid p).map (fun x => x.2.taken)).sum + ((r.ended.filter (fun e => e.pass == p)).map (fun e => e.count)).sum

/-- Row length of a pass of a row as far as its tags have told it: none before any beat of it. -/
def State.lenSeen (s : State) (r : RowCtx) (sid p : Nat) : Option Nat :=
  match s.rowPasses r sid p, r.ended.find? (fun e => e.pass == p) with
  | (_, rp) :: _, _ => some rp.len
  | [], some e => some e.len
  | [], none => none

/-- Pass `p` of a row is still to come or to finish in tile `t`, which serves the row. -/
def State.passComing (s : State) (r : RowCtx) (sid t p : Nat) : Bool :=
  r.tiles.contains t && !r.ended.any (fun e => e.pass == p && e.tile == t) &&
    (match (s.tile t).pass? sid r.row p with
      | some rp => !rp.finished
      | none => match s.lenSeen r sid p with
        | some n => s.passTaken r sid p < n
        | none => true)

/-- The pass whose beats bring the elements of pass `p`: a HELD row keeps those of its first (R221). -/
def Stream.sharedBy (x : Stream) (p : Nat) : Nat := if x.desc.held then 1 else p

/-- Row `r` has no element in tile `t` for its pass `p`, which the tile serves, and does not count as ended there. -/
def State.absentIn (s : State) (t : Nat) (x : Stream) (r : RowCtx) (p : Nat) : Bool :=
  let same (k : Nat) : Bool := x.desc.held || k == p
  r.tiles.contains t && r.chain.sends p && r.chain.egressKind p != 0 && !s.passComing r x.sid t (x.sharedBy p) &&
    !(s.tile t).rows.any (fun q => q.sid == x.sid && q.row == r.row && same q.pass) &&
    !r.ended.any (fun e => e.tile == t && (e.pass == p || same e.pass && e.count != 0))

/-- Pass `p` of row `r` has ended in tile `t` without an element: the row enters its block or window there (log
entry 120). -/
def State.endAbsent (s : State) (t : Nat) (x : Stream) (r : RowCtx) (p : Nat) : State :=
  let e : EndedPass := { pass := p, tile := t, count := 0, len := (s.lenSeen r x.sid (x.sharedBy p)).getD 0
                         latency := 0, promised := true }
  let b := (RowPass.new r.chain [] x.desc x.sid r.row p 0 0 0 false false).block
  let s := s.modTile t (fun y => { y with blocks := addToBlock (absentRow r.row) b y.blocks })
  s.modStream x.sid (fun y => y.modRow r.row (fun q => { q with ended := q.ended ++ [e] }))

/-- What a row pass took may leave no element of the row for another tile that serves it: there the pass has ended. -/
def State.joinAbsent (s : State) (sid row : Nat) : State :=
  match s.stream? sid with
  | none => s
  | some x => match x.row? row with
    | none => s
    | some r => r.tiles.foldl (fun s t => r.chain.passes.foldl (fun s p =>
        if s.absentIn t x r p then s.endAbsent t x r p else s) s) s

/-- The next pass of a HELD row begins, once its units and accumulators are free, as a row pass of its own: it
looks for its entry of the hold ring and takes over the KU units, in a bank that closes too (R181, R212, R369,
R416). It has no ACC_IN beat for R266 to measure from: its latency starts here (DESIGN CHOICE, log entry 115). -/
def State.handOn (s : State) (t : Nat) (rp : RowPass) : State :=
  let x := s.stream? rp.sid
  let next := rp.successor s.time ((x.map s.causeNow).getD false) ((x.map (fun x => !x.suspended)).getD true)
  let s := s.modTile t (fun x =>
    let x := x.modPass rp.sid rp.row rp.pass (fun r => { r with handed := true, unitsHeld := 0 })
    { x with bankRows := if x.bankRows.contains (rp.sid, rp.row, rp.pass) then x.bankRows ++ [(rp.sid, rp.row, rp.pass + 1)]
      else x.bankRows })
  let s := (s.beginPass t next).startClock t next
  match (s.tile t).pass? rp.sid rp.row (rp.pass + 1) with
  | none => s
  | some n =>
    let r := n.enter [] (rp.replay.map (fun (p : Elem × Elem) => { x := p.1, y := p.2, res := [], counted := false }))
    (s.passRan t r.1 (r.1.requests (stagesFrom (n.chain.passStart n.pass) n.next) 0)).addNotes t r.1 r.2

/-- The rows of a stream before row `row` whose pass `p` has still to run in a tile. -/
def State.comingBefore (s : State) (x : Stream) (t p row : Nat) : List RowCtx :=
  x.rows.filter (fun r => r.row < row && r.chain.sends p && s.passComing r x.sid t p)

/-- The rows of a stream before row `row` whose pass `p` has still to leave a tile. -/
def State.ahead (s : State) (x : Stream) (t p row : Nat) : List RowCtx :=
  x.rows.filter (fun r => r.row < row && r.chain.sends p && (s.passComing r x.sid t p ||
    (match (s.tile t).pass? x.sid r.row p with
      | some q => !q.released || q.egress > 0
      | none => false)))

/-- A finished plain row may leave: the same pass of no earlier row of its stream has still to leave here (R243). -/
def State.mayLeave (s : State) (t : Nat) (rp : RowPass) : Bool :=
  match s.stream? rp.sid with
  | none => true
  | some x => (s.ahead x t rp.pass rp.row).isEmpty

/-- It is a block's or window's turn: every earlier row of its stream has run the pass, and no earlier block or window
of it is still in the tile (R243). -/
def State.blockTurn (s : State) (t : Nat) (b : Block) : Bool :=
  !(s.tile t).blocks.any (fun a => a.sid == b.sid && a.pass == b.pass && a.index < b.index) &&
    (s.stream? b.sid).all (fun x => (s.comingBefore x t b.pass (b.index * b.size)).isEmpty)

/-- Hands a finished row to OPD_OUT. -/
def State.releasePass (s : State) (t : Nat) (rp : RowPass) : State :=
  let beats := rowBeats (rp.chain.outFmt rp.pass) rp.sid rp.pass 0 0 [(rp.row, rp.pass)] rp.outRow
  s.modTile t (fun x =>
    { x.modPass rp.sid rp.row rp.pass (fun r => { r with released := true, egress := beats.length }) with
      egress := x.egress ++ beats })

/-- A closing bank none of whose row passes is left closes (R369); rows that ended no longer hold it. -/
def Tile.bankRelease (x : Tile) (sid row pass : Nat) : Tile :=
  let left := x.bankRows.filter (fun r => r != (sid, row, pass))
  if left.isEmpty then { x with bankRows := [], banksOff := x.banksOff ||| x.banksClosing, banksClosing := 0 }
  else { x with bankRows := left }

/-- The latency of a row pass in ticks of 10 ns. The waits of Table 11.4 are left out; of a row pass that ends
while its stream is suspended, the time of the suspension is not, since R278 measures it (log entry 64). -/
def RowPass.latency (rp : RowPass) (now : BitVec 64) (suspended : Bool) : Nat :=
  match rp.tStart with
  | some t0 => now.toNat - t0.toNat - rp.excluded - (if suspended then 0 else rp.suspendedFor)
  | none => 0

/-- The shares of a row's pass that have ended (R266), whether they still stand in their tiles or not: tile, elements,
row length, latency, and whether they began under the promise. -/
def State.overShares (s : State) (r : RowCtx) (sid p : Nat) : List EndedPass :=
  r.ended.filter (fun e => e.pass == p) ++ (s.rowPasses r sid p).filterMap (fun x =>
    x.2.took.map (fun n =>
      { pass := p, tile := x.1, count := x.2.taken, len := x.2.len, latency := n, promised := x.2.promised }))

/-- These shares make up the pass of the row: all tiles that serve it, or the whole row length (R31, R193). -/
def RowCtx.covers (r : RowCtx) (es : List EndedPass) : Bool :=
  match es with
  | [] => false
  | e :: _ => r.tiles.all (fun t => es.any (fun x => x.tile == t)) || (es.map (fun x => x.count)).sum ≥ e.len

/-- The last of the three events of a row pass has come: its latency is fixed, and when the pass has ended in all its
tiles the stream takes it (R266, R275, R278, R281). -/
def State.measurePass (s : State) (t : Nat) (rp : RowPass) (r : RowCtx) : State :=
  let was := r.covers (s.overShares r rp.sid rp.pass)
  let took := rp.latency s.time ((s.stream? rp.sid).any (fun x => x.suspended))
  let s := s.modTile t (fun x => x.modPass rp.sid rp.row rp.pass (fun q => { q with took := some took }))
  let es := s.overShares r rp.sid rp.pass
  let s := if r.covers es && !was then
      s.passEnded rp.sid rp.row rp.pass (maxOf (es.map (fun y => y.latency))) (es.all (fun y => y.promised))
    else s
  s.resume rp.sid

/-- All row passes of pass `p` have left their tiles. -/
def RowCtx.passDone (r : RowCtx) (p : Nat) : Bool := r.covers (r.ended.filter (fun e => e.pass == p))

/-- Frees what a row holds of the hold rings of all tiles (R211). -/
def State.freeHold (s : State) (sid row : Nat) : State :=
  { s with tiles := s.tiles.map (fun (x : Tile) =>
      { x with hold := x.hold.filter (fun h => !(h.sid == sid && h.row == row)) }) }

/-- A row pass leaves its tile: the row keeps its count, its hold entries go in every tile when its last pass has ended in
all of them, and with its last row pass the row itself (R211, R281). -/
def State.endPass (s : State) (t : Nat) (rp : RowPass) : State :=
  let e : EndedPass := { pass := rp.pass, tile := t, count := rp.taken, len := rp.len, latency := rp.took.getD 0,
                         promised := rp.promised }
  let s := s.booked (fun s => s.modTile t (fun x =>
    { x with rows := x.rows.filter (fun r => !(r.sid == rp.sid && r.row == rp.row && r.pass == rp.pass)) }.bankRelease
      rp.sid rp.row rp.pass))
  let s := s.modStream rp.sid (fun x => x.modRow rp.row (fun r => { r with ended := r.ended ++ [e] }))
  match s.stream? rp.sid with
  | none => s
  | some x =>
    match x.row? rp.row with
    | none => s
    | some r =>
      let s := if r.passDone r.chain.npass then s.freeHold rp.sid rp.row else s
      let s := if r.chain.passes.all (fun p => r.passDone p) then
          let s := s.booked (fun s => s.modStream rp.sid (fun y => { y with rows := y.rows.filter (fun q => q.row != rp.row) }))
          let s := match x.closeBy with
            | some (o, tag) => s.modLong o tag (fun l => { l with done := l.done + 1 })
            | none => s
          s.prune
        else s
      (s.finishClose rp.sid).svcSettle (bandOf t)

/-- One row pass as far as it can go: it finishes, leaves, ends, and makes room. -/
def State.advancePass (s : State) (t sid row pass : Nat) : State :=
  let s := match (s.tile t).pass? sid row pass with
    | some rp => if rp.ran && !rp.finished then s.finishPass t rp else s
    | none => s
  let s := match (s.tile t).pass? sid row pass with
    | some rp =>
      if rp.finished && rp.handsOn && !rp.handed && s.canHandOn t rp then s.handOn t rp
      else s
    | none => s
  let s := match (s.tile t).pass? sid row pass with
    | some rp => if rp.finished && !rp.released && s.mayLeave t rp then s.releasePass t rp else s
    | none => s
  let s := match (s.tile t).pass? sid row pass, (s.stream? sid).bind (fun x => x.row? row) with
    | some rp, some r => if rp.over r && rp.took.isNone then s.measurePass t rp r else s
    | _, _ => s
  match (s.tile t).pass? sid row pass, (s.stream? sid).bind (fun x => x.row? row) with
  | some rp, some r => if rp.done r then s.endPass t rp else s
  | _, _ => s

/-- A row pass goes on while its tile runs (R328, R379). -/
def State.settlePass (s : State) (t sid row pass : Nat) : State :=
  if s.tileRuns t then s.advancePass t sid row pass else s

/-- The row passes of a tile in row order. -/
def insertKey (k : Nat × Nat × Nat) : List (Nat × Nat × Nat) → List (Nat × Nat × Nat)
  | [] => [k]
  | x :: xs => if k.2.1 < x.2.1 || (k.2.1 == x.2.1 && k.2.2 < x.2.2) then k :: x :: xs else x :: insertKey k xs

def Tile.keys (x : Tile) : List (Nat × Nat × Nat) :=
  x.rows.foldl (fun ks r => insertKey (r.sid, r.row, r.pass) ks) []

/-- The row passes of a block or window in a tile. -/
def Block.has (b : Block) (r : RowPass) : Bool :=
  r.sid == b.sid && r.pass == b.pass && r.finished && b.rows.any (fun o => o.row == r.row)

/-- A block or window of a closing stream that no accepted row will still enter (R247, R284). -/
def State.blockCloses (s : State) (t : Nat) (b : Block) : Bool :=
  !b.rows.isEmpty && (s.stream? b.sid).any (fun x =>
    x.closing && x.rows.all (fun r => r.row / b.size != b.index || b.rows.any (fun o => o.row == r.row) ||
      !s.passComing r x.sid t b.pass))

/-- The beats of a block, or of a window whose list has been read. -/
def Block.beats (b : Block) : List OpdBeat := if b.gather then windowBeats b b.gbytes else blockBeats b

/-- Sends what may leave of a tile's blocks and windows in their turn: TRANSPOSE blocks that are complete, or whose
stream is closing, and GATHER windows whose list has been read; rows of which no beat leaves are freed (R243, R246,
R247, R250). -/
def State.sendBlocks (s : State) (t : Nat) : State :=
  let go (b : Block) : Bool := s.blockTurn t b && (if b.gather then b.phase == .ready
    else !b.rows.isEmpty && (b.full || s.blockCloses t b))
  let ready := (s.tile t).blocks.filter go
  let silent (r : RowPass) : Bool := ready.any (fun b => b.has r && b.beats.isEmpty)
  let s1 := s.modTile t (fun x => { x with
    blocks := x.blocks.filter (fun b => !go b)
    rows := x.rows.map (fun r => if silent r then { r with egress := 0 } else r)
    egress := x.egress ++ ready.flatMap Block.beats })
  ready.foldl (fun s b => if b.gather || b.full then s
    else s.notice t evTransposeShort (layoutS b.sid b.pass b.stage t 0 b.index b.rows.length 0)) s1

def State.settleBlocks (s : State) (t : Nat) : State := if s.tileRuns t then s.sendBlocks t else s

/-- Lets everything in a tile that can go on do so. -/
def State.settleTile (s : State) (t : Nat) : State :=
  let sweep (s : State) : State := (s.tile t).keys.foldl (fun s k => s.settlePass t k.1 k.2.1 k.2.2) s
  let s := sweep (sweep (sweep (sweep s)))
  (s.tile t).blocks.foldl (fun s _ => sweep (s.settleBlocks t)) s

def State.settleTiles (s : State) (ts : List Nat) : State := ts.foldl (fun s t => s.settleTile t) s

/-- A tile has the last beat of a row's pass: with what it took, other tiles of the row may learn that no share
is left for them. -/
def State.settleRow (s : State) (t sid row : Nat) : State :=
  match (s.stream? sid).bind (fun x => x.row? row) with
  | some r => ((s.joinAbsent sid row).settleTile t).settleTiles (r.tiles.filter (fun u => u != t))
  | none => s.settleTile t

/-! ### STATISTIC_APPLY_START -/

/-- The record that a stage takes from `k`: the row's final record, or under HOLD_CONFLICT the poisoned one
in its place (R212). -/
def RowPass.recordFor (rp : RowPass) (r : RowCtx) (k : Nat) : Option Rec :=
  match rp.conflict with
  | some _ =>
    let st := rp.chain.stage k
    some (conflictRec rp.chain.sig rp.sid st.kind rp.row st.pass k)
  | none => r.final? k

/-- Row length of a pass (R289): LENp, or for a variable row the length its tag carried. A row factor in a variable row
takes as N the length of the APPLY stage's own pass, not that of the pass of its SUMSQ: the manual does not say which
(R222; DESIGN CHOICE, log entry 94). -/
def RowPass.lenOf (rp : RowPass) (p : Nat) : Nat := if rp.desc.var then rp.len else rp.desc.len.getD (p - 1) 0

/-- Every share of the row stands at stage `k` of its pass: all tiles', or counts that make up the row. -/
def RowCtx.allAt (r : RowCtx) (ps : List (Nat × RowPass)) (k len : Nat) : Bool :=
  ps.all (fun p => !p.2.opened && p.2.next == k) &&
    (ps.length == r.tiles.length || (ps.map (fun p => p.2.taken)).sum ≥ len)

/-- The held values of the whole row with their columns, in column order of the tiles. -/
def heldOf (ps : List (Nat × RowPass)) : List (Nat × HeldElem) :=
  ps.flatMap (fun p => p.2.held.zipIdx.map (fun h => (p.2.colAt h.2, h.1)))

/-- The PSUM partials of a row's tiles, combined in ascending tile order (R102, R103): the lowest of these tiles, which
takes the result (log entry 11), and the sum. -/
def RowCtx.psumSum (r : RowCtx) (k : Nat) : Option (Nat × PsumAcc) :=
  match r.psumParts.filter (fun p => p.1 == k) with
  | [] => none
  | p :: ps => some (p.2.1, ps.foldl (fun a q => PsumAcc.combine (r.chain.stage k).pmode a q.2.2) p.2.2)

/-- The result of a row's PSUM stage (R105). -/
def RowCtx.psumResult (r : RowCtx) (k : Nat) : Option Written :=
  let s := r.chain.stage k
  (r.psumSum k).map (fun p => p.2.result s.pmode (fmtOf s.opfD))

/-- Passes the stage at which a row pass waits, where what it waits for exists. The absolute maximum of a
CONVERT stage's output scale is taken over the tiles of the row's stream: parts of the row in other streams or
dies take no part (R77). DESIGN CHOICE, log entry 65. -/
def State.passWait (s : State) (t : Nat) (r : RowCtx) (rp : RowPass) : Option (State × RowPass × Notes) :=
  let k := rp.next
  let st := rp.chain.stage k
  if k ≥ rp.chain.passEnd rp.pass then none
  else if st.op == opApply || st.op == opStat then
    let j := if st.op == opApply then st.astat else st.ref
    (rp.recordFor r j).map (fun x =>
      let out := rp.startRef x (rp.lenOf (rp.chain.stage j).pass)
      (s, out.1, out.2))
  else if st.op == opPsum then
    if r.psums.any (fun p => p.1 == k) then
      (r.psumSum k).map (fun w =>
        let created := w.2.posInf && w.2.negInf && !w.2.invalid && !w.2.poison
        let out := rp.startPsum (w.1 == t) created (w.2.result st.pmode (fmtOf st.opfD))
        (s, out.1, out.2))
    else none
  else
    match rp.sweep with
    | some R =>
      let out := rp.startSweepB R
      some (s, out.1, out.2)
    | none =>
      let ps := s.rowPasses r rp.sid rp.pass
      if r.allAt ps k rp.len then
        let R := convRow (rp.convEnv k) (heldOf ps)
        let s := ps.foldl (fun s p => s.putPass p.1 { p.2 with sweep := some R }) s
        let out := { rp with sweep := some R }.startSweepB R
        some (s, out.1, out.2)
      else none

/-- STATISTIC_APPLY_START in a tile (R31, R77, R100, R197, R212, R215, R219, R222). -/
def State.applyStart (s : State) (t sid row pass : Nat) : State :=
  match (s.tile t).pass? sid row pass, (s.stream? sid).bind (fun x => x.row? row) with
  | some rp, some r =>
    match s.passWait t r rp with
    | some (s, rp1, notes) => ((s.passRan t rp1 (rp1.factorRequest rp.next ++ rp1.requests (stagesFrom rp.next rp1.next) 0)).addNotes t rp1 notes).settleTile t
    | none => s
  | _, _ => s

def execStatisticApplyStart (t : Fin 88) (sid : BitVec 14) (row : BitVec 48) (pass : Fin 4) (s : State) :
    Host.Outcome State Fault Refusal :=
  .next (if s.tileRuns t.val then s.applyStart t.val sid.toNat row.toNat pass.val else s)

end Sys2Proof.Machine
end

