-- ==== Sys2Proof/Machine/Admission.lean ====
section
/-!
DEFINITION. Admission (R263 to R274): the stream descriptor and its format checks, the resources of
Table 11.6, the worst-case latency W of R268 and Table 11.5, and re-admission (R274).
-/

namespace Sys2Proof.Machine

/-! ### The descriptor (Table 14.8, Table 11.2) -/

/-- Row length of a pass from the descriptor's words: LEN2 and LEN3 default to RLEN. -/
def rawLen (b : List Byte) (p : Nat) : Nat :=
  let l := leAt b (8 + 4 * p) 4 % 2 ^ 25
  if l == 0 then leAt b 12 4 % 2 ^ 25 else l

/-- SHRp, by default the pass's row length over the stream's tiles. -/
def rawShr (b : List Byte) (p : Nat) : Nat :=
  let v := leAt b (20 + 4 * p) 4 % 2 ^ 25
  let n := max 1 (tilesOf 0 (leAt b 2 2 % 2 ^ 11)).length
  if v == 0 then ceilDiv (rawLen b p) n else v

/-- The descriptor of stream `sid` with its defaults filled in. -/
def parseStream (sid : Nat) (desc : List Byte) : StreamDesc :=
  let b := desc ++ List.replicate (128 - desc.length) 0
  let at1 := leAt b
  let chain := at1 0 2 % 2 ^ 10
  let dkey := at1 52 3
  { chain := chain, tmask := BitVec.ofNat 11 (at1 2 2), cls := bits (at1 4 1) 1 0, mig := bit (at1 4 1) 2,
    var := bit (at1 4 1) 3, held := bit (at1 4 1) 4, rrate := at1 8 4,
    len := [rawLen b 1, rawLen b 2, rawLen b 3], shr := [rawShr b 1, rawShr b 2, rawShr b 3],
    nrows := at1 36 6, rhold := if at1 42 2 % 2 ^ 13 == 0 then 64 else at1 42 2 % 2 ^ 13,
    seed := BitVec.ofNat 64 (at1 44 8),
    dkey := BitVec.ofNat 24 (if dkey == 0 then chain * 2 ^ 14 + sid else dkey),
    mbase := at1 56 8 % 2 ^ 52, mring := at1 64 4 % 2 ^ 17, p := at1 68 2, pidx := at1 70 2,
    obase := at1 72 8 % 2 ^ 52, ostride := at1 80 5, sbase := at1 88 8 % 2 ^ 52, sstride := at1 96 5,
    gbase := at1 104 8 % 2 ^ 52, gring := at1 112 2, gmax := at1 114 2, gstride := at1 116 4 }

def isPow2 (n : Nat) : Bool := n > 0 && n &&& (n - 1) == 0

/-- Byte offsets of the fields that fail without regard to the chain (R211, R264, R265). -/
def fieldFails (b : List Byte) : List Nat :=
  let at1 := leAt b
  let rhold := at1 42 2
  let bad : List (Bool × Nat) := [
    (at1 0 2 ≥ 2 ^ 10, 0), (at1 2 2 ≥ 2 ^ 11, 2),
    (at1 4 1 ≥ 32 || (bit (at1 4 1) 2 && bits (at1 4 1) 1 0 < 2), 4), (at1 5 3 != 0, 5), (at1 8 4 == 0, 8),
    (at1 12 4 == 0 || at1 12 4 > 2 ^ 24, 12), (at1 16 4 > 2 ^ 24, 16), (at1 20 4 > 2 ^ 24, 20),
    (at1 24 4 ≥ 2 ^ 25, 24), (at1 28 4 ≥ 2 ^ 25, 28), (at1 32 4 ≥ 2 ^ 25, 32),
    (rhold > 4096 || (rhold != 0 && !isPow2 rhold), 42), (at1 55 1 != 0, 55), (at1 56 8 ≥ 2 ^ 52, 56),
    (at1 64 4 ≥ 2 ^ 17, 64), (at1 72 8 ≥ 2 ^ 52, 72), (at1 85 3 != 0, 85), (at1 88 8 ≥ 2 ^ 52, 88),
    (at1 101 3 != 0, 101), (at1 104 8 ≥ 2 ^ 52, 104), (at1 120 8 != 0, 120)]
  (bad.filter (fun x => x.1)).map (fun x => x.2)

/-- COUNTs of the per-column vectors that a stage reads (R239); an object of one entry is a scalar for
SCALE and BIAS. -/
def Chain.vectorCounts (c : Chain) (k : Nat) : List Nat :=
  let s := c.stage k
  let n (r : Nat) := objCount c.consts r
  (if s.op == opScale || s.op == opBias then (if n s.k0 == 1 then [] else [n s.k0])
   else if s.op == opApply && s.aop == 2 then [n s.k0]
   else if s.op == opConvert then
     (if s.scch != 0 then [n s.k0] else []) ++ (if s.biasK != 0 then [n s.k1] else [])
   else []) ++ (if s.sels.contains 4 then [n s.k0] else [])

/-- Byte offsets of the fields that fail on the chain (R192, R198, R221, R239, R246). -/
def chainFails (c : Chain) (d : StreamDesc) : List Nat :=
  let len (p : Nat) := d.len.getD (p - 1) 0
  let shr (p : Nat) := d.shr.getD (p - 1) 0
  let perStage := (List.range c.stages.length).flatMap (fun k =>
    let s := c.stage k
    (if s.op == opStat && kSumsq s.kind && len s.pass > 2 ^ 17 then [8 + 4 * s.pass] else []) ++
      (if (c.vectorCounts k).any (fun n => len s.pass > n) then [8 + 4 * s.pass] else []) ++
      (if s.op == opTranspose && shr s.pass % 128 != 0 then [20 + 4 * s.pass] else []))
  let shares := (c.passes.filter (fun p => shr p > c.rmax)).map (fun p => 20 + 4 * p)
  let lays := (c.stages.filter (fun s => s.op == opMerge && s.mlay != 0)).map (fun s => s.mlay)
  let locals := c.stages.any (fun s => s.op == opMerge && s.mlay == 0)
  let merge := if lays.isEmpty then [] else
    (if d.mbase % 64 != 0 then [56] else []) ++ (if !isPow2 d.mring then [64] else []) ++
      (if d.p == 0 || (d.p > 256 && lays.contains 1) || (d.p != 1 && locals) then [68] else []) ++ (if d.pidx ≥ d.p then [70] else [])
  perStage ++ shares ++ (if d.held && !c.holdok then [4] else []) ++ merge

/-- The first of some byte offsets. -/
def leastOf : List Nat → Option Nat
  | [] => none
  | x :: xs => some (xs.foldl min x)

/-! ### Latency of the stages (Table 11.5) -/

/-- What a tile's other streams and its policy add to W. -/
structure TileEnv where
  xevq  : Nat
  nmax  : Nat                         -- N_max of R173
  dmax  : Nat × Nat                   -- the largest D of R259
  outs  : Nat                         -- S_t: streams with DEST = 0
  deriving DecidableEq, Repr

/-- Own latency of stage `k`, in CCLK; `wide` counts an EVAL's wide grant in place of its own (R218). -/
def Chain.stageCclk (c : Chain) (E : TileEnv) (wide : Bool) (k : Nat) : Nat :=
  let s := c.stage k
  let g := 16 + 2 * E.xevq
  if s.op == opEval then
    g + (if wide then 11 else match grantElems s.opfD with
      | 1 => 11 | 2 => 9 | _ => 7) + (if c.fused (k + 1) then 4 else 0)
  else if s.op == opMul then (if c.fused k then 0 else if s.mulOp ≥ 2 then 14 else 4)
  else if s.op == opScale || s.op == opBias || s.op == opAdd || s.op == opClip then 4
  else if s.op == opApply then (match s.aop with | 1 => 14 | 2 => g + 11 + 4 | _ => 4)
  else if s.op == opConvert then (if s.scout != 0 then 8 else 4)
  else if s.op == opStep then 12 * E.nmax + 6 * c.nstep k + 5
  else if s.op == opPsum then 4 + 38 + (if s.pmode then 4 else 0)
  else 0

/-- Latency from the row's beat to the result of each stage, in stage order. Where a stage takes two earlier results, the
path goes through the later of them (Table 11.5 names none; DESIGN CHOICE, log entry 131). -/
def Chain.pathCclk (c : Chain) (E : TileEnv) (wideAt : Option Nat) : List Nat :=
  (List.range c.stages.length).foldl (fun acc k =>
    acc ++ [c.stageCclk E (wideAt == some k) k + maxOf ((c.deps k).map (fun j => acc.getD j 0))]) []

/-- A stage whose results leave the pass. -/
def Stage.leaves (s : Stage) : Bool := s.op == opStore || (s.op == opConvert && s.dest ≤ 1)

/-- Tstages of the output path of a pass. -/
def Chain.outCclk (c : Chain) (E : TileEnv) (p : Nat) : Nat :=
  let path := c.pathCclk E none
  let ks := c.inPass p
  let outs := ks.filter (fun x => x.2.leaves)
  maxOf ((if outs.isEmpty then ks else outs).map (fun x => path.getD x.1 0))

/-- Tstages of the record path of a pass: up to the STAT that feeds a STAT_MERGE. -/
def Chain.recCclk (c : Chain) (E : TileEnv) (p : Nat) : Nat :=
  maxOf ((c.inPass p).filterMap (fun x =>
    if x.2.op != opMerge then none
    else
      let k := x.2.mstat
      let t := c.stage k
      let path := c.pathCclk E (if t.sumw then c.evalOf k else none)
      let term := if kSum t.kind || kSumsq t.kind then 4 else 0
      some (maxOf ((c.deps k).map (fun j => path.getD j 0)) + term + 38)))

/-! ### W (R268) -/

/-- `a` CCLK in ns at `mhz`, as a fraction. -/
def nsOf (a : Nat × Nat) (mhz : Nat) : Nat × Nat := (a.1 * 1000, a.2 * mhz)

def fracLe (a b : Nat × Nat) : Bool := a.1 * b.2 ≤ b.1 * a.2

def ceilFrac (a : Nat × Nat) : Nat := ceilDiv a.1 a.2

def sumFrac (xs : List (Nat × Nat)) : Nat × Nat := xs.foldl addFrac (0, 1)

/-- The terms of W of pass `p`: code of R272 and ns, in code order. The 4 CCLK of Tx, for which R272 has no code, are
counted in term 2, the stages (DESIGN CHOICE, log entry 116). -/
def passTerms (c : Chain) (d : StreamDesc) (E : TileEnv) (floorMhz lFab fclk p : Nat) : List (Nat × (Nat × Nat)) :=
  let share := d.shr.getD (p - 1) 0
  let ks := (c.inPass p).map (fun x => x.2)
  let cc (n : Nat) := nsOf (n, 1) floorMhz
  let w (s : Stage) := (fmtOf s.opfD).width
  let sends := ks.filter (fun s => s.op == opConvert && s.dest == 0)
  let writes := ks.filter (fun s => s.op == opStore || (s.op == opConvert && s.dest == 1))
  let merges := ks.filter (fun s => s.op == opMerge)
  let tail := (ks.map (fun s =>
    if s.op == opConvert && s.scout != 0 then ceilDiv (share * (s.holdf.width / 8)) 2048 + 38
    else if s.op == opTranspose then ceilDiv (share * 128 * w s) 8192
    else if s.op == opGather then d.gmax * ceilDiv (share * w s) 8192
    else 0)).sum
  let out := ((sends.map (fun s => ceilDiv (share * w s) 8192)).sum) * E.outs
  let fabOut := sumFrac (writes.map (fun s =>
    (lFab * fclk + (32 + ceilDiv (share * w s) 1024) * 1000, fclk)))
  let fabRec := sumFrac (merges.map (fun s =>
    match s.mlay with
    | 0 => (0, 1)
    | l =>
      let k := if l == 2 then 6 else 4
      (k * (lFab * fclk + 32 * 1000) + 64 * 1000, fclk)))
  let tq := nsOf (128 * E.dmax.1, E.dmax.2) floorMhz
  let outTerms := [(1, tq), (2, cc (4 + c.outCclk E p)), (3, cc tail), (4, cc out), (5, fabOut)]
  let outEnd := sumFrac (outTerms.map (fun x => x.2))
  let recStart := addFrac tq (cc (4 + c.recCclk E p))
  let after := !writes.isEmpty && fracLe recStart outEnd
  let recTerms := if after then [(1, tq), (2, cc (4 + c.outCclk E p)), (3, cc tail), (4, cc out), (5, addFrac fabOut fabRec)]
    else [(1, tq), (2, cc (4 + c.recCclk E p)), (3, (0, 1)), (4, (0, 1)), (5, fabRec)]
  let recEnd := sumFrac (recTerms.map (fun x => x.2))
  let byRec := !merges.isEmpty && ((sends.isEmpty && writes.isEmpty) || !fracLe recEnd outEnd)
  (if byRec then recTerms else outTerms) ++ [(6, (if d.mig then 25000 else 0, 1))]

/-- The largest term; the first of equals. -/
def largestTerm (ts : List (Nat × (Nat × Nat))) : Nat × (Nat × Nat) :=
  ts.foldl (fun best t => if fracLe t.2 best.2 then best else t) (1, (0, 1))

/-! ### Demands of a stream (Table 11.6) -/

/-- D of each pass; with HELD the passes share one traversal. -/
def passIntervals (c : Chain) (d : StreamDesc) (xevq : Nat) : List (Nat × Nat) :=
  if d.held then [c.beatInterval 1 xevq true] else c.passes.map (fun p => c.beatInterval p xevq false)

/-- U_s in ppm at a floor in MHz. -/
def tilePpm (c : Chain) (d : StreamDesc) (xevq mhz : Nat) : Nat × Nat :=
  let beats := (passIntervals c d xevq).zipIdx.map (fun (x : (Nat × Nat) × Nat) =>
    (ceilDiv (d.shr.getD x.2 0) (c.beatElems (x.2 + 1)) * x.1.1, x.1.2))
  let b := sumFrac beats
  (d.rrate * b.1, b.2 * mhz)

/-- Bytes per second on the FAB port, over `2^12`, the largest window: exact for every window size. The
number of groups of a list is not declared; its bound of 256 is counted. -/
def fabLoad (c : Chain) (d : StreamDesc) : Nat :=
  (c.stages.map (fun s =>
    let row := ceilDiv (d.len.getD (s.pass - 1) 0 * (fmtOf s.opfD).width) 8
    let perRow :=
      if s.op == opMerge then (match s.mlay with
        | 0 => 0
        | 1 => 64 * (d.p + 3) + 16
        | 2 => 400
        | _ => 272)
      else if s.op == opStore || (s.op == opConvert && s.dest == 1) then row
      else 0
    let list := if s.op == opGather then (16 + 4 * 256 + 2 * d.gmax) * 2 ^ (12 - min s.gwin 12) else 0
    d.rrate * (perRow * 2 ^ 12 + list))).sum

def Chain.count (c : Chain) (op : Nat) : Nat := c.stages.countP (fun s => s.op == op)

def Chain.sendsAny (c : Chain) : Bool := c.stages.any (fun s => s.op == opConvert && s.dest == 0)

/-! ### The checks of R264 steps 5 and 6 -/

def State.tileEnv (s : State) (t : Nat) (c : Chain) (d : StreamDesc) (others : List (Chain × StreamDesc)) : TileEnv :=
  let all := (c, d) :: others
  let q := (s.tile t).xevqSet
  { xevq := q, nmax := maxOf (all.flatMap (fun x => (List.range x.1.stages.length).map x.1.nstep)),
    dmax := (all.flatMap (fun x => passIntervals x.1 x.2 q)).foldl maxFrac (1, 1),
    outs := all.countP (fun x => x.1.sendsAny) }

/-- Resources of the tiles and the band, in the order of Table 11.6. STAGE is 0xF for STAT_ACC, MERGE_SLOT, TILE_TIME and
FAB_RATE, to which several stages add: R256 does not say when a stage is named (DESIGN CHOICE, log entry 102). -/
def State.resources (s : State) (sid : Nat) (c : Chain) (d : StreamDesc) : Option Refuse :=
  let b := sidBand sid
  let mhz := pointMhz (s.band b).floor
  let ts := tilesOf b d.tmask.toNat
  let inBand := (s.streamsIn b).filterMap (fun x =>
    if x.sid == sid then none else (s.chain? x.desc.chain).map (fun v => (v, x.desc)))
  let stage := c.largestStage (c.needUnits (fun p => d.shr.getD (p - 1) 0))
  let staging := ts.map (fun t =>
    let others := s.tileLoad t sid
    let want := streamUnits c d + (if others.any (fun x => x.1.id == c.id) then 0 else c.constUnits)
    let have1 := (s.tile t).units - unitsReserved others
    need (want ≤ have1) (.capacity 0x02 stage t want have1 0 0))
  let accs := ts.map (fun t =>
    let used := ((s.tileLoad t sid).map (fun x => 2 * x.1.count opStat)).sum
    let want := 2 * c.count opStat
    need (want ≤ 64 - used) (.capacity 0x12 0xF t want (64 - used) 0 0))
  let merges :=
    let used := (inBand.map (fun x => 2 * x.1.count opMerge)).sum
    let want := 2 * c.count opMerge
    need (want ≤ 256 - used) (.capacity 0x13 0xF 0xFFFF want (256 - used) 0 0)
  let time := ts.map (fun t =>
    let q := (s.tile t).xevqSet
    let all := sumFrac (((c, d) :: s.tileLoad t sid).map (fun x => tilePpm x.1 x.2 q mhz))
    need (fracLe all (1000000, 1)) (.capacity 0x11 0xF t (ceilFrac all) 1000000 0 0))
  let fab :=
    let all := (((c, d) :: inBand).map (fun x => fabLoad x.1 x.2)).sum
    let cap := 96 * s.policy.fclk
    need (all ≤ cap * 1000000 * 2 ^ 12)
      (.capacity 0x14 0xF 0xFFFF (ceilDiv all (1000000 * 2 ^ 12)) cap 0 0)
  firstRefuse (staging ++ accs ++ [merges] ++ time ++ [fab])

/-- W of pass `p` on tile `t`: ns rounded up, the code of its largest term and that term, which is rounded up as W is
(DESIGN CHOICE, log entry 117: R272 gives word 4 no rounding). -/
def State.passW (s : State) (sid : Nat) (c : Chain) (d : StreamDesc) (t p : Nat) : Nat × Nat × Nat :=
  let ts := passTerms c d (s.tileEnv t c d (s.tileLoad t sid)) (pointMhz (s.band (sidBand sid)).floor)
    s.policy.lFab s.policy.fclk p
  let big := largestTerm ts
  (ceilFrac (sumFrac (ts.map (fun x => x.2))), big.1, ceilFrac big.2)

/-- The latency check, pass by pass and tile by tile (R268, R272). -/
def State.latency (s : State) (sid : Nat) (c : Chain) (d : StreamDesc) : Option Refuse :=
  let bound := classBound d.cls
  firstRefuse (c.passes.flatMap (fun p => (tilesOf (sidBand sid) d.tmask.toNat).map (fun t =>
    let w := s.passW sid c d t p
    need (w.1 ≤ bound)
      { status := stPromise, words := [p + w.2.1 * 2 ^ 4 + t * 2 ^ 16, w.1, bound, w.2.2] })))

/-- Steps 5 and 6 of R264. -/
def State.admission (s : State) (sid : Nat) (c : Chain) (d : StreamDesc) : Option Refuse :=
  match s.resources sid c d with
  | some r => some r
  | none => s.latency sid c d

/-- Step 2: the byte offset of the first field that fails. -/
def State.descFails (s : State) (bs : List Byte) (d : StreamDesc) : Option Nat :=
  leastOf (fieldFails (bs ++ List.replicate (128 - bs.length) 0) ++ (match s.chain? d.chain with
    | some c => chainFails c d
    | none => []))

/-- Steps 3 and 4: the band and the tiles are in the service map, the chain is resident, and the context
is free. -/
def State.contextCheck (s : State) (sid : Nat) (d : StreamDesc) : Option Refuse :=
  let b := sidBand sid
  let ts := tilesOf b d.tmask.toNat
  let no (res t : Nat) : Refuse := .capacity res 0xF t 1 0 0 0
  firstRefuse [
    need (s.band b).present (no 0x15 0xFFFF),
    (ts.find? (fun t => !(s.tile t).active || s.leaving t)).map (no 0x15),
    need (!ts.isEmpty && (s.chain? d.chain).isSome) (no 0x15 0xFFFF),
    need (s.stream? sid).isNone (no 0x10 0xFFFF)]

/-! ### Re-admission (R274) -/

/-- A refusal that names its stream in word 5. -/
def Refuse.named (r : Refuse) (sid : Nat) : Refuse :=
  { r with words := (r.words ++ [0, 0, 0, 0]).take 4 ++ [sid] }

/-- Admission of every stream that a change affects, in the changed state `s`. -/
def State.readmit (s : State) (affected : Stream → Bool) : Option Refuse :=
  s.streams.findSome? (fun x =>
    if affected x then
      match s.chain? x.desc.chain with
      | none => none
      | some c => (s.admission x.sid c x.desc).map (fun r => r.named x.sid)
    else none)

/-- W of the passes and TILE_TIME of the busiest tile of a stream, as the promise record reports them. -/
def State.promiseOf (s : State) (sid : Nat) (c : Chain) (d : StreamDesc) : List Nat × Nat :=
  let ts := tilesOf (sidBand sid) d.tmask.toNat
  let mhz := pointMhz (s.band (sidBand sid)).floor
  ([1, 2, 3].map (fun p => if p ≤ c.npass then maxOf (ts.map (fun t => (s.passW sid c d t p).1)) else 0),
   maxOf (ts.map (fun t => ceilFrac (sumFrac (((c, d) :: s.tileLoad t sid).map (fun x =>
     tilePpm x.1 x.2 (s.tile t).xevqSet mhz))))))

/-- Recomputes the promise records of the streams that a change affects. -/
def State.repromise (s : State) (affected : Stream → Bool) : State :=
  { s with streams := s.streams.map (fun (x : Stream) =>
      if affected x then
        match s.chain? x.desc.chain with
        | none => x
        | some c => { x with w := (s.promiseOf x.sid c x.desc).1, ppm := (s.promiseOf x.sid c x.desc).2 }
      else x) }

end Sys2Proof.Machine
end

