-- ==== Sys2Proof/Machine/Merging.lean ====
section
/-!
DEFINITION. Merging row records in host memory (R198 to R207, R303): the areas, what a part reads, writes
and adds, waits and re-reads, mismatches, and the final record.
-/

namespace Sys2Proof.Machine

/-! ### FAB requests (R301) -/

def readSlot (owner : FabOwner) (a : Nat) : FabReq where
  op := .read
  addr := BitVec.ofNat 52 (a - a % 128)
  be := BitVec.ofNat 128 ((2 ^ 64 - 1) * 2 ^ (a % 128))
  data := 0
  owner := owner

def writeSlot (owner : FabOwner) (a : Nat) (bs : List Byte) : FabReq where
  op := .write
  addr := BitVec.ofNat 52 (a - a % 128)
  be := BitVec.ofNat 128 ((2 ^ 64 - 1) * 2 ^ (a % 128))
  data := BitVec.ofNat 1024 (leNat (bs.take 64) * 2 ^ (8 * (a % 128)))
  owner := owner

def addReq (owner : FabOwner) (wide : Bool) (a v : Nat) : FabReq where
  op := if wide then .add64 else .add32
  addr := BitVec.ofNat 52 a
  be := 0
  data := BitVec.ofNat 1024 (v % (if wide then 2 ^ 64 else 2 ^ 32))
  owner := owner

/-- The Vane's crossing of 8 requests has a place for a record of COMBINE: one event record and one log entry at most
are on their way beside them (Table 13.2). -/
def Band.vaneRoom (x : Band) : Bool := x.fabQueue.countP (fun r => r.owner == .combine) < 6

def State.queueFab (s : State) (b : Nat) (rs : List FabReq) : State :=
  s.modBand b (fun x => { x with fabQueue := x.fabQueue ++ rs })

/-! ### Areas (R198, Table 8.8) -/

/-- Bytes of a row area. -/
def areaSize (mlay p : Nat) : Nat :=
  match mlay with
  | 0 => 0 | 1 => 64 * (p + 1) | 2 => 128 | _ => 64 * (p + 2)

/-- The STAT_MERGE stage of a STAT stage. -/
def Chain.mergeOf (c : Chain) (step : Nat) : Option (Nat × Stage) :=
  (c.stages.zipIdx.find? (fun (x : Stage × Nat) => x.1.op == opMerge && x.1.mstat == step)).map (fun x => (x.2, x.1))

/-- Bytes of the regions of the STAT_MERGE stages before stage `k`. -/
def Chain.regionsBefore (c : Chain) (k mring p : Nat) : Nat :=
  (c.stages.take k).foldl (fun n s => if s.op == opMerge then n + mring * areaSize s.mlay p else n) 0

/-- Address of the row area of a merge (R198). A replacement may bring the stream its first merge in host memory, whose four
fields OPEN_STREAM has not checked: an MRING of 0 counts as 1 then (DESIGN CHOICE, log entry 128). -/
def areaAddr (c : Chain) (d : StreamDesc) (k row : Nat) : Nat :=
  let a := areaSize (c.stage k).mlay d.p
  (d.mbase + c.regionsBefore k d.mring d.p + row % max d.mring 1 * a) % 2 ^ 52

namespace Merge

def owner (m : Merge) (r : MergeReq) : FabOwner := .merge m.sid m.row m.step r

def control (m : Merge) : Nat := m.base + areaSize m.layout m.parts - 64

def result (m : Merge) : Nat := m.base + 64 * m.parts

/-- The request that the present phase reads with; GATHER reads the part slots still
missing, also where it reads its area again (R201; DESIGN CHOICE, log entry 125). -/
def reads (m : Merge) : List FabReq :=
  match m.phase with
  | .readers => [readSlot (m.owner .readReaders) m.control]
  | .reading =>
    if m.layout == 3 then [readSlot (m.owner .readResult) m.result]
    else ((List.range m.parts).filter (fun i => !m.got.any (fun g => g.1 == i))).map (fun i =>
      readSlot (m.owner (.readPart i)) (m.base + 64 * i))
  | .arming | .counting => [readSlot (m.owner .readSum) m.base]
  | _ => []

end Merge

def State.merge? (s : State) (b sid row step : Nat) : Option Merge :=
  (s.band b).merges.find? (fun m => m.sid == sid && m.row == row && m.step == step)

def State.putMerge (s : State) (b : Nat) (m : Merge) : State :=
  s.modBand b (fun x => { x with merges := x.merges.map (fun y =>
    if y.sid == m.sid && y.row == m.row && y.step == m.step then m else y) })

/-- Issues the reads of the merge's phase. -/
def State.askMerge (s : State) (b : Nat) (m : Merge) : State :=
  let rs := m.reads
  (s.putMerge b { m with asked := rs.length, again := false }).queueFab b rs

/-! ### The excluded wait (R205, R267) -/

/-- A read found that wait `k` goes on: the time since its issue was part of the wait. -/
def RowPass.waitOn (r : RowPass) (k : Nat × Nat) : RowPass :=
  { r with
    excluded := r.excluded + ((r.tentative.filter (fun w => w.waits.contains k)).map (fun w => w.ticks)).sum
    tentative := r.tentative.filter (fun w => !w.waits.contains k) }

/-- A read found wait `k` over: the time since its issue counts, but for what another wait or the suspension of
the stream covers. -/
def RowPass.waitOver (r : RowPass) (k : Nat × Nat) : RowPass :=
  let ws := r.tentative.map (fun w => { w with waits := w.waits.filter (fun q => q != k) })
  { r with
    suspendedFor := r.suspendedFor + ((ws.filter (fun w => w.waits.isEmpty && w.suspended)).map (fun w => w.ticks)).sum
    tentative := ws.filter (fun w => !w.waits.isEmpty) }

/-- The row passes of a stream in a tile. -/
def Tile.mapPasses (x : Tile) (sid : Nat) (f : RowPass → RowPass) : Tile :=
  { x with rows := x.rows.map (fun r => if r.sid == sid then f r else r) }

/-- A re-read of a merge found the part still unable to proceed. -/
def State.keepWaiting (s : State) (m : Merge) : State :=
  { s with tiles := s.tiles.map (fun (t : Tile) => t.mapPasses m.sid (fun r => r.waitOn (m.row, m.step))) }

/-- A read of a merge found the part able to proceed. -/
def State.endWait (s : State) (m : Merge) : State :=
  { s with tiles := s.tiles.map (fun (t : Tile) => t.mapPasses m.sid (fun r => r.waitOver (m.row, m.step))) }

/-- Another part has not yet acted: the part waits, and a re-read is due (R201, R205). Each wait of a merge is left out
of the latency, where a merge waits twice both (DESIGN CHOICE, log entry 89). -/
def State.blockMerge (s : State) (b : Nat) (m : Merge) : State :=
  (s.keepWaiting m).putMerge b { m with began := true, waiting := true, again := true }

/-- The merge goes on into a phase that begins with reads. -/
def State.readOn (s : State) (b : Nat) (m : Merge) (p : MergePhase) : State :=
  (s.endWait m).askMerge b { m with phase := p, waiting := false }

/-- The merge goes on with requests of its own. -/
def State.sendOn (s : State) (b : Nat) (m : Merge) (p : MergePhase) (rs : List FabReq) : State :=
  ((s.endWait m).putMerge b { m with phase := p, waiting := false, asked := rs.length }).queueFab b rs

/-! ### Findings (R207, Table 8.10) -/

def mismatchPayload (r : Rec) (part reason : Nat) : Nat :=
  pack [(0, r.sig.toNat), (4, part), (6, r.kind.toNat), (7, r.flags.toNat), (8, r.row.toNat), (14, r.pass.toNat),
    (16, r.step.toNat), (17, reason), (18, if reason == 5 then r.count.toNat else r.maxkey.toNat), (22, r.e.toNat)]

def State.mismatch (s : State) (b : Nat) (first : Rec) (p1 : Nat) (second : Rec) (p2 reason : Nat) : State :=
  s.report2 (srcBand b) evMergeMismatch (fun _ => mismatchPayload first p1 reason)
    (some (mismatchPayload second p2 reason))

/-- Layout of MERGE_WAIT (R207). A part that reads no other part's slot, as in a HOST merge, and one that still waits for
READERS or for its arming, has seen no part and no count: the manual gives PARTS seen and COUNT seen no source there, and
both are 0 (DESIGN CHOICE, log entry 93). -/
def waitPayload (m : Merge) : Nat :=
  pack [(0, m.own.sig.toNat), (4, m.partsSeen % 2 ^ 16), (6, m.own.kind.toNat), (7, m.layout), (8, m.own.row.toNat),
    (14, m.own.pass.toNat), (16, m.own.step.toNat), (18, m.countSeen % 2 ^ 32)]

/-- PART codes of Table 8.10. -/
def partFormed : Nat := 0xFFFC
def partResult : Nat := 0xFFFD
def partSum : Nat := 0xFFFE
def partOwn : Nat := 0xFFFF

/-! ### Final records -/

/-- A row's final record of a STAT stage: the tiles that wait for it go on (R31, R180). -/
def State.putFinal (s : State) (sid row step : Nat) (r : Rec) : State :=
  let s := s.modStream sid (fun x => x.modRow row (fun c => { c with finals := c.finals ++ [{ step := step, rcd := r }] }))
  match (s.stream? sid).bind (fun x => x.row? row) with
  | none => s
  | some c => s.settleTiles c.tiles

/-- Requests of a merge that have not been issued are withdrawn, but for its READERS add: R303 says so of one that has
failed, and the model has it so of one that is abandoned (R206; DESIGN CHOICE, log entry 138). -/
def dropRequests (m : Merge) (q : List FabReq) : List FabReq :=
  q.filter (fun r => match r.owner with
    | .merge sid row step k => !(sid == m.sid && row == m.row && step == m.step) || k == .addReaders
    | _ => true)

/-- The final record exists: the merge leaves its place, and the READERS add is issued (R200). -/
def State.endMerge (s : State) (b : Nat) (m : Merge) (r : Rec) : State :=
  let s := (s.endWait m).modBand b (fun x => { x with
    merges := x.merges.filter (fun y => !(y.sid == m.sid && y.row == m.row && y.step == m.step))
    fabQueue := dropRequests m x.fabQueue ++ [addReq (m.owner .addReaders) false m.control 1] })
  s.putFinal m.sid m.row m.step r

/-- A merge that fails for want of a request or by ABANDON (R206, R303, R418). -/
def State.failMerge (s : State) (b : Nat) (m : Merge) : State := s.endMerge b m (poisonedFinal m.own m.own)

/-- A final merge: complete when COUNT = N, else a mismatch of reason COUNT (R197, R207). -/
def State.completeMerge (s : State) (b : Nat) (m : Merge) (r : Rec) (part : Nat) : State :=
  if r.count.toNat == m.total then s.endMerge b m (finalOf m.sid r)
  else (s.mismatch b m.own partOwn r part 5).endMerge b m (poisonedFinal m.own r)

/-! ### GATHER (R202) -/

/-- The slots of a GATHER area, checked and merged: the merged record and the parts that disagree. -/
def mergeParts (own : Rec) (parts : List (Nat × Rec)) : Rec × List (Nat × Rec × Nat) :=
  let bad := parts.filterMap (fun p =>
    let why := mismatchReason own p.2
    if why == 0 then none else some (p.1, p.2, why))
  let good := parts.filter (fun p => mismatchReason own p.2 == 0)
  (good.foldl (fun a p => mergeRec a p.2) (zeroRec own), bad)

/-- Every part slot of the row has been read. -/
def State.gathered (s : State) (b : Nat) (m : Merge) : State :=
  let parts := (List.range m.parts).filterMap (fun i =>
    (m.got.find? (fun g => g.1 == i)).bind (fun g => g.2.map (fun r => (i, r))))
  let r := mergeParts m.own parts
  match r.2 with
  | [] => s.completeMerge b m r.1 partFormed
  | bad =>
    let s := bad.foldl (fun s x => s.mismatch b m.own partOwn x.2.1 x.1 x.2.2) s
    s.failMerge b m

/-! ### SUM (R203, Table 8.9) -/

/-- The arming write. -/
def armBytes (r : Rec) : List Byte :=
  let k := r.kind.toNat
  recBody { zeroRec r with
    stream := 0, flags := 0
    maxkey := if kSum k then r.maxkey else 0
    e := if kSumsq k then r.e else 0 } ++ toLe 4 0

/-- The adds of step 3. -/
def sumAdds (m : Merge) : List FabReq :=
  let o := m.owner .addField
  let r := m.own
  let fields : List (Nat × Bool × Nat) := [
    (28, false, b2n (r.has fZero) + b2n (r.has fNan) * 2 ^ 16), (32, true, r.sum.toNat), (40, true, r.sumsq.toNat),
    (52, false, r.satuf.toNat), (56, false, r.nanc.toNat),
    (60, false, b2n (r.has fPoison) + b2n (r.has fSat) * 2 ^ 16)]
  addReq o false (m.base + 48) 0x10000 ::
    (fields.filter (fun f => f.2.2 != 0)).map (fun f => addReq o f.2.1 (m.base + f.1) f.2.2)

/-- The record in a sum slot (step 6). -/
def sumRec (p : Nat) (bs : List Byte) : Rec :=
  { parseRec bs with
    stream := 0, absmax := 0
    flags := flagsOf (leAt bs 28 2 == p) (leAt bs 60 2 != 0) (leAt bs 30 2 != 0) (leAt bs 62 2 != 0) false }

/-! ### Responses -/

/-- A read of the merge's phase that returned 64 bytes. The wait of a GATHER round of several slot reads begins at the
response of the round's last read (R205; DESIGN CHOICE, log entry 90). The host's result enters the final record with
this part's own STREAM (R197, R204; DESIGN CHOICE, log entry 91). -/
def State.mergeRead (s : State) (b : Nat) (m : Merge) (r : MergeReq) (bs : List Byte) : State :=
  let x := parseRec bs
  match m.phase, r with
  | .readers, .readReaders =>
    if leAt bs 0 4 == m.need.toNat then
      if m.layout == 2 then s.sendOn b m .writing [writeSlot (m.owner .arm) m.base (armBytes m.own)]
      else s.sendOn b m .writing [writeSlot (m.owner .writePart) (m.base + 64 * m.pidx)
        (recBytes { m.own with stream := BitVec.ofNat 14 m.sid })]
    else s.blockMerge b m
  | .reading, .readPart i =>
    let got := if recCrcOk bs && x.sameRow m.own then m.got ++ [(i, some x)] else m.got
    let m : Merge := { m with got := got, partsSeen := got.length, countSeen := (got.map (fun g => match g.2 with
      | some y => y.count.toNat
      | none => 0)).sum }
    if m.asked > 0 then s.putMerge b m
    else if got.length ≥ m.parts then (s.endWait m).gathered b { m with waiting := false }
    else s.blockMerge b m
  | .reading, .readResult =>
    if recCrcOk bs && x.sameRow m.own && x.has fMerged && x.count.toNat == m.total then
      let why := mismatchReason x m.own
      if why == 0 then s.endMerge b m { x with stream := BitVec.ofNat 14 m.sid }
      else (s.mismatch b x partResult m.own partOwn why).failMerge b m
    else s.blockMerge b m
  | .arming, .readSum =>
    if x.sameRow m.own && x.kind != 0 then
      let why := mismatchReason x m.own
      if why == 0 then s.sendOn b m .adding (sumAdds m)
      else (s.mismatch b x partSum m.own partOwn why).failMerge b m
    else s.blockMerge b m
  | .counting, .readSum =>
    let m : Merge := { m with partsSeen := leAt bs 50 2, countSeen := leAt bs 16 4 }
    if !x.sameRow m.own || leAt bs 16 4 < m.total then s.blockMerge b m
    else s.completeMerge b m (sumRec m.parts bs) partSum
  | _, _ => s

/-- A write or an add that completed. -/
def State.mergeDone (s : State) (b : Nat) (m : Merge) (r : MergeReq) : State :=
  match m.phase, r with
  | .writing, .writePart => s.readOn b m .reading
  | .writing, .arm => s.readOn b m .arming
  | .adding, .addField =>
    if m.asked > 0 then s.putMerge b m
    else s.sendOn b m .committing [addReq (m.owner .addCount) false (m.base + 16) m.own.count.toNat]
  | .committing, .addCount => s.readOn b m .counting
  | _, _ => s

/-- A response to a merge request: `none` for a failed one. A READERS add has no effect on its merge, which
is over (R200, R303). -/
def State.mergeResponse (s : State) (b sid row step : Nat) (r : MergeReq) (res : Option (List Byte)) : State :=
  if r == .addReaders then s
  else
    match s.merge? b sid row step with
    | none => s
    | some m =>
      let m := { m with asked := m.asked - 1 }
      match res, r with
      | none, _ => s.failMerge b m
      | some bs, .readReaders | some bs, .readPart _ | some bs, .readSum | some bs, .readResult =>
        s.mergeRead b m r bs
      | some _, _ => s.mergeDone b m r

/-! ### Beginning a merge (R200) -/

/-- j of R200: the rows of the stream that used the area at `base` before, under whichever version of its chain. -/
def Stream.usedArea (x : Stream) (base : Nat) : Nat :=
  match x.areas.find? (fun a => a.1 == base) with
  | some a => a.2
  | none => 0

def bumpArea (base : Nat) : List (Nat × Nat) → List (Nat × Nat)
  | [] => [(base, 1)]
  | a :: as => if a.1 == base then (base, a.2 + 1) :: as else a :: bumpArea base as

/-- The band record of a row starts its merge in host memory. -/
def State.startMerge (s : State) (x : Stream) (c : RowCtx) (k : Nat) (step : Nat) (own : Rec) (total : Nat) : State :=
  let d := x.desc
  let b := sidBand x.sid
  let lay := (c.chain.stage k).mlay
  let base := areaAddr c.chain d k c.row
  let j := x.usedArea base
  let m : Merge := {
    sid := x.sid, row := c.row, step := step, layout := lay, base := base, parts := d.p,
    pidx := d.pidx, need := BitVec.ofNat 32 (d.p * j), total := total, own := own,
    phase := if lay == 2 && d.pidx != 0 then .arming else .readers
    got := [], asked := 0, again := false, began := false, waiting := false,
    waitReported := false, partsSeen := 0, countSeen := 0 }
  let s := s.modStream x.sid (fun y => { y with areas := bumpArea base y.areas })
  let s := s.modBand b (fun y => { y with merges := y.merges ++ [m] })
  s.askMerge b m

/-! ### MERGE_REREAD and MWAIT_EXPIRY -/

/-- The re-read of an incomplete area, 64 FCLK after the response before (R201). -/
def State.mergeReread (s : State) (sid row step : Nat) : State :=
  let b := sidBand sid
  match s.merge? b sid row step with
  | some m => if m.again && m.asked == 0 && (s.band b).fabUp && s.bandRuns b then s.askMerge b m else s
  | none => s

def execMergeReread (sid : BitVec 14) (row : BitVec 48) (step : Fin 12) (s : State) :
    Host.Outcome State Fault Refusal :=
  .next (s.mergeReread sid.toNat row.toNat step.val)

/-- One MERGE_WAIT for a row whose merge has not completed MWAIT after its wait began; MWAIT = 0 disables it (R205). The
merge logic counts MWAIT, so it reports none while its band stands still (log entry 84). -/
def State.mwaitExpiry (s : State) (sid row step : Nat) : State :=
  let b := sidBand sid
  match s.merge? b sid row step with
  | some m =>
    if s.bandRuns b && s.policy.mwait != 0 && m.began && !m.waitReported then
      (s.putMerge b { m with waitReported := true }).notice (srcBand b) evMergeWait (waitPayload m)
    else s
  | none => s

def execMwaitExpiry (sid : BitVec 14) (row : BitVec 48) (step : Fin 12) (s : State) :
    Host.Outcome State Fault Refusal :=
  .next (s.mwaitExpiry sid.toNat row.toNat step.val)

end Sys2Proof.Machine
end

