-- ==== Sys2Proof/Machine/Combine.lean ====
section
/-!
DEFINITION. Anvil levels 1 and 2 (R102, R103, R179 to R181, R245): tile records, band records, and the start of
a merge.
-/

namespace Sys2Proof.Machine

/-! ### TILE_RECORD_COMBINE -/

/-- The merge logic has a place for the row (R181). -/
def State.mergeRoom (s : State) (x : Stream) (r : RowCtx) (step : Nat) : Bool :=
  match r.chain.mergeOf step with
  | some (_, st) => st.mlay == 0 || (s.band (sidBand x.sid)).merges.length < 256
  | none => true

/-- Merges that rows of a band have still to begin: their first tile record has been taken by level 2. -/
def State.mergesDue (s : State) (b : Nat) : Nat :=
  ((s.streamsIn b).flatMap (fun x => x.rows)).foldl (fun n r =>
    n + ((r.recs.map (fun p => p.1)).dedup.filter (fun k => (r.chain.mergeOf k).any (fun m => m.2.mlay != 0))).length) 0

/-- Level 2 can take a tile record of the row: it has taken one of the row's already, or has a place left for the merge
that the row is to begin. Without one the tiles keep their accumulators, later rows wait in the staging store, and STOP
applies (R181; DEDUCED, log entry 133). -/
def State.levelRoom (s : State) (x : Stream) (r : RowCtx) (step : Nat) : Bool :=
  let b := sidBand x.sid
  match r.chain.mergeOf step with
  | some (_, st) => st.mlay == 0 || r.recs.any (fun p => p.1 == step) || (s.merge? b x.sid r.row step).isSome ||
      (r.final? step).isSome || (s.band b).merges.length + s.mergesDue b < 256
  | none => true

/-- The reference of a STAT stage's terms: the final record it names (R189, R190, R212). -/
def RowPass.refOf (rp : RowPass) (r : RowCtx) (k : Nat) : StatRef :=
  let st := rp.chain.stage k
  if st.needsRef then
    match rp.recordFor r st.ref with
    | some x => { key := x.maxkey, e := x.e, bad := x.has fPoison }
    | none => StatRef.none
  else StatRef.none

/-- The tile record of a STAT stage, or the partial of a PSUM stage, leaves tile `t` for level 2: the share's
last element is in, its stages have run, and every host write has its response (R245). Level 2 takes a tile record where
it has room for the row (R181). -/
def State.tileCombine (s : State) (t sid row step : Nat) : State :=
  match (s.stream? sid).bind (fun x => (x.row? row).map (fun r => (x, r))) with
  | none => s
  | some (x, r) =>
    let st := r.chain.stage step
    match (s.tile t).pass? sid row st.pass with
    | none => s
    | some rp =>
      if rp.combined.contains step then s
      else if st.op == opStat && rp.finished && rp.writes == 0 && s.levelRoom x r step then
        match rp.accs.find? (fun a => a.step == step) with
        | none => s
        | some a =>
          let rcd := rp.tileRec a (rp.refOf r step)
          let s := s.modStream sid (fun y => y.modRow row (fun c => { c with recs := c.recs ++ [(step, t, rcd)] }))
          (s.putPass t { rp with combined := step :: rp.combined }).settleTile t
      else if st.op == opPsum && !rp.opened && rp.next == step then
        match rp.psums.find? (fun a => a.step == step) with
        | none => s
        | some a =>
          let s := s.modStream sid (fun y => y.modRow row (fun c =>
            { c with psumParts := c.psumParts ++ [(step, t, a.closeGroup)] }))
          s.putPass t { rp with combined := step :: rp.combined }
      else s

def execTileRecordCombine (t : Fin 88) (sid : BitVec 14) (row : BitVec 48) (step : Fin 12) (s : State) :
    Host.Outcome State Fault Refusal :=
  .next (if s.tileRuns t.val then s.tileCombine t.val sid.toNat row.toNat step.val else s)

/-! ### BAND_RECORD_COMBINE -/

/-- Parts of a list of (step, tile, part) that belong to a stage, in ascending tile order. -/
def partsOf (tiles : List Nat) (step : Nat) (ps : List (Nat × Nat × α)) : List (Nat × α) :=
  tiles.flatMap (fun t => (ps.filter (fun p => p.1 == step && p.2.1 == t)).map (fun p => (t, p.2.2)))

/-- Tiles in ascending order of physical index. -/
def sortTiles (ts : List Nat) : List Nat := (List.range 88).filter (fun t => ts.contains t)

/-- N of R193: the row length of the pass, or for a variable row the length that its tag carried. -/
def State.rowLen (s : State) (x : Stream) (r : RowCtx) (p : Nat) : Nat :=
  let len := x.desc.len.getD (p - 1) 0
  if x.desc.var then (s.lenSeen r x.sid p).getD len else len

/-- The band record (R180, R196): the tile records merged in tile order, and those that disagree with the
first (R195). ZERO_ROW is also set where the step-4 values of the whole row are zero (R78). -/
def bandRecord : List (Nat × TileRec) → Option (Rec × List (Nat × Rec × Nat))
  | [] => none
  | (_, x) :: rest =>
    let r := x.rcd
    let bad := rest.filterMap (fun p =>
      let why := mismatchReason r p.2.rcd
      if why == 0 then none else some (p.1, p.2.rcd, why))
    let good := rest.filter (fun p => mismatchReason r p.2.rcd == 0)
    let m := good.foldl (fun a p => mergeRec a p.2.rcd) r
    let zeros := x.zeros && rest.all (fun p => p.2.zeros)
    some (if !bad.isEmpty then poisonedFinal r m
      else if zeros then { m with flags := m.flags ||| BitVec.ofNat 8 fZero } else m, bad)

/-- The level-2 record exists: it is the final record, or its STAT_MERGE begins (R180, R197, R198). `bad`: its
tile records disagreed. The second record of a COUNT mismatch of a LOCAL merge, which the block forms, has PART 0xFFFC
(R207; DESIGN CHOICE, log entry 60). -/
def State.bandReady (s : State) (x : Stream) (r : RowCtx) (step : Nat) (own : Rec) (total : Nat)
    (bad : Bool) : State :=
  let b := sidBand x.sid
  match r.chain.mergeOf step with
  | none => s.putFinal x.sid r.row step own
  | some (k, st) =>
    if st.mlay != 0 then s.startMerge x r k step own total
    else if bad then s.putFinal x.sid r.row step own
    else if own.count.toNat == total then s.putFinal x.sid r.row step (finalOf x.sid own)
    else (s.mismatch b own partOwn own partFormed 5).putFinal x.sid r.row step (poisonedFinal own own)

/-- Level 2 for a STAT stage: every tile of the stream has its record, or the records' COUNTs make up the row. The
headers of a mismatch between tile records have PART 0xFFFF, for the first, and the physical index of the tile (R207;
DESIGN CHOICE, log entry 60). -/
def State.combineStat (s : State) (x : Stream) (r : RowCtx) (step : Nat) : State :=
  let st := r.chain.stage step
  let parts := partsOf (sortTiles r.tiles) step r.recs
  let total := s.rowLen x r st.pass
  let all := parts.length == r.tiles.length || (parts.map (fun p => p.2.rcd.count.toNat)).sum ≥ total
  if !all || (r.final? step).isSome || (s.merge? (sidBand x.sid) x.sid r.row step).isSome || !s.mergeRoom x r step then s
  else
    match parts, bandRecord parts with
    | (_, first) :: _, some (own, bad) =>
      let s := bad.foldl (fun s p => s.mismatch (sidBand x.sid) first.rcd partOwn p.2.1 p.1 p.2.2) s
      let s := s.modStream x.sid (fun y => y.modRow r.row (fun c => { c with recs := c.recs.filter (fun p => p.1 != step) }))
      s.bandReady x r step own total (!bad.isEmpty)
    | _, _ => s

/-- Level 2 for a PSUM stage: the tiles' partials have all come, and the row's result can be taken. -/
def State.combinePsum (s : State) (x : Stream) (r : RowCtx) (step : Nat) : State :=
  let st := r.chain.stage step
  let parts := partsOf (sortTiles r.tiles) step r.psumParts
  let ps := s.rowPasses r x.sid st.pass
  let all := parts.length == r.tiles.length || (ps.map (fun p => p.2.taken)).sum ≥ s.rowLen x r st.pass && ps.length == parts.length
  if !all || parts.isEmpty || r.psums.any (fun p => p.1 == step) then s
  else
    match { r with psumParts := parts.map (fun (p : Nat × PsumAcc) => (step, p.1, p.2)) }.psumResult step with
    | none => s
    | some w =>
      s.modStream x.sid (fun y => y.modRow r.row (fun c =>
        { c with psumParts := parts.map (fun (p : Nat × PsumAcc) => (step, p.1, p.2)) ++ c.psumParts.filter (fun (p : Nat × Nat × PsumAcc) => p.1 != step),
                 psums := c.psums ++ [(step, w.elem)] }))

def State.bandCombine (s : State) (sid row step : Nat) : State :=
  match s.stream? sid with
  | none => s
  | some x =>
    match x.row? row with
    | none => s
    | some r =>
      let st := r.chain.stage step
      if st.op == opStat then s.combineStat x r step
      else if st.op == opPsum then s.combinePsum x r step
      else s

def execBandRecordCombine (sid : BitVec 14) (row : BitVec 48) (step : Fin 12) (s : State) :
    Host.Outcome State Fault Refusal :=
  .next (if s.bandRuns (sidBand sid.toNat) then s.bandCombine sid.toNat row.toNat step.val else s)

end Sys2Proof.Machine
end

