-- ==== Sys2Proof/Machine/Windows.lean ====
section
/-!
DEFINITION. GATHER windows (R249 to R251): reading a window's list, waiting for it, and emitting its rows.
-/

namespace Sys2Proof.Machine

/-- Reads of `n` bytes at address `a`, line by line (R301); `off` is the place of the first byte. -/
def readRange (mk : Nat → FabOwner) : Nat → Nat → Nat → Nat → List FabReq
  | 0, _, _, _ => []
  | fuel + 1, a, off, n =>
    if n == 0 then []
    else
      let k := min n (128 - a % 128)
      { op := .read, addr := BitVec.ofNat 52 (a - a % 128), be := BitVec.ofNat 128 ((2 ^ k - 1) * 2 ^ (a % 128)),
        data := 0, owner := mk off } :: readRange mk fuel (a + k) (off + k) (n - k)

/-- Writes bytes into a list from place `off`. -/
def placeBytes (l : List Byte) (off : Nat) (bs : List Byte) : List Byte :=
  l.take off ++ bs.take (l.length - off) ++ l.drop (off + bs.length)

namespace Block

/-- Where in the list the bytes of the present phase begin. -/
def phaseOffset (b : Block) : Nat :=
  match b.phase with
  | .counts => 16
  | .indices => 16 + 4 * b.groups.length
  | _ => 0

def same (a b : Block) : Bool := a.sid == b.sid && a.pass == b.pass && a.index == b.index && a.gather == b.gather

/-- Sum of the group counts. -/
def indexCount (b : Block) : Nat := b.groups.sum

end Block

def Tile.putBlock (x : Tile) (b : Block) : Tile := { x with blocks := x.blocks.map (fun y => if y.same b then b else y) }

/-- The wait for a window's list, as a row pass names it. -/
def Block.waitKey (b : Block) : Nat × Nat := (b.index, 16 + b.pass)

/-- A read of a window's list found it not yet written, or found it written. -/
def State.windowWait (s : State) (t : Nat) (b : Block) (goesOn : Bool) : State :=
  s.modTile t (fun x => x.mapPasses b.sid (fun r => if goesOn then r.waitOn b.waitKey else r.waitOver b.waitKey))

/-- Starts reading a part of a window's list. -/
def State.askList (s : State) (t : Nat) (b : Block) (p : ListPhase) (want : Nat) : State :=
  let b := { b with phase := p, want := want, gbytes := List.replicate want 0, readBad := false }
  let rs := readRange (fun off => .list t b.sid b.pass b.index off) (want / 128 + 2)
    ((listAddr b + b.phaseOffset) % 2 ^ 52) 0 want
  (s.modTile t (fun x => x.putBlock { b with asked := rs.length })).queueFab (bandOf t) rs

/-- GATHER_LIST with COUNT and the sum of the group counts (R251, Table 16.4). -/
def State.listFinding (s : State) (t : Nat) (b : Block) : State :=
  s.notice (srcBand (bandOf t)) evGatherList (layoutS b.sid b.pass b.stage t 0 b.index b.count b.indexCount)

/-- The window leaves the tile; rows that are not on their way are freed. -/
def State.freeWindow (s : State) (t : Nat) (b : Block) (sent : Bool) : State :=
  let s := s.modTile t (fun x => { x with
    blocks := x.blocks.filter (fun y => !y.same b)
    rows := if sent then x.rows else x.rows.map (fun r => if b.has r then { r with egress := 0 } else r) })
  s.settleTile t

/-- A bad index's row leaves the GATHER stage as poisoned elements, each of which meets the first-NaN trap (R251, R376,
R377); the row passes in the window name their chain. -/
def State.noteBadIndex (s : State) (t : Nat) (b : Block) (x : Nat) : State :=
  match (s.tile t).rows.find? b.has with
  | none => s
  | some rp =>
    let r := gatherRow b x
    s.noteNans t { rp with row := r.row } ((List.range r.codes.length).map (fun i =>
      { stage := b.stage, step := 0, col := r.col0 + i, created := false }))

/-- The window's complete list has arrived: its latency begins (R266), and its rows leave in their turn (R243, R250,
R251). -/
def State.listRead (s : State) (t : Nat) (b : Block) (indices : List Byte) : State :=
  let s := s.modTile t (fun x => { x.putBlock { b with phase := .ready, gbytes := indices } with rows := x.rows.map (fun r =>
    if b.has r then { r with tStart := some s.time, excluded := 0, suspendedFor := 0, tentative := [] } else r) })
  ((badIndices b indices).foldl (fun s x => (s.listFinding t b).noteBadIndex t b x) s).settleTile t

/-- All bytes of a phase are there. The first 16 bytes and the group counts are read together until WIN is the window's
index (R250). A list that is outside Table 10.9, with no group or more than 256, is followed as it stands: no finding is
stated for it (DESIGN CHOICE, log entry 98). -/
def State.listStep (s : State) (t : Nat) (b : Block) : State :=
  match b.phase with
  | .header =>
    let early := leAt b.gbytes 0 8 != b.index
    let b := { b with waiting := early, count := if early then b.count else leAt b.gbytes 8 4 }
    (s.windowWait t b early).askList t b .counts (4 * leAt b.gbytes 12 2)
  | .counts =>
    if b.waiting then s.modTile t (fun x => x.putBlock { b with phase := .waiting }) else
    let b := { b with groups := (List.range (b.want / 4)).map (fun g => leAt b.gbytes (4 * g) 4) }
    let s := s.modTile t (fun x => x.putBlock b)
    let s := if b.indexCount == b.count then s else s.listFinding t b
    if b.indexCount == 0 then s.listRead t b [] else s.askList t b .indices (2 * b.indexCount)
  | .indices => s.listRead t b b.gbytes
  | _ => s

/-- A list with no groups goes on without a read. -/
def State.listGoOn (s : State) (t : Nat) (b : Block) : State :=
  match (s.tile t).blocks.find? (fun y => y.same b) with
  | some b => if b.phase == .counts && b.want == 0 then s.listStep t b else s
  | none => s

/-- A response to a list read: the 128 bytes of the line, or `none` for a failed read, after which the
window emits no rows (R303). -/
def State.listResponse (s : State) (t sid pass index off : Nat) (res : Option (List Byte)) : State :=
  match (s.tile t).blocks.find? (fun b => b.sid == sid && b.pass == pass && b.index == index && b.gather) with
  | none => s
  | some b =>
    let a := listAddr b + b.phaseOffset + off
    let b : Block := { b with asked := b.asked - 1 }
    let b : Block := match res with
      | some line => { b with gbytes := placeBytes b.gbytes off (line.drop (a % 128)) }
      | none => { b with readBad := true }
    if b.asked > 0 then s.modTile t (fun x => x.putBlock b)
    else if b.readBad then ((s.windowWait t b false).listFinding t b).freeWindow t b false
    else (s.listStep t b).listGoOn t b

/-! ### GATHER_LIST_READ, GATHER_LIST_REREAD and GATHER_WAIT_EXPIRY -/

/-- The earliest window of a stream's pass in a tile of which `due` holds. -/
def Tile.window? (x : Tile) (sid pass : Nat) (due : Block → Bool) : Option Block :=
  (x.blocks.filter (fun b => b.gather && b.sid == sid && b.pass == pass && due b)).foldl (fun m b =>
    match m with
    | none => some b
    | some a => if b.index < a.index then some b else some a) none

/-- The window's rows are all there: it is full, or its stream is closing and no row of it is still to come
(log entry 12). -/
def State.windowFull (s : State) (t : Nat) (b : Block) : Bool := b.full || s.blockCloses t b

/-- The list of the earliest window that waits for its first read is read; windows that stand before it do not hold
the read back, only its rows (R250). -/
def State.listAsk (s : State) (t sid pass : Nat) : State :=
  match (s.tile t).window? sid pass (fun b => b.phase == .collecting && s.windowFull t b) with
  | some b => s.askList t b .header 16
  | none => s

def State.listReread (s : State) (t sid pass : Nat) : State :=
  match (s.tile t).window? sid pass (fun b => b.phase == .waiting) with
  | some b => s.askList t b .header 16
  | none => s

/-- One GATHER_WAIT for a window whose list has been waited for longer than MWAIT (R250); MWAIT = 0
disables it as it does MERGE_WAIT. -/
def State.gatherWait (s : State) (t sid pass : Nat) : State :=
  match (s.tile t).window? sid pass (fun b => b.waiting && !b.waitReported) with
  | some b =>
    if s.policy.mwait != 0 then
      (s.modTile t (fun x => x.putBlock { b with waitReported := true })).notice (srcBand (bandOf t)) evGatherWait
        (layoutS b.sid b.pass b.stage t 0 b.index b.count b.indexCount)
    else s
  | none => s

def execGatherListRead (t : Fin 88) (sid : BitVec 14) (pass : Fin 4) (s : State) :
    Host.Outcome State Fault Refusal :=
  .next (if s.tileRuns t.val then s.listAsk t.val sid.toNat pass.val else s)

def execGatherListReread (t : Fin 88) (sid : BitVec 14) (pass : Fin 4) (s : State) :
    Host.Outcome State Fault Refusal :=
  .next (if s.tileRuns t.val then s.listReread t.val sid.toNat pass.val else s)

def execGatherWaitExpiry (t : Fin 88) (sid : BitVec 14) (pass : Fin 4) (s : State) :
    Host.Outcome State Fault Refusal :=
  .next (if s.tileRuns t.val then s.gatherWait t.val sid.toNat pass.val else s)

end Sys2Proof.Machine
end

