-- ==== Sys2Proof/Machine/Ports.lean ====
section
/-!
DEFINITION. The host ports of a tile (R287 to R299, R417): ACC_IN with STOP, the beats that break its
rules, the queue into the chain sequencer, OPD_OUT and its credits, and XEV.
-/

namespace Sys2Proof.Machine

/-! ### ACC_IN, port side -/

/-- Free entries of the ACC_IN queue: marks take none. -/
def Tile.free (x : Tile) : Nat := 128 - x.queue.countP (fun q => q.isBeat)

/-- acc_stop (R291, R309); the spare of a migration counts as active for it (R26), but not while it is without power, in
reset or in its entry check. -/
def State.accStop (s : State) (t : Nat) : Bool :=
  !s.readyDone || !(s.inMap t || s.receiving t) || (s.tile t).power != .ready || (s.tile t).free ≤ (s.band (bandOf t)).dStop + 4

/-- The band's HCLK runs: its clocks are there, or the monitor's last window has measured this one (R310, R317). -/
def Band.hclkRuns (x : Band) : Bool := x.hclkOut && (x.clocked || x.hclkMhz != 0)

/-- The ports of a tile work: it is powered and its band's HCLK domain is out of reset and clocked. The domains are
unrelated, so a beat enters its queue and a credit its counter also while CCLK is absent (R310, R311). -/
def State.portRuns (s : State) (t : Nat) : Bool :=
  t < 88 && (s.tile t).power == .ready && (s.band (bandOf t)).hclkRuns

/-- A port finding of a tile (Table 16.4, layout P). -/
def State.portFinding (s : State) (t code port sid row : Nat) : State :=
  s.report t code (fun n => layoutP t port sid row 0 0 0 n)

def OpenPass.closed (sid : Nat) : OpenPass where
  sid := sid
  row := 0
  pass := 0
  stray := false
  isOpen := false
  count := 0
  col0 := 0
  len := 0

/-- The stream's row pass as the port sees it. -/
def Tile.openPass (x : Tile) (sid : Nat) : OpenPass :=
  (x.openPasses.find? (fun o => o.sid == sid)).getD (OpenPass.closed sid)

def Tile.setOpen (x : Tile) (o : OpenPass) : Tile :=
  { x with openPasses := o :: x.openPasses.filter (fun p => p.sid != o.sid) }

/-- A queue entry without elements for a row pass. -/
def OpenPass.mark (o : OpenPass) (first last : Bool) : QEntry where
  isBeat := false
  sid := o.sid
  row := o.row
  pass := o.pass
  first := first
  last := last
  use := 0
  poisonElems := false
  poisonRow := true
  col0 := o.col0
  len := o.len
  scale := 0
  data := 0

def State.enqueue (s : State) (t : Nat) (q : QEntry) : State :=
  s.booked (fun s => s.modTile t (fun x => { x with queue := x.queue ++ [q] }))

/-- The chain version that a row's beats are judged by. -/
def State.chainFor (s : State) (x : Stream) (row : Nat) : Option Chain :=
  match x.row? row with
  | some c => some c.chain
  | none =>
    (s.rowVersion x row).map (fun v => v.1)

/-- The row has begun: its first beat has been accepted. -/
def Stream.rowBegun (x : Stream) (row : Nat) : Bool := (x.row? row).isSome

/-- The stream may send the beat on the tile (R284, Table 12.10). A stream that closes may not send the first beat of a new
row; the beats behind it are judged by the later cases of R417 (DESIGN CHOICE, log entry 143). -/
def State.maySend (s : State) (t : Nat) (b : AccBeat) : Option Stream :=
  match s.stream? b.sid.toNat with
  | some x =>
    if x.onTile t && (!x.closing || !b.first || x.rowBegun b.row.toNat) then some x else none
  | none => none

/-- A beat taken into the queue as part of a row pass, with `use` of its elements. -/
def State.takeBeat (s : State) (t : Nat) (o : OpenPass) (b : AccBeat) (use : Nat) (bad : Bool) : State :=
  let q : QEntry := {
    isBeat := true, sid := o.sid, row := o.row, pass := o.pass, first := b.first, last := b.last,
    use := use, poisonElems := b.poison, poisonRow := bad || b.poison, col0 := o.col0, len := o.len,
    scale := b.scale.toNat, data := b.data }
  (s.enqueue t q).modTile t (fun x => x.setOpen { o with count := o.count + use, isOpen := !b.last })

/-- Cases 5 to 8 of R417: a beat of a row pass that is open. -/
def State.judgeBeat (s : State) (t : Nat) (x : Stream) (c : Chain) (o : OpenPass) (b : AccBeat) (longLen : Bool) : State :=
  let nel := b.nel.toNat
  let e := c.beatElems o.pass
  let tag (s : State) : State := s.portFinding t evAccTag 0 o.sid o.row
  if b.row.toNat != o.row || b.pass.toNat != o.pass then (tag s).takeBeat t o b 0 true
  else if nel == 0 || nel > e then (tag s).takeBeat t o b 0 true
  else if nel < e && !b.last then (tag s).takeBeat t o b nel true
  else
    let room := min (x.desc.shr.getD (o.pass - 1) 0 - o.count) (o.len - (o.col0 + o.count))
    let use := min nel room
    let n := o.count + use
    let half := (if x.desc.held then c.passes.any c.halfBytes else c.halfBytes o.pass) && ((b.first && o.col0 % 2 == 1) || (b.last && n % 2 == 1 && o.col0 + n != o.len))
    let bad := use < nel || longLen || half
    (if bad then tag s else s).takeBeat t o b use bad

/-- Cases 2 to 4 of R417, then the others. -/
def State.judgeFirst (s : State) (t : Nat) (x : Stream) (b : AccBeat) : State :=
  let sid := b.sid.toNat
  let row := b.row.toNat
  let p := b.pass.toNat
  let o := (s.tile t).openPass sid
  if b.first then
    let s := if o.isOpen then
        ((s.portFinding t evAccSeq 0 sid row).enqueue t (o.mark false true)).modTile t (fun y => y.setOpen { o with isOpen := false })
      else s
    match s.chainFor x row with
    | none => s
    | some c =>
      if p == 0 || p > c.npass || (x.desc.held && p != 1) then
        (s.portFinding t evAccTag 0 sid row).modTile t (fun y => y.setOpen { OpenPass.closed sid with stray := true })
      else
        let lenp := x.desc.len.getD (p - 1) 0
        let o : OpenPass := {
          sid := sid, row := row, pass := p, stray := false, isOpen := true, count := 0,
          col0 := b.col0.toNat, len := if x.desc.var then min b.len.toNat lenp else lenp }
        (s.openRow x row).judgeBeat t x c o b (x.desc.var && b.len.toNat > lenp)
  else if !o.isOpen then s.portFinding t evAccSeq 0 sid row
  else
    match s.chainFor x o.row with
    | none => s
    | some c => s.judgeBeat t x c o b false

/-- R292: the queue is full. The beat is discarded; its row pass is POISON, and acc_first and acc_last keep
their meaning. -/
def State.overrun (s : State) (t : Nat) (x : Stream) (b : AccBeat) : State :=
  let sid := b.sid.toNat
  let o := (s.tile t).openPass sid
  if b.first then
    let s := if o.isOpen then s.enqueue t (o.mark false true) else s
    match s.chainFor x b.row.toNat with
    | none => s
    | some c =>
      let p := b.pass.toNat
      if p == 0 || p > c.npass || (x.desc.held && p != 1) then s.modTile t (fun y => y.setOpen { OpenPass.closed sid with stray := true })
      else
        let lenp := x.desc.len.getD (p - 1) 0
        let o : OpenPass := {
          sid := sid, row := b.row.toNat, pass := p, stray := false, isOpen := !b.last, count := 0,
          col0 := b.col0.toNat, len := if x.desc.var then min b.len.toNat lenp else lenp }
        ((s.openRow x o.row).enqueue t (o.mark true b.last)).modTile t (fun y => y.setOpen o)
  else if o.isOpen then
    (s.enqueue t (o.mark false b.last)).modTile t (fun y => y.setOpen { o with isOpen := !b.last })
  else s

/-! ### ACC_IN, sequencer side -/

/-- A beat's elements in the formats of its pass (R39, R287); positions beyond `use` are ignored. -/
def QEntry.elements (q : QEntry) (c : Chain) : List RowElem :=
  let f := fmtOf (c.pinOpf q.pass)
  let w := f.width
  let d := q.data.toNat
  let code (i : Nat) : Elem := if q.poisonElems then Elem.poisoned f else { code := element w d i, poison := false }
  (List.range q.use).map (fun i =>
    let y := if c.pair q.pass then i + i + 1 else i
    { x := code (if c.pair q.pass then i + i else i), y := code y, res := [], counted := false })

/-- The row runs in this tile, and is not forwarded to the spare (R358). -/
def Stream.runsIn (x : Stream) (t row : Nat) : Bool :=
  match x.row? row with
  | some c => c.tiles.contains t
  | none => x.tiles.contains t

/-- A row pass can begin: its key is free in the tile, its pass exists, and its stream's staging has room. -/
def State.mayBegin (s : State) (t : Nat) (x : Stream) (q : QEntry) : Bool :=
  match s.chainFor x q.row with
  | none => false
  | some c => ((s.tile t).pass? q.sid q.row q.pass).isNone && s.canBegin t q.sid q.row c x.desc q.pass

/-- Begins the row pass of a first beat. -/
def State.beginRow (s : State) (t : Nat) (x : Stream) (q : QEntry) : State :=
  let s := s.openRow x q.row
  match (s.stream? q.sid).bind (fun x => (x.row? q.row).map (fun c => (x, c))) with
  | none => s
  | some (x, c) =>
    if q.pass > c.chain.npass then s
    else s.beginPass t (RowPass.new c.chain c.tables x.desc q.sid q.row q.pass q.col0 q.len q.scale
      (s.causeNow x) (!x.suspended))

/-- The elements of an entry go through the chain (R31, R375). An error in the chain or stream table entry
poisons the row pass that reads it. -/
def State.feed (s : State) (t : Nat) (q : QEntry) (fs : List HwFault) : State :=
  match (s.tile t).pass? q.sid q.row q.pass with
  | none => s
  | some rp =>
    if !rp.opened then s
    else
      let r := rp.enter (fs.map (rp.takeFault rp.taken)) (q.elements rp.chain)
      let rp1 := { r.1 with
        poison := r.1.poison || q.poisonRow || fs.any (fun f => f.unit == 7)
        opened := !q.last
        tStart := if q.last then some s.time else none }
      let s := s.passRan t rp1 (rp1.requests (stagesFrom (rp.chain.passStart rp.pass) rp.next) rp.elems.length)
      let s := (if q.last then s.startClock t rp1 else s).addNotes t rp1 r.2
      let s := fs.foldl (fun s f => s.noteFault t rp1 f) s
      if q.last then s.settleRow t q.sid q.row else s.settleTile t

/-- One entry of the queue of tile `t`, or nothing where its stream cannot take it (R293). -/
def State.takeEntry (s : State) (t : Nat) (q : QEntry) (fs : List HwFault) : Option State :=
  match s.stream? q.sid with
  | none => some s
  | some x =>
    if x.runsIn t q.row then
      if q.first then (if s.mayBegin t x q then some ((s.beginRow t x q).feed t q fs) else none)
      else some (s.feed t q fs)
    else
      match x.migration with
      | some g => if (s.tile g.new).free > 0 then some (s.enqueue g.new q) else none
      | none => some s

/-- Takes the head of the queue. -/
def State.takeHead (s : State) (t : Nat) (fs : List HwFault) : Option State :=
  match (s.tile t).queue with
  | [] => none
  | q :: rest => (s.booked (fun s => s.modTile t (fun x => { x with queue := rest }))).takeEntry t q fs

/-- The head of the queue is a beat that its stream cannot take (R293). -/
def State.headHeld (s : State) (t : Nat) : Option Nat :=
  match (s.tile t).queue with
  | [] => none
  | q :: _ => if (s.takeHead t []).isNone then some q.sid else none

/-- Marks at the head of the queue take effect as they come up. -/
def State.takeMarks (s : State) (t : Nat) : Nat → State
  | 0 => s
  | fuel + 1 =>
    match (s.tile t).queue with
    | q :: _ =>
      if q.isBeat then s
      else match s.takeHead t [] with
        | some s => s.takeMarks t fuel
        | none => s
    | [] => s

/-- The sequencer side of a queue, which stands still with its tile (R328, R379). -/
def State.drainMarks (s : State) (t n : Nat) : State := if s.tileRuns t then s.takeMarks t n else s

/-- ACC_BEAT: a beat on ACC_IN, taken into the queue or handled by the first case of R417 that applies
(R288 to R292). One that finds no free entry is an overrun and nothing else, whatever R417 would say of it, and poisons the
row pass that its stream has open (DESIGN CHOICE, log entry 142). -/
def execAccBeat (t : Fin 88) (b : AccBeat) (s : State) : Host.Outcome State Fault Refusal :=
  .next (if s.portRuns t.val then
    let t := t.val
    if (s.tile t).free == 0 then
      let s := s.portFinding t evAccOverrun 0 b.sid.toNat b.row.toNat
      match s.maySend t b with
      | some x => (s.overrun t x b).drainMarks t 256
      | none => s
    else
      match s.maySend t b with
      | none => s.portFinding t evAccStream 0 b.sid.toNat b.row.toNat
      | some x => (s.judgeFirst t x b).drainMarks t 256
    else s)

/-- Corrected errors are counted, not reported (Table 16.1, R404). -/
def State.addCorrected (s : State) (t : Nat) (c : Corrected) : State :=
  s.modTile t (fun x => { x with corrected :=
    (x.corrected.zip [c.staging, c.table, c.step, c.entries]).map (fun (p : Nat × Nat) => sat32 (p.1 + p.2)) })

/-- ACC_BEAT_DEQUEUE: the beat at the head of the queue enters the chain sequencer once its stream can take
it (R293, R416); a forwarded one goes to the spare (R358). -/
def execAccBeatDequeue (t : Fin 88) (faults : List HwFault) (corrected : Corrected) (s : State) :
    Host.Outcome State Fault Refusal :=
  .next (if s.tileRuns t.val then
    let s := s.drainMarks t.val 256
    match s.takeHead t.val faults with
    | some s => (s.addCorrected t.val corrected).drainMarks t.val 256
    | none => s
    else s)

/-! ### OPD_OUT (R244, R294 to R296) -/

/-- The stream whose beat leaves next: round robin by id, from `opdNext` on. -/
def Tile.nextSender (x : Tile) : Option Nat :=
  let sids := x.egress.map (fun b => b.sid.toNat)
  let least (l : List Nat) := leastOf l
  match least (sids.filter (fun n => n ≥ x.opdNext)) with
  | some n => some n
  | none => least sids

/-- The first beat of a stream, and the others. -/
def splitFirst (sid : Nat) : List OpdBeat → Option (OpdBeat × List OpdBeat)
  | [] => none
  | b :: bs =>
    if b.sid.toNat == sid then some (b, bs)
    else (splitFirst sid bs).map (fun p => (p.1, b :: p.2))

/-- A beat has left: its row pass, or the row passes that it completes, have that much less to send. -/
def beatSent (b : OpdBeat) (r : RowPass) : RowPass :=
  if r.sid != b.sid.toNat then r
  else if b.ends.contains (r.row, r.pass) then { r with egress := 0 }
  else if b.kind == 0 && r.row == b.row.toNat && r.pass == b.pass.toNat then { r with egress := r.egress - 1 }
  else r

/-- OPD_BEAT: one beat of a ready stream leaves against a credit; the last one ends its row pass. -/
def State.sendBeat (s : State) (t : Nat) : State :=
  let x := s.tile t
  if x.opdCredits == 0 then s
  else
    match x.nextSender with
    | none => s
    | some sid =>
      match splitFirst sid x.egress with
      | none => s
      | some (b, rest) =>
        (s.setTile t { x with egress := rest, opdCredits := x.opdCredits - 1, opdSpent := x.opdSpent + 1, opdOut := some b, opdNext := sid + 1,
                              rows := x.rows.map (beatSent b) }).settleTile t

/-- The beat that a port drives, all zeros while it has driven none since its reset (R309). -/
def Tile.opdPort (x : Tile) : OpdBeat :=
  x.opdOut.getD { data := 0, first := false, last := false, nel := 0, poison := false, sid := 0, row := 0, pass := 0,
                  col0 := 0, kind := 0, aux := 0, ends := [] }

/-- Beats of a tile that stands still which OPD_OUT's queue still holds. -/
def State.opdLeft (s : State) (t : Nat) : Nat := (s.band (bandOf t)).opdLeft.getD (t % 11) 0

/-- A beat of a tile that stands still leaves from OPD_OUT's queue, which HCLK drives (R310, R311). -/
def State.sendCrossed (s : State) (t : Nat) : State :=
  let x := s.tile t
  if x.opdCredits == 0 || x.egress.isEmpty || s.opdLeft t == 0 then s
  else (s.modBand (bandOf t) (fun y => { y with opdLeft := y.opdLeft.set (t % 11) (s.opdLeft t - 1) })).sendBeat t

def execOpdBeat (t : Fin 88) (s : State) : Host.Outcome State Fault Refusal :=
  .next (if s.tileRuns t.val then s.sendBeat t.val else if s.portRuns t.val then s.sendCrossed t.val else s)

/-- OPD_CREDIT_RETURN (R296). -/
def execOpdCreditReturn (t : Fin 88) (n : BitVec 4) (s : State) : Host.Outcome State Fault Refusal :=
  .next (if s.portRuns t.val then
    let c := (s.tile t.val).opdCredits + n.toNat
    let s := s.modTile t.val (fun x => { x with
      opdCredits := min c 255, opdReturned := x.opdReturned + (min c 255 - x.opdCredits) })
    if n == 0 || c > 255 then s.portFinding t.val evOpdCredit 1 0 0 else s
    else s)

/-! ### XEV (R134, R136, R137, R297 to R299) -/

/-- Every evaluator has a free place in its XEV queue. -/
def Tile.xevRoom (x : Tile) : Bool :=
  let used := x.xevBuf.flatMap (fun r => r.places)
  (List.range 256).all (fun e => used.count e < 4)

/-- xev_req_ready (Table 12.11, R298); in a halted band requests wait (R379). While the band's compute clock is absent
requests still enter their crossing, which HCLK drives (R311). -/
def State.xevReady (s : State) (t : Nat) : Bool :=
  s.readyDone && s.portRuns t && !(s.band (bandOf t)).halted && (s.tile t).xevBuf.length < 8 && (s.tile t).xevRoom

/-- The table a request names, where its code is that of a loaded function. -/
def State.xevTable (s : State) (func : Nat) : Option (Nat × Option Table) :=
  if 0x10 ≤ func && func ≤ 0x13 then
    let i := func - 0x10
    match s.slots.toList.drop i with
    | sl :: _ => some (i, if sl.state == .loaded && sl.first == i then sl.table else none)
    | [] => some (i, none)
  else none

/-- The status of a request: 0 OK, 1 NOT_LOADED, 2 MALFORMED (R299). -/
def State.xevStatus (s : State) (r : XevReq) : Nat :=
  let func := r.func.toNat
  let o := fmtOf r.ofmt.toNat
  let codeOk := (1 ≤ func && func ≤ 6) || (0x10 ≤ func && func ≤ 0x13)
  let ok := codeOk && opfOk r.ifmt.toNat && r.ifmt != 8 && opfOk r.ofmt.toNat && r.ofmt != 8 && !o.isInt &&
    1 ≤ r.n.toNat && r.n.toNat ≤ 64
  if !ok then 2
  else
    match s.xevTable func with
    | none => 0
    | some (_, none) => 1
    | some (_, some t) => if t.narrow || grantElems r.ofmt.toNat != 4 then 0 else 2

/-- The results of a request that errors poison. -/
def xevPoisons (r : XevReq) : Nat :=
  (((List.range r.n.toNat).filter (fun i => r.faults.any (fun f => f.elem == i))).map (fun i => 2 ^ i)).sum

/-- The finding of one error of a request: XEV results belong to no row (R298, Table 16.1). -/
def State.xevFault (s : State) (t : Nat) (f : XevFault) : State :=
  s.report t (faultEvent f.kind) (layoutU t f.unit.toNat f.index.toNat 0xFFFF 0 0 0)

/-- One result: its code and what it lost; a poisoned one is a NaN, or 0 without one (R137). A zero keeps its sign: ZCANON
is a flag of a chain, and a request has none (R56; DESIGN CHOICE, log entry 136). -/
def State.xevResult (s : State) (r : XevReq) (i : Nat) : Nat × Ev :=
  let f := fmtOf r.ifmt.toNat
  let o := fmtOf r.ofmt.toNat
  if r.faults.any (fun f => f.elem == i) then (if o.hasNan then (o.nanCode, .nanCode) else (0, .nanZero))
  else
    let x := decode f (element f.width r.data.toNat i)
    let e := evalEnc r.func.toNat ((s.xevTable r.func.toNat).bind (fun p => p.2)) 0 o x
    (e.code, e.ev)

/-- XEV_REQUEST: the request is accepted; its elements take places in the evaluators' queues and are
evaluated with the table in effect, or it is answered MALFORMED or NOT_LOADED. Errors met on the way are reported,
corrected ones counted (R137). -/
def State.xevAccept (s : State) (t : Nat) (r : XevReq) : State :=
  let x := s.tile t
  let n := r.n.toNat
  let bump (l : List Nat) (i k : Nat) : List Nat := l.set i (sat32 (l.getD i 0 + k))
  match s.xevStatus r with
  | 0 =>
    let rs := (List.range n).map (s.xevResult r)
    let count (p : Ev → Bool) : Nat := rs.countP (fun (q : Nat × Ev) => p q.2)
    let cnt := bump (bump (bump (bump x.xevCnt 0 1) 1 (count (fun e => e == .sat))) 2 (count (fun e => e == .under)))
      3 (count (fun e => e == .nanCode || e == .nanZero))
    let rsp : XevRsp := {
      id := r.id, n := r.n, status := 0, poison := BitVec.ofNat 64 (xevPoisons r),
      data := BitVec.ofNat 2048 (packElems (fmtOf r.ofmt.toNat).width (rs.map (fun q => q.1)))
      slot := (s.xevTable r.func.toNat).map (fun p => p.1)
      places := (List.range n).map (fun i => (x.xevPtr + i) % 256) }
    let s := s.setTile t { x with xevBuf := x.xevBuf ++ [rsp], xevPtr := (x.xevPtr + n) % 256, xevCnt := cnt }
    let s := s.addCorrected t { staging := 0, table := r.corrected, step := 0, entries := 0 }
    (r.faults.filter (fun f => f.elem < n)).foldl (fun s f => s.xevFault t f) s
  | st =>
    let rsp : XevRsp := { id := r.id, n := r.n, status := BitVec.ofNat 2 st, poison := 0, data := 0, slot := none, places := [] }
    s.setTile t { x with xevBuf := x.xevBuf ++ [rsp], xevCnt := bump (bump x.xevCnt 0 1) (if st == 2 then 4 else 5) 1 }

def execXevRequest (t : Fin 88) (r : XevReq) (s : State) : Host.Outcome State Fault Refusal :=
  .next (if s.xevReady t.val then s.booked (fun s => s.xevAccept t.val r) else s)

/-- The response that a port drives, all zeros while it has driven none since its reset (R309). -/
def Tile.xevPort (x : Tile) : XevRsp :=
  x.xevOut.getD { id := 0, n := 0, status := 0, poison := 0, data := 0, slot := none, places := [] }

/-- The response buffer of a tile that runs gives every response. One that stands still gives those that stood in their
crossing, which HCLK drives, when its band came to stand still: a request that has not crossed to the tile, one that is
answered without an evaluator among them, has no response yet (R311). -/
def State.xevGives (s : State) (t : Nat) : Bool := s.tileRuns t || (s.tile t).xevLeft != 0

/-- XEV_RESPONSE: the oldest response transfers; its request no longer holds a table. -/
def execXevResponse (t : Fin 88) (s : State) : Host.Outcome State Fault Refusal :=
  .next (if s.portRuns t.val && s.xevGives t.val then
    match (s.tile t.val).xevBuf with
    | [] => s
    | r :: rest =>
        (s.booked (fun s =>
          s.modTile t.val (fun x => { x.grant r.places with
            xevBuf := rest, xevOut := some { r with places := [] }
            xevLeft := if s.tileRuns t.val then x.xevLeft else x.xevLeft - 1 }))).drainSlots
    else s)

end Sys2Proof.Machine
end

