-- ==== Sys2Proof/Machine/Reporting.lean ====
section
/-!
DEFINITION. Reports leaving the block (R375 to R391): the event arbiter and its ring, the log mirror, the
audit of the books, and the watchdog.
-/

namespace Sys2Proof.Machine

/-! ### Event records (R381, R382, R384) -/

/-- A record as the arbiter is about to write it. -/
structure Outgoing where
  code    : Nat
  cont    : Bool
  src     : Nat
  tofs    : Nat
  payload : Nat
  deriving DecidableEq, Repr

/-- The 32 bytes of an event record. -/
def Outgoing.bytes (o : Outgoing) (seq : Word) : List Byte :=
  toLe 4 seq.toNat ++
  toLe 4 (o.code % 2 ^ 10 + b2n o.cont * 2 ^ 10 + o.src % 2 ^ 7 * 2 ^ 11 + o.tofs % 2 ^ 14 * 2 ^ 18) ++
  toLe 24 o.payload

/-- Layout M. -/
def layoutM (time lost code : Nat) : Nat := pack [(0, time % 2 ^ 64), (8, lost % 2 ^ 32), (12, code)]

/-- A record that arrives at `arrival` needs a TIME_MARK before it. -/
def Arbiter.needsMark (a : Arbiter) (arrival : BitVec 64) : Bool :=
  match a.mark with
  | none => true
  | some m => arrival.toNat < m.toNat || (arrival.toNat - m.toNat) / 100 > 16383

def Arbiter.tofs (a : Arbiter) (arrival : BitVec 64) : Nat :=
  match a.mark with
  | none => 0
  | some m => (arrival.toNat - m.toNat) / 100

/-- The next record of the arbiter, and the arbiter once it is on its way. The first record of a ring is a
TIME_MARK; the second record of a pair follows its first; EVENTS_LOST comes before the next held event. -/
def Arbiter.next (a : Arbiter) (now : BitVec 64) : Option (Outgoing × Arbiter) :=
  let markAt (t : BitVec 64) : Outgoing × Arbiter :=
    ({ code := evTimeMark, cont := false, src := srcMgmt, tofs := 0, payload := layoutM t.toNat 0 0 }, { a with mark := some t })
  match a.second, a.held with
  | some e, _ =>
    if a.needsMark e.arrival then some (markAt e.arrival)
    else some ({ code := e.code.toNat, cont := true, src := e.src.toNat, tofs := a.tofs e.arrival, payload := e.payload.toNat },
      { a with second := none })
  | none, [] => if a.mark.isNone then some (markAt now) else none
  | none, e :: rest =>
    if a.needsMark e.arrival then some (markAt e.arrival)
    else if a.lost > 0 then
      some ({ code := evEventsLost, cont := false, src := srcMgmt, tofs := a.tofs e.arrival,
              payload := layoutM e.arrival.toNat a.lost a.lostCode.toNat }, { a with lost := 0, lostCode := 0 })
    else
      some ({ code := e.code.toNat, cont := false, src := e.src.toNat, tofs := a.tofs e.arrival, payload := e.payload.toNat },
        { a with held := rest
                 second := e.pair.map (fun p => { e with payload := p, pair := none }) })

/-- A commit takes the BASE registers as they are (R398). -/
def RingRegs.commit (r : RingRegs) : RingRegs := { r with base := r.baseLo.toNat + bits r.baseHi.toNat 19 0 * 2 ^ 32 }

/-- The write of a 32-byte record at index TAIL of a ring. -/
def RingRegs.recordWrite (r : RingRegs) (owner : FabOwner) (bs : List Byte) : FabReq :=
  let a := (r.base + 32 * r.tail) % 2 ^ 52
  { op := .write, addr := BitVec.ofNat 52 (a - a % 128),
    be := BitVec.ofNat 128 ((2 ^ 32 - 1) * 2 ^ (a % 128)),
    data := BitVec.ofNat 1024 (leNat (bs.take 32) * 2 ^ (8 * (a % 128))), owner := owner }

/-- EVENT_RECORD_WRITE: the next record goes to the ring, over the Vane path (R383); with none held, the arbiter takes
what stands in the taps. -/
def State.writeEvent (s : State) : State :=
  if s.evq.shut || s.arb.inFlight || s.paused || !s.mgmtRuns then s
  else
    match s.lowestBand, s.arb.next s.time with
    | some b, some (o, a) =>
      let w := s.evq.recordWrite (.event false) (o.bytes a.nextSeq)
      let s := { s with arb := { a with nextSeq := a.nextSeq + 1, inFlight := true } }
      (s.queueFab b [w]).takeTaps 256
    | _, none => s.takeTaps 256
    | none, some _ => s

def execEventRecordWrite (s : State) : Host.Outcome State Fault Refusal := .next s.writeEvent

/-- The response to an event record's write; after one to the old ring the new ring takes its base (R398). -/
def State.eventDone (s : State) (old ok : Bool) : State :=
  let s := { s with arb := { s.arb with inFlight := false, written := if ok then satInc s.arb.written else s.arb.written } }
  if old then { s with evq := s.evq.commit }
  else if ok then
    (({ s with evq := { s.evq with tail := (s.evq.tail + 1) % max s.evq.size 1 } }).setInt intEvqNew).markFull
  else s

/-! ### The log mirror (R389) -/

/-- The first entry not yet mirrored. -/
def firstUnsent : List (LogEntry × Mirror) → Option LogEntry
  | [] => none
  | (e, m) :: rest => if m == .unsent then some e else firstUnsent rest

def setMirror (seq : Word) (m : Mirror) : List (LogEntry × Mirror) → List (LogEntry × Mirror)
  | [] => []
  | (e, x) :: rest => if e.seq == seq && x == .inFlight then (e, m) :: rest else (e, x) :: setMirror seq m rest

def sendEntry : List (LogEntry × Mirror) → List (LogEntry × Mirror)
  | [] => []
  | (e, m) :: rest => if m == .unsent then (e, .inFlight) :: rest else (e, m) :: sendEntry rest

/-- An entry's write is on its way. -/
def Log.busy (l : Log) : Bool := l.entries.any (fun x => x.2 == .inFlight)

/-- A write to the old log ring is still to be answered. -/
def State.oldMirrorWrite (s : State) : Bool :=
  s.bands.toList.any (fun b => (b.fabQueue ++ b.fabOut.map (fun x => x.2)).any (fun r => match r.owner with
    | .logMirror _ old => old
    | _ => false))

/-- LOG_MIRROR_WRITE: the next entry in SEQ order goes to the log mirror, read from management SRAM (R389). -/
def State.writeMirror (s : State) : State :=
  if s.logm.shut || s.log.busy || s.oldMirrorWrite || s.paused || !s.mgmtRuns then s
  else
    match s.lowestBand, firstUnsent s.log.entries with
    | some b, some e =>
      let bytes := if s.sramNext == .uncorrectable then (s.sramWords e.words).flatMap (toLe 4) else e.bytes
      let w := s.logm.recordWrite (.logMirror e.seq false) bytes
      ({ s with log := { s.log with entries := sendEntry s.log.entries } }).sramUse.queueFab b [w]
    | _, _ => s

def execLogMirrorWrite (s : State) : Host.Outcome State Fault Refusal := .next s.writeMirror

/-- The response to a mirror write: a failed one is not repeated, and its entry counts as mirrored; after one to the
old ring the new ring takes its base (R398). -/
def State.mirrorDone (s : State) (seq : Word) (old ok : Bool) : State :=
  if old then { s with logm := s.logm.commit }
  else if ok then
    let s := { s with
      log := { s.log with entries := setMirror seq (.at s.logm.tail) s.log.entries }
      logm := { s.logm with tail := (s.logm.tail + 1) % max s.logm.size 1 } }
    s.setInt intLogmNew
  else { s with log := { s.log with entries := setMirror seq .lost s.log.entries } }

/-- Entries whose mirror copy lies behind HEAD, or that were lost before such a copy, are free (R389).
`gone` says which indices HEAD has passed. -/
def freeEntries (gone : Nat → Bool) : List (LogEntry × Mirror) → List (LogEntry × Mirror)
  | [] => []
  | (e, m) :: rest =>
    let freed : Bool := match m with
      | .at i => gone i
      | .lost => match rest.find? (fun x => match x.2 with
          | .lost => false
          | _ => true) with
        | some (_, .at i) => gone i
        | _ => false
      | _ => false
    if freed then freeEntries gone rest else (e, m) :: freeEntries gone rest

/-! ### The books (R387) -/

/-- The two sides of a book of one unit, where they do not agree: a count of what is taken against what there is. -/
def outOf (book unit have1 most : Nat) : Option (Nat × Nat × Nat × Nat) :=
  if have1 ≤ most then none else some (book, unit, most, have1)

/-- A credit counter against the credits returned and spent. -/
def creditBook (book unit counter returned spent : Nat) : Option (Nat × Nat × Nat × Nat) :=
  if counter == returned - spent then none else some (book, unit, returned - spent, counter)

/-- The two sides of a book's equation, where they differ. -/
def bookOf (book unit expected observed : Nat) : Option (Nat × Nat × Nat × Nat) :=
  if expected == observed then none else some (book, unit, expected, observed)

/-- Book 3 of a tile: units free, in the row passes of its streams, in constants, in hold rings and in banks off. -/
def State.bookUnits (s : State) (t : Nat) : Nat :=
  let ls := s.tileLoad t 0x4000
  let rings := (ls.map (fun x => ceilDiv (x.2.rhold * x.1.holdSlots) 64)).sum
  let rows := (ls.map (fun x => x.1.streamShare x.2)).sum
  let constants := ((ls.map (fun x => (x.1.id, x.1.constUnits))).dedup.map (fun x => x.2)).sum
  s.books.units.getD t 0 + rows + constants + rings + (192 - (s.tile t).units)

/-- Book 5: the reference counters of the table slots, then of the chain ids, against the chains that name them, the
row passes that hold them and the queued XEV requests. -/
def State.bookRefs (s : State) : List (Nat × Nat × Nat × Nat) :=
  (List.range 4).filterMap (fun i => bookOf 5 i (s.slotRefs i) (s.books.slots.getD i 0)) ++
  (s.chainsNamed ++ s.books.chains.map (fun x => x.1)).dedup.filterMap (fun id =>
    bookOf 5 (4 + id) (s.chainRefs id) (refOf s.books.chains id))

/-- Book 6: the grants that each evaluator has issued, to its lanes and to XEV requests, against those whose results it
has returned: nothing is in its pipeline between two commands, where 4 × latency could stand (R131, log entries 9
and 119). -/
def Tile.tokens (x : Tile) (t : Nat) : List (Nat × Nat × Nat × Nat) :=
  ((x.evalGrants ++ x.evalResults).map (fun p => p.1)).dedup.filterMap (fun e =>
    bookOf 6 (256 * t + e) (refOf x.evalGrants e) (refOf x.evalResults e))

/-- A stream of the tile is migrating, and is counted in both tiles (R387). -/
def State.migratesOn (s : State) (t : Nat) : Bool := (s.streamsOn t).any (fun x => x.migration.isSome)

/-- The books that an audit finds out of balance: book, unit, and the two sides (Table 16.6, log entry 13). -/
def State.unbalanced (s : State) : List (Nat × Nat × Nat × Nat) :=
  let tiles := List.range 88
  let bands := List.range 8
  tiles.filterMap (fun t => bookOf 0 t 128 (s.books.skid.getD t 0 + (s.tile t).queue.countP (fun q => q.isBeat))) ++
  tiles.filterMap (fun t => creditBook 1 t (s.tile t).opdCredits (s.tile t).opdReturned (s.tile t).opdSpent) ++
  bands.filterMap (fun b => creditBook 2 b (s.band b).fabCredits (s.band b).fabReturned (s.band b).fabSpent) ++
  bands.filterMap (fun b => outOf 2 b (s.band b).fabOut.length 1024) ++
  tiles.filterMap (fun t => if s.migratesOn t then none else bookOf 3 t 192 (s.bookUnits t)) ++
  bands.filterMap (fun b => bookOf 4 b 2048 (s.books.contexts.getD b 0 + (s.streamsIn b).length)) ++
  s.bookRefs ++ tiles.flatMap (fun t => (s.tile t).tokens t)

/-- TILE of a BOOKS finding: the tile of a book kept per tile or per evaluator. -/
def bookTile (book unit : Nat) : Nat :=
  if book == 0 || book == 1 || book == 3 then unit else if book == 6 then unit / 256 else 0xFF

/-- BOOKS_AUDIT: an imbalance found twice in a row raises one BOOKS finding and FATAL_STATUS.BOOKS. -/
def State.audit (s : State) : State :=
  let found := s.unbalanced
  let was (k u : Nat) := s.booksBad.find? (fun x => x.1 == k && x.2.1 == u)
  let s1 := found.foldl (fun (s1 : State) x =>
    match was x.1 x.2.1 with
    | some (_, _, false) =>
      (s1.report srcMgmt evBooks (fun n => layoutU (bookTile x.1 x.2.1) 9 x.1 0xFFFF 0 x.2.2.1 x.2.2.2 n)).setFatal fatalBooks
    | _ => s1) s
  { s1 with booksBad := found.map (fun x => (x.1, x.2.1, (was x.1 x.2.1).isSome)) }

def execBooksAudit (s : State) : Host.Outcome State Fault Refusal :=
  .next (if s.mgmtRuns && !s.paused && s.readyDone then s.audit else s)

/-! ### The watchdog (Table 16.2) -/

/-- Work waits for Glomen: a command, or a record latched in a tap. -/
def State.workPending (s : State) : Bool := !s.bells.isEmpty || s.taps.any (fun t => t.latch.isSome)

def execWatchdogExpiry (s : State) : Host.Outcome State Fault Refusal :=
  .next (if s.mgmtRuns && s.workPending then s.setFatal fatalWdog else s)

end Sys2Proof.Machine
end

