-- ==== Sys2Proof/Machine/Fab.lean ====
section
/-!
DEFINITION. The FAB port of a band (R300 to R303): requests against credits and tags, credit returns, and
what a response does for its owner.
-/

namespace Sys2Proof.Machine

/-- Bytes that a request moves. -/
def FabReq.bytes (r : FabReq) : Nat :=
  match r.op with
  | .read | .write => ((List.range 128).filter (fun i => r.be.getLsbD i)).length
  | .add32 => 4
  | .add64 => 8

/-- Response lines that READs hold: of those outstanding, and of those whose response the band has not yet taken. -/
def Band.readLines (x : Band) : Nat :=
  x.fabOut.countP (fun o => o.2.op == .read) + x.fabHeld.countP (fun h => h.req.op == .read)

/-- A request of the band's own that stands on the CCLK side of its crossing while the band's logic stands still: nothing
takes it across (R328, R379); FCLK still delivers those that have crossed (R310, R311). -/
def Band.stuck (x : Band) (r : FabReq) : Bool := x.stands && !r.owner.vane && x.fabLeft == 0

/-- A request cannot take a tag: its response is outstanding (R302), or the place that the tag has in the queue of the
band's dataless responses still holds one, so that none is reserved for the new request (R311, Table 13.2). -/
def Band.tagTaken (x : Band) (r : FabReq) (tag : Nat) : Bool :=
  x.fabOut.any (fun o => o.1 == tag) ||
    (r.op != .read && !r.owner.vane && x.fabHeld.any (fun h => h.tag == tag && h.req.op != .read))

/-- A request that the port can send now: a READ needs one of the 64 reserved response lines (Table 13.2). -/
def Band.maySend (x : Band) (r : FabReq) : Bool := (r.op != .read || x.readLines < 64) && !x.stuck r

/-- The first request of a list that `p` allows, where none before it stands in its way: requests leave in order,
but those that an absent clock holds let the others pass. -/
def takeFirst (skip : FabReq → Bool) : List FabReq → Option (FabReq × List FabReq)
  | [] => none
  | r :: rs => if skip r then (takeFirst skip rs).map (fun p => (p.1, r :: p.2)) else some (r, rs)

/-- A STORE or DEST = 1 write has been accepted by FAB: the units of its row are freed with the last one (R245,
R416). -/
def State.storeSent (s : State) (r : FabReq) : State :=
  match r.owner with
  | .store t sid row pass =>
    (s.modTile t (fun x => x.modPass sid row pass (fun q => { q with unsent := q.unsent - 1 }))).settleTile t
  | _ => s

/-- FAB_REQUEST: the request at the head of the band's queue goes out with a free tag, against a credit. The first
32 of the queue stand in the port's crossing, the others wait at their sources (Table 13.2, log entry 67). -/
def State.fabIssue (s : State) (b : Nat) (tag : Nat) : State :=
  let x := s.band b
  match takeFirst x.stuck x.fabQueue with
  | none => s
  | some (r, rest) =>
    if x.fabCredits == 0 || x.tagTaken r tag || !x.maySend r then s
    else (s.setBand b { x with
      fabLeft := if r.owner.vane then x.fabLeft else x.fabLeft - 1
      fabQueue := rest, fabCredits := x.fabCredits - 1, fabSpent := x.fabSpent + 1, fabOut := x.fabOut ++ [(tag, r)], fabLast := some (tag, r),
      fabIssued := satInc x.fabIssued, fabBytes := x.fabBytes + r.bytes }).storeSent r

/-- The request that a port drives, all zeros while it has driven none since its reset (R309). -/
def Band.fabPort (x : Band) : Nat × FabReq :=
  x.fabLast.getD (0, { op := .read, addr := 0, be := 0, data := 0, owner := .combine })

def execFabRequest (b : Fin 8) (tag : BitVec 10) (s : State) : Host.Outcome State Fault Refusal :=
  .next (if s.fabRuns b.val then s.fabIssue b.val tag.toNat else s)

/-- A FAB finding of a band (layout P, port 3). -/
def State.fabFinding (s : State) (b code sid row addr op status : Nat) : State :=
  s.report (srcBand b) code (fun n => layoutP (0x80 + b) 3 sid row addr op status n)

/-- FAB_CREDIT_RETURN (R302, with the rules of R296). -/
def execFabCreditReturn (b : Fin 8) (n : BitVec 4) (s : State) : Host.Outcome State Fault Refusal :=
  .next (if s.fabRuns b.val then
    let c := (s.band b.val).fabCredits + n.toNat
    let s := s.modBand b.val (fun x => { x with
      fabCredits := min c 255, fabReturned := x.fabReturned + (min c 255 - x.fabCredits) })
    if n == 0 || c > 255 then s.fabFinding b.val evFabCredit 0 0 0 0 0 else s
    else s)

def FabOp.code : FabOp → Nat
  | .read => 0 | .write => 1 | .add32 => 2 | .add64 => 3

/-- Stream and row of the owner of a request. -/
def FabOwner.stream : FabOwner → Nat × Nat
  | .merge sid row _ _ => (sid, row)
  | .store _ sid row _ => (sid, row)
  | .list _ sid _ _ _ => (sid, 0)
  | _ => (0, 0)

/-- A STORE or DEST = 1 write has its response: a failed one poisons the row's records (R245, R303). -/
def State.storeDone (s : State) (t sid row pass : Nat) (ok : Bool) : State :=
  (s.modTile t (fun x => x.modPass sid row pass (fun r =>
    { r with writes := r.writes - 1, poison := r.poison || !ok }))).settleTile t

/-- The response reaches the owner of its request (R303). -/
def State.bandDone (s : State) (b : Nat) (r : FabReq) (ok : Bool) (data : BitVec 1024) : State :=
  let line := toLe 128 data.toNat
  match r.owner with
  | .merge sid row step q =>
    let slot := if r.be.toNat % 2 ^ 64 == 0 then line.drop 64 else line.take 64
    s.mergeResponse b sid row step q (if ok then some slot else none)
  | .store t sid row pass => s.storeDone t sid row pass ok
  | .list t sid pass index off => s.listResponse t sid pass index off (if ok then some line else none)
  | .event _ | .logMirror .. | .combine => s

/-- What a response does. -/
def State.fabDone (s : State) (b : Nat) (r : FabReq) (ok : Bool) (data : BitVec 1024) : State :=
  match r.owner with
  | .event old => s.eventDone old ok
  | .logMirror seq old => s.mirrorDone seq old ok
  | .merge .. | .store .. | .list .. | .combine => s.bandDone b r ok data

/-- FAB_RESPONSE: a response to a tag that is not outstanding is FAB_TAG; status other than OK is FAB_ERROR,
3 as ERROR. One for logic of the band that stands still waits in the response queue, in whose reserved space it has
been accepted (R311, R328, R379). -/
def State.fabResponse (s : State) (b : Nat) (tag status : Nat) (data : BitVec 1024) : State :=
  let x := s.band b
  match x.fabOut.find? (fun o => o.1 == tag) with
  | none => s.fabFinding b evFabTag 0 0 0 0 status
  | some (_, r) =>
    let s := s.setBand b { x with fabOut := x.fabOut.filter (fun o => o.1 != tag) }
    let st := if status == 3 then 1 else status
    let o := r.owner.stream
    let s := if st == 0 then s else s.fabFinding b evFabError o.1 o.2 r.addr.toNat r.op.code st
    if x.stands && !r.owner.vane then
      s.modBand b (fun y => { y with fabHeld := y.fabHeld ++ [{ tag := tag, req := r, ok := st == 0, data := data }] })
    else s.fabDone b r (st == 0) data

/-- A band whose logic runs again takes what has waited: its responses, the marks at the heads of its queues, and its
row passes (R328, R379). -/
def State.wakeBand (s : State) (b : Nat) : State :=
  if s.bandRuns b then
    let held := (s.band b).fabHeld
    let s := s.modBand b (fun y => { y with fabHeld := [] })
    let s := held.foldl (fun s h => s.bandDone b h.req h.ok h.data) s
    (bandTiles b).foldl (fun s t => (s.drainMarks t 256).settleTile t) s
  else s

def execFabResponse (b : Fin 8) (tag : BitVec 10) (status : BitVec 2) (data : BitVec 1024) (s : State) :
    Host.Outcome State Fault Refusal :=
  .next (if s.fabRuns b.val then s.fabResponse b.val tag.toNat status.toNat data else s)

end Sys2Proof.Machine
end

