-- ==== Sys2Proof/Machine/TableCmds.lean ====
section
/-!
DEFINITION. LOAD_TABLE, its completion and re-point, and RETIRE_TABLE (R148 to R155).
-/

namespace Sys2Proof.Machine

/-- First four octets of a hash, as the change log holds them. -/
def hash4 (bs : List Byte) : Nat := leAt bs 0 4

/-- TABLE_CHECK with REASON, SEG and NFMT (R152). -/
def tableBad (reason seg nfmt : Nat) : Refuse where
  status := stTableCheck
  words := [reason + nfmt * 2 ^ 8 + seg * 2 ^ 16]

/-- The slots of a table that starts at `first`. -/
def slotRange (first n : Nat) : List Nat := (List.range n).map (· + first)

namespace State

def slot (s : State) (i : Nat) : Slot := (s.slots.toList.drop i).headD { state := .free, first := i, table := none }

def setSlots (s : State) (is : List Nat) (x : Slot) : State :=
  { s with slots := s.slots.mapIdx (fun i y => if is.contains i then x else y) }

/-- The table whose first slot is `i`, if it is LOADED. REPLACES naming another slot of a LOADED table finds none here
and is refused with FORMAT (DESIGN CHOICE, log entry 72). -/
def loadedAt (s : State) (i : Nat) : Option Table :=
  let x := s.slot i
  if x.state == .loaded && x.first == i then x.table else none

/-- Starting slots that R148 allows for `n` slots at which every slot is FREE. -/
def startsFree (s : State) (n : Nat) : Nat :=
  ((List.range 4).filter (fun i => i % n == 0 && i + n ≤ 4 &&
    (slotRange i n).all (fun j => (s.slot j).state == .free))).length

/-- A resident chain names the table whose first slot is `i`. -/
def tableNamed (s : State) (i : Nat) : Bool :=
  (s.chains.flatMap (fun c => c.2)).any (fun v => v.slotsNamed.contains i)

/-- A resident chain uses the table at a narrow output (Table 6.5). -/
def tableNarrow (s : State) (i : Nat) : Bool :=
  (s.chains.flatMap (fun c => c.2)).any (fun v => v.stages.any (fun st =>
    st.op == opEval && st.func == 0x10 + i && grantElems (if st.spliteq then st.splf else st.opfD) == 4))

end State

/-- Steps 2 to 4 of R151: the table, or the refusal. Where BITS is not 7 to 9, as where LEN ends before it, step 2
judges one slot, and step 3 refuses the image (DESIGN CHOICE, log entry 70). The FORMAT check of REPLACES (R154)
stands behind the slots of step 2 and before step 3 (DESIGN CHOICE, log entry 71). -/
def State.tableStep (s : State) (len first : Nat) (repl : Option Nat) (img : List Byte) : Except Refuse Table :=
  let b := leAt (padTake (img.take len) 64) 9 1
  let n := if 7 ≤ b && b ≤ 9 then 2 ^ (b - 7) else 1
  if first % n != 0 || first + n > 4 then .error (tableBad 0x09 0 0)
  else if !(slotRange first n).all (fun j => (s.slot j).state == .free) then
    .error { status := stCapacity, words := [n + s.startsFree n * 2 ^ 4] }
  else if (match repl with
    | some r => (slotRange first n).contains r || (s.loadedAt r).isNone
    | none => false) then .error (.format [])
  else
    match checkImage len img with
    | .error .format => .error (.format [])
    | .error (.check reason seg nfmt) => .error (tableBad reason seg nfmt)
    | .ok t =>
      match repl with
      | some r => if s.tableNarrow r && !t.narrow then .error (tableBad 0x0A 0 0) else .ok t
      | none => .ok t

/-- LOAD_TABLE (R151). -/
def State.loadTable (s : State) (c : Cmd) (img : HostRead) : State :=
  let len := bits (c.arg 3) 12 0
  let first := bits (c.arg 3) 17 16
  let repl := if bit (c.arg 3) 20 then some (bits (c.arg 3) 25 24) else none
  s.withRead c (c.addr 1) 128 len img (fun bs s =>
    match s.tableStep len first repl bs with
    | .error r => s.refuse c r
    | .ok t =>
      let old := match repl.bind s.loadedAt with
        | some o => hash4 o.hash
        | none => 0
      s.accept c (2 ^ t.bits) first old (hash4 t.hash) (fun s =>
        let s := s.setSlots (slotRange first t.nslots) { state := .loading, first := first, table := some t }
        { s with loads := s.loads ++ [{ first := first, replaces := repl, origin := c.m, tag := c.tag }] }))

def execLoadTable (m : Fin 4) (img : HostRead) (s : State) : Host.Outcome State Fault Refusal :=
  .next (s.runCmd m.val opLoadTable (fun _ => true) (fun c s => s.loadTable c img))

/-! ### The re-point (R154) -/

/-- A stage with the function code `a` replaced by `b`. -/
def Stage.repoint (a b : Nat) (s : Stage) : Stage :=
  if s.op == opEval && s.func == a then { s with param := s.param - s.func + b } else s

/-- Stage words with the function code replaced. -/
def repointWords (a b : Nat) : Nat → List Byte → List Byte
  | 0, _ => []
  | n + 1, bs =>
    let w := bs.take 16
    let st := parseStage w
    (if st.op == opEval && st.func == a then w.set 4 (BitVec.ofNat 8 b) else w) ++ repointWords a b n (bs.drop 16)

/-- HASHes of the loaded tables that a chain names, in stage order (R184). -/
def State.hashesOf (s : State) (c : Chain) : List (List Byte) :=
  c.slotsNamed.map (fun i => match (s.slot i).table with
    | some t => t.hash
    | none => [])

/-- The version of a chain with slot `a`'s code replaced by slot `b`'s. -/
def State.repointed (s : State) (a b : Nat) (v : Chain) : Chain :=
  let c := { v with
    ver := s.nextVer
    stages := v.stages.map (Stage.repoint (0x10 + a) (0x10 + b))
    header := v.header.take 32 ++ repointWords (0x10 + a) (0x10 + b) v.nstg (v.header.drop 32) }
  { c with sig := chainSig c.nstg c.header c.consts (s.hashesOf c) }

/-- Re-points one chain id: a new version in front, and its log entry. Where an earlier replacement still holds its old
version, the new one is the third: the newest alone is re-pointed, and one behind it that names the old table drains with
its rows (DESIGN CHOICE, log entry 109). -/
def State.repointId (s : State) (a b id : Nat) : State :=
  match s.chain? id with
  | none => s
  | some v =>
    if v.slotsNamed.contains a then
      let n := s.repointed a b v
      s.glomenChange kChain id v.sig.toNat n.sig.toNat (fun s => s.booked (fun s =>
        { s with chains := setVersions id (n :: s.versions id) s.chains, nextVer := s.nextVer + 1 }))
    else s

/-- The old table's slots become DRAINING with the re-point of every chain that names them. -/
def State.repointAll (s : State) (a b : Nat) : State :=
  let s := (s.chains.map (fun c => c.1)).foldl (fun s id => s.repointId a b id) s
  let n := match (s.slot a).table with
    | some t => t.nslots
    | none => 1
  ({ s with slots := s.slots.mapIdx (fun i (x : Slot) =>
      if (slotRange a n).contains i then { x with state := .draining } else x) }).prune

/-- Chain ids that a re-point of slot `a` changes. -/
def State.namers (s : State) (a : Nat) : List Nat :=
  (s.chains.filter (fun c => c.2.head?.any (fun v => v.slotsNamed.contains a))).map (fun c => c.1)

/-- The log has room for the entries of the re-points that the end of a load makes, a LOG_WRAP among them: a change that
cannot be logged is not made (R391), so without it the load stays LOADING (DESIGN CHOICE, log entry 73). -/
def State.repointRoom (s : State) (l : TableLoad) : Bool :=
  match l.replaces with
  | none => true
  | some r => (s.loadedAt r).isNone || (s.namers r).isEmpty || s.logAvail ≥ 17 + (s.namers r).length

/-- TABLE_WRITE_DONE: every tile in the map holds the table (R153, R154). -/
def State.tableWritten (s : State) (first : Nat) : State :=
  match s.loads.find? (fun l => l.first == first) with
  | none => s
  | some l =>
    match (s.slot first).table with
    | none => s
    | some t =>
      if !s.repointRoom l then s
      else
        let old := match l.replaces.bind s.loadedAt with
          | some o => hash4 o.hash
          | none => 0
        let s := { s with loads := s.loads.filter (fun x => x.first != first) }
        let s := s.setSlots (slotRange first t.nslots) { state := SlotState.loaded, first := first, table := some t }
        let s := match l.replaces with
          | some r => if (s.loadedAt r).isSome then s.repointAll r first else s
          | none => s
        let s := s.modLong l.origin l.tag (fun o => { o with done := o.total })
        s.finishLong l.origin l.tag stOk old (hash4 t.hash)

def execTableWriteDone (slot : Fin 4) (s : State) : Host.Outcome State Fault Refusal :=
  .next (if s.mgmtRuns then s.tableWritten slot.val else s)

/-! ### RETIRE_TABLE (R155) -/

def SlotState.code : SlotState → Nat
  | .free => 0 | .loading => 1 | .loaded => 2 | .draining => 3

def State.retireTable (s : State) (c : Cmd) : State :=
  let i := bits (c.arg 1) 1 0
  let x := s.slot i
  match s.loadedAt i with
  | none => s.refuse c (.format [x.state.code + (if x.state == .free then i else x.first) * 2 ^ 2])
  | some t =>
    if s.tableNamed i then s.refuse c (tableBad 0x0B 0 0)
    else s.commit c (hash4 t.hash) 0
      (fun s => (s.setSlots (slotRange i t.nslots) { state := .draining, first := i, table := some t }).drainSlots)
      (fun _ => [])

def execRetireTable (m : Fin 4) (s : State) : Host.Outcome State Fault Refusal :=
  .next (s.runCmd m.val opRetireTable (fun _ => true) (fun c s => s.retireTable c))

end Sys2Proof.Machine
end

