-- ==== Sys2Proof/Machine/ChainCmds.lean ====
section
/-!
DEFINITION. LOAD_CHAIN with and without REPLACE, and RETIRE_CHAIN (R230 to R257).
-/

namespace Sys2Proof.Machine

/-- Every resident version of every chain. -/
def State.resident (s : State) : List Chain := s.chains.flatMap (fun c => c.2)

/-- Streams open on a chain id. -/
def State.openOn (s : State) (id : Nat) : Nat := s.streams.countP (fun x => x.desc.chain == id)

/-- Installs a version in front of an id's others. -/
def State.installChain (s : State) (v : Chain) : State :=
  (s.booked (fun s => { s with chains := setVersions v.id (v :: s.versions v.id) s.chains, nextVer := s.nextVer + 1 })).prune

/-- The version a descriptor gives, with its number and signature. -/
def State.newChain (s : State) (id : Nat) (desc : List Byte) : Chain :=
  let c := { parseChain id desc with ver := s.nextVer }
  { c with sig := chainSig c.nstg c.header c.consts (s.hashesOf c) }

/-- Step 3 of R252: the id. -/
def State.chainSlotCheck (s : State) (id : Nat) (repl : Bool) : Option Refuse :=
  match s.versions id with
  | [] => none
  | _ :: old =>
    if !repl then some (.capacity 0x01 0xF 0xFFFF 1 0 0 0)
    else if old.isEmpty then none
    else some { status := stBusy, words := [] }

/-- The streams that a new version of chain `id` affects: those open on it, and those that share a band with one,
whose tiles and FAB port it loads (R274). -/
def State.chainAffects (s : State) (id : Nat) (x : Stream) : Bool :=
  s.streams.any (fun y => y.desc.chain == id && sidBand y.sid == sidBand x.sid)

/-- Step 8 of R252: each stream that the new version affects, against it, by the admission arithmetic alone: the checks
that R239, R231 and R246 bind to OPEN_STREAM are not made again (DESIGN CHOICE, log entry 128). -/
def State.replaceCheck (s : State) (v : Chain) : Option Refuse :=
  ({ s with chains := setVersions v.id (v :: s.versions v.id) s.chains }).readmit (s.chainAffects v.id)

/-- LOAD_CHAIN (R252). -/
def State.loadChain (s : State) (c : Cmd) (img : HostRead) : State :=
  let len := bits (c.arg 3) 17 0
  let id := bits (c.arg 4) 9 0
  let repl := bit (c.arg 4) 16
  s.withRead c (c.addr 1) 128 len img (fun bs s =>
    if !headerOk (padTake bs 32) len then s.refuse c (badChain fHeader 0xF 0 0)
    else
      let v := s.newChain id (padTake bs len)
      s.orRefuse c (s.chainSlotCheck id repl) (fun s =>
        s.orRefuse c (chainChecks s.slots s.resident v) (fun s =>
          s.orRefuse c (s.replaceCheck v) (fun s =>
            let old := match s.chain? id with
              | some o => o.sig.toNat
              | none => 0
            s.commit c old v.sig.toNat (fun s => (s.installChain v).repromise (s.chainAffects id)) (fun _ => [])))))

def execLoadChain (m : Fin 4) (desc : HostRead) (s : State) : Host.Outcome State Fault Refusal :=
  .next (s.runCmd m.val opLoadChain (fun _ => true) (fun c s => s.loadChain c desc))

/-- Frees a chain id: none of its versions is resident any more. -/
def State.dropChain (s : State) (id : Nat) : State :=
  (s.booked (fun s => { s with chains := setVersions id [] s.chains })).prune

/-- RETIRE_CHAIN: CAPACITY, RES 0x04, while streams are open on the chain (Table 10.12). -/
def State.retireChain (s : State) (c : Cmd) : State :=
  let id := bits (c.arg 1) 9 0
  match s.chain? id with
  | none => s.refuse c (.format [])
  | some v =>
    let n := s.openOn id
    if n > 0 then s.refuse c (.capacity 0x04 0xF 0xFFFF 0 n 0 0)
    else s.commit c v.sig.toNat 0 (fun s => s.dropChain id) (fun _ => [])

def execRetireChain (m : Fin 4) (s : State) : Host.Outcome State Fault Refusal :=
  .next (s.runCmd m.val opRetireChain (fun _ => true) (fun c s => s.retireChain c))

end Sys2Proof.Machine
end

