-- ==== Sys2Proof/Machine/StreamCmds.lean ====
section
/-!
DEFINITION. OPEN_STREAM, CLOSE_STREAM and the MERGE command (R206, R261 to R274, R284).
-/

namespace Sys2Proof.Machine

/-! ### OPEN_STREAM (R264) -/

/-- Causes of suspension in effect in a band (R277). -/
def Band.causes (x : Band) : Causes where
  squall := x.sqCause != 0
  halt := x.halted
  noClock := x.away
  noPower := false

/-- A stream as it opens: with its promise record, and suspended where a cause is in effect (R277, R371). -/
def State.newStream (s : State) (sid : Nat) (c : Chain) (d : StreamDesc) (hash : Word) : Stream :=
  let promise := s.promiseOf sid c d
  let causes := (s.band (sidBand sid)).causes
  { sid := sid, desc := d, hash := hash, closing := false, closeBy := none, closeRows := 0,
    suspended := causes.any || (c.usesFab && !s.intervals.isEmpty), causes := causes, migration := none,
    voided := false, w := promise.1, ppm := promise.2, lateCount := 0, lateSat := false, lateRaised := false,
    worst := [0, 0, 0], done := 0, npass := c.npass, satArmed := true, satVer := c.ver, lateN := 0, lateFirst := 0, lateLast := 0,
    latePass := 0, lateWorst := 0, areas := [], begun := none, rows := [] }

/-- Adds the stream, and lists it in the open intervals where its chain is at risk. -/
def State.addStream (s : State) (x : Stream) (atRisk : Bool) : State :=
  s.booked (fun s => { s with
    streams := insertStream x s.streams
    intervals := if atRisk then s.intervals.map (fun (i : Interval) => { i with streams := i.streams ++ [x.sid] })
      else s.intervals })

def State.openStream (s : State) (c : Cmd) (desc : HostRead) : State :=
  let sid := bits (c.arg 1) 13 0
  s.withRead c (c.addr 2) 128 128 desc (fun bs s =>
    let bs := padTake bs 128
    let d := parseStream sid bs
    let c := { c with cls := d.cls }
    match s.descFails bs d with
    | some off => s.refuse c (.format [off])
    | none =>
      s.orRefuse c (s.contextCheck sid d) (fun s =>
        match s.chain? d.chain with
        | none => s
        | some v =>
          s.orRefuse c (s.admission sid v d) (fun s =>
            let h := hash4 (sha256 bs)
            let x := s.newStream sid v d (BitVec.ofNat 32 h)
            s.commit c 0 h (fun s => s.addStream x v.usesFab) (fun s => s.promiseWords x))))

def execOpenStream (m : Fin 4) (desc : HostRead) (s : State) : Host.Outcome State Fault Refusal :=
  .next (s.runCmd m.val opOpenStream (fun _ => true) (fun c s => s.openStream c desc))

/-! ### CLOSE_STREAM (R284) -/

/-- Tiles that hold a context of the stream. -/
def Stream.allTiles (x : Stream) : List Nat :=
  x.tiles ++ (match x.migration with
    | some g => [g.old]
    | none => [])

def State.closeStream (s : State) (c : Cmd) : State :=
  let sid := bits (c.arg 1) 13 0
  match s.stream? sid with
  | none => s.refuse c (.format [])
  | some x =>
    if x.closing then s.refuse c (.format [])
    else
      let n := x.rows.length
      s.accept c n sid x.hash.toNat 0 (fun s =>
        let s := s.modStream sid (fun y => { y with closing := true, closeBy := some (c.m, c.tag), closeRows := n })
        (s.settleTiles x.allTiles).finishClose sid)

def execCloseStream (m : Fin 4) (s : State) : Host.Outcome State Fault Refusal :=
  .next (s.runCmd m.val opCloseStream (fun _ => true) (fun c s => s.closeStream c))

/-! ### MERGE (R206) -/

/-- The row that a MERGE command names. -/
def Cmd.mergeRow (c : Cmd) : Nat := c.arg 2 + bits (c.arg 3) 15 0 * 2 ^ 32

/-- ABANDON: the final record of the row is poisoned, and its READERS add is issued. A band whose clock is absent has
no merge logic that could act (R328, log entry 84). -/
def State.mergeAbandon (s : State) (c : Cmd) : State :=
  let sid := bits (c.arg 1) 29 16
  let b := sidBand sid
  if (s.band b).away then s.refuse c (.capacity 0x15 0xF 0xFFFF 1 0 0 0)
  else if c.arg 4 != 0 || c.arg 5 != 0 then s.refuse c (.format [])
  else
    match s.merge? b sid c.mergeRow (bits (c.arg 1) 11 8) with
    | none => s.refuse c (.format [])
    | some m =>
      if !m.began then s.refuse c (.format [])
      else s.commit c (bits (c.arg 2) 31 0) 0 (fun s => s.failMerge b m) (fun _ => [])

def execMergeAbandon (m : Fin 4) (s : State) : Host.Outcome State Fault Refusal :=
  .next (s.runCmd m.val opMergeCmd (fun c => !bit (c.arg 1) 0) (fun c s => s.mergeAbandon c))

/-- The parts of a GATHER area as COMBINE reads them: one slot each. A slot whose read failed, or that is not
a record of this row, pass and stage, is not present (R195). -/
def readParts (row pass step : Nat) (area : List HostRead) : List (Nat × Rec) :=
  area.zipIdx.filterMap (fun p => match p.1 with
    | .failed .. => none
    | .data bs =>
      let bs := padTake bs 64
      let r := parseRec bs
      if recCrcOk bs && r.row.toNat == row && r.pass.toNat == pass && r.step.toNat == step then some (p.2, r) else none)

/-- The identity that COMBINE's record takes from the chain where no part of the area is present. -/
def Chain.noPart (v : Chain) (sid row k : Nat) : Rec :=
  { conflictRec v.sig sid (v.stage k).kind row (v.stage k).pass k with flags := 0x01 }

/-- What COMBINE makes of the parts present (R196, R197): the merged record, or a poisoned one with its
mismatches; the first part present stands for the part's own. -/
def State.combineArea (s : State) (b total : Nat) (own : Rec) (parts : List (Nat × Rec)) : State × Rec :=
  let r := mergeParts own parts
  match r.2 with
  | [] =>
    if r.1.count.toNat == total then (s, finalOf own.stream.toNat r.1)
    else (s.mismatch b own partOwn r.1 partFormed 5, poisonedFinal own r.1)
  | bad => (bad.foldl (fun s x => s.mismatch b own partOwn x.2.1 x.1 x.2.2) s, poisonedFinal own own)

/-- N of a row that COMBINE merges: on a stream of variable rows the length that the row's tags carried; of a row
that is no longer in the block no length is known, and the parts present are taken for the row (DESIGN CHOICE,
log entry 74). -/
def State.combineTotal (s : State) (x : Stream) (v : Chain) (k row : Nat) (parts : List (Nat × Rec)) : Nat :=
  let p := (v.stage k).pass
  let seen := (x.row? row).bind (fun r => s.lenSeen r x.sid p)
  if x.desc.var then seen.getD (parts.map (fun q => q.2.count.toNat)).sum else x.desc.len.getD (p - 1) 0

/-- COMBINE of a row, which reads each slot with a request for the line that holds it: its record, where every read of the
area succeeded and otherwise poisoned (R303). The part of the lowest slot that is present stands for the own record of a
finding and of a poisoned result (R206 names none; DESIGN CHOICE, log entry 126). -/
def State.combineRecord (s : State) (x : Stream) (v : Chain) (k row base : Nat) (area : List HostRead) : State × Rec :=
  let b := sidBand x.sid
  let parts := readParts row (v.stage k).pass k area
  let own : Rec := match parts with
    | (_, r) :: _ => { r with stream := BitVec.ofNat 14 x.sid }
    | [] => v.noPart x.sid row k
  let failed := area.zipIdx.filterMap (fun (p : HostRead × Nat) => match p.1 with
    | .failed poison _ => some (base + 64 * p.2 - (base + 64 * p.2) % 128, poison)
    | .data _ => none)
  if failed.isEmpty then s.combineArea b (s.combineTotal x v k row parts) own parts
  else (failed.foldl (fun s p => s.readError s.vaneBand p.1 p.2) s, poisonedFinal own own)

/-- The record of COMBINE is written at `dst`; the reads of the area's slots have gone over the Vane path. -/
def State.combineInto (s : State) (x : Stream) (v : Chain) (k row dst base : Nat) (area : List HostRead) : State :=
  let out := (s.countReads area.length (64 * area.length)).combineRecord x v k row base area
  match out.1.lowestBand with
  | some low => out.1.queueFab low [writeSlot .combine dst (recBytes out.2)]
  | none => out.1

/-- COMBINE: the GATHER area of a row of the stream is merged into a record at the address named. -/
def State.mergeCombine (s : State) (c : Cmd) (area : List HostRead) : State :=
  let sid := bits (c.arg 1) 29 16
  let k := bits (c.arg 1) 11 8
  let dst := c.addr 4
  if (s.band (sidBand sid)).away then s.refuse c (.capacity 0x15 0xF 0xFFFF 1 0 0 0)
  else if dst % 64 != 0 then s.refuse c (.format [0xFFFFFFFE])
  else
    match (s.stream? sid).bind (fun x => (s.chain? x.desc.chain).map (fun v => (x, v))) with
    | none => s.refuse c (.format [])
    | some (x, v) =>
      match v.mergeOf k with
      | none => s.refuse c (.format [])
      | some (i, st) =>
        if st.mlay != 1 then s.refuse c (.format [])
        else if !s.vaneReads || !(s.band s.vaneBand).vaneRoom then s
        else
          s.commit c (bits (c.arg 2) 31 0) 0 (fun s =>
            s.combineInto x v k c.mergeRow dst (areaAddr v x.desc i c.mergeRow) (area.take x.desc.p)) (fun _ => [])

def execMergeCombine (m : Fin 4) (area : List HostRead) (s : State) : Host.Outcome State Fault Refusal :=
  .next (s.runCmd m.val opMergeCmd (fun c => bit (c.arg 1) 0) (fun c s => s.mergeCombine c area))

end Sys2Proof.Machine
end

