-- ==== Sys2Proof/Machine/Queries.lean ====
section
/-!
DEFINITION. The four read-only commands (R331, R336): GET_INFO, QUERY_STREAM, QUERY_PROGRESS and READ_LOG.
-/

namespace Sys2Proof.Machine

/-! ### GET_INFO (Table 14.6) -/

/-- Identification and capabilities (R5, R393). -/
def regId : Nat := 0xB7C00005
def regVersion : Nat := 0x05010003
def regCaps0 : Nat := 0x07FFC4B8
def regCaps1 : Nat := 0x0898C0AB

/-- FWVER, ARC, HSVER and HSMIN of a Glomen image (Table 14.11). -/
def imgFwver (img : List Byte) : Nat := leAt img 4 4
def imgArc (img : List Byte) : Nat := leAt img 8 8
def imgHsver (img : List Byte) : Nat := leAt img 24 2
def imgHsmin (img : List Byte) : Nat := leAt img 26 2

/-- The image that runs, and the one in the staging slot. -/
def State.running (s : State) : List Byte := if s.slotB then s.imgB else s.imgA
def State.stagingImg (s : State) : List Byte := if s.slotB then s.imgA else s.imgB

def Staging.code : Staging → Nat
  | .empty => 0 | .loading => 1 | .staged => 2

/-- Selector 0; before Glomen starts, words 3 and 7 to 10 read 0. -/
def State.info0 (s : State) : List Nat :=
  let up := s.fwVersion != 0
  let w (n : Nat) := if up then n else 0
  [regId, regVersion, s.fwVersion.toNat, s.serviceWord, regCaps0, regCaps1,
   w (b2n s.slotB + s.staging.code * 2 ^ 8),
   w (if s.staging == .staged then imgFwver s.stagingImg else 0),
   w (bits (imgArc s.running) 31 0), w (bits (imgArc s.running) 63 32)]

/-- Selector 2: state and names of the four slots. -/
def State.info2 (s : State) : List Nat :=
  let word (i : Nat) : Nat :=
    let x := s.slot i
    match x.table with
    | none => x.state.code + x.first * 2 ^ 2
    | some t => x.state.code + x.first * 2 ^ 2 + t.acc * 2 ^ 4 + b2n t.mono * 2 ^ 8 + b2n t.dir * 2 ^ 9 +
        b2n t.narrow * 2 ^ 10 + t.bits * 2 ^ 12
  let name (i : Nat) : List Nat := match (s.slot i).table with
    | none => [0, 0]
    | some t => [leAt t.name 0 4, leAt t.name 4 4]
  (List.range 4).map word ++ (List.range 4).flatMap name

/-- Selector 3: a chain. -/
def State.info3 (s : State) (id : Nat) : List Nat :=
  match s.versions id with
  | [] => [0, 0, 0, 0]
  | v :: old => [if old.isEmpty then 1 else 2, v.sig.toNat, s.openOn id, v.nstg + v.npass * 2 ^ 8]

def State.getInfo (s : State) (c : Cmd) : State :=
  let ws := match bits (c.arg 1) 3 0 with
    | 0 => s.info0
    | 1 => s.mapWords
    | 2 => s.info2
    | _ => s.info3 (bits (c.arg 1) 25 16)
  s.answer c stOk ws

def execGetInfo (m : Fin 4) (s : State) : Host.Outcome State Fault Refusal :=
  .next (s.runCmd m.val opGetInfo (fun _ => true) (fun c s => s.getInfo c))

/-! ### QUERY_STREAM (R283, Table 14.7) -/

def State.queryWords (s : State) (x : Stream) : List Nat :=
  (x.code + b2n x.suspended * 2 ^ 3 + x.desc.tmask.toNat * 2 ^ 16 + b2n x.lateSat * 2 ^ 31) ::
    s.promiseWords x ++ x.lateCount :: [1, 2, 3].map (fun p => min (x.worst.getD (p - 1) 0) (2 ^ 32 - 1))

def State.queryStream (s : State) (c : Cmd) : State :=
  match s.stream? (bits (c.arg 1) 13 0) with
  | none => s.refuse c (.format [])
  | some x => s.answer c stOk (s.queryWords x)

def execQueryStream (m : Fin 4) (s : State) : Host.Outcome State Fault Refusal :=
  .next (s.runCmd m.val opQueryStream (fun _ => true) (fun c s => s.queryStream c))

/-! ### QUERY_PROGRESS (R281, R282) -/

/-- The four words of a position. -/
def progressWords (done total : Nat) : List Nat :=
  let permille := if total == 0 then 0xFFFF else 1000 * done / total
  [bits done 31 0, bits done 47 32 + permille * 2 ^ 16, bits total 31 0, bits total 47 32]

/-- DONE and TOTAL of a stream: rows beyond NROWS raise TOTAL, and both hold at 2^48 - 1 (R386). NPASS is that of the
chain at OPEN_STREAM, so that a replacement does not lower PERMILLE (R282; DESIGN CHOICE, log entry 103). -/
def Stream.progress (x : Stream) : Nat × Nat :=
  (x.done, if x.desc.nrows == 0 then 0 else min (max (x.desc.nrows * x.npass) x.done) (2 ^ 48 - 1))

def State.queryProgress (s : State) (c : Cmd) : State :=
  let w := c.arg 1
  let pos : Option (Nat × Nat) :=
    if bit w 31 then
      (s.longOp? (bits w 17 16) (BitVec.ofNat 16 (bits w 15 0))).map (fun o => (o.done, o.total))
    else (s.stream? (bits w 13 0)).map Stream.progress
  match pos with
  | none => s.refuse c (.format [])
  | some p => s.answer c stOk (progressWords p.1 p.2)

def execQueryProgress (m : Fin 4) (s : State) : Host.Outcome State Fault Refusal :=
  .next (s.runCmd m.val opQueryProgress (fun _ => true) (fun c s => s.queryProgress c))

/-! ### READ_LOG (R389) -/

/-- The entry's EPOCH field. -/
def LogEntry.epochField (e : LogEntry) : Nat := e.epoch.toNat % 2 ^ 16

/-- READ_LOG reads the entry from management SRAM (R389). -/
def State.readLog (s : State) (c : Cmd) : State :=
  match s.log.entries.find? (fun x => x.1.seq.toNat == c.arg 1 && x.1.epochField == c.arg 2) with
  | some x => s.sramUse.answer c stOk (s.sramWords x.1.words)
  | none =>
    match s.log.entries with
    | [] => s.refuse c (.format [s.log.nextSeq.toNat, s.log.epoch.toNat % 2 ^ 16])
    | x :: _ => s.refuse c (.format [x.1.seq.toNat, x.1.epochField])

def execReadLog (m : Fin 4) (s : State) : Host.Outcome State Fault Refusal :=
  .next (s.runCmd m.val opReadLog (fun _ => true) (fun c s => s.readLog c))

end Sys2Proof.Machine
end

