-- ==== Sys2Proof/Machine/Squalls.lean ====
section
/-!
DEFINITION. Squalls (R276 to R278, R317, R318): when one begins and ends in a band, its notices, and what it does
to the band's streams.
-/

namespace Sys2Proof.Machine

/-- A squall is in progress: a cause has opened it. -/
def Band.squall (x : Band) : Bool := x.sqCause != 0

/-- The monitor measures CCLK more than 1 % below the floor. -/
def belowFloor (mhz floor : Nat) : Bool := 100 * mhz < 99 * pointMhz floor

/-- Payload of SQUALL and SQUALL_END (Table 11.9). -/
def State.squallPayload (s : State) (b mhz cause : Nat) : Nat :=
  pack [(0, b), (2, pointMhz (s.band b).floor), (4, mhz % 2 ^ 16), (6, (s.streamsIn b).length), (8, cause)]

/-- A squall begins in band `b`, where none is in progress: its streams are suspended (R276, R277). `mhz` is the
clock that the notice reports. -/
def State.beginSquall (s : State) (b cause mhz : Nat) : State :=
  if (s.band b).squall then s
  else
    let s := s.modBand b (fun y => { y with sqCause := cause, squalls := satInc y.squalls })
    let s := (s.streamsIn b).foldl (fun s y => s.suspend y.sid (fun c => { c with squall := true })) s
    s.notice srcMgmt evSquall (s.squallPayload b mhz cause)

/-- The squall in progress in band `b` ends: its streams may return (R278). -/
def State.endSquall (s : State) (b mhz : Nat) : State :=
  let x := s.band b
  if !x.squall then s
  else
    let s := s.notice srcMgmt evSquallEnd (s.squallPayload b mhz x.sqCause)
    let s := s.modBand b (fun y => { y with sqCause := 0 })
    s.unsuspend ((s.streamsIn b).map (fun y => y.sid)) (fun c => { c with squall := false })

/-- Squalls are judged in the bands that the map has formed with, while their clock is there or lost (R328). -/
def State.judged (s : State) (b : Nat) : Bool :=
  s.readyDone && ((s.band b).present || ((s.band b).away && (s.band b).fabUp && s.activeMask b != 0))

/-- The applied point against the floor, after a change of either: a point below the floor begins a squall at once,
cause 1. None ends here: that takes a full window at the floor too (R317, R318, Table 13.5). -/
def State.pointSquall (s : State) (b : Nat) : State :=
  if s.judged b then
    let low := decide ((s.band b).cur < (s.band b).floor)
    let s := s.modBand b (fun y => { y with sqThrottle := low })
    if low then s.beginSquall b 1 (pointMhz (s.band b).cur) else s
  else s

/-- A window against the floor (Table 13.5): a low count or a point below the floor holds or begins a squall; with
neither the squall in progress ends, judged by the floor of this window (R317, R318). -/
def State.windowSquall (s : State) (b mhz : Nat) : State :=
  if s.judged b then
    let x := s.band b
    let throttle := decide (x.cur < x.floor)
    let monitor := belowFloor mhz x.floor
    let s := s.modBand b (fun y => { y with sqThrottle := throttle, sqMonitor := monitor })
    if throttle || monitor then s.beginSquall b (if throttle then 1 else 2) mhz else s.endSquall b mhz
  else s

end Sys2Proof.Machine
end

