-- ==== Sys2Proof/Machine/PolicyCmds.lean ====
section
/-!
DEFINITION. SET_POLICY and SET_FLOOR_CLOCK (R135, R274, R318, R342), and the surroundings intervals (R279, R371,
R372).
-/

namespace Sys2Proof.Machine

/-! ### Clock requests (R280, R314) -/

/-- The request that the cap and the floor allow for a wanted point. -/
def Band.requestFor (x : Band) (want : Nat) : Nat := if x.cap < x.floor then x.cap else min x.cap (max x.floor want)

/-- A band's request takes point `p`, and the change is logged. Without room for the entry Glomen does not make it
(R391); but a request above the cap comes down to it all the same, as a change of the hardware (R314, log entry
75). -/
def State.setRequest (s : State) (b p : Nat) : State :=
  let old := (s.band b).req
  let make (s : State) : State := s.modBand b (fun x => { x with req := p })
  if p == old then s
  else if s.logRoom false then s.glomenChange kClockReq b old p make
  else if old > (s.band b).cap then (make s).logHw kClockReq b old p
  else s

/-! ### SET_POLICY (Table 14.9) -/

/-- What a policy item belongs to. -/
inductive Scope where
  | block | tile | band
  deriving DecidableEq, Repr

/-- Scope and range of an item. -/
def policyItem (item : Nat) : Option (Scope × Nat × Nat) :=
  match item with
  | 0x01 => some (.block, 0, 1)
  | 0x02 => some (.block, 0, 1)
  | 0x03 => some (.tile, 0, 4)
  | 0x04 => some (.block, 0, 65535)
  | 0x05 => some (.block, 1, 65535)
  | 0x06 => some (.block, 100, 2000)
  | 0x07 => some (.band, 1, 64)
  | 0x08 => some (.band, 0, 1)
  | 0x09 => some (.band, 1, 1000)
  | 0x0A => some (.band, 0, 999)
  | _ => none

def Scope.ok (k : Scope) (scope : Nat) : Bool :=
  match k with
  | .block => scope == 0
  | .tile => scope < 88
  | .band => scope < 8

/-- The value of an item. -/
def State.policyValue (s : State) (item scope : Nat) : Nat :=
  match item with
  | 0x01 => b2n s.policy.workload
  | 0x02 => b2n s.policy.debug
  | 0x03 => (s.tile scope).xevqSet
  | 0x04 => s.policy.mwait
  | 0x05 => s.policy.lFab
  | 0x06 => s.policy.fclk
  | 0x07 => (s.band scope).dStop
  | 0x08 => (s.band scope).clkMode
  | 0x09 => (s.band scope).uhi
  | _ => (s.band scope).ulo

/-- Sets an item. -/
def State.putPolicy (s : State) (item scope v : Nat) : State :=
  match item with
  | 0x01 => { s with policy := { s.policy with workload := v == 1 } }
  | 0x02 => { s with policy := { s.policy with debug := v == 1 } }
  | 0x03 => s.modTile scope (fun x => { x with xevqSet := v })
  | 0x04 => { s with policy := { s.policy with mwait := v } }
  | 0x05 => { s with policy := { s.policy with lFab := v } }
  | 0x06 => { s with policy := { s.policy with fclk := v } }
  | 0x07 => s.modBand scope (fun x => { x with dStop := v })
  | 0x08 => s.modBand scope (fun x => { x with clkMode := v })
  | 0x09 => s.modBand scope (fun x => { x with uhi := v })
  | 0x0A => s.modBand scope (fun x => { x with ulo := v })
  | _ => s

/-- The streams whose admission an item's change affects (R274): a raise of XEVQ, and L_FAB and FCLK. -/
def State.policyAffects (s : State) (item scope v : Nat) (x : Stream) : Bool :=
  if item == 0x03 then v > (s.tile scope).xevqSet && x.onTile scope else item == 0x05 || item == 0x06

/-- The checks of SET_POLICY, in the changed state where admission runs again. -/
def State.policyCheck (s : State) (item scope v : Nat) : Option Refuse :=
  match policyItem item with
  | none => some (.format [])
  | some (k, lo, hi) =>
    if !k.ok scope || v < lo || v > hi then some (.format [])
    else if (item == 0x09 && v ≤ (s.band scope).ulo) || (item == 0x0A && v ≥ (s.band scope).uhi) then some (.format [])
    else if (k == .band && !(s.band scope).present) || (k == .tile && (s.band (bandOf scope)).away) then some (.capacity 0x15 0xF 0xFFFF 1 0 0 0)
    else if item == 0x07 && !(s.streamsIn scope).isEmpty then some { status := stBusy, words := [] }
    else (s.putPolicy item scope v).readmit (s.policyAffects item scope v)

def State.setPolicy (s : State) (c : Cmd) : State :=
  let item := bits (c.arg 1) 7 0
  let scope := bits (c.arg 1) 22 16
  let v := c.arg 2
  s.orRefuse c (s.policyCheck item scope v) (fun s =>
    let old := s.policyValue item scope
    let hit := s.policyAffects item scope v
    s.commit c old v (fun s => (s.putPolicy item scope v).repromise hit) (fun _ => [old]))

def execSetPolicy (m : Fin 4) (s : State) : Host.Outcome State Fault Refusal :=
  .next (s.runCmd m.val opSetPolicy (fun _ => true) (fun c s => s.setPolicy c))

/-! ### SET_FLOOR_CLOCK (R318) -/

/-- Sets a band's floor, and its promises with it. -/
def State.putFloor (s : State) (b p : Nat) : State :=
  (s.modBand b (fun x => { x with floor := p })).repromise (fun x => sidBand x.sid == b)

/-- A new floor's request and squall follow it. -/
def State.followFloor (s : State) (b : Nat) : State :=
  (s.setRequest b ((s.band b).requestFor (s.band b).req)).pointSquall b

def State.setFloor (s : State) (c : Cmd) : State :=
  let b := bits (c.arg 1) 2 0
  let p := bits (c.arg 1) 11 8
  let old := (s.band b).floor
  if p > 8 then s.refuse c (.format [])
  else if !(s.band b).present then s.refuse c (.capacity 0x15 0xF 0xFFFF 1 0 0 0)
  else
    s.orRefuse c (if p < old then
        (s.modBand b (fun x => { x with floor := p })).readmit (fun x => sidBand x.sid == b) else none) (fun s =>
      let done := s.commit c old p (fun s => s.putFloor b p) (fun s => [s.mapWord b])
      if s.logRoom false then done.followFloor b else done)

def execSetFloorClock (m : Fin 4) (s : State) : Host.Outcome State Fault Refusal :=
  .next (s.runCmd m.val opSetFloor (fun _ => true) (fun c s => s.setFloor c))

/-! ### SURROUNDINGS_NOTICE (R371, R372) -/

/-- Streams whose chains are at risk. -/
def State.riskList (s : State) : List Nat := (s.streams.filter s.atRisk).map (fun x => x.sid)

/-- The interval of a pair. -/
def State.interval? (s : State) (stack : BitVec 4) (chan : BitVec 8) : Option Interval :=
  s.intervals.find? (fun i => i.stack == stack && i.chan == chan)

/-- Opens the pair's interval, or restarts it with the streams that have come to meet the test; its streams
are suspended. -/
def State.openInterval (s : State) (stack : BitVec 4) (chan : BitVec 8) (duration : Word) : State :=
  let risk := s.riskList
  let s := match s.interval? stack chan with
    | none => { s with intervals := s.intervals ++
        [{ stack := stack, chan := chan, duration := duration, streams := risk, overdue := false }] }
    | some _ => { s with intervals := s.intervals.map (fun (i : Interval) =>
        if i.stack == stack && i.chan == chan then
          { i with duration := duration, overdue := false,
                   streams := i.streams ++ risk.filter (fun x => !i.streams.contains x) }
        else i) }
  risk.foldl (fun s sid => s.suspend sid (fun c => c)) s

def State.listed (s : State) (stack : BitVec 4) (chan : BitVec 8) : Nat :=
  match s.interval? stack chan with
  | some i => i.streams.length
  | none => 0

def State.noticeBegin (s : State) (c : Cmd) : State :=
  let w := c.arg 1
  let stack := BitVec.ofNat 4 (bits w 11 8)
  let chan := BitVec.ofNat 8 (bits w 19 12)
  if bits w 3 0 != 1 then s.refuse c (.format [bits w 3 0])
  else if (s.interval? stack chan).isNone && s.intervals.length ≥ 16 then
    s.refuse c (.capacity 0x15 0xF 0xFFFF 17 16 0 0)
  else
    let n := s.openInterval stack chan (BitVec.ofNat 32 (c.arg 2))
    s.commit c (s.listed stack chan) (n.listed stack chan)
      (fun s => s.openInterval stack chan (BitVec.ofNat 32 (c.arg 2))) (fun s => [s.listed stack chan])

def execSurroundingsNoticeBegin (m : Fin 4) (s : State) : Host.Outcome State Fault Refusal :=
  .next (s.runCmd m.val opSurroundings (fun c => bits (c.arg 1) 3 0 != 2) (fun c s => s.noticeBegin c))

/-- Ends a pair's interval: its streams return where no other cause holds them. -/
def State.endInterval (s : State) (stack : BitVec 4) (chan : BitVec 8) : State :=
  match s.interval? stack chan with
  | none => s
  | some i =>
    ({ s with intervals := s.intervals.filter (fun j => !(j.stack == stack && j.chan == chan)) }).resumeAll i.streams

def State.noticeEnd (s : State) (c : Cmd) : State :=
  let stack := BitVec.ofNat 4 (bits (c.arg 1) 11 8)
  let chan := BitVec.ofNat 8 (bits (c.arg 1) 19 12)
  if (s.interval? stack chan).isNone then s.refuse c (.format [])
  else
    let n := s.listed stack chan
    s.commit c n 0 (fun s => s.endInterval stack chan) (fun _ => [n])

def execSurroundingsNoticeEnd (m : Fin 4) (s : State) : Host.Outcome State Fault Refusal :=
  .next (s.runCmd m.val opSurroundings (fun c => bits (c.arg 1) 3 0 == 2) (fun c s => s.noticeEnd c))

/-- The expected duration of an open interval has elapsed: one notice, and the interval stays open (R372). -/
def State.intervalOverdue (s : State) (stack : BitVec 4) (chan : BitVec 8) : State :=
  match s.interval? stack chan with
  | none => s
  | some i =>
    if i.overdue then s
    else
      ({ s with intervals := s.intervals.map (fun (j : Interval) =>
          if j.stack == stack && j.chan == chan then { j with overdue := true } else j) }).notice srcMgmt
        evSurroundingsOverdue (pack [(0, stack.toNat), (1, chan.toNat), (4, i.duration.toNat)])

def execSurroundingsDurationExpiry (stack : BitVec 4) (chan : BitVec 8) (s : State) :
    Host.Outcome State Fault Refusal :=
  .next (if s.mgmtRuns then s.intervalOverdue stack chan else s)

end Sys2Proof.Machine
end

