-- ==== Sys2Proof/Machine/ServiceCmds.lean ====
section
/-!
DEFINITION. TILE_RETIRE, TILE_RESTORE, SELFTEST, CALIBRATE with its bank items, the move of a stream to the
spare, and the ends of tests and calibrations (R357 to R362, R366 to R370).
-/

namespace Sys2Proof.Machine

/-! ### Checks -/

/-- CAPACITY with RES 0x16 SPARE. -/
def noSpare (need have1 : Nat) : Refuse := .capacity 0x16 0xF 0xFFFF need have1 0 0

/-- CAPACITY with RES 0x15 SERVICE. -/
def noService : Refuse := .capacity 0x15 0xF 0xFFFF 1 0 0 0

def busy : Refuse := { status := stBusy, words := [] }

namespace State

/-- The band of a tile has lost a clock: commands naming it are refused (R328). -/
def tileAway (s : State) (t : Nat) : Bool := t < 88 && (s.band (bandOf t)).away

/-- A tile of the map, or the spare of a band in it. -/
def hasRole (s : State) (t : Nat) : Bool :=
  t < 88 && (s.band (bandOf t)).present && ((s.tile t).active || s.spareTile (bandOf t) == some t)

def svcBusy (s : State) (b : Nat) : Bool := (s.band b).svc.isSome

/-- A service operation of band `b` for a command, with its tiles in order. -/
def newSvc (c : Cmd) (kind : SvcKind) (todo : List Nat) : SvcOp where
  kind := kind
  origin := c.m
  tag := c.tag
  todo := todo
  late := []
  cur := todo.headD 0
  rotate := false
  wasActive := false
  steps := 0
  phase := .next

/-- Accepts a service operation on a tile: its entry holds what it may change, as it is now. -/
def acceptSvc (s : State) (c : Cmd) (total t : Nat) (change : State → State) : State :=
  s.accept c total t (s.svcWord c.op t) (s.svcWord c.op t) change

/-! ### TILE_RETIRE and TILE_RESTORE -/

/-- TILE_RETIRE (R357). -/
def tileRetire (s : State) (c : Cmd) : State :=
  let t := bits (c.arg 1) 6 0
  let force := bit (c.arg 1) 8
  let b := bandOf t
  if s.tileAway t then s.refuse c noService
  else if !(t < 88 && s.inMap t) then s.refuse c (.format [])
  else if s.svcBusy b then s.refuse c busy
  else
    match s.spareTile b with
    | none => s.refuse c (noSpare 1 0)
    | some _ =>
      s.acceptSvc c (s.streamsOn t).length t (fun s =>
        s.svcBegin b (newSvc c (.retire force) []) t)

/-- TILE_RESTORE (R362): the steps of R321, the first of them done at once where the tile still has power. -/
def tileRestore (s : State) (c : Cmd) : State :=
  let t := bits (c.arg 1) 6 0
  let b := bandOf t
  if s.tileAway t then s.refuse c noService
  else if !(t < 88 && (s.tile t).retired) then s.refuse c (.format [])
  else if s.svcBusy b then s.refuse c busy
  else if (s.spareTile b).isSome then s.refuse c (noSpare 0 1)
  else
    s.acceptSvc c 3 t (fun s =>
      let o := { newSvc c .restore [] with cur := t, phase := SvcPhase.power }
      let s := (s.powerUp t).setSvc b (some o)
      if (s.tile t).power == .resetHold then s.restoreStep t else s)

/-! ### SELFTEST and CALIBRATE -/

/-- The bands of the map that hold a spare, with the tiles of each: active tiles and the spare. -/
def rotationBands (s : State) : List (Nat × List Nat) :=
  ((List.range 8).filter (fun b => (s.band b).present && (s.spareTile b).isSome)).map (fun b =>
    (b, (bandTiles b).filter s.hasRole))

/-- Starts a full test or a calibration of one tile, or of every tile in the map by rotation (R366). -/
def tileWork (s : State) (c : Cmd) (kind : SvcKind) : State :=
  let t := bits (c.arg 1) 6 0
  let work := if t == 0x7F then s.rotationBands else [(bandOf t, [t])]
  let total := (work.map (fun w => w.2.length)).sum
  if s.tileAway t then s.refuse c noService
  else if t != 0x7F && !s.hasRole t then s.refuse c (.format [])
  else if work.any (fun w => s.svcBusy w.1) then s.refuse c busy
  else if t != 0x7F && (s.spareTile (bandOf t)).isNone then s.refuse c (noSpare 1 0)
  else
    s.acceptSvc c total t (fun s =>
      if work.isEmpty then s.finishLong c.m c.tag stOk 0 0
      else
        let s := work.foldl (fun s w => s.setSvc w.1 (some (newSvc c kind w.2))) s
        work.foldl (fun s w => s.svcGoOn w.1) s)

/-- ITEM of CALIBRATE. -/
def itemOf (c : Cmd) : Nat := bits (c.arg 1) 15 8

def isBankOff (c : Cmd) : Bool := itemOf c / 16 == 2
def isBankOn (c : Cmd) : Bool := itemOf c / 16 == 3

/-- CALIBRATE with an item of Table 15.5 that is not a bank. -/
def calibrate (s : State) (c : Cmd) : State :=
  let i := itemOf c
  if i == 1 || i == 2 || i == 3 || i == 0x0F then s.tileWork c (.calibrate i) else s.refuse c (.format [])

/-! ### Banks (R368 to R370) -/

/-- Banks that are off, or closing. -/
def banksDown (x : Tile) : BitVec 16 := x.banksOff ||| x.banksClosing

/-- The number of banks off. -/
def bankCount (x : Tile) : Nat := ((List.range 16).filter (fun i => (banksDown x).getLsbD i)).length

/-- Reservations of a tile's streams in id order, with a chain's constants in its first stream. -/
def reserved : List (Chain × StreamDesc × Nat) → List Nat → List (Nat × Nat)
  | [], _ => []
  | (c, d, sid) :: rest, seen =>
    (sid, streamUnits c d + (if seen.contains c.id then 0 else c.constUnits)) :: reserved rest (c.id :: seen)

/-- The streams that a capacity of `units` no longer holds: id, need, and what is left for it. -/
def shortOf (units : Nat) : List (Nat × Nat) → Nat → List (Nat × Nat × Nat)
  | [], _ => []
  | (sid, n) :: rest, used =>
    (if used + n > units then [(sid, n, units - used)] else []) ++ shortOf units rest (used + n)

/-- The streams of a tile that do not fit once a bank more is off. -/
def bankShort (s : State) (t : Nat) : List (Nat × Nat × Nat) :=
  let ls := (s.streamsOn t).filterMap (fun x => (s.chain? x.desc.chain).map (fun c => (c, x.desc, x.sid)))
  shortOf ((s.tile t).units - 12) (reserved ls []) 0

/-- Switches a bank off in place: no new unit in it, and it closes when its last unit is released. -/
def bankOffInPlace (s : State) (t k : Nat) : State :=
  s.booked (fun s => s.modTile t (fun x =>
    let held := x.rows.map (fun r => (r.sid, r.row, r.pass))
    let bit := BitVec.ofNat 16 (2 ^ k)
    if held.isEmpty then { x with banksOff := x.banksOff ||| bit }
    else { x with banksClosing := x.banksClosing ||| bit, bankRows := held }))

/-- BANK_OFF (R368, R369). -/
def bankOff (s : State) (c : Cmd) : State :=
  let t := bits (c.arg 1) 6 0
  let k := itemOf c % 16
  let b := bandOf t
  let x := s.tile t
  let short := s.bankShort t
  let large := fun (sid : Nat) => match (s.stream? sid).bind (fun y => (s.chain? y.desc.chain).map (fun v => (v, y.desc))) with
    | some (v, d) => v.largestStage (v.needUnits (fun p => d.shr.getD (p - 1) 0))
    | none => 0xF
  if s.tileAway t then s.refuse c noService
  else if !s.hasRole t || (banksDown x).getLsbD k then s.refuse c (.format [])
  else if s.svcBusy b then s.refuse c busy
  else if bankCount x ≥ 4 then s.refuse c (.capacity 0x17 0xF t 5 4 0 0)
  else
    match short with
    | [] =>
      s.acceptSvc c 1 t (fun s =>
        let o := { newSvc c (.bankOff k) [] with cur := t, phase := SvcPhase.work }
        ((s.bankOffInPlace t k).setSvc b (some o)).svcSettle b)
    | (sid, n, h) :: _ =>
      if (s.spareTile b).isNone then s.refuse c (.capacity 0x02 (large sid) t n h 0 0)
      else
        s.acceptSvc c 1 t (fun s =>
          let s := short.foldl (fun s y =>
            s.notice srcMgmt evBankShort (layoutS y.1 0 0 t 0 k y.2.1 y.2.2)) s
          s.svcBegin b (newSvc c (.bankOff k) []) t)

/-- BANK_ON (R368, R370). -/
def bankOn (s : State) (c : Cmd) : State :=
  let t := bits (c.arg 1) 6 0
  let k := itemOf c % 16
  let b := bandOf t
  if s.tileAway t then s.refuse c noService
  else if !s.hasRole t || !(banksDown (s.tile t)).getLsbD k then s.refuse c (.format [])
  else if s.svcBusy b then s.refuse c busy
  else if !(s.streamsOn t).isEmpty && (s.spareTile b).isNone then s.refuse c (noSpare 1 0)
  else s.acceptSvc c 1 t (fun s => s.svcBegin b (newSvc c (.bankOn k) []) t)

/-! ### The move of a stream (R358, R359, R361) -/

/-- The old tile holds no partly received row pass of the stream. -/
def betweenRows (s : State) (t sid : Nat) : Bool :=
  !(s.tile t).openPasses.any (fun o => o.sid == sid && o.isOpen && !o.stray)

/-- Replaces a tile in a mask of the band. -/
def moveMask (m : BitVec 11) (old new : Nat) : BitVec 11 :=
  (m &&& ~~~(BitVec.ofNat 11 (2 ^ (old % 11)))) ||| BitVec.ofNat 11 (2 ^ (new % 11))

/-- A row that has begun in a tile: it has, or has had, a row pass there, or beats of it wait in the tile's queue. -/
def rowIn (s : State) (t sid : Nat) (r : RowCtx) : Bool :=
  (s.tile t).rows.any (fun p => p.sid == sid && p.row == r.row) || r.ended.any (fun e => e.tile == t) ||
    (s.tile t).queue.any (fun q => q.sid == sid && q.row == r.row)

/-- A forced move takes the promise of a stream without an allowance (R361). -/
def voids (x : Stream) (force : Bool) : Bool := force && !x.desc.mig

/-- The entries of the hold ring of a stream's rows that have not begun in the old tile go to the spare with the rows
(R211, R358). -/
def moveHold (s : State) (x : Stream) (old new : Nat) : State :=
  let goes (h : HoldEntry) : Bool := h.sid == x.sid && x.rows.any (fun r => r.row == h.row && !s.rowIn old x.sid r)
  let moved := (s.tile old).hold.filter goes
  (s.modTile old (fun y => { y with hold := y.hold.filter (fun h => !goes h) })).modTile new (fun y =>
    { y with hold := y.hold ++ moved })

/-- Cuts a stream over from tile `old` to `new`; the spare serves its new rows, so a lost old tile no longer
suspends it (R322, R374). -/
def cutStream (s : State) (x : Stream) (old new : Nat) (force : Bool) : State :=
  let begun := x.rows.filter (fun r => r.tiles.contains old && s.rowIn old x.sid r)
  let void := voids x force
  let s := s.moveHold x old new
  let s := s.booked (fun s => s.modStream x.sid (fun y => { y with
    desc := { y.desc with tmask := moveMask y.desc.tmask old new }
    migration := some { old := old, new := new }
    voided := y.voided || void
    rows := y.rows.map (fun (r : RowCtx) => if s.rowIn old x.sid r then r
      else { r with tiles := r.tiles.map (fun t => if t == old then new else t) }) }))
  let s := if void then s.logGlomen kPromiseVoid 0 x.sid 0 0xFFFFFFFF else s
  let s := s.powerBack new
  s.notice srcMgmt evTileMove (pack [(0, x.sid), (2, old), (3, new),
    (4, x.desc.cls + b2n x.desc.mig * 2 ^ 2 + b2n void * 2 ^ 3), (8, begun.length % 2 ^ 48)])

/-- STREAM_CUT: in the Move phase, which a retirement without FORCE enters when no stream without an allowance
is left on the tile (Table 15.2). A cut that voids a promise waits for room for its log entry (R391), and every cut for
the spare's power, where the spare has lost it (R322; DEDUCED, log entry 105). -/
def streamCut (s : State) (sid : Nat) : State :=
  let b := sidBand sid
  match s.stream? sid, (s.band b).svc, s.spareTile b with
  | some x, some o, some new =>
    let force := match o.kind with
      | .retire f => f
      | _ => false
    if o.phase == .move && x.tiles.contains o.cur && x.migration.isNone && (force || !s.blocked o.cur) &&
        !s.paused && (s.tile new).power == .ready && s.betweenRows o.cur sid && (!voids x force || s.logRoom false) then
      (s.cutStream x o.cur new force).svcSettle b
    else s
  | _, _, _ => s

/-- The old tile holds no row pass of the stream and no beat of one (R359); that no beat has come for 10 µs is what
the command tells. -/
def leftOld (s : State) (x : Stream) (old : Nat) : Bool :=
  !(s.tile old).rows.any (fun r => r.sid == x.sid) && !(s.tile old).queue.any (fun q => q.sid == x.sid)

/-- A tile serves some rows of a stream no longer; a row that no tile serves is gone. -/
def leaveRows (s : State) (t sid : Nat) (gone : RowCtx → Bool) : State :=
  s.booked (fun s => s.modStream sid (fun x => { x with rows := (x.rows.map (fun (r : RowCtx) =>
    if gone r then { r with tiles := r.tiles.filter (fun u => u != t) } else r)).filter (fun (r : RowCtx) => !r.tiles.isEmpty) }))

/-- STREAM_LEAVES_OLD_TILE: the stream's context leaves the old tile, with the rows whose later passes the host has
not sent there (R374). -/
def streamLeaves (s : State) (sid : Nat) : State :=
  match s.stream? sid with
  | none => s
  | some x =>
    match x.migration with
    | none => s
    | some g =>
      if s.leftOld x g.old then
        let s := s.booked (fun s => s.modStream sid (fun y => { y with migration := none }))
        let s := s.modTile g.old (fun y => { y with
          hold := y.hold.filter (fun h => h.sid != sid)
          openPasses := y.openPasses.filter (fun o => o.sid != sid) })
        let s := s.leaveRows g.old sid (fun r => r.tiles.contains g.old)
        (((s.settleTiles x.allTiles).prune).finishClose sid).svcSettle (sidBand sid)
      else s

/-! ### The ends of tests, calibrations and marches (R367, R370) -/

/-- The tile in hand has passed: after a rotation it is restored (R362), else it returns to its role. -/
def backToRole (s : State) (b : Nat) (o : SvcOp) : State :=
  if o.rotate then s.svcRestore b o
  else if o.wasActive then (s.joinMap o.cur).svcDone b o
  else (s.gate o.cur).svcDone b o

/-- A tile that fails its full test stays gated, and its band has no spare afterwards: the spare takes the place
of an active tile tested in place (R326, R367). One that was retired through the spare for the test is a retired tile,
which TILE_RESTORE can name (R362, R366). -/
def testFailed (s : State) (b : Nat) (o : SvcOp) (unit index : Nat) : State :=
  let s := s.testFail o.cur unit index
  let s := (s.gate o.cur).modTile o.cur (fun x => { x with failed := true, retired := x.retired || o.rotate })
  let s := if o.rotate then s
    else if o.wasActive then
      (match s.spareTile b with
      | some sp => (s.changeMap b (fun s => s.setSpare b none)).powerUp sp
      | none => s)
    else s.changeMap b (fun s => s.setSpare b none)
  (s.svcCount o).svcFail b

/-- The self-test switches off the banks that fail it (R368). -/
def failBanks (s : State) (t : Nat) (banks : BitVec 16) : State :=
  s.booked (fun s => s.modTile t (fun x => { x with banksOff := x.banksOff ||| banks }))

/-- The lowest bank of a set. -/
def lowestBank (banks : BitVec 16) : Nat := ((List.range 16).find? (fun i => banks.getLsbD i)).getD 0

/-- Tile `t` has its power and its reset behind it: a test or a calibration of it can end. -/
def underWork (s : State) (o : SvcOp) (t : Nat) : Bool := o.phase == .work && o.cur == t && (s.tile t).power == .ready

/-- SELFTEST_TILE_DONE: the tile's banks that failed are off from now on; with a fifth bank off the tile fails, and the
finding names a bank of staging (R367, R368). -/
def selftestDone (s : State) (t : Nat) (pass : Bool) (unit : Nat) (banks : BitVec 16) : State :=
  let b := bandOf t
  match (s.band b).svc with
  | some o =>
    if s.underWork o t && o.kind == .selftest then
      let s := s.failBanks t banks
      if !pass then s.testFailed b o unit 0
      else if bankCount (s.tile t) > 4 then s.testFailed b o 2 (lowestBank banks)
      else s.backToRole b o
    else s
  | none => s

/-- The calibrated tile's entry is one of its own: every tile is named. -/
def ownEntry (s : State) (o : SvcOp) : Bool :=
  (s.longOp? o.origin o.tag).any (fun l => l.logObj.toNat % 128 == 0x7F)

/-- The record after the items of a calibration at point `p`, whose measurements are the free values of number `n`
(Table 15.5, log entry 22): the other points and items keep their values. -/
def measured (r : Calibration) (item p n : Nat) : Calibration where
  margins := if item == 1 || item == 0xF then r.margins.set p (Config.calMargin n) else r.margins
  offsets := if item == 2 || item == 0xF then [Config.calOffset n 0, Config.calOffset n 1] else r.offsets
  assist := if item == 3 || item == 0xF then Config.calAssist n else r.assist

/-- The items of a calibration set their values in the tile's record. -/
def setCalibration (s : State) (t item : Nat) : State :=
  let s1 := s.modTile t (fun x => { x with calRecord := measured x.calRecord item (s.band (bandOf t)).cur s.fresh })
  { s1 with fresh := s.fresh + 1 }

/-- A calibrated tile's values are logged with the hashes of its record (R367): in the completion entry where one
tile is named, else in an entry of the tile's own. -/
def logCalibration (s : State) (o : SvcOp) (t item : Nat) : State :=
  let old := s.calHashOf t
  let s := s.setCalibration t item
  if s.ownEntry o then s.logGlomen kCalibration 0 t old (s.calHashOf t) else s

/-- The march of BANK_ON ends: the bank is on where it passed, and the tile returns through the entry check (R370). -/
def bankMarched (s : State) (b : Nat) (o : SvcOp) (k : Nat) (pass : Bool) : State :=
  let s := if pass then
      s.booked (fun s => s.modTile o.cur (fun x => { x with banksOff := x.banksOff &&& ~~~(BitVec.ofNat 16 (2 ^ k)) }))
    else (s.testFail o.cur 2 k).modLong o.origin o.tag (fun l => { l with failed := some (BitVec.ofNat 16 stCapacity) })
  s.svcRestore b o

/-- CALIBRATE_TILE_DONE; a calibration waits for room for an entry of its own (R391). -/
def calibrateDone (s : State) (t : Nat) (pass : Bool) : State :=
  let b := bandOf t
  match (s.band b).svc with
  | some o =>
    if s.underWork o t then
      match o.kind with
      | .calibrate item => if s.ownEntry o && !s.logRoom false then s else (s.logCalibration o t item).backToRole b o
      | .bankOn k => s.bankMarched b o k pass
      | _ => s
    else s
  | none => s

end State

/-! ### The commands -/

def execTileRetire (m : Fin 4) (s : State) : Host.Outcome State Fault Refusal :=
  .next (s.runCmd m.val opTileRetire (fun _ => true) (fun c s => s.tileRetire c))

def execTileRestore (m : Fin 4) (s : State) : Host.Outcome State Fault Refusal :=
  .next (s.runCmd m.val opTileRestore (fun _ => true) (fun c s => s.tileRestore c))

def execSelftest (m : Fin 4) (s : State) : Host.Outcome State Fault Refusal :=
  .next (s.runCmd m.val opSelftest (fun _ => true) (fun c s => s.tileWork c .selftest))

def execCalibrate (m : Fin 4) (s : State) : Host.Outcome State Fault Refusal :=
  .next (s.runCmd m.val opCalibrate (fun c => !State.isBankOff c && !State.isBankOn c) (fun c s => s.calibrate c))

def execBankOff (m : Fin 4) (s : State) : Host.Outcome State Fault Refusal :=
  .next (s.runCmd m.val opCalibrate State.isBankOff (fun c s => s.bankOff c))

def execBankOn (m : Fin 4) (s : State) : Host.Outcome State Fault Refusal :=
  .next (s.runCmd m.val opCalibrate State.isBankOn (fun c s => s.bankOn c))

def execStreamCut (sid : BitVec 14) (s : State) : Host.Outcome State Fault Refusal :=
  .next (if s.mgmtRuns && s.bandRuns (sidBand sid.toNat) then s.streamCut sid.toNat else s)

def execStreamLeavesOldTile (sid : BitVec 14) (s : State) : Host.Outcome State Fault Refusal :=
  .next (if s.mgmtRuns && s.bandRuns (sidBand sid.toNat) then s.streamLeaves sid.toNat else s)

def execSelftestTileDone (t : Fin 88) (pass : Bool) (found : SelftestFound) (s : State) :
    Host.Outcome State Fault Refusal :=
  .next (if s.mgmtRuns && s.cclkRuns (bandOf t.val) then s.selftestDone t.val pass found.unit.toNat found.banks else s)

def execCalibrateTileDone (t : Fin 88) (pass : Bool) (s : State) : Host.Outcome State Fault Refusal :=
  .next (if s.mgmtRuns && s.cclkRuns (bandOf t.val) then s.calibrateDone t.val pass else s)

end Sys2Proof.Machine
end

