-- ==== Sys2Proof/Machine/Power.lean ====
section
/-!
DEFINITION. The power signals of a tile (R320 to R322): its release, its loss, and the steps of R321.
-/

namespace Sys2Proof.Machine

namespace State

/-- A hand-over holds the restore of this tile at the end of the step in hand (R349). -/
def restoreHeld (s : State) (t : Nat) : Bool := s.paused && (s.restoring t).isSome

/-- TILE_POWER_OFF: the host removes the power of a tile that the block has released. -/
def powerOff (s : State) (t : Nat) : State :=
  let x := s.tile t
  if x.pgReq && x.pgState then s.modTile t (fun x => { x with pgState := false }) else s

/-- TILE_POWERED: the tile has power, and goes into reset where the block has asked for it. -/
def powered (s : State) (t : Nat) : State :=
  let x := s.tile t
  if x.pgState then s
  else
    let s := s.modTile t (fun x => { x with pgState := true })
    if x.pgReq then s
    else if s.restoreHeld t then s.restoreStep t
    else (s.modTile t (fun x => { x with power := .resetHold })).restoreStep t

/-- The 64 CCLK of a tile's reset can end: its band's compute clock runs, and no hand-over holds a restore that has
already written the tile's entries (R321, R349). -/
def holdEnds (s : State) (t : Nat) : Bool :=
  (s.tile t).power == .resetHold && s.cclkRuns (bandOf t) && !(s.paused && s.restoreSteps t ≥ 2)

/-- TILE_RESET_HOLD_EXPIRY: after 64 CCLK the tile's entries are written, from the chains, images and tables that
management SRAM holds, and its entry check starts (R321, Table 16.1). -/
def holdExpired (s : State) (t : Nat) : State :=
  if s.holdEnds t then
    let s := s.sramUse.restoreStep t
    if s.restoreHeld t then s else s.modTile t (fun x => { x with power := .entryCheck })
  else s

/-- TILE_ENTRY_CHECK_DONE: the check takes CCLK edges (R321). -/
def checkDone (s : State) (t : Nat) (pass : Bool) : State :=
  if (s.tile t).power == .entryCheck && s.cclkRuns (bandOf t) then s.entryChecked t pass else s

/-! ### Power lost (R322) -/

/-- Rows of a stream that a tile holds: in its row passes, in its queue, or, of a row pass that has ended there, in its
hold ring alone. -/
def heldRows (s : State) (t sid : Nat) : List Nat :=
  let x := s.tile t
  (((x.rows.filter (fun r => r.sid == sid)).map (fun r => r.row)) ++
    ((x.queue.filter (fun q => q.sid == sid)).map (fun q => q.row)) ++
    ((x.hold.filter (fun h => h.sid == sid && ((s.stream? sid).bind (fun y => y.row? h.row)).any (fun r =>
      r.ended.any (fun e => e.tile == t)))).map (fun h => h.row))).dedup

/-- One TILE_POWER_LOST finding for each row that the tile held of a stream it served. -/
def reportLoss (s : State) (t : Nat) : State :=
  let say (s : State) (sid row : Nat) : State :=
    s.report srcMgmt evTilePowerLost (layoutU t 0 0 sid row 0 0)
  let xs := s.streamsOn t
  if xs.isEmpty then say s 0xFFFF 0
  else xs.foldl (fun s x =>
    match s.heldRows t x.sid with
    | [] => say s x.sid 0
    | rows => rows.foldl (fun s row => say s x.sid row) s) s

/-- The rows that a lost tile held cannot be delivered: the tile no longer serves them, and what other tiles
hold of them is poisoned. -/
def loseRows (s : State) (t sid : Nat) : State :=
  let lost := s.heldRows t sid
  let s := s.leaveRows t sid (fun r => lost.contains r.row)
  { s with tiles := s.tiles.map (fun (y : Tile) => { y with rows := y.rows.map (fun (r : RowPass) =>
      if r.sid == sid && lost.contains r.row then { r with poison := true } else r) }) }

/-- TILE_POWER_LOST; a tile that is lost stays so until it has returned by R321, though it loses its power again before.
A stream that has been cut over already goes on in the spare (R374). -/
def powerLost (s : State) (t : Nat) : State :=
  let x := s.tile t
  if x.pgReq || !x.pgState then s
  else
    let on := s.streamsOn t
    let s := (s.reportLoss t).setFatal fatalPower
    let s := on.foldl (fun s y =>
      let s := s.loseRows t y.sid
      if y.tiles.contains t then s.suspend y.sid (fun c => { c with noPower := true }) else s) s
    let serves := s.receiving t
    let s := s.changeMap (bandOf t) (fun s => s.booked (fun s => s.modTile t (fun x =>
      { x.cleared with pgState := false, power := .off, active := false, lost := x.lost || x.active || serves })))
    let s := s.restoreAnew t
    let s := on.foldl (fun s y => (s.settleTiles y.allTiles).finishClose y.sid) s
    (s.drainSlots).svcSettle (bandOf t)

end State

def execTilePowerOff (t : Fin 88) (s : State) : Host.Outcome State Fault Refusal :=
  .next (if s.mgmtRuns then s.powerOff t.val else s)

def execTilePowerLost (t : Fin 88) (s : State) : Host.Outcome State Fault Refusal :=
  .next (if s.mgmtRuns then s.powerLost t.val else s)

def execTilePowered (t : Fin 88) (s : State) : Host.Outcome State Fault Refusal :=
  .next (if s.mgmtRuns then s.powered t.val else s)

def execTileResetHoldExpiry (t : Fin 88) (s : State) : Host.Outcome State Fault Refusal :=
  .next (if s.mgmtRuns then s.holdExpired t.val else s)

def execTileEntryCheckDone (t : Fin 88) (pass : Bool) (s : State) : Host.Outcome State Fault Refusal :=
  .next (if s.mgmtRuns then s.checkDone t.val pass else s)

end Sys2Proof.Machine
end

