-- ==== Sys2Proof/Machine/Firmware.lean ====
section
/-!
DEFINITION. Glomen images and the firmware hand-over (R344 to R351).
-/

namespace Sys2Proof.Machine

/-! ### The image check (R344, R345) -/

/-- What an image check finds. -/
inductive ImageCheck where
  | ok | format | signature
  deriving DecidableEq, Repr

/-- A length that R344 allows. -/
def imgLenOk (len : Nat) : Bool := len % 128 == 0 && 1024 ≤ len && len ≤ 262144

def zeroBytes (bs : List Byte) (off n : Nat) : Bool := (slice bs off n).all (fun b => b == 0)

/-- Step 1: the fields of Table 14.11, for an image of `len` bytes. -/
def imgHeaderOk (img : List Byte) (len : Nat) : Bool :=
  slice img 0 4 == [0x47, 0x4C, 0x4D, 0x4E] && leAt img 7 1 == 3 && leAt img 16 4 == len && imgLenOk len &&
    leAt img 20 4 + 512 < len && zeroBytes img 28 100 && zeroBytes img 225 31 && zeroBytes img 352 160

/-- Step 3: the ECDSA signature over bytes 0 to 255 and the body. -/
def imgSigned (img : List Byte) : Bool :=
  leAt img 128 1 == 4 &&
    ecdsaVerify (beNat (slice img 129 48)) (beNat (slice img 177 48))
      (beNat (sha384 (img.take 256 ++ img.drop 512)) % 2 ^ 384) (beNat (slice img 256 48)) (beNat (slice img 304 48))

/-- R345. -/
def checkImg (img : List Byte) (len : Nat) (keyHash : BitVec 384) (keyArc : Nat) : ImageCheck :=
  if !imgHeaderOk img len then .format
  else if beNat (sha384 (slice img 128 97)) != keyHash.toNat then .signature
  else if !imgSigned img then .signature
  else if imgArc img < keyArc then .signature
  else .ok

def ImageCheck.status : ImageCheck → Nat
  | .ok => stOk
  | .format => stFormat
  | .signature => stSignature

namespace State

/-! ### FW_STAGE (R346) -/

/-- OBJECT of a FIRMWARE entry: the staging slot. -/
def stagingSlot (s : State) : Nat := b2n (!s.slotB)

/-- FWVER of the image that the staging slot holds, 0 for none. -/
def stagedFwver (s : State) : Nat := if s.staging == .staged then imgFwver s.stagingImg else 0

def setStaging (s : State) (st : Staging) (img : List Byte) : State :=
  if s.slotB then { s with staging := st, imgA := img } else { s with staging := st, imgB := img }

/-- FW_STAGE. During a hand-over the staging slot holds the image to activate: a command that step 1 still answers
finds it BUSY (DESIGN CHOICE, log entry 68). -/
def fwStage (s : State) (c : Cmd) : State :=
  let len := bits (c.arg 3) 18 0
  if c.addr 1 % 128 != 0 then s.refuse c (.format [0xFFFFFFFE])
  else if !imgLenOk len then s.refuse c (.format [])
  else if s.staging == .loading || s.paused then s.refuse c busy
  else s.accept c (len / 128 + 1) (c.addr 1) s.stagedFwver 0 (fun s => s.setStaging .loading [])

/-- The read and the check of the image end: the slot is STAGED or EMPTY, and the check is a key use, which waits for
room in the log (R391). -/
def fwStaged (s : State) (img : HostRead) (keyArc : BitVec 64) : State :=
  match s.longOps.find? (fun o => o.opcode == opFwStage) with
  | none => s
  | some o =>
    let len := (o.total - 1) * 128
    let s1 := s.vaneRead o.object.toNat len img
    match img with
    | .failed .. =>
      let s := (s1.setStaging .empty []).modLong o.origin o.tag (fun l => { l with object := 0 })
      s.finishLong o.origin o.tag stFormat o.oldh.toNat 0
    | .data bs =>
      if !s.logRoom false then s
      else
        let bs := padTake bs len
        let check := checkImg bs len s.keyHash keyArc.toNat
        let s := s1.glomenChange kKeyUse 0 (bits s.keyArc.toNat 31 0) (bits keyArc.toNat 31 0)
          (fun s => { s with keyArc := keyArc })
        let s := if check == .ok then s.setStaging .staged bs else s.setStaging .empty []
        let s := s.modLong o.origin o.tag (fun l => { l with done := l.total, object := BitVec.ofNat 64 (imgFwver bs) })
        s.finishLong o.origin o.tag check.status o.oldh.toNat s.stagedFwver

/-! ### FW_ACTIVATE (R348) -/

/-- FW_ACTIVATE: BUSY while FW_STAGE is in progress; a counter request that an earlier hand-over still has out does not
stand in its way (R348). -/
def fwActivate (s : State) (c : Cmd) : State :=
  if s.staging == .loading then s.refuse c busy
  else if s.staging != .staged then s.refuse c (.format [1])
  else if imgHsmin s.stagingImg > imgHsver s.running then s.refuse c (.format [2])
  else
    s.accept c 4 s.stagedFwver s.fwVersion.toNat s.stagedFwver (fun s =>
      { s with handover := some {
          origin := c.m, tag := c.tag, arcup := bit (c.arg 1) 0, paused := true,
          prior := (s.bells.map (fun b => b.val)).filter (fun b => b != c.m) } })

/-- Step 1 is over: the earlier commands are answered and pending table writes are done (Table 14.12). -/
def stepOneOver (s : State) (h : Handover) : Bool := h.paused && h.prior.isEmpty && s.loads.isEmpty

/-- After READY: paused operations resume and the taps are taken (R349). -/
def afterReady (s : State) : State :=
  let s := s.takeTaps 4096
  let s := (s.streams.map (fun x => x.sid)).foldl (fun s sid => s.finishClose sid) s
  (List.range 8).foldl (fun s b => s.svcSettle b) s

/-- arc_req_value, 0 while no request stands (R307, R309). -/
def arcPort (s : State) : BitVec 64 := s.arcReq.getD 0

/-- Ends the operation of an FW_ACTIVATE: `oldv` is the firmware version before it. -/
def endActivate (s : State) (origin : Nat) (tag : BitVec 16) (result done oldv : Nat) : State :=
  (s.modLong origin tag (fun l => { l with done := done })).finishLong origin tag result oldv s.fwVersion.toNat

/-- The firmware version that an FW_ACTIVATE found, as its entry at acceptance has it. -/
def activateOld (s : State) (origin : Nat) (tag : BitVec 16) : Nat :=
  match s.longOp? origin tag with
  | some l => l.oldh.toNat
  | none => 0

/-- Ends the hand-over and its operation. -/
def endHandover (s : State) (h : Handover) (result done oldv : Nat) : State :=
  ({ s with handover := none }).endActivate h.origin h.tag result done oldv

/-- FW_ACTIVATEs at the head of those in step 4 whose ARC key_arc no longer falls short of: they end without a request
(R347). -/
def endMet (s : State) : List ArcWait → State
  | [] => s
  | w :: rest =>
    if w.seen.isNone && w.want.toNat ≤ s.keyArc.toNat then
      (({ s with arcWaits := rest }).endActivate w.origin w.tag stOk 4 (s.activateOld w.origin w.tag)).endMet rest
    else s

/-- The counter request of the oldest FW_ACTIVATE in step 4 goes out, where none is out and its ARC exceeds key_arc
(R307, R347). -/
def askArc (s : State) : State :=
  if s.arcReq.isSome then s
  else
    let s := s.endMet s.arcWaits
    match s.arcWaits with
    | w :: _ => if w.seen.isNone then { s with arcReq := some w.want } else s
    | [] => s

/-- Step 4 begins: the hand-over is over, and the counter is to rise to the ARC of its image (R347). -/
def awaitArc (s : State) (h : Handover) (want : Nat) : State :=
  let w : ArcWait := { origin := h.origin, tag := h.tag, want := BitVec.ofNat 64 want, seen := none }
  ({ s with handover := none, arcWaits := s.arcWaits ++ [w] }).askArc

/-- The host has answered the oldest request: the key use is logged and the FW_ACTIVATE ends, once the log has room
for the entry (R347, R391); then the next request goes out. -/
def settleArc (s : State) : State :=
  match s.arcWaits with
  | w :: rest =>
    match w.seen with
    | some keyArc =>
      if s.logRoom false then
        let s := s.glomenChange kKeyUse 1 (bits s.keyArc.toNat 31 0) (bits keyArc.toNat 31 0) (fun s => { s with keyArc := keyArc })
        let s := { s with arcWaits := rest }
        (s.endActivate w.origin w.tag (if keyArc.toNat < w.want.toNat then stSignature else stOk) 4
          (s.activateOld w.origin w.tag)).askArc
      else s
    | none => s
  | [] => s

/-- HANDOVER_READY: the incoming image runs, its ARC having passed the stub's re-check (R8, R347, R349). FW_VERSION,
SLOT and the end of the HANDOVER answers change here, also where READY has still to wait behind a response that
mailbox 0 holds (R8, R332, R350). DESIGN CHOICE, log entry 55. -/
def handoverReady (s : State) (keyArc : BitVec 64) : State :=
  match s.handover with
  | none => s
  | some h =>
    let img := s.stagingImg
    if !s.stepOneOver h || imgArc img < keyArc.toNat then s
    else
      let old := s.fwVersion.toNat
      let rise := h.arcup && imgArc img > keyArc.toNat
      let s := { s with
        slotB := !s.slotB
        staging := .empty
        fwVersion := BitVec.ofNat 32 (imgFwver img)
        keyArc := keyArc
        vaneRestarts := satInc s.vaneRestarts
        handover := some { h with paused := false } }
      let s := s.modLong h.origin h.tag (fun l => { l with done := 3 })
      let s := s.writeReady.afterReady
      if rise then s.awaitArc h (imgArc img) else s.endHandover h stOk 4 old

/-- HANDOVER_TIMEOUT: the Vane restarts in the outgoing slot (R351). -/
def handoverReverts (s : State) (cause : RevertCause) : State :=
  match s.handover with
  | none => s
  | some h =>
    if !s.stepOneOver h then s
    else
      let result := match cause with
        | .missedBound => stBusy
        | .arcRecheck => stSignature
      let s := { s with vaneRestarts := satInc (satInc s.vaneRestarts), handover := some { h with paused := false } }
      let s := s.notice srcMgmt evFirmwareRevert (layoutC h.origin h.tag.toNat opFwActivate result 2 (imgFwver s.stagingImg))
      (s.writeReady.afterReady).endHandover h result 2 s.fwVersion.toNat

/-- ARC_REQ_DONE: the block lowers arc_req_valid (R307), reads the counter again and logs its use (R347). -/
def arcDone (s : State) (keyArc : BitVec 64) : State :=
  match s.arcReq, s.arcWaits with
  | some _, w :: rest => ({ s with arcReq := none, arcWaits := { w with seen := some keyArc } :: rest }).settleArc
  | some _, [] => { s with arcReq := none }
  | none, _ => s

end State

def execFwStage (m : Fin 4) (s : State) : Host.Outcome State Fault Refusal :=
  .next (s.runCmd m.val opFwStage (fun _ => true) (fun c s => s.fwStage c))

def execFwStageDone (img : HostRead) (keyArc : BitVec 64) (s : State) : Host.Outcome State Fault Refusal :=
  .next (if s.mgmtRuns && !s.paused && s.vaneReads then s.fwStaged img keyArc else s)

def execFwActivate (m : Fin 4) (s : State) : Host.Outcome State Fault Refusal :=
  .next (s.runCmd m.val opFwActivate (fun _ => true) (fun c s => s.fwActivate c))

/-- The hand-over state stands in management SRAM, from where the image that takes over reads it (Table 14.12). -/
def execHandoverReady (keyArc : BitVec 64) (s : State) : Host.Outcome State Fault Refusal :=
  .next (if s.mgmtRuns then (if s.handover.any s.stepOneOver then s.sramUse else s).handoverReady keyArc else s)

def execHandoverTimeout (cause : RevertCause) (s : State) : Host.Outcome State Fault Refusal :=
  .next (if s.mgmtRuns then (if s.handover.any s.stepOneOver then s.sramUse else s).handoverReverts cause else s)

def execArcReqDone (keyArc : BitVec 64) (s : State) : Host.Outcome State Fault Refusal :=
  .next (if s.mgmtRuns then s.arcDone keyArc else s)

end Sys2Proof.Machine
end

