-- ==== Sys2Proof/Machine/Boot.lean ====
section
/-!
DEFINITION. Reset and start-up (R324 to R328, Table 13.7), the fuse map and the self-test (R28, R326, R412, R413),
and the declaration (R407 to R409).
-/

namespace Sys2Proof.Machine

namespace State

/-! ### POR_N and the release of domains (R324) -/

/-- What a tile's repair register holds. -/
def repairOf (x : Tile) : Repair where
  bad := x.repBad
  banks := x.repBanks
  rows := x.repRows
  blocked := x.blocked

/-- por_n falls or rises: every domain is in reset; the input pins keep their levels, and the repair registers
and the BLOCKED bits their contents (R411, R412), and the test port is not touched; no free value comes a second
time. -/
def por (s : State) (level : Bool) : State :=
  let n := State.porWith level s.pending (s.tiles.map repairOf) (s.bands.map (fun (b : Band) => b.blocked)) s.mgmtBlocked s.tap s.declaration
  { n with
    fresh := s.fresh
    mclk := s.mclk
    tiles := (n.tiles.zip s.tiles).map (fun (p : Tile × Tile) =>
      { p.1 with pgState := p.2.pgState, power := if p.2.pgState then .ready else .off })
    bands := (n.bands.zip s.bands).map (fun (p : Band × Band) => { p.1 with cur := p.2.cur, cap := p.2.cap }) }

/-- Glomen runs: the bands are released (Table 13.7 step 5). -/
def glomenUp (s : State) : Bool := s.bootPhase == .selfTest || s.bootPhase == .ready || s.bootPhase == .finished

/-- A band whose CCLK has come lets its taps' records cross (Table 13.2). -/
def tapsCross (s : State) (b : Nat) (ticked : Bool) : State :=
  if !ticked && (s.band b).cclkTicks then s.takeTaps 4096 else s

/-- DOMAIN_RESET_RELEASE: the management domain first, and the band domains once Glomen releases them. -/
def release (s : State) (d : Domain) : State :=
  match d with
  | .management => if s.porN && s.mclk then { s with mgmtOut := true } else s
  | .fabric => if s.mgmtRuns then { s with fclkOut := true } else s
  | .timeBase => if s.mgmtRuns then { s with tclkOut := true } else s
  | .bandCompute b => 
    if s.glomenUp then (s.modBand b.val (fun x => { x with cclkOut := true })).tapsCross b.val (s.band b.val).cclkTicks else s
  | .hostMatrix b => if s.glomenUp then s.modBand b.val (fun x => { x with hclkOut := true }) else s

/-! ### The ROM stub (R325) -/

/-- ROM_STUB_START: the stub reads key_hash, or stops with NO_KEY. -/
def stubStart (s : State) (keyHash : BitVec 384) (keyValid : Bool) (bootBase : BitVec 52) : State :=
  if s.mgmtRuns && s.bootPhase == .waiting then
    let s := { s with keyHash := keyHash, keyValid := keyValid, bootBase := bootBase }
    if keyValid then { s with bootPhase := .readA }
    else { s with service := .noService, cause := .noKey, bootPhase := .stopped }
  else s

/-- An image that the stub has read: its length is the one its header states. -/
def stubCheck (img : HostRead) (keyHash : BitVec 384) (keyArc : Nat) : ImageCheck :=
  match img with
  | .failed .. => .format
  | .data bs =>
    let bs := padTake bs 262144
    let len := leAt bs 16 4
    checkImg (bs.take len) len keyHash keyArc

/-- Glomen starts and requests point 2 for every band; each request is logged. -/
def startGlomen (s : State) : State :=
  (List.range 8).foldl (fun s b =>
    let p := (s.band b).requestFor 2
    s.glomenChange kClockReq b 0 p (fun s => s.modBand b (fun x => { x with req := p }))) { s with service := .post, bootPhase := .selfTest }

/-- The image read at `readA` or `readB` has been checked: each check is a key use of the stub (ORIGIN 5). A host read
that failed counts as a check that failed, and has its KEY_USE entry too (DESIGN CHOICE, log entry 145). -/
def imageChecked (s : State) (img : HostRead) (keyArc : BitVec 64) : State :=
  let second := s.bootPhase == .readB
  let check := stubCheck img s.keyHash keyArc.toNat
  let s := s.vaneRead (s.bootBase.toNat + (if second then 0x40000 else 0)) 262144 img
  let arc := bits keyArc.toNat 31 0
  let s := ({ s with keyArc := keyArc }).logPut
    { origin := 5, kind := kKeyUse, result := 0, tag := 0xFFFF, object := 0, oldh := arc, newh := arc }
  match img, check with
  | .data bs, .ok =>
    let bs := (padTake bs 262144).take (leAt bs 16 4)
    let s := if second then { s with slotB := true, imgB := bs } else { s with slotB := false, imgA := bs }
    ({ s with fwVersion := BitVec.ofNat 32 (imgFwver bs) }).startGlomen
  | _, _ =>
    if second then { s with service := .noService, cause := .auth, bootPhase := .stopped }
    else { s with bootPhase := .readB }

/-! ### Self-test and the map (R28, R326) -/

/-- Number of bits set. -/
def countBits (n : Nat) (v : BitVec n) : Nat := ((List.range n).filter (fun i => v.getLsbD i)).length

/-- A tile that its fuses mark unusable; a fifth bank marked off marks the tile. -/
def fuseBad (x : Tile) : Bool := x.effBad || countBits 16 x.effBanks > 4

/-- Banks of a tile that are off after self-test. -/
def postBanks (x : Tile) (r : PostReport) (t : Nat) : BitVec 16 :=
  x.effBanks ||| (r.bankFails.filter (fun p => p.1.val == t)).foldl (fun a p => a ||| p.2) 0

/-- A tile that fails self-test: so does one without power, or one that is still in its reset or its entry check
(DEDUCED, log entry 92). -/
def testFails (s : State) (r : PostReport) (t : Nat) : Bool :=
  r.tileFails.getLsbD t || (s.tile t).power != .ready || countBits 16 (postBanks (s.tile t) r t) > 4

/-- The active tiles and the spare that a band starts with. -/
def formBand (s : State) (r : PostReport) (b : Nat) : List Nat × Option Nat :=
  let ts := bandTiles b
  let bad := ts.filter (fun t => fuseBad (s.tile t))
  let sp := 11 * b + 10
  match bad with
  | [] =>
    let act := ts.take 10
    let fails := act.filter (s.testFails r)
    let good := act.filter (fun t => !s.testFails r t)
    if s.testFails r sp then (good, none)
    else if fails.isEmpty then (good, some sp)
    else (good ++ [sp], none)
  | [x] => (ts.filter (fun t => t != x && !s.testFails r t), none)
  | _ => ([], none)

/-- Forms one band's part of the map: a band whose clocks the self-test has found running is not one that has lost them. -/
def mapBand (s : State) (r : PostReport) (b : Nat) : State :=
  let x := s.band b
  let up := r.clocked.getLsbD b && x.cclkOut && x.hclkOut
  let fab := r.fabUp.getLsbD b
  let form := if up && fab then s.formBand r b else ([], none)
  let s := (bandTiles b).foldl (fun s t =>
    let y := s.tile t
    let failed := fuseBad y || (up && s.testFails r t)
    let s := s.modTile t (fun y => { y with banksOff := postBanks y r t, failed := failed, lost := false, active := form.1.contains t })
    if form.1.contains t then s else s.gate t) s
  ((s.modBand b (fun x => { x with
    clocked := up, fabUp := fab, away := x.away && !up, present := !form.1.isEmpty })).setSpare b form.2).tapsCross b x.cclkTicks

/-! ### The declaration (R407, R409) -/

/-- The record's CRC and ranges. -/
def declOk (d : List Byte) : Bool :=
  let at1 := leAt d
  d.length == 32 && at1 28 4 == crc32c (d.take 28) &&
    (List.range 8).all (fun b => 1 ≤ at1 b 1 && at1 b 1 ≤ 64) &&
    (List.range 8).all (fun b => bits (at1 8 4) (4 * b + 3) (4 * b) ≤ 8) &&
    1 ≤ at1 12 2 && 100 ≤ at1 14 2 && at1 14 2 ≤ 2000 && at1 16 2 < 2 ^ 11 && at1 18 10 == 0

/-- Installs one policy item with its entry. -/
def installPolicy (s : State) (item scope v : Nat) : State :=
  let old := s.policyValue item scope
  s.glomenChange kPolicy (item + scope * 2 ^ 16) old v (fun s => s.putPolicy item scope v)

/-- Installs one floor with its entry. -/
def installFloor (s : State) (b p : Nat) : State :=
  let old := (s.band b).floor
  (s.glomenChange kFloor b old p (fun s => s.putFloor b p)).followFloor b

/-- The declared figures, or one entry that says they were refused. -/
def installDecl (s : State) (d : List Byte) : State :=
  if declOk d then
    let s := (List.range 8).foldl (fun s b => s.installPolicy 0x07 b (leAt d b 1)) s
    let s := (s.installPolicy 0x05 0 (leAt d 12 2)).installPolicy 0x06 0 (leAt d 14 2)
    (List.range 8).foldl (fun s b => s.installFloor b (bits (leAt d 8 4) (4 * b + 3) (4 * b))) s
  else s.logGlomen kPolicy stFormat 0 0 0

/-- Step 8 of Table 13.7: the declaration is installed in the cycle that writes READY (R409), and service begins. -/
def startService (s : State) : State :=
  let s := s.installDecl s.declaration
  let s := ({ s with readyDone := true, bootPhase := .finished }).refreshService
  let s := s.writeReady
  (List.range 8).foldl (fun s b => s.pointSquall b) s

/-- Step 8 waits, with READY, behind a response in mailbox 0 that the host has not acknowledged (R332; DEDUCED, log
entry 55). -/
def settleReady (s : State) : State := if s.bootPhase == .ready && !(s.mailbox 0).valid then s.startService else s

/-- POWER_ON_SELF_TEST_DONE: the map is formed, and READY is written in its turn. -/
def selfTested (s : State) (r : PostReport) : State :=
  if s.mgmtRuns && s.bootPhase == .selfTest then
    let s := s.booked (fun s => (List.range 8).foldl (fun s b => s.mapBand r b) s)
    ({ s with bootPhase := .ready }).settleReady
  else s

/-- OUT_ACK with bit 0 set, and the READY of start-up where it waited for mailbox 0. -/
def outAcked (s : State) (m : Nat) : State := if m == 0 then (s.acknowledge 0).settleReady else s.acknowledge m

end State

def execOutAck (m : Fin 4) (v : Word) (s : State) : Host.Outcome State Fault Refusal :=
  .next (s.ctlWrite (fun s => if v.getLsbD 0 then s.outAcked m.val else s))

def execPorN (level : Bool) (s : State) : Host.Outcome State Fault Refusal :=
  .next (if level == s.porN then s else s.por level)

def execDomainResetRelease (d : Domain) (s : State) : Host.Outcome State Fault Refusal := .next (s.release d)

def execRomStubStart (keyHash : BitVec 384) (keyValid : Bool) (bootBase : BitVec 52) (s : State) :
    Host.Outcome State Fault Refusal :=
  .next (s.stubStart keyHash keyValid bootBase)

def execBootImageCheckDone (img : HostRead) (keyArc : BitVec 64) (s : State) : Host.Outcome State Fault Refusal :=
  .next (if (s.bootPhase == .readA || s.bootPhase == .readB) && s.mgmtRuns && s.vaneReads then s.imageChecked img keyArc else s)

def execPowerOnSelfTestDone (r : PostReport) (s : State) : Host.Outcome State Fault Refusal := .next (s.selfTested r)

end Sys2Proof.Machine
end

