-- ==== Sys2Proof/Machine/Clocks.lean ====
section
/-!
DEFINITION. TIME, the clock monitor, operating points and the clock choice (R280, R306, R312 to R319), and the
waits that a latency excludes (R267).
-/

namespace Sys2Proof.Machine

/-! ### Excluded waits (Table 11.4) -/

/-- How time that passes now counts in a latency: excluded; spent while the stream is suspended; excluded if the
reads of these waits, which are out, find their parts still unable to proceed; or, with none of these, counted. -/
structure Wait where
  excluded  : Bool
  suspended : Bool
  open_     : List (Nat × Nat)
  deriving DecidableEq, Repr

def Wait.none : Wait := { excluded := false, suspended := false, open_ := [] }

/-- Two waits at once. -/
def Wait.or (a b : Wait) : Wait where
  excluded := a.excluded || b.excluded
  suspended := a.suspended
  open_ := a.open_ ++ b.open_

/-- The wait of a held head for a stream whose rows wait behind it, which is suspended itself or not: where the wait that
holds the head is its stream's suspension, that of an unsuspended stream is excluded as a Suspension too (R293). -/
def Wait.behind (w : Wait) (own : Bool) : Wait := { w with excluded := w.excluded || (w.suspended && !own), suspended := false }

/-- A wait whose reads are due, or out. -/
def waitOf (key : Nat × Nat) (waiting : Bool) (asked : Nat) : Wait :=
  if !waiting then Wait.none
  else if asked == 0 then { Wait.none with excluded := true }
  else { Wait.none with open_ := [key] }

/-- `n` ticks pass for a row pass. -/
def RowPass.elapse (r : RowPass) (w : Wait) (n : Nat) : RowPass :=
  if r.tStart.isNone then r
  else if w.excluded then { r with excluded := r.excluded + n }
  else if !w.open_.isEmpty then
    { r with tentative := r.tentative ++ [{ waits := w.open_, ticks := n, suspended := w.suspended }] }
  else if w.suspended then { r with suspendedFor := r.suspendedFor + n }
  else r

/-- The passes whose input beats the host still sends for a row pass: pass 1 alone where the block replays the row. -/
def RowPass.hostPasses (rp : RowPass) : List Nat :=
  if rp.desc.held then [1] else (List.range rp.pass).map (· + 1)

/-- A row pass waits for the merge of a STAT stage: its own STAT_MERGE completes it, or its next stage takes the final
record (R31, R266). -/
def RowPass.needsMerge (rp : RowPass) (step : Nat) : Bool :=
  let k := rp.next
  let s := rp.chain.stage k
  (rp.chain.mergeOf step).any (fun m => m.2.pass == rp.pass) ||
    (k < rp.chain.passEnd rp.pass && ((s.op == opApply && s.astat == step) || (s.needsRef && s.ref == step)))

namespace State

/-- All input beats of pass `q` of a row have arrived in its tiles. -/
def arrived (s : State) (sid : Nat) (r : RowCtx) (q len : Nat) : Bool :=
  let open1 := s.rowPasses r sid q
  let ended := r.ended.filter (fun e => e.pass == q)
  let here (t : Nat) : Bool := ended.any (fun e => e.tile == t) || open1.any (fun p => p.1 == t && !p.2.opened)
  r.tiles.all here || (open1.all (fun p => !p.2.opened) &&
    (ended.map (fun e => e.count)).sum + (open1.map (fun p => p.2.taken)).sum ≥ len)

/-- The waits of a row pass itself: input not arrived, a merge, a list, credit, suspension. -/
def ownWait (s : State) (t : Nat) (rp : RowPass) : Wait :=
  match s.stream? rp.sid with
  | none => Wait.none
  | some x =>
    let inputs := match x.row? rp.row with
      | some r => rp.hostPasses.any (fun q => !s.arrived rp.sid r q (rp.lenOf q))
      | none => false
    let credit := rp.released && rp.egress > 0 && (s.tile t).opdCredits == 0 && !(s.tile t).blocks.any (fun b => b.has rp)
    let merges := ((s.band (sidBand rp.sid)).merges.filter (fun m =>
      m.sid == rp.sid && m.row == rp.row && rp.needsMerge m.step)).map (fun m => waitOf (m.row, m.step) m.waiting m.asked)
    let lists := ((s.tile t).blocks.filter (fun b => b.gather && b.has rp)).map (fun b => waitOf b.waitKey b.waiting b.asked)
    (merges ++ lists).foldl Wait.or { excluded := inputs || credit, suspended := x.suspended, open_ := [] }

/-- The wait of an earlier row for which pass `p` of a later one stands behind it: that of its row pass, in a HELD row
of the one that it has reached; with no row pass yet, for input beats that have not come, or that wait in the queue
behind a head which its stream cannot take, whose wait is `head` (R293). -/
def rowWait (s : State) (head : Wait) (t : Nat) (x : Stream) (p : Nat) (r : RowCtx) : Wait :=
  let here := match (s.tile t).pass? x.sid r.row p with
    | some q => some q
    | none => if x.desc.held then (s.tile t).rows.find? (fun q => q.sid == x.sid && q.row == r.row) else none
  let q := if x.desc.held then 1 else p
  let come := (s.tile t).queue.any (fun e => e.sid == x.sid && e.row == r.row && e.pass == q && e.last)
  match here with
  | some rp => s.ownWait t rp
  | none => if come then head.behind x.suspended else { Wait.none with excluded := true }

/-- A row pass waits for its stream's egress in row order: a plain row that may not leave, or a row of a block or
window that is still in the tile, whose rows leave together (R243, R246, R249). -/
def egressWait (s : State) (head : Wait) (t : Nat) (x : Stream) (rp : RowPass) : Wait :=
  let n := max (rp.chain.blockRows rp.pass) 1
  let held := rp.finished && (!rp.released || (s.tile t).blocks.any (fun b => b.has rp))
  let bound := if rp.chain.egressKind rp.pass == 0 then rp.row else (rp.row / n + 1) * n
  if held then (((s.ahead x t rp.pass bound).filter (fun r => r.row != rp.row)).map (s.rowWait head t x rp.pass)).foldl Wait.or Wait.none
  else Wait.none

/-- A row pass whose tile record level 2 does not take, for want of a place in the merge logic, waits for the merges of its
stream's earlier rows (R181). -/
def placeWait (s : State) (x : Stream) (rp : RowPass) : Wait :=
  let b := sidBand x.sid
  match x.row? rp.row with
  | none => Wait.none
  | some r =>
    if (rp.chain.recordStages rp.pass).any (fun k =>
        rp.finished && rp.writes == 0 && !rp.combined.contains k && !s.levelRoom x r k) then
      (((s.band b).merges.filter (fun m => m.sid == x.sid && m.row < rp.row)).map
        (fun m => waitOf (m.row, m.step) m.waiting m.asked)).foldl Wait.or Wait.none
    else Wait.none

/-- The waits of a row pass, with those behind earlier rows of the stream that are themselves in such a wait (R243,
Table 11.4); `head` is the wait that holds the head of the tile's queue. -/
def passWaits (s : State) (head : Wait) (t : Nat) (rp : RowPass) : Wait :=
  let own := s.ownWait t rp
  match s.stream? rp.sid with
  | none => own
  | some x => (own.or (s.egressWait head t x rp)).or (s.placeWait x rp)

/-- The row passes of a tile for which the first beat of a row waits: those of its stream, where they have the units of its
share or its very place, and where the statistic unit has too few accumulators, those of every stream that hold some
(R181, R416). -/
def inTheWay (s : State) (t : Nat) (x : Stream) (q : QEntry) : List RowPass :=
  let y := s.tile t
  match s.chainFor x q.row with
  | none => []
  | some c =>
    let staging := (y.pass? q.sid q.row q.pass).isSome || !y.stagingRoom q.sid q.row c x.desc q.pass
    y.rows.filter (fun r => staging && r.sid == q.sid || !y.accRoom c q.pass && r.accsHeld != 0)

/-- The wait of the row passes for which a held head of tile `t`'s queue waits, with the suspension of the head's stream
(R293). What an earlier row of that stream waits for behind the head itself is among the waits of these row passes. -/
def stagingWait (s : State) (t : Nat) : Wait :=
  match (s.tile t).queue.head?.bind (fun q => (s.stream? q.sid).map (fun x => (q, x))) with
  | some (q, x) =>
    if (s.headHeld t).isNone then Wait.none
    else ((s.inTheWay t x q).map (fun r => (s.passWaits Wait.none t r).behind x.suspended)).foldl Wait.or
      { Wait.none with suspended := x.suspended }
  | none => Wait.none

/-- The spare to which the head of a tile's queue is forwarded (R358). -/
def forwardsTo (s : State) (t : Nat) : Option Nat :=
  ((s.tile t).queue.head?.bind (fun q => (s.stream? q.sid).filter (fun x => !x.runsIn t q.row))).bind
    (fun x => x.migration.map (fun g => g.new))

/-- The wait that holds the head of a tile's queue, with every row that waits behind it (R293): that of the row passes
which have its staging or its accumulators, or for a forwarded head, which the spare's full queue holds, that of the
spare's own head. -/
def headWait (s : State) (t : Nat) : Wait :=
  if (s.headHeld t).isNone then Wait.none else s.stagingWait ((s.forwardsTo t).getD t)

/-- How time that passes now counts for a row pass. -/
def waitKind (s : State) (t : Nat) (rp : RowPass) : Wait := s.passWaits (s.headWait t) t rp

/-- `n` ticks pass for every row pass whose latency runs. -/
def passTime (s : State) (n : Nat) : State :=
  { s with tiles := s.tiles.mapIdx (fun t (x : Tile) => { x with rows := x.rows.map (fun (r : RowPass) =>
      r.elapse (s.waitKind t r) n) }) }

/-- TIME was lost: no latency is measured over the gap (R317). -/
def skipTime (s : State) (n : Nat) : State :=
  { s with tiles := s.tiles.map (fun (x : Tile) => { x with rows := x.rows.map (fun (r : RowPass) =>
      r.elapse { Wait.none with excluded := true } n) }) }

/-! ### TIME (R306, R317) -/

/-- TIME_SAMPLE: the block follows the value; one that is not the value before plus 1 is a TIME_STEP finding. The
time by which the value rises counts in the latencies that run, but not after a loss of TIME. -/
def takeTime (s : State) (v : BitVec 64) : State :=
  let step := s.timeSeen && v != s.time + 1
  let n := if s.timeSeen then v.toNat - s.time.toNat else 0
  let s := if s.timeLost then s.skipTime n else s.passTime n
  let s := { s with time := v, timeSeen := true, timeLost := false }
  if step then s.report srcMgmt evTimeStep (layoutP 0 4 0 0 (v.toNat % 2 ^ 56) 0 0) else s

/-- TCLK_TIMEOUT: TIME is lost until the next edge. -/
def timeOut (s : State) : State :=
  if s.timeLost then s
  else ({ s with timeLost := true }).report srcMgmt evTimeLost (layoutU 0xFF 8 0 0xFFFF 0 0 0)

/-! ### The clock monitor (Table 13.5) -/

/-- CCLK above 1,313 MHz: a finding for each window that shows it. -/
def clockHigh (s : State) (b mhz : Nat) : State :=
  if mhz > 1313 then s.report srcMgmt evClockHigh (layoutU 0xFF 8 b 0xFFFF 0 0 mhz) else s

/-- A clock of the band is absent in a second window: the band leaves the map where it is in it, and stands still until
the clock has returned (R328). -/
def loseBand (s : State) (b : Nat) : State :=
  let s := ((s.opdCross b).fabCross b).changeMap b (fun s => s.modBand b (fun x => { x with clocked := false, away := true, goodWins := 0 }))
  (s.streamsIn b).foldl (fun s x => s.suspend x.sid (fun c => { c with noClock := true })) s

/-- 200 windows in a row have shown the band's clock again: it re-enters the map, and its rows resume (R328). -/
def regainBand (s : State) (b : Nat) : State :=
  let s := s.changeMap b (fun s => s.modBand b (fun x => { x with clocked := true, away := false, goodWins := 0, zeroWins := 0 }))
  (s.unsuspend ((s.streamsIn b).map (fun x => x.sid)) (fun c => { c with noClock := false })).wakeBand b

/-- One band's window. -/
def bandWindow (s : State) (b cclk hclk : Nat) : State :=
  let ticked := (s.band b).cclkTicks
  let zero := cclk == 0 || hclk == 0
  let good := cclk ≥ pointMhz 0 && hclk > 0
  let s := s.modBand b (fun x => { x with
    cclkMhz := cclk, hclkMhz := hclk
    zeroWins := if zero then min (x.zeroWins + 1) 2 else 0
    goodWins := if x.away && good then x.goodWins + 1 else 0 })
  let s := s.clockHigh b cclk
  let s := s.windowSquall b cclk
  let s := if (s.band b).clocked && (s.band b).zeroWins ≥ 2 then s.loseBand b
    else if (s.band b).away && (s.band b).goodWins ≥ 200 then s.regainBand b
    else s
  s.tapsCross b ticked

def monitorWindow (s : State) (cclk hclk : Vector (BitVec 16) 8) : State :=
  (List.range 8).foldl (fun s b =>
    s.bandWindow b ((cclk.toList.getD b 0).toNat) ((hclk.toList.getD b 0).toNat)) s

/-! ### Points, cap and choice (R280, R314, R315) -/

def applyPoint (s : State) (b p : Nat) : State := (s.modBand b (fun x => { x with cur := p })).pointSquall b

/-- A change of the cap reaches the request: the cap itself under CLKMODE 1, else the request within it (R314). Before
Glomen runs nothing has been requested, so clk_req_pt stays at its reset value 0 whatever the cap, and the log has no
entry for it (DESIGN CHOICE, log entry 144). -/
def changeCap (s : State) (b p : Nat) : State :=
  let s := s.modBand b (fun x => { x with cap := p })
  let x := s.band b
  if s.glomenUp then s.setRequest b (x.requestFor (if x.clkMode == 1 then p else x.req)) else s

/-- The point that a window's occupancy `u` asks for. -/
def Band.choice (x : Band) (u : Nat) : Nat :=
  if x.clkMode == 1 then x.cap
  else if u ≥ x.uhi then min (x.cur + 1) 8
  else if 0 < x.cur && u * pointMhz x.cur ≤ x.ulo * pointMhz (x.cur - 1) then x.cur - 1
  else x.req

/-- The occupancy of a tile of a band in a 100 µs window: that of a tile without power is 0. -/
def windowOf (s : State) (b : Nat) (us : List Nat) (i : Nat) : Nat :=
  if (s.tile (11 * b + i)).power == .ready then us.getD i 0 else 0

/-- The choice of a point, by the largest occupancy in the window: none during a hand-over, or for a band that is not in
the service map. -/
def choosePoint (s : State) (b u : Nat) : State :=
  let x := s.band b
  if !s.paused && x.present then s.setRequest b (x.requestFor (Band.choice x u)) else s

/-- The end of a 100 µs window in a band: each tile's gauge shows its occupancy (Table 17.7), and the choice takes the
largest. -/
def clockChoice (s : State) (b : Nat) (us : List Nat) : State :=
  let u := maxOf ((List.range 11).map (s.windowOf b us))
  let s := (List.range 11).foldl (fun s i =>
    if (s.tile (11 * b + i)).power == .ready then s.modTile (11 * b + i) (fun x => { x with occupancy := us.getD i 0 }) else s) s
  s.choosePoint b u

end State

def execTimeSample (v : BitVec 64) (s : State) : Host.Outcome State Fault Refusal :=
  .next (if s.tclkOut then s.takeTime v else s)

def execTclkTimeout (s : State) : Host.Outcome State Fault Refusal := .next (if s.mgmtRuns then s.timeOut else s)

def execClockMonitorWindow (cclk hclk : Vector (BitVec 16) 8) (s : State) : Host.Outcome State Fault Refusal :=
  .next (if s.mgmtRuns && s.tclkOut && !s.timeLost then s.monitorWindow cclk hclk else s)

def execClockPointApplied (b : Fin 8) (p : BitVec 4) (s : State) : Host.Outcome State Fault Refusal :=
  .next (if s.mgmtRuns && p.toNat ≤ 8 then s.applyPoint b.val p.toNat else s)

def execThrottleCapChange (b : Fin 8) (p : BitVec 4) (s : State) : Host.Outcome State Fault Refusal :=
  .next (if s.mgmtRuns && p.toNat ≤ 8 then s.changeCap b.val p.toNat else s)

def execClockChoiceWindow (b : Fin 8) (u : Vector (Fin 1001) 11) (s : State) : Host.Outcome State Fault Refusal :=
  .next (if s.mgmtRuns then s.clockChoice b.val (u.toList.map (fun x => x.val)) else s)

/-- THR_NOTE: a HOST_NOTICE notice, and nothing else (R316, R373). -/
def execThrNote (kind : BitVec 4) (arg : BitVec 16) (s : State) : Host.Outcome State Fault Refusal :=
  .next (if s.mgmtRuns then s.notice srcMgmt evHostNotice (pack [(0, kind.toNat), (2, arg.toNat)]) else s)

end Sys2Proof.Machine
end

