-- ==== Sys2Proof/Machine/Registers.lean ====
section
/-!
DEFINITION. The register window (R12 to R15, R392 to R404): writes by access code, the rings, the lock, the trap
controls, telemetry, the doorbells, and what each register reads as.
-/

namespace Sys2Proof.Machine

/-- A 32-bit word from a number. -/
def w32 (n : Nat) : Word := BitVec.ofNat 32 n

/-! ### The rings (R397 to R400) -/

namespace State

def ringRegs (s : State) (r : Ring) : RingRegs :=
  match r with
  | .event => s.evq
  | .logMirror => s.logm

def setRing (s : State) (r : Ring) (x : RingRegs) : State :=
  match r with
  | .event => { s with evq := x }
  | .logMirror => { s with logm := x }

/-- Offset of a ring's registers. -/
def ringBase (r : Ring) : Nat :=
  match r with
  | .event => 0x80
  | .logMirror => 0xA0

/-- The CONFIG entry of a register that a write changes (R400). -/
def logConfig (s : State) (off old new : Nat) : State := if old == new then s else s.logHw kConfig off old new

/-- A write to BASE_LO or BASE_HI changes only the register. -/
def writeBase (s : State) (r : Ring) (hi : Bool) (v : Word) : State :=
  if s.cfgLock then s
  else
    let x := s.ringRegs r
    let new := if hi then v &&& 0x000FFFFF else v &&& 0xFFFFF000
    let old := if hi then x.baseHi else x.baseLo
    (s.setRing r (if hi then { x with baseHi := new } else { x with baseLo := new })).logConfig
      (ringBase r + (if hi then 4 else 0)) old.toNat new.toNat

/-- 0, or a power of two from 64 to 2^20. -/
def sizeOk (n : Nat) : Bool := n == 0 || (isPow2 n && 64 ≤ n && n ≤ 2 ^ 20)

/-- A record write to the old ring completes there. -/
def oldOwner (r : Ring) (q : FabReq) : FabReq :=
  match r, q.owner with
  | .event, .event _ => { q with owner := .event true }
  | .logMirror, .logMirror seq _ => { q with owner := .logMirror seq true }
  | _, _ => q

def retireWrites (s : State) (r : Ring) : State :=
  { s with bands := s.bands.map (fun (b : Band) => { b with
      fabQueue := b.fabQueue.map (oldOwner r)
      fabOut := b.fabOut.map (fun (o : Nat × FabReq) => (o.1, oldOwner r o.2)) }) }

/-- A record write to a ring is on its way. -/
def ringBusy (s : State) (r : Ring) : Bool :=
  match r with
  | .event => s.arb.inFlight
  | .logMirror => s.log.busy || s.oldMirrorWrite

/-- A write to SIZE commits the ring, or is ignored with SIZEERR (R398): SIZE, HEAD and TAIL at once, and the base
too unless a record write to the old ring is on its way, which then completes first. The value judged is the whole word,
its reserved bits among it (DESIGN CHOICE, log entry 135). -/
def writeSize (s : State) (r : Ring) (v : Word) : State :=
  let x := s.ringRegs r
  if s.cfgLock then s
  else if !sizeOk v.toNat then s.setRing r { x with sizeErr := true }
  else
    let y := { x with size := v.toNat, head := 0, tail := 0 }
    let s := (s.setRing r (if s.ringBusy r then y else y.commit)).retireWrites r
    let s := match r with
      | .event => State.markFull { s with arb := { s.arb with mark := none } }
      | .logMirror => { s with log := { s.log with
          entries := s.log.entries.map (fun (e : LogEntry × Mirror) => (e.1, Mirror.unsent)) } }
    s.logConfig (ringBase r + 8) x.size v.toNat

/-- The way from HEAD to an index, in a ring. -/
def RingRegs.ahead (x : RingRegs) (i : Nat) : Nat := (i + x.size - x.head) % max x.size 1

/-- HEAD may move to `v`: on the forward path to TAIL (R399). -/
def RingRegs.headOk (x : RingRegs) (v : Nat) : Bool :=
  if x.size == 0 then v == x.head else v < x.size && RingRegs.ahead x v ≤ RingRegs.ahead x x.tail

/-- A HEAD write (R399); in the log mirror it frees the entries that it passes (R389). The reserved bits of the word are
dropped before the check (DESIGN CHOICE, log entry 135). -/
def writeHead (s : State) (r : Ring) (v : Word) : State :=
  let x := s.ringRegs r
  let v := bits v.toNat 19 0
  if !RingRegs.headOk x v then s.setRing r { x with headErr := true }
  else
    let n := RingRegs.ahead x v
    let s := s.setRing r { x with head := v }
    match r with
    | .event => s
    | .logMirror => { s with log := { s.log with entries := freeEntries (fun i => RingRegs.ahead x i < n) s.log.entries } }

/-! ### The lock and the trap (R377 to R379, R401) -/

def lock (s : State) (v : Word) : State := if v.getLsbD 0 then { s with cfgLock := true } else s

/-- REARM clears the record, its count and VALID. -/
def rearm (s : State) : State := { s with trap := { s.trap with record := 0, count := 0, valid := false } }

/-- RESUME restarts the halted bands where they stopped; their promises return by R278. -/
def resumeHalt (s : State) : State :=
  let hit := (List.range 8).filter (fun b => (s.band b).halted)
  let s := hit.foldl (fun s b => s.modBand b (fun x => { x with halted := false })) s
  let s := { s with trap := { s.trap with halted := false } }
  let s := hit.foldl (fun s b => s.unsuspend ((s.streamsIn b).map (fun x => x.sid)) (fun c => { c with halt := false })) s
  hit.foldl (fun s b => s.wakeBand b) s

/-- A write to NAN_TRAP_CTL. -/
def trapCtl (s : State) (v : Word) : State :=
  let s := { s with trap := { s.trap with arm := v.getLsbD 0, halt := v.getLsbD 1, trig := v.getLsbD 2 } }
  let s := if v.getLsbD 8 then s.rearm else s
  if v.getLsbD 9 then s.resumeHalt else s

/-! ### Telemetry (R403, R404) -/

/-- Source numbers above 96 read as 127. -/
def telSource (v : Nat) : Nat := if v % 2 ^ 7 ≤ 96 then v % 2 ^ 7 else 127

/-- Counters of a tile; a gated tile's gauges read 0. -/
def tileCounters (s : State) (t : Nat) (junction : Nat) : List Nat :=
  let x := s.tile t
  let gated := x.power == .off
  let kind := s.kindCount t
  (List.range 4).map (fun i => x.corrected.getD i 0) ++ (List.range 6).map (fun i => x.xevCnt.getD i 0) ++
    [x.sweeps, kind evDrizzleFault, kind evPoisonEcc, kind evPoisonParity, kind evPoisonResidue, kind evSaturation,
     kind evHoldConflict, kind evAccOverrun, kind evAccStream, kind evAccSeq, kind evAccTag, kind evOpdCredit,
     if gated then 0 else x.occupancy, if gated then 0 else junction]

def bandCounters (s : State) (b : Nat) : List Nat :=
  let x := s.band b
  let kind := s.kindCount (srcBand b)
  [x.cclkMhz, x.hclkMhz, x.cur, x.squalls, kind evMergeMismatch, kind evMergeWait, kind evGatherWait,
   kind evGatherList, kind evFabCredit, kind evFabTag, kind evFabError, x.fabIssued,
   min (x.fabBytes / 128) 0xFFFFFFFF, x.merges.length, kind evLateRow]

def mgmtCounters (s : State) : List Nat :=
  let kind := s.kindCount srcMgmt
  [s.mgmtCorrected, s.arb.written, s.arb.notRecorded, kind evLogDropped, s.logFree, kind evTimeStep, kind evTimeLost,
   kind evBooks, s.commandsTaken, s.refusals, s.vaneRestarts]

def counters (s : State) (src junction : Nat) : List Nat :=
  if src < 88 then s.tileCounters src junction
  else if src < 96 then s.bandCounters (src - 88)
  else if src == 96 then s.mgmtCounters
  else []

/-- Indices that hold gauges. -/
def gauges (src : Nat) : List Nat := if src < 88 then [22, 23] else if src < 96 then [0, 1, 2, 13] else [4]

/-- TEL_SNAP: the snapshot of the selected source starts; a write during BUSY is ignored. -/
def snap (s : State) (v : Word) : State :=
  if v.getLsbD 0 && !s.tel.busy then { s with tel := { s.tel with busy := true, next := s.tel.sel } } else s

/-- The snapshot completes. -/
def snapDone (s : State) (junction : Word) : State :=
  if !s.tel.busy then s
  else
    let src := s.tel.next
    let cs := s.counters src junction.toNat
    let sat := ((List.range 32).map (fun k =>
      if satBit (cs.getD k 0) && !(gauges src).contains k then 2 ^ k else 0)).sum
    { s with tel := { s.tel with
        busy := false, src := src, sat := w32 sat, time := s.time,
        cnt := Vector.ofFn (fun i => w32 (cs.getD i.val 0)) } }

/-! ### TIME (R395) -/

/-! ### Mailbox registers (Table 14.1) -/

/-- The doorbell: taken in IDLE, else LOST. -/
def ring (s : State) (m : Fin 4) (v : Word) : State :=
  let x := s.mailbox m.val
  if x.state == .idle then
    { s.setMailbox m.val { x with state := .queued, len := BitVec.ofNat 4 v.toNat } with bells := s.bells ++ [m] }
  else s.setMailbox m.val { x with lost := true }

/-- A write at byte `off` of a mailbox. -/
def mailboxWrite (s : State) (m : Fin 4) (off : Nat) (v : Word) : State :=
  let x := s.mailbox m.val
  if off < 0x40 then
    if x.state == .idle then s.setMailbox m.val { x with inW := x.inW.setIfInBounds (off / 4) v } else s
  else if off == 0x40 then s.ring m v
  else if off == 0x44 then (if v.getLsbD 8 then s.setMailbox m.val { x with lost := false } else s)
  else if off == 0xC4 then (if v.getLsbD 0 then s.outAcked m.val else s)
  else s

/-! ### Writes by offset -/

/-- INT_STATUS and INT_ENABLE bits of Table 17.3. -/
def intMask : Word := 0x00003F0F

/-- Clears HEADERR and SIZEERR by 1. -/
def clearRing (x : RingRegs) (v : Word) : RingRegs :=
  { x with headErr := x.headErr && !v.getLsbD 30, sizeErr := x.sizeErr && !v.getLsbD 31 }

/-- A write to the register at byte `off`, by its access code; every other write is ignored (R15). -/
def write (s : State) (off : Nat) (v : Word) : State :=
  if 0x200 ≤ off && off < 0x600 then s.mailboxWrite (Fin.ofNat 4 ((off - 0x200) / 0x100)) (off % 0x100) v
  else
    match off with
    | 0x40 => { s with intStatus := s.intStatus &&& ~~~v }
    | 0x44 => { s with intEnable := v &&& intMask }
    | 0x48 => { s with fatal := s.fatal &&& ~~~v }
    | 0x80 => s.writeBase .event false v
    | 0x84 => s.writeBase .event true v
    | 0x88 => s.writeSize .event v
    | 0x8C => s.writeHead .event v
    | 0x90 => { s with evq := clearRing s.evq v }
    | 0xA0 => s.writeBase .logMirror false v
    | 0xA4 => s.writeBase .logMirror true v
    | 0xA8 => s.writeSize .logMirror v
    | 0xAC => s.writeHead .logMirror v
    | 0xB0 => { s with logm := clearRing s.logm v }
    | 0xC0 => s.lock v
    | 0x820 => s.trapCtl v
    | 0x900 => { s with tel := { s.tel with sel := telSource v.toNat } }
    | 0x904 => s.snap v
    | _ => s

/-! ### Reads -/

/-- The tail register of a ring. -/
def tailWord (x : RingRegs) : Nat := x.tail + b2n x.headErr * 2 ^ 30 + b2n x.sizeErr * 2 ^ 31

def MbxState.code : MbxState → Nat
  | .idle => 0 | .queued => 1 | .working => 2

/-- A read at byte `off` of a mailbox. -/
def mailboxRead (s : State) (m off : Nat) : Nat :=
  let x := s.mailbox m
  if off < 0x40 then (x.inW.toList.getD (off / 4) 0).toNat
  else if off == 0x44 then MbxState.code x.state + b2n x.lost * 2 ^ 8
  else if 0x80 ≤ off && off < 0xC0 then (x.outW.toList.getD ((off - 0x80) / 4) 0).toNat
  else if off == 0xC0 then x.outLen.toNat + b2n x.valid * 2 ^ 31
  else 0

/-- What the register at byte `off` reads as (Table 17.1); TIME_HI after a TIME_LO read is its shadow. -/
def read (s : State) (off : Nat) : Nat :=
  if 0x200 ≤ off && off < 0x600 then s.mailboxRead ((off - 0x200) / 0x100) (off % 0x100)
  else if 0x140 ≤ off && off < 0x160 then s.mapWord ((off - 0x140) / 4)
  else if 0x800 ≤ off && off < 0x818 then leAt (toLe 24 s.trap.record.toNat) (off - 0x800) 4
  else if 0x940 ≤ off && off < 0x9C0 then (s.tel.cnt.toList.getD ((off - 0x940) / 4) 0).toNat
  else
    match off with
    | 0x00 => regId
    | 0x04 => regVersion
    | 0x08 => regCaps0
    | 0x0C => regCaps1
    | 0x10 => s.fwVersion.toNat
    | 0x20 => bits s.time.toNat 31 0
    | 0x24 => (s.timeShadow.map (fun w => w.toNat)).getD (bits s.time.toNat 63 32)
    | 0x40 => s.intStatus.toNat
    | 0x44 => s.intEnable.toNat
    | 0x48 => s.fatal.toNat
    | 0x80 => s.evq.baseLo.toNat
    | 0x84 => s.evq.baseHi.toNat
    | 0x88 => s.evq.size
    | 0x8C => s.evq.head
    | 0x90 => tailWord s.evq
    | 0xA0 => s.logm.baseLo.toNat
    | 0xA4 => s.logm.baseHi.toNat
    | 0xA8 => s.logm.size
    | 0xAC => s.logm.head
    | 0xB0 => tailWord s.logm
    | 0xC0 => b2n s.cfgLock
    | 0x100 => s.serviceWord
    | 0x818 => s.trap.count
    | 0x81C => b2n s.trap.valid + b2n s.trap.halted * 2
    | 0x820 => b2n s.trap.arm + b2n s.trap.halt * 2 + b2n s.trap.trig * 4
    | 0x900 => s.tel.sel
    | 0x908 => b2n s.tel.busy + s.tel.src * 2 ^ 8
    | 0x90C => s.tel.sat.toNat
    | 0x910 => bits s.tel.time.toNat 31 0
    | 0x914 => bits s.tel.time.toNat 63 32
    | _ => 0

/-- A CTL read at byte `off`: TIME_LO copies the sample's upper half into the shadow, and the next read of TIME_HI
takes the shadow (R304, R395); no other read changes anything but the bus. -/
def ctlRead (s : State) (off : Nat) : State :=
  let t := s.ctlDone (w32 (s.read off))
  match off with
  | 0x20 => { t with timeShadow := some (w32 (bits s.time.toNat 63 32)) }
  | 0x24 => { t with timeShadow := none }
  | _ => t

end State

/-! ### The commands -/

def execRingBaseWrite (r : Ring) (hi : Bool) (v : Word) (s : State) : Host.Outcome State Fault Refusal :=
  .next (s.ctlWrite (fun s => s.writeBase r hi v))

def execRingSizeWrite (r : Ring) (v : Word) (s : State) : Host.Outcome State Fault Refusal :=
  .next (s.ctlWrite (fun s => s.writeSize r v))

def execRingHeadWrite (r : Ring) (v : Word) (s : State) : Host.Outcome State Fault Refusal :=
  .next (s.ctlWrite (fun s => s.writeHead r v))

def execCfgLockWrite (v : Word) (s : State) : Host.Outcome State Fault Refusal := .next (s.ctlWrite (fun s => s.lock v))

def execNanTrapRearm (s : State) : Host.Outcome State Fault Refusal := .next (s.ctlWrite (fun s => s.rearm))

def execNanTrapResume (s : State) : Host.Outcome State Fault Refusal := .next (s.ctlWrite (fun s => s.resumeHalt))

def execTelSnap (v : Word) (s : State) : Host.Outcome State Fault Refusal := .next (s.ctlWrite (fun s => s.snap v))

def execTelSnapshotDone (junction : Word) (s : State) : Host.Outcome State Fault Refusal :=
  .next (if s.mgmtRuns then s.snapDone junction else s)

def execTimeLoRead (s : State) : Host.Outcome State Fault Refusal := .next (if s.mgmtRuns then s.ctlRead 0x20 else s)

/-- REGISTER_WRITE at a word address of the window. -/
def execRegisterWrite (addr : BitVec 10) (v : Word) (s : State) : Host.Outcome State Fault Refusal :=
  .next (s.ctlWrite (fun s => s.write (4 * addr.toNat) v))

end Sys2Proof.Machine
end

