-- ==== Sys2Proof/Machine/Drizzle.lean ====
section
/-!
DEFINITION. Background testing (R363 to R365), and the chain and stream table entries that a tile found damaged (R375).
-/

namespace Sys2Proof.Machine

/-- UNIT of an evaluator (Table 16.4). -/
def unitEvaluator : Nat := 1

/-- UNIT that a test works on; a scrub that corrects works on memories. -/
def drizzleUnit : DrizzleResult → Nat
  | .pass u _ _ => u.toNat
  | .corrected .. => 2
  | .fault u .. => u.toNat
  | .eccFault u .. => u.toNat
  | .marginLow .. => 0

/-- INDEX of the place that a test works on. -/
def drizzleIndex : DrizzleResult → Nat
  | .pass _ i _ => i.toNat
  | .corrected .. => 0
  | .fault _ i _ _ => i.toNat
  | .eccFault _ i _ _ => i.toNat
  | .marginLow i _ => i.toNat

namespace State

/-- Adds the corrected errors of one scrub to the tile's counters (R375, Table 17.7). -/
def scrubCorrected (s : State) (t : Nat) (staging table stepStore : Bool) : State :=
  s.modTile t (fun x => { x with corrected :=
    (x.corrected.zip [b2n staging, b2n table, b2n stepStore, 0]).map (fun (p : Nat × Nat) => min (p.1 + p.2) 0xFFFFFFFF) })

/-- A finding of Drizzle about a unit of a tile; nothing else follows from it (R364). -/
def drizzleFinding (s : State) (t code : Nat) (unit index expected observed : Nat) : State :=
  s.report t code (layoutU t unit index 0xFFFF 0 expected observed)

/-- Drizzle works on the tiles of the service map, in what no request claims (R132, R363): an evaluator whose XEV
queue holds a request has no slot for its test. -/
def drizzles (s : State) (t : Nat) (r : DrizzleResult) : Bool :=
  s.inMap t && s.tileRuns t &&
    !(drizzleUnit r == unitEvaluator && (s.tile t).xevBuf.any (fun q => q.places.contains (drizzleIndex r)))

/-- The threshold of MARGIN_LOW in effect in a tile, at its band's applied point (R367, Table 15.5). -/
def marginOf (s : State) (t : Nat) : Nat := (s.tile t).calUsed.margins.getD (s.band (bandOf t)).cur 0

/-- A path monitor of a tile shows `o`: a finding where that lies below its calibrated threshold (R367). -/
def pathMonitor (s : State) (t i o : Nat) : State :=
  if o < s.marginOf t then s.drizzleFinding t evMarginLow 0 i (s.marginOf t) o else s

/-- What a test leaves: a sweep counted, corrected errors counted, or a finding. -/
def drizzle (s : State) (t : Nat) (r : DrizzleResult) : State :=
  match r with
  | .pass _ _ done => if done then s.modTile t (fun x => { x with sweeps := satInc x.sweeps }) else s
  | .corrected a b c => s.scrubCorrected t a b c
  | .fault u i e o => s.drizzleFinding t evDrizzleFault u.toNat i.toNat e.toNat o.toNat
  | .eccFault u i e o => s.drizzleFinding t evDrizzleFault u.toNat i.toNat e.toNat o.toNat
  | .marginLow i o => s.pathMonitor t i.toNat o.toNat

/-! ### Damaged table entries (Table 16.1) -/

end State

/-- A row pass reads the entry. -/
def entryReadBy (e : EntryRef) (r : RowPass) : Bool :=
  match e with
  | .chain id => r.chain.id == id.toNat
  | .stream sid => r.sid == sid.toNat

/-- INDEX of the finding about an entry: the chain's id; the SID field names a stream's entry. -/
def entryIndex : EntryRef → Nat
  | .chain id => id.toNat
  | .stream _ => 0

def entrySid : EntryRef → Nat
  | .chain _ => 0xFFFF
  | .stream sid => sid.toNat

namespace State

/-- The entry is one that the tile holds. -/
def holdsEntry (s : State) (t : Nat) (e : EntryRef) : Bool :=
  match e with
  | .chain id => (s.chain? id.toNat).isSome
  | .stream sid => (s.stream? sid.toNat).any (fun x => x.onTile t)

/-- TABLE_ENTRY_REWRITE: every row pass that reads the entry is poisoned, the finding is raised, and the Vane
puts back what management SRAM holds, so that later rows are whole again. -/
def entryRewrite (s : State) (t : Nat) (e : EntryRef) : State :=
  let s := s.modTile t (fun x => { x with rows := x.rows.map (fun (r : RowPass) =>
    if entryReadBy e r then { r with poison := true } else r) })
  s.report t evPoisonEcc (layoutU t 7 (entryIndex e) (entrySid e) 0 0 0)

end State

/-- DRIZZLE_TEST. A test of an evaluator compares its narrow arrays with their copy in management SRAM, which it reads
(R149, Table 15.4). -/
def execDrizzleTest (t : Fin 88) (r : DrizzleResult) (s : State) : Host.Outcome State Fault Refusal :=
  .next (if s.drizzles t.val r then
    (if drizzleUnit r == unitEvaluator then (s.drizzle t.val r).sramUse else s.drizzle t.val r)
    else s)

def execTableEntryRewrite (t : Fin 88) (e : EntryRef) (r : SramRead) (s : State) : Host.Outcome State Fault Refusal :=
  .next (if s.tileRuns t.val && s.holdsEntry t.val e then (s.entryRewrite t.val e).sramRead r else s)

end Sys2Proof.Machine
end

