-- ==== Sys2Proof/Machine/TestPort.lean ====
section
/-!
DEFINITION. The test port: the test gates, the repair registers and trst_n (R410 to R412).
-/

namespace Sys2Proof.Machine

/-! ### The TAP controller (R410, IEEE 1149.1) -/

/-- TAP instructions (Table 18.4). -/
def irIdcode : Byte := 0x01
def irWrapper : Byte := 0x10
def irInstruments : Byte := 0x11

/-- The state that an edge of tck with `tms` leads to. -/
def TapPhase.next (p : TapPhase) (tms : Bool) : TapPhase :=
  match p, tms with
  | .reset, false => .idle
  | .reset, true => .reset
  | .idle, false => .idle
  | .idle, true => .selectDr
  | .selectDr, false => .captureDr
  | .selectDr, true => .selectIr
  | .captureDr, false | .shiftDr, false | .exit2Dr, false => .shiftDr
  | .captureDr, true | .shiftDr, true => .exit1Dr
  | .exit1Dr, false | .pauseDr, false => .pauseDr
  | .pauseDr, true => .exit2Dr
  | .exit1Dr, true | .exit2Dr, true => .updateDr
  | .updateDr, false | .updateIr, false => .idle
  | .updateDr, true | .updateIr, true => .selectDr
  | .selectIr, false => .captureIr
  | .selectIr, true => .reset
  | .captureIr, false | .shiftIr, false | .exit2Ir, false => .shiftIr
  | .captureIr, true | .shiftIr, true => .exit1Ir
  | .exit1Ir, false | .pauseIr, false => .pauseIr
  | .pauseIr, true => .exit2Ir
  | .exit1Ir, true | .exit2Ir, true => .updateIr

/-- IDCODE (Table 18.4), with MFR of the declaration block. -/
def State.idcode (s : State) : Nat := 1 + bits (leAt s.declaration 16 2) 10 0 * 2 + 0xC505 * 2 ^ 12 + 0x5 * 2 ^ 28

/-- The bits of a register, the one next to tdo first. -/
def bitsOf (n v : Nat) : List Bool := (List.range n).map (fun i => bit v i)

/-- What the data register between tdi and tdo captures: IDCODE's 32 bits, or the one bit of BYPASS, which also serves
the reserved codes. The paths of WSP_SELECT and IJTAG are in the ICL file; of each, one free bit stands here (log
entry 77). -/
def State.captureDr (s : State) : List Bool :=
  if s.tap.ir == irIdcode then bitsOf 32 s.idcode
  else if s.tap.ir == irWrapper || s.tap.ir == irInstruments then [Config.testPath s.fresh]
  else [false]

/-- One edge of tck: the state that ends captures or shifts, and the next one updates or drives tdo. -/
def State.tapClock (s : State) (tms tdi : Bool) : State :=
  let x := s.tap
  let shifted := match x.phase with
    | .captureDr => s.captureDr
    | .captureIr => bitsOf 8 0x01
    | .shiftDr | .shiftIr => x.shift.drop 1 ++ [tdi]
    | _ => x.shift
  let p := x.phase.next tms
  let ir := match p with
    | .reset => irIdcode
    | .updateIr => BitVec.ofNat 8 ((shifted.zipIdx.map (fun b => if b.1 then 2 ^ b.2 else 0)).sum)
    | _ => x.ir
  let tdo := match p with
    | .shiftDr | .shiftIr => shifted.headD false
    | _ => false
  { s with fresh := s.fresh + 1, tap := { x with phase := p, ir := ir, shift := shifted, tdo := tdo } }

/-! ### Test gates (R411) -/

namespace State

/-- The tile has been retired into the spare for its test, its calibration or its march (R366, R370). One that is
handled in place is not retired. -/
def inWork (s : State) (t : Nat) : Bool :=
  (s.band (bandOf t)).svc.any (fun o => o.cur == t && o.phase == .work && o.rotate)

/-- The tile is gated, or retired by TILE_RETIRE and not powered and checked again by a TILE_RESTORE, which takes it out of
its retirement as a rotation's restore does (R362, R366; DEDUCED, log entry 28). -/
def shutDown (s : State) (t : Nat) : Bool :=
  let x := s.tile t
  x.pgReq || (x.retired && !(s.band (bandOf t)).svc.any (fun o => o.kind == .restore && o.cur == t))

/-- The test gate of a tile: open before READY, and while the tile is outside the service map: gated, or retired, by
TILE_RETIRE or for a test, a calibration or a march. A tile that is powered to take a role, that is handled in place, or
that has lost its power, is neither. -/
def tileGate (s : State) (t : Nat) : Bool :=
  !s.readyDone || (!(s.tile t).active && (s.shutDown t || s.inWork t))

/-- The test gate of a band: open before READY, and while the band is outside the service map with every tile gated or
retired. A band that has lost a clock, or whose last tile has lost its power, keeps its rows (log entry 28). -/
def bandGate (s : State) (b : Nat) : Bool :=
  !s.readyDone || (!(s.band b).present && (bandTiles b).all s.shutDown)

def testGate (s : State) : TestUnit → Bool
  | .tile t => s.tileGate t.val
  | .band b => s.bandGate b.val
  | .management => !s.porN

/-- An attempt while the gate is closed sets the unit's BLOCKED bit. -/
def block (s : State) : TestUnit → State
  | .tile t => s.modTile t.val (fun x => { x with blocked := true })
  | .band b => s.modBand b.val (fun x => { x with blocked := true })
  | .management => { s with mgmtBlocked := true }

/-- Place of a unit in the table of wrappers: its source number. -/
def unitPlace : TestUnit → Nat
  | .tile t => t.val
  | .band b => srcBand b.val
  | .management => srcMgmt

/-- A wrapper takes an instruction. -/
def setWrapper (s : State) (u : TestUnit) (i : WrapperInstr) : State :=
  { s with tap := { s.tap with wrappers := s.tap.wrappers.setIfInBounds (unitPlace u) i } }

/-- An instruction by which a wrapper acts on its unit. -/
def wrapperActs : WrapperInstr → Bool
  | .bypass | .preload => false
  | .extest | .intest | .clamp => true

/-- A write under R411: `f` where the gate is open. -/
def gated (s : State) (u : TestUnit) (f : State → State) : State := if s.testGate u then f s else s.block u

/-- What a read of an instrument delivers (Table 18.6): GATE and BLOCKED, the clock monitor's counts, or what a sensor
shows; a junction reads as in the telemetry, 0 without power (Table 17.7). -/
def instrument (s : State) (i : Instrument) : Nat :=
  match i with
  | .status t => b2n (s.tileGate t.val) + b2n (s.tile t.val).blocked * 2
  | .junction t v => if (s.tile t.val).power == .off then 0 else v.toNat
  | .pathMonitor _ v => v.toNat
  | .clockCounts b => (s.band b.val).cclkMhz + (s.band b.val).hclkMhz * 2 ^ 16

/-- An instruction has been scanned in whole: the controller is back in Run-Test/Idle. -/
def loadIr (s : State) (c : Byte) : State := { s with tap := { s.tap with phase := .idle, ir := c } }

/-- TEST_ACCESS. The wrappers and the scan chains behind them are reached through one TAP instruction and the instruments through another; a
test of a unit behind an open gate changes nothing that the block holds, and a read delivers its value and changes
nothing else. -/
def testAccess (s : State) (op : TestOp) : State :=
  match op with
  | .loadIr c => s.loadIr c
  | .clock tms tdi => s.tapClock tms tdi
  | .wrapper u i =>
    if s.tap.ir == irWrapper then
      (if wrapperActs i then s.gated u (fun s => s.setWrapper u i) else s.setWrapper u i)
    else s
  | .scan u => if s.tap.ir == irWrapper then s.gated u id else s
  | .bistWrite u => if s.tap.ir == irInstruments then s.gated u id else s
  | .repairWrite t bad banks rows =>
    if s.tap.ir == irInstruments then
      s.gated (.tile t) (fun s => s.modTile t.val (fun x => { x with repBad := bad, repBanks := banks, repRows := rows }))
    else s
  | .readInstrument i =>
    if s.tap.ir == irInstruments then { s with tap := { s.tap with read := s.instrument i } } else s

/-- TRST_N: the repair registers are reset and the BLOCKED bits cleared; the TAP holds IDCODE. -/
def testReset (s : State) : State :=
  { s with
    tiles := s.tiles.map (fun (x : Tile) => { x with repBad := false, repBanks := 0, repRows := [], blocked := false })
    bands := s.bands.map (fun (x : Band) => { x with blocked := false })
    mgmtBlocked := false
    tap := TapState.reset }

end State

def execTestAccess (op : TestOp) (s : State) : Host.Outcome State Fault Refusal := .next (s.testAccess op)

def execTrstN (s : State) : Host.Outcome State Fault Refusal := .next s.testReset

end Sys2Proof.Machine
end

