-- ==== Sys2Proof/Machine/Dispatch.lean ====
section
/-!
DEFINITION. One arm per command: a direct call of its meaning.
-/

namespace Sys2Proof.Machine

/-- The effect of a command on everything but the queue of commands that wait. -/
def exec (i : Instr) (s : State) : Host.Outcome State Fault Refusal :=
  match i with
  | .porN level => Sys2Proof.Machine.execPorN level s
  | .domainResetRelease d => Sys2Proof.Machine.execDomainResetRelease d s
  | .romStubStart keyHash keyValid bootBase => Sys2Proof.Machine.execRomStubStart keyHash keyValid bootBase s
  | .bootImageCheckDone img keyArc => Sys2Proof.Machine.execBootImageCheckDone img keyArc s
  | .powerOnSelfTestDone r => Sys2Proof.Machine.execPowerOnSelfTestDone r s
  | .getInfo m => Sys2Proof.Machine.execGetInfo m s
  | .loadTable m img => Sys2Proof.Machine.execLoadTable m img s
  | .tableWriteDone slot => Sys2Proof.Machine.execTableWriteDone slot s
  | .retireTable m => Sys2Proof.Machine.execRetireTable m s
  | .loadChain m desc => Sys2Proof.Machine.execLoadChain m desc s
  | .retireChain m => Sys2Proof.Machine.execRetireChain m s
  | .openStream m desc => Sys2Proof.Machine.execOpenStream m desc s
  | .closeStream m => Sys2Proof.Machine.execCloseStream m s
  | .queryStream m => Sys2Proof.Machine.execQueryStream m s
  | .queryProgress m => Sys2Proof.Machine.execQueryProgress m s
  | .selftest m => Sys2Proof.Machine.execSelftest m s
  | .selftestTileDone t pass found => Sys2Proof.Machine.execSelftestTileDone t pass found s
  | .calibrate m => Sys2Proof.Machine.execCalibrate m s
  | .calibrateTileDone t pass => Sys2Proof.Machine.execCalibrateTileDone t pass s
  | .bankOff m => Sys2Proof.Machine.execBankOff m s
  | .bankOn m => Sys2Proof.Machine.execBankOn m s
  | .tileRetire m => Sys2Proof.Machine.execTileRetire m s
  | .streamCut sid => Sys2Proof.Machine.execStreamCut sid s
  | .streamLeavesOldTile sid => Sys2Proof.Machine.execStreamLeavesOldTile sid s
  | .tileRestore m => Sys2Proof.Machine.execTileRestore m s
  | .fwStage m => Sys2Proof.Machine.execFwStage m s
  | .fwStageDone img keyArc => Sys2Proof.Machine.execFwStageDone img keyArc s
  | .fwActivate m => Sys2Proof.Machine.execFwActivate m s
  | .handoverReady keyArc => Sys2Proof.Machine.execHandoverReady keyArc s
  | .handoverTimeout cause => Sys2Proof.Machine.execHandoverTimeout cause s
  | .arcReqDone keyArc => Sys2Proof.Machine.execArcReqDone keyArc s
  | .setPolicy m => Sys2Proof.Machine.execSetPolicy m s
  | .setFloorClock m => Sys2Proof.Machine.execSetFloorClock m s
  | .readLog m => Sys2Proof.Machine.execReadLog m s
  | .surroundingsNoticeBegin m => Sys2Proof.Machine.execSurroundingsNoticeBegin m s
  | .surroundingsNoticeEnd m => Sys2Proof.Machine.execSurroundingsNoticeEnd m s
  | .surroundingsDurationExpiry stack chan => Sys2Proof.Machine.execSurroundingsDurationExpiry stack chan s
  | .mergeAbandon m => Sys2Proof.Machine.execMergeAbandon m s
  | .mergeCombine m area => Sys2Proof.Machine.execMergeCombine m area s
  | .commandMalformed m => Sys2Proof.Machine.execCommandMalformed m s
  | .outAck m v => Sys2Proof.Machine.execOutAck m v s
  | .ringBaseWrite r hi v => Sys2Proof.Machine.execRingBaseWrite r hi v s
  | .ringSizeWrite r v => Sys2Proof.Machine.execRingSizeWrite r v s
  | .ringHeadWrite r v => Sys2Proof.Machine.execRingHeadWrite r v s
  | .cfgLockWrite v => Sys2Proof.Machine.execCfgLockWrite v s
  | .nanTrapRearm => Sys2Proof.Machine.execNanTrapRearm s
  | .nanTrapResume => Sys2Proof.Machine.execNanTrapResume s
  | .telSnap v => Sys2Proof.Machine.execTelSnap v s
  | .telSnapshotDone junction => Sys2Proof.Machine.execTelSnapshotDone junction s
  | .timeLoRead => Sys2Proof.Machine.execTimeLoRead s
  | .registerWrite addr v => Sys2Proof.Machine.execRegisterWrite addr v s
  | .accBeat t b => Sys2Proof.Machine.execAccBeat t b s
  | .accBeatDequeue t faults corrected => Sys2Proof.Machine.execAccBeatDequeue t faults corrected s
  | .tileRecordCombine t sid row step => Sys2Proof.Machine.execTileRecordCombine t sid row step s
  | .bandRecordCombine sid row step => Sys2Proof.Machine.execBandRecordCombine sid row step s
  | .statisticApplyStart t sid row pass => Sys2Proof.Machine.execStatisticApplyStart t sid row pass s
  | .mergeReread sid row step => Sys2Proof.Machine.execMergeReread sid row step s
  | .mwaitExpiry sid row step => Sys2Proof.Machine.execMwaitExpiry sid row step s
  | .gatherListRead t sid pass => Sys2Proof.Machine.execGatherListRead t sid pass s
  | .gatherListReread t sid pass => Sys2Proof.Machine.execGatherListReread t sid pass s
  | .gatherWaitExpiry t sid pass => Sys2Proof.Machine.execGatherWaitExpiry t sid pass s
  | .opdBeat t => Sys2Proof.Machine.execOpdBeat t s
  | .opdCreditReturn t n => Sys2Proof.Machine.execOpdCreditReturn t n s
  | .xevRequest t r => Sys2Proof.Machine.execXevRequest t r s
  | .xevResponse t => Sys2Proof.Machine.execXevResponse t s
  | .fabRequest b tag => Sys2Proof.Machine.execFabRequest b tag s
  | .fabCreditReturn b n => Sys2Proof.Machine.execFabCreditReturn b n s
  | .fabResponse b tag status data => Sys2Proof.Machine.execFabResponse b tag status data s
  | .eventRecordWrite => Sys2Proof.Machine.execEventRecordWrite s
  | .logMirrorWrite => Sys2Proof.Machine.execLogMirrorWrite s
  | .timeSample v => Sys2Proof.Machine.execTimeSample v s
  | .tclkTimeout => Sys2Proof.Machine.execTclkTimeout s
  | .clockMonitorWindow cclk hclk => Sys2Proof.Machine.execClockMonitorWindow cclk hclk s
  | .clockPointApplied b p => Sys2Proof.Machine.execClockPointApplied b p s
  | .throttleCapChange b p => Sys2Proof.Machine.execThrottleCapChange b p s
  | .clockChoiceWindow b u => Sys2Proof.Machine.execClockChoiceWindow b u s
  | .thrNote kind arg => Sys2Proof.Machine.execThrNote kind arg s
  | .tilePowerOff t => Sys2Proof.Machine.execTilePowerOff t s
  | .tilePowerLost t => Sys2Proof.Machine.execTilePowerLost t s
  | .tilePowered t => Sys2Proof.Machine.execTilePowered t s
  | .tileResetHoldExpiry t => Sys2Proof.Machine.execTileResetHoldExpiry t s
  | .tileEntryCheckDone t pass => Sys2Proof.Machine.execTileEntryCheckDone t pass s
  | .drizzleTest t r => Sys2Proof.Machine.execDrizzleTest t r s
  | .tableEntryRewrite t e r => Sys2Proof.Machine.execTableEntryRewrite t e r s
  | .booksAudit => Sys2Proof.Machine.execBooksAudit s
  | .watchdogExpiry => Sys2Proof.Machine.execWatchdogExpiry s
  | .testAccess op => Sys2Proof.Machine.execTestAccess op s
  | .trstN => Sys2Proof.Machine.execTrstN s

end Sys2Proof.Machine
end

