-- ==== Sys2Proof/Machine/Tick.lean ====
section
/-!
DEFINITION. What one cycle of the compute clocks does when no command waits (log entry 9): the slot counters
advance (R130), an XEVQ that was set takes effect at slot 0 (R135), and every evaluator grants its next XEV
request (R132). An FW_ACTIVATE whose counter request is answered ends as soon as the log has room (R347, R391). No lane asks for an evaluator then, because a beat is processed by one command.
-/

namespace Sys2Proof.Machine

/-- The band's compute clock runs out of reset. -/
def Band.ticks (b : Band) : Bool := b.cclkOut && b.clocked

/-- The slot counter counts CCLK cycles modulo 16. -/
def Band.tick (b : Band) : Band := if b.ticks then { b with slotCtr := (b.slotCtr + 1) % 16 } else b

/-- In a slot that no lane claims, the arbiter of an evaluator grants a waiting XEV request. -/
def slotServesXev (slot xevq : Nat) : Bool := (arbGrant slot xevq (List.replicate 16 none) true 0).1 == .xev

/-- Takes the request at the head of every evaluator's queue: an evaluator of `busy` has an older one. -/
def serveXev : List Nat → List XevRsp → List XevRsp
  | _, [] => []
  | busy, r :: rest => { r with places := r.places.filter busy.contains } :: serveXev (busy ++ r.places) rest

/-- A tile's cycle, in the slot that its band has reached. -/
def Tile.tick (x : Tile) (slot : Nat) (runs : Bool) : Tile :=
  let x := if slot == 0 then { x with xevq := x.xevqSet } else x
  if runs && slotServesXev slot x.xevq then
    { x.grant (x.xevBuf.flatMap (fun r => r.places)).dedup with xevBuf := serveXev [] x.xevBuf }
  else x

/-- A unit of the reads and writes of a long operation is done: an entry of a table load, or a line of a staging read
before the check, which a hand-over pauses (Table 14.10, R349; log entry 69). -/
def LongOp.tick (paused : Bool) (x : LongOp) : LongOp :=
  if x.opcode == 0x0010 then { x with done := min (x.done + 1) x.total }
  else if x.opcode == 0x0070 && !paused then { x with done := max x.done (min (x.done + 1) (x.total - 1)) }
  else x

/-- What the management plane does of itself: an answered counter request is logged once the log has room. -/
def State.ownWork (s : State) : State := if s.mgmtRuns then s.settleArc else s

/-- A tick. The edge of MCLK at which a CTL access completed is over (R304), and the writes and reads of the management
plane go on, where MCLK runs (R319). -/
def tick (s : State) : State :=
  let s := s.ownWork
  let s1 := { s with bands := s.bands.map Band.tick }
  let one (t : Nat) (x : Tile) : Tile :=
    let b := s1.band (bandOf t)
    if b.ticks then x.tick b.slotCtr (s1.tileRuns t) else x
  let s2 := s1.booked (fun s1 => { s1 with tiles := s1.tiles.mapIdx one })
  let s3 := if s.mclk then { s2 with ctlAck := false, ctlRdata := 0, longOps := s2.longOps.map (LongOp.tick s.paused) } else s2
  s3.drainSlots

end Sys2Proof.Machine
end

