-- ==== Sys2Proof/Safety.lean ====
section
/-!
DEFINITION. What counts as a safe step, and the words in which statements speak of a step: a command that
its mailbox has accepted, its answer, its change-log entry, and the legal form of the host's registers.
-/

namespace Sys2Proof.Safety

open Sys2Proof.Machine

/-- The outcome is a next state: the block never stops on its own (R3). -/
def GoesOn (o : Host.Outcome State Fault Refusal) : Prop := ∃ t, o = .next t

/-- Mailbox `m` holds a queued and well-formed command with opcode `op`, it is its turn, and it is neither
busy nor handed over nor refused by its origin (R330, R333 to R338, R350). -/
def Accepted (s : State) (m : Fin 4) (op : Nat) : Prop :=
  s.takes m.val op = true ∧ s.guard (s.cmd m.val) = none

/-- The mailbox commands: the mailbox, the opcode, and which commands of that opcode the row is (Table 14.5). -/
def mailboxOp : Instr → Option (Fin 4 × Nat × (Cmd → Bool))
  | .getInfo m => some (m, opGetInfo, fun _ => true)
  | .loadTable m _ => some (m, opLoadTable, fun _ => true)
  | .retireTable m => some (m, opRetireTable, fun _ => true)
  | .loadChain m _ => some (m, opLoadChain, fun _ => true)
  | .retireChain m => some (m, opRetireChain, fun _ => true)
  | .openStream m _ => some (m, opOpenStream, fun _ => true)
  | .closeStream m => some (m, opCloseStream, fun _ => true)
  | .queryStream m => some (m, opQueryStream, fun _ => true)
  | .queryProgress m => some (m, opQueryProgress, fun _ => true)
  | .selftest m => some (m, opSelftest, fun _ => true)
  | .calibrate m => some (m, opCalibrate, fun c => !State.isBankOff c && !State.isBankOn c)
  | .bankOff m => some (m, opCalibrate, State.isBankOff)
  | .bankOn m => some (m, opCalibrate, State.isBankOn)
  | .tileRetire m => some (m, opTileRetire, fun _ => true)
  | .tileRestore m => some (m, opTileRestore, fun _ => true)
  | .fwStage m => some (m, opFwStage, fun _ => true)
  | .fwActivate m => some (m, opFwActivate, fun _ => true)
  | .setPolicy m => some (m, opSetPolicy, fun _ => true)
  | .setFloorClock m => some (m, opSetFloor, fun _ => true)
  | .readLog m => some (m, opReadLog, fun _ => true)
  | .surroundingsNoticeBegin m => some (m, opSurroundings, fun c => bits (c.arg 1) 3 0 != 2)
  | .surroundingsNoticeEnd m => some (m, opSurroundings, fun c => bits (c.arg 1) 3 0 == 2)
  | .mergeAbandon m => some (m, opMergeCmd, fun c => !bit (c.arg 1) 0)
  | .mergeCombine m _ => some (m, opMergeCmd, fun c => bit (c.arg 1) 0)
  | _ => none

/-- The words of a response: STATUS with the command's TAG, then the result words (R331). -/
def responseWords (s : State) (m : Fin 4) (status : Nat) (ws : List Nat) : List Nat :=
  (status + (s.cmd m.val).tag.toNat * 2 ^ 16) :: ws

/-- From `s` to `t` the command in mailbox `m` is answered: the response is in OUT, VALID and the mailbox's
INT_STATUS bit are set and the mailbox is IDLE; or, while the previous response waits for OUT_ACK, the
command stays WORKING with its response held (R330). No other mailbox changes, and the command's doorbell
is taken. -/
def Answered (s t : State) (m : Fin 4) (status : Nat) (ws : List Nat) : Prop :=
  let words := responseWords s m status ws
  let x := s.mailbox m.val
  (if x.valid then
    t.mailbox m.val = { x with state := .working, held := some (words.map (BitVec.ofNat 32)) }
  else
    t.mailbox m.val =
      { x with state := .idle, outW := overlay x.outW words, outLen := BitVec.ofNat 4 ws.length, valid := true } ∧
    t.intStatus.getLsbD m.val = true) ∧
  (∀ k : Fin 4, k ≠ m → t.mailbox k.val = s.mailbox k.val) ∧
  t.bells = s.bells.filter (fun b => b.val != m.val)

/-- The hand-over in progress once the command in mailbox `m` is taken: it waits for that command no longer (R349,
Table 14.12). -/
def handoverAfter (s : State) (m : Nat) : Option Handover :=
  s.handover.map (fun h => { h with prior := h.prior.filter (fun b => b != m) })

/-- INT_STATUS once the command in mailbox `m` is answered: its bit is set, but not by a response that is held (R330). -/
def intAnswered (s : State) (m : Nat) : Word :=
  if (s.mailbox m).valid then s.intStatus else s.intStatus ||| BitVec.ofNat 32 (2 ^ m)

/-- The change-log entry that is made next in `s` (Table 16.8). -/
def entryAt (s : State) (origin kind result : Nat) (tag : BitVec 16) (object oldh newh : Nat) : LogEntry where
  seq := s.log.nextSeq
  epoch := s.log.epoch
  origin := BitVec.ofNat 3 origin
  kind := BitVec.ofNat 5 kind
  time := s.time
  result := BitVec.ofNat 16 result
  tag := tag
  object := BitVec.ofNat 32 object
  oldh := BitVec.ofNat 32 oldh
  newh := BitVec.ofNat 32 newh

/-- The first thing that the log gains from `s` to `t` is that entry (R388). -/
def Logged (s t : State) (origin kind result : Nat) (tag : BitVec 16) (object oldh newh : Nat) : Prop :=
  ∃ more, t.log.entries = s.log.entries ++ (entryAt s origin kind result tag object oldh newh, Mirror.unsent) :: more

/-- The legal form of a ring's registers (R398, R399, Table 17.4). -/
def RingLegal (x : RingRegs) : Prop :=
  x.baseLo &&& 0x00000FFF = 0 ∧ x.baseHi &&& 0xFFF00000 = 0 ∧ x.base % 4096 = 0 ∧ x.base < 2 ^ 52 ∧
  (x.size = 0 ∨ ∃ k, 6 ≤ k ∧ k ≤ 20 ∧ x.size = 2 ^ k) ∧
  (if x.size = 0 then x.head = 0 ∧ x.tail = 0 else x.head < x.size ∧ x.tail < x.size)

/-- The legal form of the loadable slots (R148, R150, R154): a slot that is not FREE holds a table, and all slots of
that table, from its first on, stand alike; a load that is not complete has its slots LOADING, one load each, and
replaces no table at one of them. -/
def SlotsLegal (s : State) : Prop :=
  (∀ i : Fin 4, (s.slots.get i).state ≠ .free → ∃ x, (s.slots.get i).table = some x ∧
    i.val ∈ slotRange (s.slots.get i).first x.nslots ∧ (s.slots.get i).first + x.nslots ≤ 4 ∧
    ∀ j : Fin 4, j.val ∈ slotRange (s.slots.get i).first x.nslots → s.slots.get j = s.slots.get i) ∧
  (∀ l ∈ s.loads, (s.slot l.first).state = .loading ∧ (s.slot l.first).first = l.first ∧
    ∀ r x, l.replaces = some r → (s.slot l.first).table = some x → r ∉ slotRange l.first x.nslots) ∧
  (s.loads.map (fun l => l.first)).Nodup

/-- The registers that the host writes hold nothing in a reserved bit (R12, Tables 17.3 and 17.4). -/
def RegsLegal (s : State) : Prop :=
  RingLegal s.evq ∧ RingLegal s.logm ∧ s.intEnable &&& 0xFFFFC0F0 = 0

end Sys2Proof.Safety
end

