-- ==== Sys2Proof/Certificates/Slice0/Obligations.lean ====
section
/-!
DEFINITION. The statements about the block, for the provers.
-/

open Sys2Proof Sys2Proof.Machine Sys2Proof.Safety

/-! ### Steps -/

/-- A step takes the command at the front of the queue and runs it on the state with the rest; R3: no state and no
command stops the block. -/
def Obligations.StepRunsFrontCommand : Prop :=
  (∀ (c : Instr) (rest : List Instr) (s : State),
    step { s with pending := c :: rest } = exec c { s with pending := rest }) ∧
  ∀ s : State, GoesOn (step s)

/-- No command puts a command into the queue or takes another one out. -/
def Obligations.QueueOnlyLosesItsFront : Prop :=
  ∀ (c : Instr) (rest : List Instr) (s t : State), s.pending = c :: rest → step s = .next t → t.pending = rest

/-- Log entries 9, 69 and 78: with no command waiting a step is a tick. First a counter request that the host has
answered is logged and its FW_ACTIVATE ends, where MCLK runs and the log has room (R347, R391; log entry 42): key_arc is what
the host's answer showed, and the next one waits on, unless key_arc has met its ARC. Without such a request nothing of this
happens. Every running band's slot counter advances modulo 16 (R130); in its tiles an XEVQ that was set takes effect at slot
0 (R135), and in one that runs each evaluator grants the oldest XEV request that waits for it (R132, R134): book 6 counts one
grant and one result more for each of these evaluators, and none for any other, and the references that the requests return
go into the books (R387). A DRAINING table that nothing holds any more frees its slots (R150). Where MCLK runs no CTL access completes (R304), and of the long operations only their
positions change; where it is stopped neither the CTL port nor a long operation changes (R319). -/
def Obligations.IdleStepAdvancesSlotCounters : Prop :=
  ∀ s : State, s.pending = [] →
    ((s.mgmtRuns = false ∨ (∀ w ∈ s.arcWaits.head?, w.seen = none) ∨ s.logRoom false = false) → s.ownWork = s) ∧
    (∀ (w : ArcWait) (rest : List ArcWait) (arc : BitVec 64), s.mgmtRuns = true → s.arcWaits = w :: rest →
      w.seen = some arc → s.logRoom false = true →
      Logged s s.ownWork 4 kKeyUse 0 0xFFFF 1 (s.keyArc.toNat % 2 ^ 32) (arc.toNat % 2 ^ 32) ∧ s.ownWork.keyArc = arc ∧
      ((∀ v ∈ rest.head?, v.seen ≠ none ∨ arc.toNat < v.want.toNat) → s.ownWork.arcWaits = rest) ∧
      s.ownWork.longOp? w.origin w.tag = none) ∧
    ∃ t, step s = .next t ∧
      (∀ i : Fin 88,
        let x := s.ownWork.tile i.val
        let y := t.tile i.val
        let b := s.ownWork.band (bandOf i.val)
        let q := if (b.slotCtr + 1) % 16 = 0 then x.xevqSet else x.xevq
        ((b.cclkOut && b.clocked) = false → y = x) ∧
        ((b.cclkOut && b.clocked) = true →
          (s.ownWork.tileRuns i.val = false → y = { x with xevq := q }) ∧
          (s.ownWork.tileRuns i.val = true →
            y = { x with xevq := q, xevBuf := y.xevBuf, evalGrants := y.evalGrants, evalResults := y.evalResults } ∧
            y.xevBuf.length = x.xevBuf.length ∧
            (∀ (k : Nat) (r : XevRsp), x.xevBuf[k]? = some r → ∃ a, y.xevBuf[k]? = some a ∧ r = { a with places := r.places } ∧
              ∀ e, e ∈ a.places ↔ e ∈ r.places ∧ ∃ j < k, ∃ p, x.xevBuf[j]? = some p ∧ e ∈ p.places) ∧
            ∀ e, let granted := if ∃ r ∈ x.xevBuf, e ∈ r.places then 1 else 0
              refOf y.evalGrants e = refOf x.evalGrants e + granted ∧
                refOf y.evalResults e = refOf x.evalResults e + granted))) ∧
      t.books = s.ownWork.books.follow s.ownWork.inUse t.inUse ∧
      (∀ k : Fin 4, let z := s.ownWork.slots.get k
        t.slots.get k = if z.state = .draining ∧ t.slotHeld z.first = false then
          { state := .free, first := k.val, table := none } else z) ∧
      (∀ b : Fin 8, t.band b.val =
        if (s.ownWork.band b.val).cclkOut && (s.ownWork.band b.val).clocked then
          { s.ownWork.band b.val with slotCtr := ((s.ownWork.band b.val).slotCtr + 1) % 16 }
        else s.ownWork.band b.val) ∧
      t.longOps.map (fun o => { o with done := 0 }) = s.ownWork.longOps.map (fun o => { o with done := 0 }) ∧
      (s.mclk = false → t.longOps = s.longOps ∧ t.ctlAck = s.ctlAck ∧ t.ctlRdata = s.ctlRdata) ∧
      (s.mclk = true → t.ctlAck = false ∧ t.ctlRdata = 0) ∧
      t = { s.ownWork with
        bands := t.bands, tiles := t.tiles, slots := t.slots, longOps := t.longOps, ctlAck := t.ctlAck, ctlRdata := t.ctlRdata
        books := t.books }

/-- R398, R399, Tables 17.3 and 17.4: every step keeps the host's registers in their legal form, and with them the base
that a commit has taken. -/
def Obligations.EveryStepKeepsRegistersLegal : Prop :=
  ∀ s t : State, RegsLegal s → step s = .next t → RegsLegal t

/-- R148, R150, R154: every step keeps the loadable slots in their form: the slots of a table stand in one state
together, a load's slots are LOADING, and no load replaces a table at one of them. -/
def Obligations.EveryStepKeepsTableSlotsLegal : Prop :=
  ∀ s t : State, SlotsLegal s → step s = .next t → SlotsLegal t

/-- The registers and the table slots are legal after block reset. -/
def Obligations.RegistersLegalAtReset : Prop := RegsLegal State.reset ∧ SlotsLegal State.reset

/-- R401: writing 1 locks; from then on every step but a reset leaves the lock and the rings' BASE and SIZE
as they are, while HEAD, INT_ENABLE and NAN_TRAP_CTL take writes as if there were no lock. -/
def Obligations.LockHoldsUntilReset : Prop :=
  (∀ (v : Word) (s : State), s.mgmtRuns = true → v.getLsbD 0 = true → ∃ t, exec (.cfgLockWrite v) s = .next t ∧
    t = { s with cfgLock := true, ctlAck := t.ctlAck, ctlRdata := t.ctlRdata }) ∧
  (∀ s t : State, s.cfgLock = true → (∀ level rest, s.pending ≠ .porN level :: rest) → step s = .next t →
    t.cfgLock = true ∧
    ∀ r, (t.ringRegs r).baseLo = (s.ringRegs r).baseLo ∧ (t.ringRegs r).baseHi = (s.ringRegs r).baseHi ∧
      (t.ringRegs r).size = (s.ringRegs r).size) ∧
  (∀ (c : Instr) (s : State),
    (∃ r v, c = .ringHeadWrite r v) ∨ (∃ v, c = .registerWrite 0x011 v) ∨ (∃ v, c = .registerWrite 0x208 v) →
    ∃ t : State, exec c { s with cfgLock := true } = .next { t with cfgLock := true } ∧
      exec c { s with cfgLock := false } = .next { t with cfgLock := false })

/-! ### Reset and start-up -/

/-- What the manual gives for the state after block reset. -/
def Obligations.ResetStateIsAsStated : Prop :=
  let s := State.reset
  s.porN = true ∧ s.mgmtOut = false ∧ s.fclkOut = false ∧ s.tclkOut = false ∧ s.service = .boot ∧ s.readyDone = false ∧
  s.fwVersion = 0 ∧ s.intStatus = 0 ∧ s.intEnable = 0 ∧ s.fatal = 0 ∧ s.cfgLock = false ∧
  s.evq = RingRegs.reset ∧ s.logm = RingRegs.reset ∧ s.trap = NanTrap.reset ∧ s.tel = Telemetry.reset ∧
  s.policy.workload = false ∧ s.policy.debug = false ∧ s.policy.mwait = 1000 ∧
  s.chains = [] ∧ s.streams = [] ∧ s.intervals = [] ∧ s.log.entries = [] ∧ s.log.nextSeq = 0 ∧ s.log.epoch = 0 ∧
  (∀ i : Fin 4, (s.slots.get i).state = .free ∧ (s.mailbox i.val).state = .idle ∧ (s.mailbox i.val).valid = false ∧
    (s.mailbox i.val).lost = false) ∧
  (∀ b : Fin 8, (s.band b.val).cclkOut = false ∧ (s.band b.val).hclkOut = false ∧ (s.band b.val).fabCredits = 0 ∧
    (s.band b.val).floor = 2 ∧ (s.band b.val).dStop = 64 ∧ (s.band b.val).clkMode = 0 ∧ (s.band b.val).uhi = 900 ∧
    (s.band b.val).ulo = 700 ∧ (s.band b.val).fabLast = none ∧ (s.band b.val).spare = some 10) ∧
  (∀ t : Fin 88, (s.tile t.val).opdCredits = 0 ∧ (s.tile t.val).xevPtr = 0 ∧ (s.tile t.val).xevq = 0 ∧
    (s.tile t.val).opdOut = none ∧ (s.tile t.val).xevOut = none ∧
    ((s.tile t.val).active = true ↔ t.val % 11 ≠ 10)) ∧
  (∀ t : Fin 88, s.accStop t.val = true ∧ s.xevReady t.val = false) ∧
  (∀ b : Fin 8, s.mapWord b.val = 0) ∧ s.serviceWord = 0 ∧
  s.irqMailbox = false ∧ s.irqEvent = false ∧ s.irqFatal = false ∧ s.ctlAck = false ∧ s.ctlRdata = 0 ∧ s.arcPort = 0

/-- R324, R412: a change of por_n puts every domain in reset; what the repair registers hold takes effect, and
they, the BLOCKED bits, the test port and the declaration block keep their contents. Tiles b.0 to b.9 are active and
tile b.10 is the spare (R25).
The model's reading: log entry 44. -/
def Obligations.PorResetsTheBlock : Prop :=
  (∀ s : State, exec (.porN s.porN) s = .next s) ∧
  (∀ (level : Bool) (s : State), level ≠ s.porN → ∃ t, exec (.porN level) s = .next t ∧
    t.porN = level ∧ t.pending = s.pending ∧ t.mclk = s.mclk ∧ t.tap = s.tap ∧ t.declaration = s.declaration ∧ t.mgmtBlocked = s.mgmtBlocked ∧
    t.mgmtOut = false ∧ t.fclkOut = false ∧ t.tclkOut = false ∧ t.service = .boot ∧ t.bootPhase = .waiting ∧
    t.readyDone = false ∧ t.fwVersion = 0 ∧ t.intStatus = 0 ∧ t.intEnable = 0 ∧ t.fatal = 0 ∧ t.cfgLock = false ∧
    t.evq = RingRegs.reset ∧ t.logm = RingRegs.reset ∧ t.mbx = Vector.replicate 4 Mailbox.reset ∧ t.bells = [] ∧
    t.streams = [] ∧ t.chains = [] ∧ t.intervals = [] ∧ t.longOps = [] ∧ t.log.entries = [] ∧ t.log.nextSeq = 0 ∧
    (∀ b : Fin 8, (t.band b.val).cclkOut = false ∧ (t.band b.val).hclkOut = false ∧ (t.band b.val).fabCredits = 0 ∧
      (t.band b.val).blocked = (s.band b.val).blocked ∧ (t.band b.val).spare = some 10) ∧
    (∀ i : Fin 88, (t.tile i.val).repBad = (s.tile i.val).repBad ∧ (t.tile i.val).repBanks = (s.tile i.val).repBanks ∧
      (t.tile i.val).repRows = (s.tile i.val).repRows ∧ (t.tile i.val).effBad = (s.tile i.val).repBad ∧
      (t.tile i.val).effBanks = (s.tile i.val).repBanks ∧ (t.tile i.val).effRows = (s.tile i.val).repRows ∧
      (t.tile i.val).blocked = (s.tile i.val).blocked ∧ (t.tile i.val).opdCredits = 0 ∧ (t.tile i.val).rows = [] ∧
      (t.tile i.val).queue = [] ∧ ((t.tile i.val).active = true ↔ i.val % 11 ≠ 10)))

/-- R324, Table 13.7: the management domain leaves reset first, on MCLK, the FCLK side and the time base after it, the
domains of a band once Glomen releases it. With its CCLK the records that its taps have latched cross to the event arbiter
(R380, Table 13.2), and no count changes.
The model's reading: log entry 118. A command that is not enabled changes nothing: log entry 10. -/
def Obligations.DomainsLeaveResetInOrder : Prop :=
  (∀ s : State, exec (.domainResetRelease .management) s = .next (if s.porN && s.mclk then
    { s with mgmtOut := true } else s)) ∧
  (∀ s : State, exec (.domainResetRelease .fabric) s = .next (if s.mgmtRuns then { s with fclkOut := true } else s)) ∧
  (∀ s : State, exec (.domainResetRelease .timeBase) s = .next (if s.mgmtRuns then { s with tclkOut := true } else s)) ∧
  (∀ (b : Fin 8) (s : State), (s.bootPhase = .selfTest ∨ s.bootPhase = .ready ∨ s.bootPhase = .finished) →
    ∃ t, exec (.domainResetRelease (.bandCompute b)) s = .next t ∧
      t.band b.val = { s.band b.val with cclkOut := true } ∧ (∀ k : Fin 8, k ≠ b → t.band k.val = s.band k.val) ∧
      t = { s with bands := t.bands, taps := t.taps, arb := t.arb, intStatus := t.intStatus } ∧
      ((∀ x ∈ s.taps, x.latch = none) → t = { s with bands := t.bands }) ∧
      ∀ src code, t.kindCount src code = s.kindCount src code) ∧
  (∀ (b : Fin 8) (s : State), (s.bootPhase = .selfTest ∨ s.bootPhase = .ready ∨ s.bootPhase = .finished) →
    ∃ t, exec (.domainResetRelease (.hostMatrix b)) s = .next t ∧
      t.band b.val = { s.band b.val with hclkOut := true } ∧ (∀ k : Fin 8, k ≠ b → t.band k.val = s.band k.val) ∧
      t = { s with bands := t.bands }) ∧
  (∀ (b : Fin 8) (s : State), s.bootPhase ≠ .selfTest → s.bootPhase ≠ .ready → s.bootPhase ≠ .finished →
    exec (.domainResetRelease (.bandCompute b)) s = .next s ∧ exec (.domainResetRelease (.hostMatrix b)) s = .next s)

/-- Table 13.7 steps 2 to 5, R307: the stub reads the key pins, and stops with NO_KEY where key_valid is 0. An image that
passes its checks starts Glomen from its slot, in POST, with point 2 requested within cap and floor for every band; one
that fails sends the stub to slot B, and after slot B to NO_SERVICE with cause AUTH. Each check is a key use of the stub
(ORIGIN 5) in the change log.
The read goes over the lowest band whose FAB port has returned credits, is counted there, and waits while none has.
The model's reading: log entries 43 and 66.
A command that is not enabled changes nothing: log entry 10. -/
def Obligations.BootStubChecksAndStartsAnImage : Prop :=
  (∀ (k : BitVec 384) (valid : Bool) (base : BitVec 52) (s : State), s.mgmtRuns = true → s.bootPhase = .waiting →
    exec (.romStubStart k valid base) s = .next (if valid then
      { s with keyHash := k, keyValid := valid, bootBase := base, bootPhase := .readA }
    else
      { s with keyHash := k, keyValid := valid, bootBase := base, service := .noService, cause := .noKey,
               bootPhase := .stopped })) ∧
  (∀ (img : HostRead) (arc : BitVec 64) (s : State), s.vaneReads = false → exec (.bootImageCheckDone img arc) s = .next s) ∧
  (∀ (img : HostRead) (arc : BitVec 64) (s : State), s.mgmtRuns = true → (s.bootPhase = .readA ∨ s.bootPhase = .readB) →
    s.vaneReads = true → ∃ t, exec (.bootImageCheckDone img arc) s = .next t ∧ t.keyArc = arc ∧
      Logged s t 5 kKeyUse 0 0xFFFF 0 (arc.toNat % 2 ^ 32) (arc.toNat % 2 ^ 32) ∧
      (if State.stubCheck img s.keyHash arc.toNat = .ok then
        t.service = .post ∧ t.bootPhase = .selfTest ∧ t.slotB = (s.bootPhase == .readB) ∧
        (∀ bs, img = .data bs →
          t.fwVersion = BitVec.ofNat 32 (imgFwver ((padTake bs 262144).take (leAt (padTake bs 262144) 16 4)))) ∧
        (∀ bs, img = .data bs → (t.band s.vaneBand).fabIssued = min ((s.band s.vaneBand).fabIssued + 2048) 0xFFFFFFFF) ∧
        (32 ≤ s.logAvail → ∀ b : Fin 8, (t.band b.val).req =
          (if (s.band b.val).cap < (s.band b.val).floor then (s.band b.val).cap
           else min (s.band b.val).cap (max (s.band b.val).floor 2)))
      else if s.bootPhase = .readA then t.bootPhase = .readB ∧ t.service = s.service ∧ t.fwVersion = s.fwVersion
      else t.bootPhase = .stopped ∧ t.service = .noService ∧ t.cause = .auth ∧ t.fwVersion = s.fwVersion))

/-- Table 13.7 steps 6 to 8, R28, R326, R332: after the self-test the map is formed, and READY stands in mailbox 0, where
service begins; behind a response that the host has not acknowledged READY waits, and step 8 with it. A band
without its clocks or its FAB port, or with two tiles that its fuses mark, is not in the map; another band with a passing
tile is. A tile marked or failed is gated and left out; the others of the first ten are active; the spare of a band with no
marked tile takes the place of an active tile that failed, and the band then has no spare.
The model's reading: that a tile without power, or still in its reset or its entry check, counts as failed, log entry 92; that
step 8 waits with READY, log entry 55. -/
def Obligations.SelfTestFormsTheMapAndReportsReady : Prop :=
  ∀ (r : PostReport) (s : State), s.mgmtRuns = true → s.bootPhase = .selfTest →
    ∃ t, exec (.powerOnSelfTestDone r) s = .next t ∧
      (∀ b : Fin 8, (t.band b.val).present = true → r.clocked.getLsbD b.val = true ∧ r.fabUp.getLsbD b.val = true ∧
        (s.band b.val).cclkOut = true ∧ (s.band b.val).hclkOut = true) ∧
      (∀ b : Fin 8, r.clocked.getLsbD b.val = true → r.fabUp.getLsbD b.val = true → (s.band b.val).cclkOut = true →
        (s.band b.val).hclkOut = true →
        let bad (i : Nat) : Bool := State.fuseBad (s.tile i)
        let fails (i : Nat) : Bool := s.testFails r i
        let marked := (bandTiles b.val).countP bad
        (2 ≤ marked → (t.band b.val).present = false) ∧
        (marked ≤ 1 → ((t.band b.val).present = true ↔ ∃ i ∈ bandTiles b.val, bad i = false ∧ fails i = false)) ∧
        (∀ i ∈ bandTiles b.val, bad i = true ∨ fails i = true → (t.tile i).active = false ∧ (t.tile i).pgReq = true) ∧
        (∀ i ∈ bandTiles b.val, marked ≤ 1 → bad i = false → fails i = false → i ≠ 11 * b.val + 10 →
          (t.tile i).active = true ∧ (t.tile i).pgReq = (s.tile i).pgReq) ∧
        (marked = 0 → fails (11 * b.val + 10) = false →
          let whole := ((bandTiles b.val).take 10).all (fun i => !fails i)
          (t.tile (11 * b.val + 10)).active = !whole ∧ (t.band b.val).spare = if whole then some 10 else none)) ∧
      ((s.mailbox 0).valid = false → t.readyDone = true ∧ t.bootPhase = .finished ∧
        (t.service = .service ∨ t.service = .noService ∧ t.cause = .noSet) ∧
        (t.service = .service ↔ ∃ b : Fin 8, (t.band b.val).present = true) ∧
        (t.mailbox 0).valid = true ∧ (t.mailbox 0).outLen = 10 ∧
        (t.mailbox 0).outW.get 0 = 0xFFFF0000 ∧ (t.mailbox 0).outW.get 1 = t.fwVersion) ∧
      ((s.mailbox 0).valid = true → t.bootPhase = .ready ∧ t.readyDone = s.readyDone ∧ t.service = s.service ∧
        t.mbx = s.mbx ∧ t.policy = s.policy ∧ t.log = s.log)

/-! ### The mailboxes -/

/-- R18, R333: a malformed command is answered with its status of Table 14.2 and, in word 1, 0 for OPCODE and TAG
and LEN + 1 for LENGTH; nothing but the mailbox and its interrupt changes, but that a hand-over in progress waits for this
command no longer (Table 14.12) and the counter of commands taken counts it (Table 17.7). -/
def Obligations.MalformedCommandChangesOnlyItsMailbox : Prop :=
  ∀ (m : Fin 4) (st w : Nat) (s : State), s.mgmtRuns = true → (s.mailbox m.val).state = .queued →
    (s.cmd m.val).malformed = some (st, w) →
    (st = 0x0301 ∧ w = 0 ∧ argMasks (s.cmd m.val).op ((s.cmd m.val).arg 1) = none ∨
      st = 0x0302 ∧ w = (s.mailbox m.val).len.toNat + 1 ∨ st = 0x0303 ∧ 1 ≤ w ∧ w < 16 ∨
      st = 0x0304 ∧ w = 0 ∧ (s.cmd m.val).tag = 0xFFFF) ∧
    ∃ t, exec (.commandMalformed m) s = .next t ∧ Answered s t m st [w] ∧
      t = { s with mbx := t.mbx, bells := t.bells, commandsTaken := satInc s.commandsTaken
                   handover := handoverAfter s m.val, intStatus := intAnswered s m.val }

/-- R17, R18, R334, R338, R350, R391: a command of any mailbox row that is in its turn and that a hand-over, a busy
block or its origin turns away is answered with that status; a refusal is logged with its status as the result, or is
LOG_FULL where no entry can be made; a busy or hand-over answer is not logged. No chain, table, stream, tile or band
changes; a hand-over in progress waits for this command no longer (Table 14.12), and the counter of commands taken counts
it (Table 17.7).
The model's reading: log entry 15. -/
def Obligations.TurnedAwayCommandsAreAnsweredAndLogged : Prop :=
  ∀ (c : Instr) (m : Fin 4) (op : Nat) (pick : Cmd → Bool) (r : Refuse) (s : State),
    mailboxOp c = some (m, op, pick) → s.takes m.val op = true → pick (s.cmd m.val) = true →
    s.guard (s.cmd m.val) = some r →
    ∃ t, exec c s = .next t ∧
      (r.status = stHandover ∨ r.status = stBusy ∨ r.status = stPermission) ∧
      (r.status ≠ stPermission → Answered s t m r.status [] ∧ t.log = s.log) ∧
      (r.status = stPermission → s.logRoom false = true → Answered s t m stPermission [] ∧
        Logged s t m.val (kindOfOp op) stPermission (s.cmd m.val).tag (s.logObject (s.cmd m.val)) 0 0) ∧
      (r.status = stPermission → s.logRoom false = false → Answered s t m stLogFull [] ∧ t.log = s.log) ∧
      t = { s with mbx := t.mbx, bells := t.bells, commandsTaken := satInc s.commandsTaken, handover := handoverAfter s m.val,
                   intStatus := t.intStatus, refusals := t.refusals, log := t.log, taps := t.taps, arb := t.arb }

/-- R329, R330, R332, Table 17.3: OUT_ACK with bit 0 set clears VALID and the mailbox's INT_STATUS bit; a response
that was held is then written and its mailbox IDLE, else the oldest READY message that waits; a write without bit 0
does nothing. The access completes on CTL as every write does (R304). Where the READY of start-up has waited for mailbox 0
and nothing else waits there, it is written and service begins (Table 13.7 step 8).
The model's reading: log entries 55 and 78. -/
def Obligations.OutAckReleasesTheMailbox : Prop :=
  ∀ (m : Fin 4) (v : Word) (s : State), s.mgmtRuns = true →
    (v.getLsbD 0 = false → exec (.outAck m v) s = .next { s with ctlAck := true, ctlRdata := 0 }) ∧
    (v.getLsbD 0 = true → s.bootPhase = .ready → m = 0 → (s.mailbox 0).held = none → (s.mailbox 0).ready = [] →
      ∃ t, exec (.outAck m v) s = .next t ∧ t.readyDone = true ∧ t.bootPhase = .finished ∧
        (t.service = .service ↔ ∃ b : Fin 8, (s.band b.val).present = true) ∧
        (∀ b : Fin 8, (t.band b.val).present = (s.band b.val).present) ∧
        (t.mailbox 0).valid = true ∧ (t.mailbox 0).outLen = 10 ∧ (t.mailbox 0).outW.get 0 = 0xFFFF0000 ∧
        (t.mailbox 0).outW.get 1 = s.fwVersion ∧ t.intStatus.getLsbD 0 = true ∧ t.ctlAck = true ∧
        (∀ k : Fin 4, k ≠ 0 → t.mailbox k.val = s.mailbox k.val)) ∧
    (v.getLsbD 0 = true →
      (s.bootPhase ≠ .ready ∨ m ≠ 0 ∨ (s.mailbox 0).held ≠ none ∨ (s.mailbox 0).ready ≠ []) →
      ∃ t, exec (.outAck m v) s = .next t ∧
      t = { s with mbx := t.mbx, intStatus := t.intStatus, ctlAck := true, ctlRdata := 0 } ∧
      (∀ k : Fin 4, k ≠ m → t.mailbox k.val = s.mailbox k.val) ∧
      (∀ i : Fin 32, i.val ≠ m.val → t.intStatus.getLsbD i.val = s.intStatus.getLsbD i.val) ∧
      (let x := s.mailbox m.val
       match x.held, x.ready with
       | some ws, _ =>
         t.mailbox m.val = { x with valid := true, state := .idle, held := none,
                                    outW := overlay x.outW (ws.map (fun w => w.toNat)),
                                    outLen := BitVec.ofNat 4 (ws.length - 1) } ∧ t.intStatus.getLsbD m.val = true
       | none, ws :: rest =>
         t.mailbox m.val = { x with valid := true, ready := rest, outW := overlay x.outW (ws.map (fun w => w.toNat)),
                                    outLen := BitVec.ofNat 4 (ws.length - 1) } ∧ t.intStatus.getLsbD m.val = true
       | none, [] => t.mailbox m.val = { x with valid := false } ∧ t.intStatus.getLsbD m.val = false))

/-- R331, R336, Tables 14.6 and 14.7: the read-only commands answer OK with their words, and change nothing but the
mailbox: GET_INFO for each selector, QUERY_STREAM of an open stream, QUERY_PROGRESS of a stream or a long operation in
progress, READ_LOG of an entry held; a hand-over in progress waits for the command no longer (Table 14.12), and the counter of
commands taken counts it (Table 17.7). Of READ_LOG the read of management SRAM counts a corrected error and sets FATAL_STATUS.MGMT at
one that is not correctable.
How that read ends, and what it then delivers, are free values: log entry 82. -/
def Obligations.ReadOnlyCommandsAnswerAndChangeNothing : Prop :=
  ∀ (m : Fin 4) (s : State),
    let c := s.cmd m.val
    let quiet (t : State) : Prop := t = { s with
      mbx := t.mbx, bells := t.bells, commandsTaken := satInc s.commandsTaken
      handover := handoverAfter s m.val, intStatus := intAnswered s m.val }
    (Accepted s m opGetInfo → ∃ t, exec (.getInfo m) s = .next t ∧ quiet t ∧
      Answered s t m stOk (match bits (c.arg 1) 3 0 with
        | 0 => s.info0
        | 1 => (List.range 8).map s.mapWord
        | 2 => s.info2
        | _ => s.info3 (bits (c.arg 1) 25 16))) ∧
    (∀ x, Accepted s m opQueryStream → s.stream? (bits (c.arg 1) 13 0) = some x →
      ∃ t, exec (.queryStream m) s = .next t ∧ quiet t ∧ Answered s t m stOk
        ((x.code + b2n x.suspended * 2 ^ 3 + x.desc.tmask.toNat * 2 ^ 16 + b2n x.lateSat * 2 ^ 31) ::
          s.promiseWords x ++ [x.lateCount, min (x.worst.getD 0 0) 0xFFFFFFFF, min (x.worst.getD 1 0) 0xFFFFFFFF,
            min (x.worst.getD 2 0) 0xFFFFFFFF])) ∧
    (∀ done total, Accepted s m opQueryProgress →
      (bit (c.arg 1) 31 = false ∧ (∃ x, s.stream? (bits (c.arg 1) 13 0) = some x ∧ x.progress = (done, total)) ∨
        bit (c.arg 1) 31 = true ∧ ∃ o, s.longOp? (bits (c.arg 1) 17 16) (BitVec.ofNat 16 (bits (c.arg 1) 15 0)) = some o ∧
          o.done = done ∧ o.total = total) →
      ∃ t, exec (.queryProgress m) s = .next t ∧ quiet t ∧ Answered s t m stOk
        [done % 2 ^ 32, done / 2 ^ 32 % 2 ^ 16 + (if total = 0 then 0xFFFF else 1000 * done / total) * 2 ^ 16,
          total % 2 ^ 32, total / 2 ^ 32 % 2 ^ 16]) ∧
    (∀ x, Accepted s m opReadLog →
      s.log.entries.find? (fun x => x.1.seq.toNat == c.arg 1 && x.1.epoch.toNat % 2 ^ 16 == c.arg 2) = some x →
      ∃ t, exec (.readLog m) s = .next t ∧
        (∃ u, quiet u ∧ t = { u with fresh := s.fresh + 1, mgmtCorrected := t.mgmtCorrected, fatal := t.fatal }) ∧
        t.mgmtCorrected = (if Config.sramOutcome s.fresh = .corrected then satInc s.mgmtCorrected else s.mgmtCorrected) ∧
        t.fatal = (if Config.sramOutcome s.fresh = .uncorrectable then s.fatal ||| 4 else s.fatal) ∧
        Answered s t m stOk (if Config.sramOutcome s.fresh = .uncorrectable then
            (List.range 8).map (fun i => (Config.sramWord s.fresh i).toNat)
          else (List.range 8).map (fun i => leAt x.1.bytes (4 * i) 4)))

/-! ### Tables, chains and streams -/

/-- R257, Table 10.12: RETIRE_CHAIN of a chain on which no stream is open frees its id and leaves every other chain; the
change is logged with the old signature. -/
def Obligations.RetireChainFreesItsId : Prop :=
  ∀ (m : Fin 4) (v : Chain) (s : State), Accepted s m opRetireChain → s.logRoom false = true →
    s.chain? (bits ((s.cmd m.val).arg 1) 9 0) = some v → s.openOn (bits ((s.cmd m.val).arg 1) 9 0) = 0 →
    ∃ t, exec (.retireChain m) s = .next t ∧ Answered s t m stOk [] ∧
      Logged s t m.val kChain stOk (s.cmd m.val).tag (bits ((s.cmd m.val).arg 1) 9 0) v.sig.toNat 0 ∧
      t.versions (bits ((s.cmd m.val).arg 1) 9 0) = [] ∧
      (∀ id, id ≠ bits ((s.cmd m.val).arg 1) 9 0 → t.chain? id = s.chain? id) ∧
      t = { s with chains := t.chains, slots := t.slots, books := t.books, log := t.log, mbx := t.mbx, bells := t.bells,
                   commandsTaken := satInc s.commandsTaken, handover := handoverAfter s m.val, intStatus := t.intStatus, taps := t.taps,
                   arb := t.arb }

/-- R155, R150: RETIRE_TABLE of a loaded table that no chain names frees all its slots at once where no row and no queued
XEV request holds the table, nor an older version of a chain that its rows may still begin in (R248), and leaves them
DRAINING where one does; every other slot that is not DRAINING stays as it is. The slots are legal, as every step keeps them. -/
def Obligations.RetireTableDrainsThenFrees : Prop :=
  ∀ (m : Fin 4) (i : Fin 4) (x : Table) (s : State), Accepted s m opRetireTable → s.logRoom false = true →
    SlotsLegal s → i.val = bits ((s.cmd m.val).arg 1) 1 0 → s.loadedAt i.val = some x → s.tableNamed i.val = false →
    ∃ t, exec (.retireTable m) s = .next t ∧ Answered s t m stOk [] ∧
      Logged s t m.val kTable stOk (s.cmd m.val).tag i.val (leAt x.hash 0 4) 0 ∧
      i.val ∈ slotRange i.val x.nslots ∧
      (∀ j : Fin 4, j.val ∈ slotRange i.val x.nslots →
        (t.slots.get j).state = (if s.slotHeld i.val = false then .free else .draining)) ∧
      (∀ j : Fin 4, j.val ∉ slotRange i.val x.nslots → (s.slots.get j).state ≠ .draining → t.slots.get j = s.slots.get j) ∧
      t = { s with slots := t.slots, log := t.log, mbx := t.mbx, bells := t.bells, commandsTaken := satInc s.commandsTaken,
                   handover := handoverAfter s m.val, intStatus := t.intStatus, taps := t.taps, arb := t.arb }

/-- R151: LOAD_TABLE of an image that passes the steps of R151 is ACCEPTED: its slots are LOADING with the table, and
the load and its long operation are in progress; the read of the image is counted at the band that carries it.
The model's reading: log entry 66. -/
def Obligations.LoadTableIsAccepted : Prop :=
  ∀ (m : Fin 4) (img : List Byte) (x : Table) (s : State),
    let c := s.cmd m.val
    let first := bits (c.arg 3) 17 16
    let repl := if bit (c.arg 3) 20 then some (bits (c.arg 3) 25 24) else none
    Accepted s m opLoadTable → s.logRoom true = true → c.addr 1 % 128 = 0 → s.vaneReads = true →
    s.tableStep (bits (c.arg 3) 12 0) first repl img = .ok x →
    ∃ t, exec (.loadTable m (.data img)) s = .next t ∧ Answered s t m stAccepted [] ∧
      (∃ old, Logged s t m.val kTable stAccepted c.tag (s.logObject c) old (leAt x.hash 0 4)) ∧
      (∀ i : Fin 4, first ≤ i.val → i.val < first + x.nslots →
        t.slots.get i = { state := .loading, first := first, table := some x }) ∧
      (∀ i : Fin 4, (i.val < first ∨ first + x.nslots ≤ i.val) → t.slots.get i = s.slots.get i) ∧
      t.loads = s.loads ++ [{ first := first, replaces := repl, origin := m.val, tag := c.tag }] ∧
      (∃ o, t.longOps = s.longOps ++ [o] ∧ o.origin = m.val ∧ o.tag = c.tag ∧ o.done = 0 ∧ o.total = 2 ^ x.bits) ∧
      t.chains = s.chains ∧ t.streams = s.streams ∧ t.tiles = s.tiles ∧
      t.bands = (s.countReads (ceilDiv (bits (c.arg 3) 12 0) 128) (bits (c.arg 3) 12 0)).bands

/-- R153, R154, Table 14.10: when every tile holds the table its slots are LOADED, and the load's operation ends with a
TABLE_LOADED notice; a table that it replaces is no longer LOADED. The slots are legal, as every step keeps them; where the
log has no room for the re-points' entries nothing happens yet (log entry 73).
Counts of findings: log entry 47.
A command that is not enabled changes nothing: log entry 10. -/
def Obligations.TableWriteCompletesTheLoad : Prop :=
  ∀ (first : Fin 4) (l : TableLoad) (x : Table) (s : State), s.mgmtRuns = true → SlotsLegal s →
    s.loads.find? (fun y => y.first == first.val) = some l → (s.slot first.val).table = some x →
    (s.repointRoom l = false → exec (.tableWriteDone first) s = .next s) ∧
    (s.repointRoom l = true → ∃ t, exec (.tableWriteDone first) s = .next t ∧
      (∀ i : Fin 4, i.val ∈ slotRange first.val x.nslots →
        t.slots.get i = { state := .loaded, first := first.val, table := some x }) ∧
      (∀ r : Fin 4, l.replaces = some r.val → s.loadedAt r.val ≠ none →
        (t.slots.get r).state ≠ .loaded ∧
        ∀ id v, t.chain? id = some v → v.slotsNamed.contains r.val = false) ∧
      (∀ y ∈ t.loads, y.first ≠ first.val) ∧ t.longOp? l.origin l.tag = none ∧
      (∀ o, s.longOp? l.origin l.tag = some o → o.opcode = opLoadTable →
        t.kindCount srcMgmt evTableLoaded = satInc (s.kindCount srcMgmt evTableLoaded)) ∧
      t.tiles = s.tiles ∧ t.bands = s.bands ∧ t.streams = s.streams)

/-- R252: LOAD_CHAIN of a descriptor that passes the steps of R252 makes it the chain's newest version, with the next
version number, and leaves every other id's chain; the read of the descriptor is counted at the band that carries it.
The model's reading: log entry 66. -/
def Obligations.LoadChainInstallsTheVersion : Prop :=
  ∀ (m : Fin 4) (img : List Byte) (s : State),
    let c := s.cmd m.val
    let len := bits (c.arg 3) 17 0
    let id := bits (c.arg 4) 9 0
    let v := s.newChain id (padTake img len)
    Accepted s m opLoadChain → s.logRoom false = true → c.addr 1 % 128 = 0 → s.vaneReads = true → headerOk (padTake img 32) len = true →
    s.chainSlotCheck id (bit (c.arg 4) 16) = none → chainChecks s.slots s.resident v = none → s.replaceCheck v = none →
    ∃ t, exec (.loadChain m (.data img)) s = .next t ∧ Answered s t m stOk [] ∧
      (∃ old, Logged s t m.val kChain stOk c.tag id old v.sig.toNat) ∧ t.chain? id = some v ∧ v.id = id ∧
      v.ver = s.nextVer ∧ t.nextVer = s.nextVer + 1 ∧ (∀ k, k ≠ id → t.chain? k = s.chain? k) ∧
      t.tiles = s.tiles ∧ t.bands = (s.countReads (ceilDiv len 128) len).bands ∧ t.loads = s.loads ∧ t.longOps = s.longOps ∧
      t.streams.map (fun x => (x.sid, x.desc, x.closing, x.suspended, x.rows)) =
        s.streams.map (fun x => (x.sid, x.desc, x.closing, x.suspended, x.rows))

/-- R264, R274: OPEN_STREAM of a descriptor that passes its checks and admission opens the stream and answers its promise
record, with one context of its band less (R387); every other stream stays; the read of the descriptor is counted at the band that carries it.
The model's reading: log entry 66. -/
def Obligations.OpenStreamOpensTheContext : Prop :=
  ∀ (m : Fin 4) (img : List Byte) (v : Chain) (s : State),
    let c := s.cmd m.val
    let sid := bits (c.arg 1) 13 0
    let bs := padTake img 128
    let d := parseStream sid bs
    Accepted s m opOpenStream → s.logRoom false = true → c.addr 2 % 128 = 0 → s.vaneReads = true → s.descFails bs d = none →
    s.contextCheck sid d = none → s.chain? d.chain = some v → s.admission sid v d = none →
    ∃ t x, exec (.openStream m (.data img)) s = .next t ∧ t.stream? sid = some x ∧ x.sid = sid ∧ x.desc = d ∧
      x.closing = false ∧ x.migration = none ∧ x.rows = [] ∧ x.done = 0 ∧ x.lateCount = 0 ∧
      Answered s t m stOk (t.promiseWords x) ∧
      Logged s t m.val kStream stOk c.tag (sid + d.cls * 2 ^ 16) 0 (leAt (sha256 bs) 0 4) ∧
      (∀ k, k ≠ sid → t.stream? k = s.stream? k) ∧ t.books = s.books.follow s.inUse t.inUse ∧
      t = { s with bands := (s.countReads 1 128).bands, streams := t.streams, books := t.books, intervals := t.intervals, log := t.log, mbx := t.mbx, bells := t.bells,
                   commandsTaken := satInc s.commandsTaken, handover := handoverAfter s m.val, intStatus := t.intStatus, taps := t.taps,
                   arb := t.arb }

/-- R284, R343: CLOSE_STREAM of an open stream is ACCEPTED and logged; one of which the block holds no row, no row pass, no
block and no beat is then FREE, whatever it holds of other streams, unless a hand-over pauses its end. No stream comes to be
by it, every other stream keeps its descriptor, its migration and whether it closes, and one that does not close stays. -/
def Obligations.CloseStreamIsAcceptedAndEnds : Prop :=
  ∀ (m : Fin 4) (x : Stream) (s : State),
    let sid := bits ((s.cmd m.val).arg 1) 13 0
    Accepted s m opCloseStream → s.logRoom true = true → s.stream? sid = some x → x.closing = false →
    ∃ t, exec (.closeStream m) s = .next t ∧ Answered s t m stAccepted [] ∧
      Logged s t m.val kStream stAccepted (s.cmd m.val).tag (sid + x.desc.cls * 2 ^ 16) x.hash.toNat 0 ∧
      (s.paused = false → x.rows = [] →
        (∀ i : Fin 88, (∀ b ∈ (s.tile i.val).blocks, b.sid = sid → b.rows = []) ∧
          (∀ q ∈ (s.tile i.val).queue, q.sid ≠ sid) ∧
          (∀ o ∈ (s.tile i.val).openPasses, o.sid = sid → o.isOpen = false ∨ o.stray = true) ∧
          ∀ p ∈ (s.tile i.val).rows, p.sid ≠ sid) →
        t.stream? sid = none) ∧
      ∀ k, k ≠ sid →
        (∀ w, t.stream? k = some w → ∃ z, s.stream? k = some z ∧ w.desc = z.desc ∧ w.closing = z.closing ∧
          w.migration = z.migration) ∧
        (∀ z, s.stream? k = some z → z.closing = false → ∃ w, t.stream? k = some w)

/-! ### Policy, floors, surroundings and merges -/

/-- R342, Table 14.9: SET_POLICY that passes its checks sets the item of its scope to VALUE, answers the value before,
and logs both; every other item stays. -/
def Obligations.SetPolicySetsTheItem : Prop :=
  ∀ (m : Fin 4) (s : State),
    let c := s.cmd m.val
    let item := bits (c.arg 1) 7 0
    let scope := bits (c.arg 1) 22 16
    let v := c.arg 2
    Accepted s m opSetPolicy → s.logRoom false = true → s.policyCheck item scope v = none →
    ∃ t, exec (.setPolicy m) s = .next t ∧ Answered s t m stOk [s.policyValue item scope] ∧
      Logged s t m.val kPolicy stOk c.tag (c.arg 1) (s.policyValue item scope) v ∧ t.policyValue item scope = v ∧
      (∀ i k, policyItem i ≠ none → k < 88 → (i ≠ item ∨ (k ≠ scope ∧ (i = 3 ∨ 7 ≤ i))) →
        t.policyValue i k = s.policyValue i k) ∧
      t = { s with policy := t.policy, tiles := t.tiles, bands := t.bands, streams := t.streams, log := t.log,
                   mbx := t.mbx, bells := t.bells, commandsTaken := satInc s.commandsTaken, handover := handoverAfter s m.val,
                   intStatus := t.intStatus, taps := t.taps, arb := t.arb }

/-- R318: SET_FLOOR_CLOCK of a band in the map, to a point at which its streams are still admitted, sets the floor,
answers the band's new map word and logs the floors; every other band keeps its floor. -/
def Obligations.SetFloorClockSetsTheFloor : Prop :=
  ∀ (m : Fin 4) (b : Fin 8) (s : State),
    let c := s.cmd m.val
    let p := bits (c.arg 1) 11 8
    Accepted s m opSetFloor → s.logRoom false = true → b.val = bits (c.arg 1) 2 0 → p ≤ 8 →
    (s.band b.val).present = true →
    (p < (s.band b.val).floor →
      (s.modBand b.val (fun x => { x with floor := p })).readmit (fun x => sidBand x.sid == b.val) = none) →
    ∃ t, exec (.setFloorClock m) s = .next t ∧ (t.band b.val).floor = p ∧ Answered s t m stOk [t.mapWord b.val] ∧
      Logged s t m.val kFloor stOk c.tag b.val (s.band b.val).floor p ∧
      (∀ k : Fin 8, k ≠ b → t.band k.val = s.band k.val) ∧
      ((t.band b.val).cur < p → (t.band b.val).sqThrottle = true ∨ s.readyDone = false)

/-- R371, R372: SURROUNDINGS_NOTICE with KIND 1 opens or restarts the pair's interval with its duration, and lists and
suspends every stream at risk; KIND 2 ends the pair's interval. Both answer and log how many streams are listed, and
leave every other interval as it is. R372: an interval whose duration has elapsed raises one SURROUNDINGS_OVERDUE notice and
stays open; its elapsing again, and that of a pair with no interval, change nothing.
The model's reading: log entries 41 and 47.
A command that is not enabled changes nothing: log entry 10. -/
def Obligations.SurroundingsNoticeOpensAndEndsIntervals : Prop :=
  (∀ (m : Fin 4) (s : State),
    let c := s.cmd m.val
    let stack := BitVec.ofNat 4 (bits (c.arg 1) 11 8)
    let chan := BitVec.ofNat 8 (bits (c.arg 1) 19 12)
    let rest (t : State) : Prop := (∀ a b, (a, b) ≠ (stack, chan) → t.interval? a b = s.interval? a b) ∧
      t = { s with intervals := t.intervals, streams := t.streams, log := t.log, mbx := t.mbx, bells := t.bells,
                   commandsTaken := satInc s.commandsTaken, handover := handoverAfter s m.val, intStatus := t.intStatus, taps := t.taps,
                   arb := t.arb }
    Accepted s m opSurroundings → s.logRoom false = true →
    (bits (c.arg 1) 3 0 = 1 → ((s.interval? stack chan).isSome = true ∨ s.intervals.length < 16) →
      ∃ t i, exec (.surroundingsNoticeBegin m) s = .next t ∧ t.interval? stack chan = some i ∧
        i.duration = BitVec.ofNat 32 (c.arg 2) ∧ i.overdue = false ∧
        (∀ x ∈ s.streams, s.atRisk x = true → x.sid ∈ i.streams ∧ ∀ y, t.stream? x.sid = some y → y.suspended = true) ∧
        Answered s t m stOk [i.streams.length] ∧
        Logged s t m.val kSurroundings stOk c.tag (stack.toNat + chan.toNat * 2 ^ 8) (s.listed stack chan)
          i.streams.length ∧ rest t) ∧
    (∀ i, bits (c.arg 1) 3 0 = 2 → s.interval? stack chan = some i →
      ∃ t, exec (.surroundingsNoticeEnd m) s = .next t ∧ t.interval? stack chan = none ∧
        Answered s t m stOk [i.streams.length] ∧
        Logged s t m.val kSurroundings stOk c.tag (stack.toNat + chan.toNat * 2 ^ 8) i.streams.length 0 ∧ rest t)) ∧
  (∀ (stack : BitVec 4) (chan : BitVec 8) (s : State), s.mgmtRuns = true →
    (∀ i, s.interval? stack chan = some i → i.overdue = false →
      ∃ t, exec (.surroundingsDurationExpiry stack chan) s = .next t ∧
        t.interval? stack chan = some { i with overdue := true } ∧
        t.kindCount srcMgmt evSurroundingsOverdue = satInc (s.kindCount srcMgmt evSurroundingsOverdue) ∧
        t = { s with intervals := t.intervals, taps := t.taps, arb := t.arb, intStatus := t.intStatus } ∧
        exec (.surroundingsDurationExpiry stack chan) t = .next t) ∧
    (s.interval? stack chan = none → exec (.surroundingsDurationExpiry stack chan) s = .next s))

/-- R200, R206, R418: MERGE with OP 0 for a row whose merge has begun ends the merge: it leaves its place, the row's final
record is the poisoned one, with the POISON flag and no sums, the READERS add is queued behind what else the band has
to send, and requests of the merge that FAB has not yet accepted are withdrawn; then the row's tiles go on, and the
command is logged and answered. -/
def Obligations.AbandonPoisonsTheRow : Prop :=
  ∀ (m : Fin 4) (g : Merge) (x : Stream) (r : RowCtx) (s : State),
    let c := s.cmd m.val
    let sid := bits (c.arg 1) 29 16
    let b := sidBand sid
    let poisoned := poisonedFinal g.own g.own
    Accepted s m opMergeCmd → s.logRoom false = true → bit (c.arg 1) 0 = false → c.arg 4 = 0 → c.arg 5 = 0 →
    s.merge? b sid c.mergeRow (bits (c.arg 1) 11 8) = some g → g.began = true →
    s.stream? sid = some x → x.row? c.mergeRow = some r → (s.band b).away = false →
    poisoned.flags = 0x02 ||| (g.own.flags &&& 0x0C) ∧ poisoned.sum = 0 ∧ poisoned.sumsq = 0 ∧ poisoned.row = g.own.row ∧
    ∃ (s1 t : State) (y : Stream), exec (.mergeAbandon m) s = .next t ∧ Answered s t m stOk [] ∧
      t.merge? b sid c.mergeRow (bits (c.arg 1) 11 8) = none ∧
      t = ((s1.settleTiles r.tiles).logPut
        { origin := m.val, kind := kMerge, result := stOk, tag := c.tag.toNat, object := s.logObject c,
          oldh := c.arg 2 % 2 ^ 32, newh := 0 }).answer c stOk [] ∧
      s1 = { s with streams := s1.streams, tiles := s1.tiles, bands := s1.bands } ∧
      s1.stream? sid = some y ∧
      y.row? c.mergeRow = some { r with finals := r.finals ++ [{ step := g.step, rcd := poisoned }] } ∧
      (∀ k, k ≠ sid → s1.stream? k = s.stream? k) ∧
      (s1.band b).fabQueue = dropRequests g (s.band b).fabQueue ++
        [addReq (g.owner .addReaders) false (g.base + areaSize g.layout g.parts - 64) 1] ∧
      (∀ k : Fin 8, k.val ≠ b → s1.band k.val = s.band k.val) ∧
      (∀ i : Fin 88, { s1.tile i.val with rows := [] } = { s.tile i.val with rows := [] })

/-- R195, R196, R197, R206, R303: MERGE with OP 1 for a row of a GATHER stage writes one 64-byte record at the address
named, over the lowest band of the map, and is logged. The record is the one that the model makes of the parts present
(State.combineRecord). Where every slot of the area was read and holds a part of the row that agrees with the first, and
their counts make up N, it is the complete merge of the parts.
The model's reading: log entries 39, 66 and 74. -/
def Obligations.CombineWritesOneRecord : Prop :=
  ∀ (m : Fin 4) (area : List HostRead) (x : Stream) (v : Chain) (i : Nat) (st : Stage) (low : Fin 8) (s : State),
    let c := s.cmd m.val
    let sid := bits (c.arg 1) 29 16
    let k := bits (c.arg 1) 11 8
    let slots := area.take x.desc.p
    let parts := readParts c.mergeRow (v.stage k).pass k slots
    let rcd := ((s.countReads slots.length (64 * slots.length)).combineRecord x v k c.mergeRow
      (areaAddr v x.desc i c.mergeRow) slots).2
    Accepted s m opMergeCmd → s.logRoom false = true → bit (c.arg 1) 0 = true → c.addr 4 % 64 = 0 → s.vaneReads = true →
    s.stream? sid = some x → s.chain? x.desc.chain = some v → v.mergeOf k = some (i, st) → st.mlay = 1 →
    (s.band (sidBand sid)).away = false → s.lowestBand = some low.val → (s.band low.val).vaneRoom = true →
    (∃ t, exec (.mergeCombine m area) s = .next t ∧ Answered s t m stOk [] ∧
      Logged s t m.val kMerge stOk c.tag (s.logObject c) (c.arg 2 % 2 ^ 32) 0 ∧
      (t.band low.val).fabQueue = (s.band low.val).fabQueue ++ [writeSlot .combine (c.addr 4) (recBytes rcd)] ∧
      (t.band low.val).fabIssued = min ((s.band low.val).fabIssued + slots.length) 0xFFFFFFFF ∧
      (∀ b : Fin 8, b ≠ low → t.band b.val = s.band b.val) ∧
      t = { s with bands := t.bands, log := t.log, mbx := t.mbx, bells := t.bells, commandsTaken := satInc s.commandsTaken,
                   handover := handoverAfter s m.val, intStatus := t.intStatus, taps := t.taps, arb := t.arb }) ∧
    (∀ (first all : Rec) (rest : List Rec), parts.map (fun q => q.2) = first :: rest → parts.length = slots.length →
      (∀ y ∈ rest, mismatchReason first y = 0) → mergeAll (zeroRec first :: first :: rest) = some all → x.desc.var = false →
      all.count.toNat = x.desc.len.getD ((v.stage k).pass - 1) 0 → rcd = finalOf x.sid all)

/-! ### Service operations -/

/-- R343, R357, R362, R366, R368: the long service commands on one tile are ACCEPTED where nothing stands against them,
and take the tile in hand. TILE_RETIRE and a tile that holds streams go through the spare, which is powered; a restored
tile is powered itself; BANK_OFF with room for every stream switches the bank off in place. R349: a test or a calibration that is accepted
while a hand-over waits for earlier commands pauses before its tile; one of a tile that has failed a check and holds no
stream passes it over and has nothing left to do in the band.
The model's reading: log entries 31 and 105. -/
def Obligations.ServiceCommandsTakeTheTileInHand : Prop :=
  ∀ (m : Fin 4) (i : Fin 88) (s : State),
    let c := s.cmd m.val
    let b := bandOf i.val
    let obj := s.logObject c
    let logged (t : State) : Prop := Answered s t m stAccepted [] ∧
      Logged s t m.val (kindOfOp c.op) stAccepted c.tag obj (s.svcWord c.op i.val) (s.svcWord c.op i.val)
    let inHand (o : SvcOp) : Prop :=
      (s.paused = false → o.cur = i.val ∧ (o.rotate = true ↔ s.streamsOn i.val ≠ [])) ∧
      (s.paused = true → o.phase = .next ∧ o.todo = [i.val])
    let passedOver (t : State) : Prop := (t.band b).svc = none ∧ t.streams = s.streams ∧ t.tiles = s.tiles
    bits (c.arg 1) 6 0 = i.val → s.logRoom true = true → (s.band b).away = false → (s.band b).svc = none →
    (∀ sp : Fin 11, Accepted s m opTileRetire → s.inMap i.val = true → (s.band b).spare = some sp →
      ∃ t o, exec (.tileRetire m) s = .next t ∧ logged t ∧ (t.band b).svc = some o ∧
        o.kind = .retire (bit (c.arg 1) 8) ∧ o.cur = i.val ∧ o.phase = .prepare ∧
        (t.tile (11 * b + sp.val)).pgReq = false ∧ (t.band b).spare = some sp ∧ t.streams = s.streams) ∧
    (Accepted s m opTileRestore → (s.tile i.val).retired = true → (s.band b).spare = none →
      ∃ t o, exec (.tileRestore m) s = .next t ∧ logged t ∧ (t.band b).svc = some o ∧ o.kind = .restore ∧
        o.cur = i.val ∧ o.phase = .power ∧ (t.tile i.val).pgReq = false ∧ t.streams = s.streams) ∧
    (∀ sp : Fin 11, Accepted s m opSelftest → s.hasRole i.val = true → (s.band b).spare = some sp →
      (s.paused = true ∨ s.outOfTurn i.val = false →
        ∃ t o, exec (.selftest m) s = .next t ∧ logged t ∧ (t.band b).svc = some o ∧ o.kind = .selftest ∧ inHand o ∧
          t.streams = s.streams) ∧
      (s.paused = false → s.outOfTurn i.val = true → ∃ t, exec (.selftest m) s = .next t ∧ passedOver t)) ∧
    (∀ sp : Fin 11, Accepted s m opCalibrate → State.itemOf c ∈ [1, 2, 3, 0x0F] → s.hasRole i.val = true →
      (s.band b).spare = some sp →
      (s.paused = true ∨ s.outOfTurn i.val = false →
        ∃ t o, exec (.calibrate m) s = .next t ∧ logged t ∧ (t.band b).svc = some o ∧
          o.kind = .calibrate (State.itemOf c) ∧ inHand o ∧ t.streams = s.streams) ∧
      (s.paused = false → s.outOfTurn i.val = true → ∃ t, exec (.calibrate m) s = .next t ∧ passedOver t)) ∧
    (∀ k : Fin 16, Accepted s m opCalibrate → State.itemOf c = 0x20 + k.val → s.hasRole i.val = true →
      (State.banksDown (s.tile i.val)).getLsbD k.val = false → State.bankCount (s.tile i.val) < 4 →
      s.bankShort i.val = [] →
      ∃ t, exec (.bankOff m) s = .next t ∧ logged t ∧ (State.banksDown (t.tile i.val)).getLsbD k.val = true ∧
        ((s.tile i.val).rows = [] → (t.tile i.val).banksOff.getLsbD k.val = true) ∧ t.streams = s.streams) ∧
    (∀ (k : Fin 16) (sp : Fin 11), Accepted s m opCalibrate → State.itemOf c = 0x30 + k.val → s.hasRole i.val = true →
      (State.banksDown (s.tile i.val)).getLsbD k.val = true → (s.band b).spare = some sp →
      ∃ t o, exec (.bankOn m) s = .next t ∧ logged t ∧ (t.band b).svc = some o ∧ o.kind = .bankOn k.val ∧
        o.cur = i.val ∧ t.streams = s.streams)

/-- R362, R366, R367: a full test of the last tile that an operation has to test. A tile that passed in place returns to its
role and the operation ends in its band; one that passed in rotation is powered again, and once its entry check has passed it
is the band's spare and the operation ends, while one that fails the check stays gated and retired. A tile that failed
the test is marked and gated, a spare tested in place like any other, and is a TILE_TEST_FAIL finding. R368: the banks that
failed the test are off, and a tile with a fifth bank off has failed. A tile under test without power is not done.
The model's reading: log entries 31, 47, 79 and 105. -/
def Obligations.SelftestOfTheLastTileEndsTheOperation : Prop :=
  (∀ (i : Fin 88) (o : SvcOp) (unit : Byte) (banks : BitVec 16) (s : State),
    let b := bandOf i.val
    let off := (s.tile i.val).banksOff ||| banks
    let count := State.bankCount { s.tile i.val with banksOff := off }
    s.mgmtRuns = true → s.cclkRuns b = true → (s.band b).svc = some o → o.phase = .work → o.cur = i.val →
    o.kind = .selftest → o.todo = [] → o.late = [] → s.paused = false → (s.tile i.val).power = .ready →
    (count ≤ 4 → ∃ t, exec (.selftestTileDone i true { unit := unit, banks := banks }) s = .next t ∧
      (∀ k : Fin 16, off.getLsbD k.val = true → (t.tile i.val).banksOff.getLsbD k.val = true) ∧
      (o.rotate = true → (t.band b).svc = some { o with phase := .restorePower } ∧ (t.tile i.val).pgReq = false) ∧
      (o.rotate = false → (t.band b).svc = none) ∧
      (o.rotate = false → o.wasActive = true → (t.tile i.val).active = true) ∧
      (o.rotate = false → o.wasActive = false → (t.tile i.val).pgReq = true)) ∧
    (∀ pass, pass = false ∨ 4 < count → ∃ t, exec (.selftestTileDone i pass { unit := unit, banks := banks }) s = .next t ∧
      (t.band b).svc = none ∧ (t.tile i.val).failed = true ∧ (o.rotate = true → (t.tile i.val).retired = true) ∧
      (∀ k : Fin 16, off.getLsbD k.val = true → (t.tile i.val).banksOff.getLsbD k.val = true) ∧
      (o.rotate = true ∨ o.wasActive = false ∨ (s.band b).spare ≠ some (Fin.ofNat 11 (i.val % 11)) →
        (t.tile i.val).pgReq = true) ∧
      (t.band b).spare = (if o.rotate then (s.band b).spare else none) ∧
      t.kindCount srcMgmt evTileTestFail = satInc (s.kindCount srcMgmt evTileTestFail))) ∧
  (∀ (i : Fin 88) (pass : Bool) (found : SelftestFound) (s : State), (s.tile i.val).power ≠ .ready →
    exec (.selftestTileDone i pass found) s = .next s) ∧
  (∀ (i : Fin 88) (o : SvcOp) (s : State),
    let b := bandOf i.val
    s.mgmtRuns = true → s.cclkRuns b = true → (s.band b).svc = some o → o.phase = .restorePower → o.cur = i.val → o.rotate = true →
    o.kind ≠ .restore → o.todo = [] → o.late = [] → s.paused = false → (s.tile i.val).power = .entryCheck →
    (∃ t, exec (.tileEntryCheckDone i true) s = .next t ∧ (t.band b).svc = none ∧
      (t.band b).spare = some (Fin.ofNat 11 (i.val % 11)) ∧ (t.tile i.val).pgReq = true ∧ (t.tile i.val).retired = false ∧
      (t.tile i.val).failed = false) ∧
    (∃ t, exec (.tileEntryCheckDone i false) s = .next t ∧ (t.band b).svc = none ∧ (t.band b).spare = (s.band b).spare ∧
      (t.tile i.val).pgReq = true ∧ (t.tile i.val).retired = true ∧
      t.kindCount srcMgmt evTileTestFail = satInc (s.kindCount srcMgmt evTileTestFail)))

/-- R362, R367, R370, Table 15.5: a calibration of the last tile that an operation has to calibrate sets the values of its
items in the tile's record, PATH_MARGIN at the band's applied point alone; they take effect as the tile enters service, and
where every tile is named its hashes are logged in an entry of its own. In place the calibration ends the
operation in its band, and in rotation the tile is powered again for its entry check. A bank's march that passed
leaves the bank on, one that failed leaves it off and is a TILE_TEST_FAIL finding; the tile is powered again. A tile in
hand without power is not done.
The values themselves and the record's hash are free values: log entry 22.
The model's reading: log entries 22, 31, 34, 47, 79 and 105. -/
def Obligations.CalibrationOfTheLastTileEndsTheOperation : Prop :=
  ∀ (i : Fin 88) (o : SvcOp) (pass : Bool) (s : State),
    let b := bandOf i.val
    let was := s.tile i.val
    (was.power ≠ .ready → exec (.calibrateTileDone i pass) s = .next s) ∧
    (s.mgmtRuns = true → s.cclkRuns b = true → (s.band b).svc = some o → o.phase = .work → o.cur = i.val → o.todo = [] →
    o.late = [] → s.paused = false → was.power = .ready →
    (∀ item, o.kind = .calibrate item → (s.ownEntry o = true → s.logRoom false = true) →
      ∃ t, exec (.calibrateTileDone i pass) s = .next t ∧
        let now := t.tile i.val
        (item ≠ 1 → item ≠ 0xF → now.calRecord.margins = was.calRecord.margins) ∧
        now.calRecord.margins.length = was.calRecord.margins.length ∧
        (∀ p, p ≠ (s.band b).cur → now.calRecord.margins[p]? = was.calRecord.margins[p]?) ∧
        (item ≠ 2 → item ≠ 0xF → now.calRecord.offsets = was.calRecord.offsets) ∧
        (item ≠ 3 → item ≠ 0xF → now.calRecord.assist = was.calRecord.assist) ∧
        now.calUsed = (if o.rotate = false ∧ o.wasActive = true then now.calRecord else was.calUsed) ∧
        (s.ownEntry o = true →
          Logged s t 4 kCalibration 0 0xFFFF i.val (s.calHashOf i.val) (t.calHashOf i.val)) ∧
        (o.rotate = false → (t.band b).svc = none) ∧
        (o.rotate = true → (t.band b).svc = some { o with phase := .restorePower } ∧ (t.tile i.val).pgReq = false)) ∧
    (∀ k : Fin 16, o.kind = .bankOn k.val →
      ∃ t, exec (.calibrateTileDone i pass) s = .next t ∧ (t.band b).svc = some { o with phase := .restorePower } ∧
        (t.tile i.val).pgReq = false ∧
        (pass = true → (s.tile i.val).banksClosing = 0 →
          ∀ j : Fin 16, (t.tile i.val).banksOff.getLsbD j.val = ((s.tile i.val).banksOff.getLsbD j.val && j != k)) ∧
        (pass = false → (t.tile i.val).banksOff = (s.tile i.val).banksOff ||| (s.tile i.val).banksClosing ∧
          t.kindCount srcMgmt evTileTestFail = satInc (s.kindCount srcMgmt evTileTestFail))))

/-- R358, R359, R361, R374: a stream between rows on a tile in its Move phase is cut over to the spare: its mask names the
spare in the tile's place, it is MIGRATING, the rows that have begun in the old tile stay there, and its promise is
void where a forced retirement moves a stream without an allowance. When the old tile has nothing of a migrating stream
left, the stream's context and the rows whose later passes the host has not sent there leave it. With the last stream of the
tile the Gate phase of Table 15.2 follows: the tile leaves the map, the spare is active in its place where it has its
power, and the band has no
spare; a retired tile is gated, and the operation ends with TILE_RETIRED; a tile in test, calibration or march is in work, and
one whose bank goes off is powered to take the spare's role; one that failed an entry check meanwhile stays gated and retired,
and the operation ends. Without the spare's power no stream is cut.
The model's reading: log entries 31, 35, 47 and 105. -/
def Obligations.StreamsMoveToTheSpare : Prop :=
  ∀ (sid : BitVec 14) (x : Stream) (s : State),
    let b := sidBand sid.toNat
    s.mgmtRuns = true → s.bandRuns b = true → s.stream? sid.toNat = some x →
    (∀ sp : Fin 11, (s.band b).spare = some sp → (s.tile (11 * b + sp.val)).power ≠ .ready →
      exec (.streamCut sid) s = .next s) ∧
    (∀ (o : SvcOp) (sp : Fin 11),
      let force := match o.kind with
        | .retire f => f
        | _ => false
      (s.band b).svc = some o → o.phase = .move → (s.band b).spare = some sp → o.cur ∈ x.tiles → x.migration = none →
      (force = true ∨ s.blocked o.cur = false) → s.paused = false → (s.tile (11 * b + sp.val)).power = .ready →
      s.betweenRows o.cur sid.toNat = true →
      (force = true → x.desc.mig = false → s.logRoom false = true) →
      ∃ t y, exec (.streamCut sid) s = .next t ∧ t.stream? sid.toNat = some y ∧
        y.desc.tmask = State.moveMask x.desc.tmask o.cur (11 * b + sp.val) ∧
        y.migration = some { old := o.cur, new := 11 * b + sp.val } ∧
        y.voided = (x.voided || (force && !x.desc.mig)) ∧ y.desc.chain = x.desc.chain ∧ y.closing = x.closing ∧
        (∀ r ∈ x.rows, s.rowIn o.cur x.sid r = true → r ∈ y.rows) ∧
        t.kindCount srcMgmt evTileMove = satInc (s.kindCount srcMgmt evTileMove) ∧
        (∀ k, k ≠ sid.toNat → (t.stream? k).map (fun z => (z.desc, z.migration, z.voided, z.rows)) =
          (s.stream? k).map (fun z => (z.desc, z.migration, z.voided, z.rows)))) ∧
    (∀ g : Migration, x.migration = some g → x.closing = false → s.leftOld x g.old = true →
      ∃ t y, exec (.streamLeavesOldTile sid) s = .next t ∧ t.stream? sid.toNat = some y ∧ y.migration = none ∧
        y.desc = x.desc ∧ (∀ r ∈ y.rows, g.old ∉ r.tiles) ∧ (∀ h ∈ (t.tile g.old).hold, h.sid ≠ sid.toNat) ∧
        (∀ k z, k ≠ sid.toNat → t.stream? k = some z → ∃ w, s.stream? k = some w ∧ z.desc = w.desc ∧
          z.migration = w.migration ∧ z.voided = w.voided)) ∧
    (∀ (g : Migration) (o : SvcOp) (sp : Fin 11), x.migration = some g → (∀ y ∈ s.streams, y.closing = false) →
      s.leftOld x g.old = true → s.paused = false → s.streamsOn g.old = [x] → g.old ∉ x.tiles → bandOf g.old = b →
      (s.band b).svc = some o → o.phase = .move → o.cur = g.old → (s.band b).spare = some sp → 11 * b + sp.val ≠ g.old →
      ∃ t, exec (.streamLeavesOldTile sid) s = .next t ∧ (t.tile g.old).active = false ∧
        (t.tile (11 * b + sp.val)).active = ((s.tile (11 * b + sp.val)).power == .ready) ∧ (t.band b).spare = none ∧
        (∀ f, o.kind = .retire f → (t.tile g.old).pgReq = true ∧ (t.tile g.old).retired = true ∧ (t.band b).svc = none ∧
          (∀ l, s.longOp? o.origin o.tag = some l → l.opcode = opTileRetire →
            (∀ k : Fin 8, k.val ≠ b → (s.band k.val).svc = none) →
            t.kindCount srcMgmt evTileRetired = satInc (s.kindCount srcMgmt evTileRetired))) ∧
        ((s.tile g.old).failed = true → (∀ f, o.kind ≠ .retire f) → (t.tile g.old).pgReq = true ∧
          (t.tile g.old).retired = true ∧ (t.band b).svc = none) ∧
        (∀ k : Fin 16, o.kind = .bankOff k.val → (s.tile g.old).failed = false →
          (t.band b).svc = some { o with phase := .restorePower } ∧
          (t.tile g.old).pgReq = false ∧ (t.tile g.old).banksOff.getLsbD k.val = true) ∧
        (o.kind = .selftest ∨ (∃ item, o.kind = .calibrate item) ∨ (∃ k, o.kind = .bankOn k) →
          (s.tile g.old).failed = false → (t.band b).svc = some { o with phase := .work }))

/-! ### Firmware -/

/-- R345, R346: FW_STAGE with an aligned address and a length that R344 allows is ACCEPTED, and the staging slot is LOADING.
The end of the read and the check of the image: the slot is STAGED with the image where every check passed and
EMPTY otherwise, the check reads the anti-rollback counter, and the operation ends with FW_STAGED. It waits while a
hand-over pauses it (R349), or while the Vane path has no credit or the log no room for the counter's use.
The model's reading: log entries 47, 66 and 68.
A command that is not enabled changes nothing: log entry 10. -/
def Obligations.FwStageDoneStagesACheckedImage : Prop :=
  (∀ (m : Fin 4) (s : State),
    let c := s.cmd m.val
    let len := bits (c.arg 3) 18 0
    Accepted s m opFwStage → s.logRoom true = true → c.addr 1 % 128 = 0 →
    (len % 128 = 0 ∧ 1024 ≤ len ∧ len ≤ 262144) → s.staging ≠ .loading → s.paused = false →
    ∃ t, exec (.fwStage m) s = .next t ∧ t.staging = .loading ∧ Answered s t m stAccepted [] ∧
      (∃ old, Logged s t m.val kFirmware stAccepted c.tag (b2n (!s.slotB)) old 0) ∧
      (∃ o, t.longOps = s.longOps ++ [o] ∧ o.origin = m.val ∧ o.tag = c.tag ∧ o.opcode = opFwStage ∧ o.done = 0 ∧
        o.total = len / 128 + 1) ∧
      t.running = s.running ∧ t.fwVersion = s.fwVersion ∧ t.slotB = s.slotB) ∧
  (∀ (img : HostRead) (arc : BitVec 64) (o : LongOp) (s : State), s.mgmtRuns = true →
    s.longOps.find? (fun o => o.opcode == opFwStage) = some o → s.longOp? o.origin o.tag = some o →
    (s.paused = true ∨ s.vaneReads = false ∨ (s.logRoom false = false ∧ ∃ bs, img = .data bs) →
      exec (.fwStageDone img arc) s = .next s) ∧
    (s.paused = false → s.vaneReads = true → (s.logRoom false = true ∨ ∃ p k, img = .failed p k) →
      ∃ t, exec (.fwStageDone img arc) s = .next t ∧
        (match img with
          | .failed .. => t.staging = .empty ∧ t.keyArc = s.keyArc
          | .data bs => t.keyArc = arc ∧
            (if checkImg (padTake bs ((o.total - 1) * 128)) ((o.total - 1) * 128) s.keyHash arc.toNat = .ok then
              t.staging = .staged ∧ t.stagingImg = padTake bs ((o.total - 1) * 128)
            else t.staging = .empty)) ∧
        t.longOp? o.origin o.tag = none ∧ t.running = s.running ∧ t.fwVersion = s.fwVersion ∧ t.slotB = s.slotB ∧
        t.kindCount srcMgmt evFwStaged = satInc (s.kindCount srcMgmt evFwStaged)))

/-- R348, R350: FW_ACTIVATE of a staged image whose HSMIN the running image's HSVER reaches is ACCEPTED, and the hand-over
begins: it is in its pause, and the commands whose doorbells rang before are still to be answered. -/
def Obligations.FwActivateBeginsTheHandover : Prop :=
  ∀ (m : Fin 4) (s : State), Accepted s m opFwActivate → s.logRoom true = true → s.staging = .staged →
    imgHsmin s.stagingImg ≤ imgHsver s.running →
    ∃ t h, exec (.fwActivate m) s = .next t ∧ t.handover = some h ∧ h.paused = true ∧ h.origin = m.val ∧
      h.tag = (s.cmd m.val).tag ∧ h.arcup = bit ((s.cmd m.val).arg 1) 0 ∧
      (∀ k : Fin 4, k.val ∈ h.prior ↔ k ∈ s.bells ∧ k ≠ m) ∧
      Answered s t m stAccepted [] ∧ t.paused = true ∧ t.fwVersion = s.fwVersion ∧ t.slotB = s.slotB ∧
      t.streams = s.streams ∧ t.tiles = s.tiles ∧ t.bands = s.bands

/-- R8, R347, R349, R351: once step 1 of the hand-over is over, an incoming image whose ARC the counter allows becomes
the running one, its version is FW_VERSION, and it requests the counter where ARCUP asks for a raise, behind the requests
of hand-overs before it; a hand-over that fails leaves the
outgoing image running, raises FIRMWARE_REVERT, and ends. Both write READY with the FW_VERSION in force, at once where
mailbox 0 holds no response. The completion of the counter's request ends the request, reads the counter, and ends the
FW_ACTIVATE that waited longest, with FW_ACTIVATED; those behind it whose ARC does not exceed the counter end without a
request; while the log has no room for the counter's use that end waits.
The model's reading: log entries 42, 47 and 55.
A command that is not enabled changes nothing: log entry 10. -/
def Obligations.HandoverSwitchesOrReverts : Prop :=
  (∀ (h : Handover) (s : State), s.mgmtRuns = true → s.handover = some h → h.paused = true → h.prior = [] →
    s.loads = [] →
    (∀ arc : BitVec 64, arc.toNat ≤ imgArc s.stagingImg →
      ∃ t, exec (.handoverReady arc) s = .next t ∧ t.slotB = !s.slotB ∧ t.running = s.stagingImg ∧
        t.fwVersion = BitVec.ofNat 32 (imgFwver s.stagingImg) ∧ t.staging = .empty ∧ t.paused = false ∧
        t.vaneRestarts = satInc s.vaneRestarts ∧
        ((s.mailbox 0).valid = false → (t.mailbox 0).valid = true ∧ (t.mailbox 0).outW.get 0 = 0xFFFF0000 ∧
          (t.mailbox 0).outW.get 1 = t.fwVersion) ∧
        t.handover = none ∧
        (if h.arcup = true ∧ arc.toNat < imgArc s.stagingImg then
          (∃ w met left, s.arcWaits = met ++ left ∧ t.arcWaits = left ++ [w] ∧ (met ≠ [] → s.arcReq = none) ∧
            (∀ v ∈ met, v.seen = none ∧ v.want.toNat ≤ arc.toNat ∧ t.longOp? v.origin v.tag = none) ∧ w.origin = h.origin ∧ w.tag = h.tag ∧ w.seen = none ∧
            w.want = BitVec.ofNat 64 (imgArc s.stagingImg) ∧ (s.arcWaits = [] → s.arcReq = none → t.arcReq = some w.want)) ∧
          (∀ want, s.arcReq = some want → t.arcReq = some want)
        else t.arcReq = s.arcReq ∧ t.arcWaits = s.arcWaits ∧ t.longOp? h.origin h.tag = none)) ∧
    (∀ cause : RevertCause, ∃ t, exec (.handoverTimeout cause) s = .next t ∧ t.slotB = s.slotB ∧
      t.running = s.running ∧ t.fwVersion = s.fwVersion ∧ t.handover = none ∧ t.arcReq = s.arcReq ∧ t.arcWaits = s.arcWaits ∧
      t.longOp? h.origin h.tag = none ∧
      t.vaneRestarts = satInc (satInc s.vaneRestarts) ∧
      ((s.mailbox 0).valid = false → (t.mailbox 0).valid = true ∧ (t.mailbox 0).outW.get 0 = 0xFFFF0000 ∧
        (t.mailbox 0).outW.get 1 = s.fwVersion) ∧
      t.kindCount srcMgmt evFirmwareRevert = satInc (s.kindCount srcMgmt evFirmwareRevert))) ∧
  (∀ (arc want : BitVec 64) (s : State), s.mgmtRuns = true → s.arcReq = some want →
    (s.arcWaits = [] → exec (.arcReqDone arc) s = .next { s with arcReq := none }) ∧
    (∀ w rest, s.arcWaits = w :: rest →
      (s.logRoom false = false →
        exec (.arcReqDone arc) s = .next { s with arcReq := none, arcWaits := { w with seen := some arc } :: rest }) ∧
      (s.logRoom false = true → ∃ t met, exec (.arcReqDone arc) s = .next t ∧ rest = met ++ t.arcWaits ∧
        (∀ v ∈ met, v.seen = none ∧ v.want.toNat ≤ arc.toNat ∧ t.longOp? v.origin v.tag = none) ∧
        (∀ v ∈ t.arcWaits.head?, v.seen ≠ none ∨ arc.toNat < v.want.toNat) ∧
        t.arcReq = (match t.arcWaits with
          | [] => none
          | v :: _ => if v.seen = none then some v.want else none) ∧
        t.keyArc = arc ∧ t.longOp? w.origin w.tag = none ∧ t.handover = s.handover ∧
        (∀ o, met = [] → s.longOp? w.origin w.tag = some o → o.opcode = opFwActivate →
          t.kindCount srcMgmt evFwActivated = satInc (s.kindCount srcMgmt evFwActivated)) ∧
        t.fwVersion = s.fwVersion ∧ t.slotB = s.slotB)))

/-! ### The register window -/

/-- R397, R398, R400, R401, Table 17.8: a BASE write changes only its register. A SIZE write of 0 or of a power of two from 2^6 to
2^20 commits the ring: SIZE, HEAD and TAIL at once, and the base of its next record with them unless a record write to
the old ring is on its way (log entry 45); another value is ignored and sets SIZEERR. The lock stops both. A change of
either register is a CONFIG entry of ORIGIN 6 with the register's offset and its two values.
The model's reading: log entries 45 and 78. -/
def Obligations.RingConfigurationWrites : Prop :=
  ∀ (r : Ring) (hi : Bool) (v : Word) (s : State), s.mgmtRuns = true →
    let x := s.ringRegs r
    let new := if hi then v &&& 0x000FFFFF else v &&& 0xFFFFF000
    let old := if hi then x.baseHi else x.baseLo
    (s.cfgLock = true → exec (.ringBaseWrite r hi v) s = .next (s.ctlDone 0) ∧
      exec (.ringSizeWrite r v) s = .next (s.ctlDone 0)) ∧
    (s.cfgLock = false → ∃ t, exec (.ringBaseWrite r hi v) s = .next t ∧
      t.ringRegs r = (if hi then { x with baseHi := new } else { x with baseLo := new }) ∧
      (∀ q, q ≠ r → t.ringRegs q = s.ringRegs q) ∧
      (old = new → t.log = s.log) ∧
      (old ≠ new → 1 ≤ s.logAvail → Logged s t 6 kConfig 0 0xFFFF
        ((match r with | .event => 0x80 | .logMirror => 0xA0) + (if hi then 4 else 0)) old.toNat new.toNat) ∧
      t = { s with evq := t.evq, logm := t.logm, log := t.log, intStatus := t.intStatus, taps := t.taps, arb := t.arb,
                   ctlAck := true, ctlRdata := 0 }) ∧
    (s.cfgLock = false → (v.toNat = 0 ∨ ∃ k, 6 ≤ k ∧ k ≤ 20 ∧ v.toNat = 2 ^ k) → ∃ t,
      exec (.ringSizeWrite r v) s = .next t ∧
      t.ringRegs r = { x with
        size := v.toNat, head := 0, tail := 0
        base := if s.ringBusy r then x.base else x.baseLo.toNat + x.baseHi.toNat % 2 ^ 20 * 2 ^ 32 } ∧
      (∀ q, q ≠ r → t.ringRegs q = s.ringRegs q) ∧
      (∀ b : Fin 8, { t.band b.val with fabQueue := [], fabOut := [] } = { s.band b.val with fabQueue := [], fabOut := [] }) ∧
      t = { s with evq := t.evq, logm := t.logm, log := t.log, bands := t.bands, intStatus := t.intStatus,
                   taps := t.taps, arb := t.arb, ctlAck := true, ctlRdata := 0 } ∧
      (x.size = v.toNat → t.log.entries.map (fun e => e.1) = s.log.entries.map (fun e => e.1)) ∧
      (x.size ≠ v.toNat → 1 ≤ s.logAvail → ∃ more, t.log.entries =
        (match r with
          | .event => s.log.entries
          | .logMirror => s.log.entries.map (fun e => (e.1, Mirror.unsent))) ++
          (entryAt s 6 kConfig 0 0xFFFF (match r with | .event => 0x88 | .logMirror => 0xA8) x.size v.toNat,
            Mirror.unsent) :: more) ∧
      (r = .event → t.arb.mark = none ∧ (v.toNat = 0 → s.arb.held ≠ [] → t.intStatus.getLsbD 9 = true)) ∧
      (r = .logMirror → ∀ e ∈ s.log.entries, (e.1, Mirror.unsent) ∈ t.log.entries)) ∧
    (s.cfgLock = false → v.toNat ≠ 0 → (∀ k, 6 ≤ k → k ≤ 20 → v.toNat ≠ 2 ^ k) →
      exec (.ringSizeWrite r v) s = .next ((s.setRing r { x with sizeErr := true }).ctlDone 0))

/-- R399, R389: a HEAD write takes effect where the new value lies on the way from HEAD to TAIL, and sets HEADERR
otherwise; in the log mirror it frees the entries that HEAD passes, in the event ring it changes HEAD alone. The access
completes on CTL as every write does (R304).
The model's reading: log entry 78. -/
def Obligations.HeadWriteMovesTowardsTail : Prop :=
  ∀ (r : Ring) (v : Word) (s : State), s.mgmtRuns = true →
    let x := s.ringRegs r
    let n := v.toNat % 2 ^ 20
    let onPath := if x.size = 0 then n = x.head else
      n < x.size ∧ (n + x.size - x.head) % x.size ≤ (x.tail + x.size - x.head) % x.size
    (¬ onPath → exec (.ringHeadWrite r v) s = .next ((s.setRing r { x with headErr := true }).ctlDone 0)) ∧
    (onPath → r = .event → exec (.ringHeadWrite r v) s = .next ((s.setRing r { x with head := n }).ctlDone 0)) ∧
    (onPath → r = .logMirror → ∃ t, exec (.ringHeadWrite r v) s = .next t ∧ t.logm = { x with head := n } ∧
      t = { s with logm := t.logm, log := t.log, ctlAck := true, ctlRdata := 0 } ∧
      (∀ e ∈ t.log.entries, e ∈ s.log.entries) ∧
      (∀ e i, (e, Mirror.at i) ∈ s.log.entries →
        ((e, Mirror.at i) ∈ t.log.entries ↔ ¬ (i + x.size - x.head) % max x.size 1 < (n + x.size - x.head) % max x.size 1)) ∧
      (∀ e, (e, Mirror.unsent) ∈ s.log.entries → (e, Mirror.unsent) ∈ t.log.entries))

/-- R377, R379, R278, R328, R395, R401, R403: REARM clears the trap's record, its count and VALID; RESUME, where no tile
holds a beat, a row pass or a block and no band a response that waited for it, ends every halt and HALTED, no stream keeps
the halt as a cause of its suspension, and nothing else changes;
TEL_SNAP takes the source of TEL_SEL and is busy, unless it is
busy already; a read of TIME_LO returns the lower half of TIME and keeps the upper half for the next read of TIME_HI, which
takes it.
The model's reading: log entries 24 and 78. -/
def Obligations.RearmSnapAndTimeRead : Prop :=
  (∀ (v : Word) (s : State), s.mgmtRuns = true →
    exec .nanTrapRearm s = .next { s with
      trap := { s.trap with record := 0, count := 0, valid := false }, ctlAck := true, ctlRdata := 0 } ∧
    (v.getLsbD 0 = true → s.tel.busy = false →
      exec (.telSnap v) s = .next { s with
        tel := { s.tel with busy := true, next := s.tel.sel }, ctlAck := true, ctlRdata := 0 }) ∧
    (v.getLsbD 0 = false ∨ s.tel.busy = true → exec (.telSnap v) s = .next { s with ctlAck := true, ctlRdata := 0 }) ∧
    (∃ t, exec .timeLoRead s = .next t ∧
      t = { s with ctlAck := true, ctlRdata := BitVec.ofNat 32 s.time.toNat
                   timeShadow := some (BitVec.ofNat 32 (s.time.toNat / 2 ^ 32)) } ∧
      t.read 0x24 = s.time.toNat / 2 ^ 32 ∧
      ∀ u : State, u.timeShadow = t.timeShadow → (u.ctlRead 0x24).ctlRdata.toNat = s.time.toNat / 2 ^ 32 ∧
        (u.ctlRead 0x24).read 0x24 = u.time.toNat / 2 ^ 32)) ∧
  (∀ s : State, s.mgmtRuns = true → (∀ b : Fin 8, (s.band b.val).fabHeld = []) →
    (∀ i : Fin 88, (s.tile i.val).rows = [] ∧ (s.tile i.val).queue = [] ∧ (s.tile i.val).blocks = []) →
    ∃ t, exec .nanTrapResume s = .next t ∧ t.trap = { s.trap with halted := false } ∧
    (∀ b : Fin 8, t.band b.val = { s.band b.val with halted := false }) ∧
    (∀ x ∈ t.streams, (s.band (sidBand x.sid)).halted = true → x.causes.halt = false) ∧
    t = { s with
      trap := t.trap, bands := t.bands, streams := t.streams, taps := t.taps, arb := t.arb
      intStatus := t.intStatus, ctlAck := true, ctlRdata := 0 })

/-- R385, R403, R404: a snapshot ends BUSY and gives the counters of its source, one word each, zeros for what the source
does not list, with the time at which it was taken; bit k of TEL_SAT says that counter k has saturated, and is 0 for the
gauges of Table 17.7.
A command that is not enabled changes nothing: log entry 10. -/
def Obligations.SnapshotHoldsTheSourcesCounters : Prop :=
  ∀ (junction : Word) (s : State), s.mgmtRuns = true →
    (s.tel.busy = false → exec (.telSnapshotDone junction) s = .next s) ∧
    (s.tel.busy = true → ∃ t, exec (.telSnapshotDone junction) s = .next t ∧ t = { s with tel := t.tel } ∧
      t.tel.busy = false ∧ t.tel.src = s.tel.next ∧ t.tel.time = s.time ∧ t.tel.sel = s.tel.sel ∧
      (let gauge (k : Nat) : Prop := if s.tel.next < 88 then k ∈ [22, 23] else if s.tel.next < 96 then k ∈ [0, 1, 2, 13]
         else k = 4
       ∀ k : Fin 32, t.tel.sat.getLsbD k.val = true ↔
        0xFFFFFFFF ≤ (s.counters s.tel.next junction.toNat).getD k.val 0 ∧ ¬ gauge k.val) ∧
      (∀ i : Fin 32, t.tel.cnt.get i = BitVec.ofNat 32 ((s.counters s.tel.next junction.toNat).getD i.val 0)) ∧
      (∀ u : Fin 88, s.tel.next = u.val → (s.tile u.val).power ≠ .off →
        t.tel.cnt.get 23 = junction ∧ t.tel.cnt.get 22 = BitVec.ofNat 32 (s.tile u.val).occupancy) ∧
      (∀ u : Fin 88, s.tel.next = u.val → (s.tile u.val).power = .off → t.tel.cnt.get 23 = 0 ∧ t.tel.cnt.get 22 = 0) ∧
      (s.tel.next = 96 → t.tel.cnt.get 8 = BitVec.ofNat 32 s.commandsTaken ∧ t.tel.cnt.get 9 = BitVec.ofNat 32 s.refusals) ∧
      (96 < s.tel.next → ∀ i : Fin 32, t.tel.cnt.get i = 0))

/-- R13, R15, R305, R329, R330, R377, R379, R396, R398, R399: what a write does by access code: W1C bits clear by 1, those of INT_STATUS and
FATAL_STATUS, HEADERR and SIZEERR of the rings and LOST of the mailboxes; INT_ENABLE takes its bits and masks irq_mailbox
and irq_event but not irq_fatal; NAN_TRAP_CTL takes ARM, HALT and TRIG, and its bits 8 and 9 rearm and resume (what a
restart of rows that waited in a halted band may note of NaNs, this statement leaves open); IN words are
taken in IDLE alone, the doorbell queues a command in IDLE and sets LOST otherwise, TEL_SEL reads other sources as 127,
and writes to read-only and unmapped offsets do nothing, those of the mailboxes' windows among them; CFG_LOCK takes a 1.
Every write completes on the bus.
The model's reading: log entries 10 and 78. -/
def Obligations.RegisterWritesFollowTheirAccessCodes : Prop :=
  ∀ (v : Word) (s : State), s.mgmtRuns = true →
    let ok (t : State) : State := { t with ctlAck := true, ctlRdata := 0 }
    let nothingWaits : Prop := (∀ b : Fin 8, (s.band b.val).fabHeld = []) ∧
      ∀ i : Fin 88, (s.tile i.val).rows = [] ∧ (s.tile i.val).queue = [] ∧ (s.tile i.val).blocks = []
    exec (.registerWrite 0x010 v) s = .next (ok { s with intStatus := s.intStatus &&& ~~~v }) ∧
    exec (.registerWrite 0x011 v) s = .next (ok { s with intEnable := v &&& 0x00003F0F }) ∧
    (∃ t, exec (.registerWrite 0x011 v) s = .next t ∧ t.irqFatal = s.irqFatal ∧
      (t.irqMailbox = true ↔ ∃ k, k < 4 ∧ s.intStatus.getLsbD k = true ∧ v.getLsbD k = true) ∧
      (t.irqEvent = true ↔ ∃ k, 8 ≤ k ∧ k < 14 ∧ s.intStatus.getLsbD k = true ∧ v.getLsbD k = true)) ∧
    exec (.registerWrite 0x012 v) s = .next (ok { s with fatal := s.fatal &&& ~~~v }) ∧
    exec (.registerWrite 0x024 v) s = .next (ok { s with evq := { s.evq with
      headErr := s.evq.headErr && !v.getLsbD 30, sizeErr := s.evq.sizeErr && !v.getLsbD 31 } }) ∧
    exec (.registerWrite 0x02C v) s = .next (ok { s with logm := { s.logm with
      headErr := s.logm.headErr && !v.getLsbD 30, sizeErr := s.logm.sizeErr && !v.getLsbD 31 } }) ∧
    exec (.registerWrite 0x240 v) s = .next (ok { s with
      tel := { s.tel with sel := if v.toNat % 128 ≤ 96 then v.toNat % 128 else 127 } }) ∧
    (∃ t, exec (.registerWrite 0x208 v) s = .next t ∧ t.ctlAck = true ∧ t.ctlRdata = 0 ∧
      (v.getLsbD 9 = false ∨ nothingWaits → t.trap = { s.trap with
        arm := v.getLsbD 0, halt := v.getLsbD 1, trig := v.getLsbD 2
        record := if v.getLsbD 8 then 0 else s.trap.record
        count := if v.getLsbD 8 then 0 else s.trap.count
        valid := s.trap.valid && !v.getLsbD 8
        halted := s.trap.halted && !v.getLsbD 9 }) ∧
      (v.getLsbD 9 = false → t = ok { s with trap := t.trap }) ∧
      (v.getLsbD 9 = true → nothingWaits → ∀ b : Fin 8, (t.band b.val).halted = false)) ∧
    (∀ a : BitVec 10, (a.toNat < 0x10 ∨ 0x13 ≤ a.toNat ∧ a.toNat < 0x20 ∨ 0x25 ≤ a.toNat ∧ a.toNat < 0x28 ∨
        0x2D ≤ a.toNat ∧ a.toNat < 0x30 ∨ 0x31 ≤ a.toNat ∧ a.toNat < 0x80 ∨
        (∃ (m : Fin 4) (k : Nat), 0x12 ≤ k ∧ k < 0x40 ∧ k ≠ 0x31 ∧ a.toNat = 0x80 + 0x40 * m.val + k) ∨
        0x180 ≤ a.toNat ∧ a.toNat < 0x208 ∨ 0x209 ≤ a.toNat ∧ a.toNat < 0x240 ∨ 0x242 ≤ a.toNat) →
      exec (.registerWrite a v) s = .next (ok s)) ∧
    exec (.cfgLockWrite v) s = .next (ok { s with cfgLock := s.cfgLock || v.getLsbD 0 }) ∧
    (∀ (m : Fin 4) (i : Fin 16), ∃ t, exec (.registerWrite (BitVec.ofNat 10 (0x80 + 0x40 * m.val + i.val)) v) s = .next t ∧
      t.mailbox m.val = (if (s.mailbox m.val).state = .idle then
        { s.mailbox m.val with inW := (s.mailbox m.val).inW.setIfInBounds i.val v } else s.mailbox m.val) ∧
      (∀ k : Fin 4, k ≠ m → t.mailbox k.val = s.mailbox k.val) ∧ t = ok { s with mbx := t.mbx }) ∧
    (∀ m : Fin 4, ∃ t, exec (.registerWrite (BitVec.ofNat 10 (0x91 + 0x40 * m.val)) v) s = .next t ∧
      t.mailbox m.val = { s.mailbox m.val with lost := (s.mailbox m.val).lost && !v.getLsbD 8 } ∧
      (∀ k : Fin 4, k ≠ m → t.mailbox k.val = s.mailbox k.val) ∧ t = ok { s with mbx := t.mbx }) ∧
    (∀ m : Fin 4, ∃ t, exec (.registerWrite (BitVec.ofNat 10 (0x90 + 0x40 * m.val)) v) s = .next t ∧
      (if (s.mailbox m.val).state = .idle then
        t.mailbox m.val = { s.mailbox m.val with state := .queued, len := BitVec.ofNat 4 v.toNat } ∧ t.bells = s.bells ++ [m]
      else t.mailbox m.val = { s.mailbox m.val with lost := true } ∧ t.bells = s.bells) ∧
      (∀ k : Fin 4, k ≠ m → t.mailbox k.val = s.mailbox k.val) ∧ t = ok { s with mbx := t.mbx, bells := t.bells })

/-! ### Beats and row passes -/

/-- R288 to R292, R415, R417: a beat of a row pass enters the queue with the elements that keep the limits, and the row
pass counts them; what breaks R288, R289 or R415 is one ACC_TAG finding and the row pass is POISON: a beat of another row or
pass (case 5) and one of no or too many elements (case 6) bring none, one that is short before the last brings its own
(case 7), and elements beyond SHRp or the row length are discarded (case 8). A first beat opens its row pass, and its row in
the version that judges it (R23); one that finds a row pass open ends that as POISON with an ACC_SEQ finding (case 2); one
of a pass that the chain does not have opens none, and the beats after it are stray (case 3), as is a beat without a row
pass (case 4). A beat of no stream that may send is an ACC_STREAM finding and touches nothing else (case 1). A beat for which
the queue has no entry is an ACC_OVERRUN finding and adds no beat to the queue; its row pass is POISON, and opens and ends as
its flags say (R292).
The model's reading: log entry 51. Counts of findings: log entry 47. -/
def Obligations.AccBeatIsQueuedOrTurnedAway : Prop :=
  ∀ (i : Fin 88) (b : AccBeat) (s : State), s.portRuns i.val = true →
    let y := s.tile i.val
    let sid := b.sid.toNat
    let n := b.nel.toNat
    let was := y.openPass sid
    let found (t : State) (code : Nat) (yes : Prop) [Decidable yes] : Prop :=
      t.kindCount i.val code = if yes then satInc (s.kindCount i.val code) else s.kindCount i.val code
    let others (t : State) : Prop := (∀ k : Fin 88, k ≠ i → t.tile k.val = s.tile k.val) ∧
      (∀ k, k ≠ sid → (t.tile i.val).openPass k = y.openPass k) ∧
      (t.tile i.val) = { y with queue := (t.tile i.val).queue, openPasses := (t.tile i.val).openPasses }
    let tells (t : State) : Prop := t = { s with taps := t.taps, arb := t.arb, intStatus := t.intStatus }
    let ends (o : OpenPass) (first last : Bool) : QEntry := {
      isBeat := false, sid := o.sid, row := o.row, pass := o.pass, first := first, last := last, use := 0
      poisonElems := false, poisonRow := true, col0 := o.col0, len := o.len, scale := 0, data := 0 }
    let starts (x : Stream) : OpenPass :=
      let lenp := x.desc.len.getD (b.pass.toNat - 1) 0
      { sid := sid, row := b.row.toNat, pass := b.pass.toNat, stray := false, isOpen := true, count := 0
        col0 := b.col0.toNat, len := if x.desc.var then min b.len.toNat lenp else lenp }
    let stray : OpenPass :=
      { sid := sid, row := 0, pass := 0, stray := true, isOpen := false, count := 0, col0 := 0, len := 0 }
    let noPass (x : Stream) (c : Chain) : Prop := b.pass = 0 ∨ c.npass < b.pass.toNat ∨ (x.desc.held = true ∧ b.pass ≠ 1)
    let judged (t : State) (x : Stream) (c : Chain) (o : OpenPass) (q : List QEntry) (longLen : Prop) : Prop :=
      let e := c.beatElems o.pass
      let room := min (x.desc.shr.getD (o.pass - 1) 0 - o.count) (o.len - (o.col0 + o.count))
      let alien := b.row.toNat ≠ o.row ∨ b.pass.toNat ≠ o.pass ∨ n = 0 ∨ e < n
      let short := n < e ∧ b.last = false
      let use := if alien then 0 else if short then n else min n room
      let half := (if x.desc.held then c.passes.any c.halfBytes else c.halfBytes o.pass) = true ∧
        ((b.first = true ∧ o.col0 % 2 = 1) ∨
          (b.last = true ∧ (o.count + use) % 2 = 1 ∧ o.col0 + (o.count + use) ≠ o.len))
      let bad := alien ∨ short ∨ use < n ∨ longLen ∨ half
      (bad → t.kindCount i.val evAccTag = satInc (s.kindCount i.val evAccTag)) ∧
      (¬ bad → t.kindCount i.val evAccTag = s.kindCount i.val evAccTag) ∧
      (∃ poisonRow, (poisonRow = true ↔ bad ∨ b.poison = true) ∧ (t.tile i.val).queue = q ++ [{
        isBeat := true, sid := o.sid, row := o.row, pass := o.pass, first := b.first, last := b.last, use := use
        poisonElems := b.poison, poisonRow := poisonRow, col0 := o.col0, len := o.len, scale := b.scale.toNat
        data := b.data }]) ∧
      (t.tile i.val).openPass sid = { o with count := o.count + use, isOpen := !b.last } ∧ others t ∧
      t = { s with tiles := t.tiles, streams := t.streams, chains := t.chains, slots := t.slots, books := t.books
                   taps := t.taps, arb := t.arb, intStatus := t.intStatus }
    (∀ x c, y.free ≠ 0 → (∀ q rest, y.queue = q :: rest → q.isBeat = true) → s.maySend i.val b = some x →
      (b.first = false → was.isOpen = false → ∃ t, exec (.accBeat i b) s = .next t ∧ found t evAccSeq True ∧ tells t) ∧
      (b.first = false → was.isOpen = true → s.chainFor x was.row = some c →
        ∃ t, exec (.accBeat i b) s = .next t ∧ judged t x c was y.queue False ∧ found t evAccSeq False ∧
          t.streams = s.streams ∧ t.chains = s.chains ∧ t.slots = s.slots) ∧
      (b.first = true → (was.isOpen = true → y.queue ≠ []) → s.chainFor x b.row.toNat = some c →
        let q := if was.isOpen then y.queue ++ [ends was false true] else y.queue
        (noPass x c → ∃ t, exec (.accBeat i b) s = .next t ∧ found t evAccTag True ∧ found t evAccSeq (was.isOpen = true) ∧
          (t.tile i.val).queue = q ∧ (t.tile i.val).openPass sid = stray ∧ others t ∧
          t = { s with tiles := t.tiles, taps := t.taps, arb := t.arb, intStatus := t.intStatus }) ∧
        (¬ noPass x c → ∃ t z r, exec (.accBeat i b) s = .next t ∧
          judged t x c (starts x) q (x.desc.var = true ∧ x.desc.len.getD (b.pass.toNat - 1) 0 < b.len.toNat) ∧
          found t evAccSeq (was.isOpen = true) ∧
          t.stream? sid = some z ∧ z.row? b.row.toNat = some r ∧ r.chain = c))) ∧
    (y.free ≠ 0 → s.maySend i.val b = none → ∃ t, exec (.accBeat i b) s = .next t ∧ found t evAccStream True ∧ tells t) ∧
    (y.free = 0 → (∀ q rest, y.queue = q :: rest → q.isBeat = true) → ∃ t, exec (.accBeat i b) s = .next t ∧
      found t evAccOverrun True ∧ found t evAccTag False ∧ found t evAccSeq False ∧
      (t.tile i.val).queue.filter (fun q => q.isBeat) = y.queue.filter (fun q => q.isBeat) ∧ others t ∧
      (s.maySend i.val b = none → tells t) ∧
      (∀ x, s.maySend i.val b = some x → b.first = false → was.isOpen = false → tells t) ∧
      (∀ x, s.maySend i.val b = some x → b.first = false → was.isOpen = true →
        (t.tile i.val).queue = y.queue ++ [ends was false b.last] ∧
        (t.tile i.val).openPass sid = { was with isOpen := !b.last }) ∧
      (∀ x c, s.maySend i.val b = some x → b.first = true → s.chainFor x b.row.toNat = some c →
        let q := if was.isOpen then y.queue ++ [ends was false true] else y.queue
        (noPass x c → (t.tile i.val).queue = q ∧ (t.tile i.val).openPass sid = stray) ∧
        (¬ noPass x c → (t.tile i.val).queue = q ++ [ends (starts x) true b.last] ∧
          (t.tile i.val).openPass sid = { starts x with isOpen := !b.last })) ∧
      t = { s with tiles := t.tiles, streams := t.streams, chains := t.chains, slots := t.slots, books := t.books
                   taps := t.taps, arb := t.arb, intStatus := t.intStatus })

/-- R31, R293, R358, R416: the beat at the head of the queue enters its row pass's chain; one that begins a row pass waits
in its place until the stream can take it; one whose row runs in the spare goes to the spare's queue. Where its row pass
is the only one of the tile and goes on, its elements run through the stages, which meet the errors that the beat
brought; each evaluator of which its lanes ask something grants it by R131 from its lane pointer on, which moves with the
grants, and they go into book 6 (log entry 119); and nothing else of the tile changes but its counts of corrected errors. An error in the chain or stream table entry poisons the row pass (R375).
R377 to R379: of the NaNs that its stages note and that meet TRIG (with TRIG = 1 those created by an invalid operation alone)
the armed trap with VALID = 0 latches the first as its record, sets VALID and INT_STATUS.TRAP, and raises FIRST_NAN with the
same 24 bytes; those after it are counted, armed or not; with HALT = 1 the trap also halts the tile's band alone, whose
streams are suspended, and sets HALTED and INT_STATUS.HALT. With none that meets TRIG, or with the trap neither armed nor
VALID, it stands.
The model's reading: log entries 16 and 119. Counts of findings: log entry 47.
A command that is not enabled changes nothing: log entry 10. -/
def Obligations.HeadOfTheQueueEntersTheChain : Prop :=
  ∀ (i : Fin 88) (fs : List HwFault) (cor : Corrected) (q : QEntry) (rest : List QEntry) (x : Stream) (s : State),
    let s1 := s.booked (fun s => s.modTile i.val (fun y => { y with queue := rest }))
    s.tileRuns i.val = true → (s.tile i.val).queue = q :: rest → q.isBeat = true → s.stream? q.sid = some x →
    (x.runsIn i.val q.row = true → q.first = true → s1.mayBegin i.val x q = false →
      exec (.accBeatDequeue i fs cor) s = .next s) ∧
    (x.runsIn i.val q.row = true → q.first = true → s1.mayBegin i.val x q = true →
      exec (.accBeatDequeue i fs cor) s = .next
        (((((s1.beginRow i.val x q).feed i.val q fs).addCorrected i.val cor).drainMarks i.val 256))) ∧
    (∀ rp : RowPass, x.runsIn i.val q.row = true → q.first = false → q.last = false → (s.tile i.val).rows = [rp] →
      rp.sid = q.sid → rp.row = q.row → rp.pass = q.pass → rp.opened = true → rp.finished = false →
      (s.tile i.val).blocks = [] → (∀ r more, rest = r :: more → r.isBeat = true) →
      let out := rp.enter (fs.map (rp.takeFault rp.taken)) (q.elements rp.chain)
      let b := bandOf i.val
      let seen := out.2.nans.filter (fun n => !s.trap.trig || n.created)
      ∃ t r, exec (.accBeatDequeue i fs cor) s = .next t ∧ r = out.1 ∧
        (seen = [] ∨ (s.trap.arm = false ∧ s.trap.valid = false) → t.trap = s.trap) ∧
        (seen ≠ [] → s.trap.valid = true → t.trap = { s.trap with count := min (s.trap.count + seen.length) 0xFFFFFFFF }) ∧
        (∀ n more, seen = n :: more → s.trap.arm = true → s.trap.valid = false →
          let st := rp.chain.stage n.stage
          t.trap = { s.trap with
            record := BitVec.ofNat 192 (layoutE rp.sid rp.chain.id rp.pass i.val n.stage n.step st.op st.subOp rp.row n.col
              s.time.toNat)
            count := min more.length 0xFFFFFFFF, valid := true, halted := s.trap.halted || s.trap.halt } ∧
          t.intStatus.getLsbD 12 = true ∧ t.kindCount i.val evFirstNan = satInc (s.kindCount i.val evFirstNan) ∧
          (s.trap.halt = true → (t.band b).halted = true ∧ t.intStatus.getLsbD 13 = true ∧
            ∀ y ∈ t.streams, sidBand y.sid = b → y.suspended = true ∧ y.causes.halt = true) ∧
          (s.trap.halt = false → (t.band b).halted = (s.band b).halted) ∧
          (∀ k : Fin 8, k.val ≠ b → t.band k.val = s.band k.val)) ∧
        t.tile i.val = { s.tile i.val with
          rows := [{ r with
            poison := r.poison || q.poisonRow || fs.any (fun f => f.unit == 7), opened := true, tStart := none }]
          queue := rest, corrected := (t.tile i.val).corrected, xevLeft := (t.tile i.val).xevLeft
          lanePtrs := (t.tile i.val).lanePtrs, evalGrants := (t.tile i.val).evalGrants
          evalResults := (t.tile i.val).evalResults } ∧
        (let asks := r.requests (stagesFrom (rp.chain.passStart rp.pass) rp.next) rp.elems.length
         let served (e grants ptr : Nat) : Prop :=
           refOf (t.tile i.val).evalGrants e = refOf (s.tile i.val).evalGrants e + grants ∧
           refOf (t.tile i.val).evalResults e = refOf (s.tile i.val).evalResults e + grants ∧
           refOf (t.tile i.val).lanePtrs e = ptr
         (∀ a ∈ asks, let n := arbServe (a.2.map List.length).sum a.2 (refOf (s.tile i.val).lanePtrs a.1)
           served a.1 n.1 n.2) ∧
         ∀ e, (∀ a ∈ asks, a.1 ≠ e) → served e 0 (refOf (s.tile i.val).lanePtrs e)) ∧
        (∀ k : Fin 88, k ≠ i → t.tile k.val = { s.tile k.val with xevLeft := (t.tile k.val).xevLeft }) ∧
        ((t.band b).halted = (s.band b).halted → ∀ k : Fin 88, (t.tile k.val).xevLeft = (s.tile k.val).xevLeft)) ∧
    (∀ g : Migration, x.runsIn i.val q.row = false → x.migration = some g → g.new < 88 → g.new ≠ i.val →
      (s.tile g.new).free > 0 → (∀ r more, rest = r :: more → r.isBeat = true) →
      ∃ t, exec (.accBeatDequeue i fs cor) s = .next t ∧ (t.tile g.new).queue = (s.tile g.new).queue ++ [q] ∧
        (t.tile i.val).queue = rest ∧ (t.tile i.val).rows = (s.tile i.val).rows ∧
        (∀ k : Fin 88, k ≠ i → k.val ≠ g.new → t.tile k.val = s.tile k.val))

/-- R31, R102, R180, R181, R193, R197: a tile's part of a PSUM stage or its STAT record leaves for level 2 once; level 2
takes the row's PSUM result from the parts in tile order, and the lowest tile that holds a part goes on with it while
the row's other tiles go on without an element; tile records that agree become the final record where the chain
has no STAT_MERGE for the stage, and begin its merge where the merge goes through host memory. A row's first record stays in
its tile while the merges under way and those that rows have still to begin leave no place for one more (R181). An APPLY
stage, or a STAT stage with a reference, starts when the final record it names exists, and waits until then. What the evaluators grant for it goes into book 6 (R131).
The model's reading: log entries 11, 16, 119 and 133.
A command that is not enabled changes nothing: log entry 10. -/
def Obligations.RecordsRiseToTheirLevel : Prop :=
  ∀ (i : Fin 88) (sid : BitVec 14) (row : BitVec 48) (step : Fin 12) (x : Stream) (r : RowCtx) (s : State),
    let st := r.chain.stage step.val
    let b := sidBand sid.toNat
    s.stream? sid.toNat = some x → x.row? row.toNat = some r →
    (∀ (rp : RowPass) (a : PsumAcc), s.tileRuns i.val = true → (s.tile i.val).pass? sid.toNat row.toNat st.pass = some rp →
      step.val ∉ rp.combined → st.op = opPsum → rp.opened = false → rp.next = step.val →
      rp.psums.find? (fun a => a.step == step.val) = some a →
      ∃ t y, exec (.tileRecordCombine i sid row step) s = .next t ∧ t.stream? sid.toNat = some y ∧
        y.row? row.toNat = some { r with psumParts := r.psumParts ++ [(step.val, i.val, a.closeGroup)] } ∧
        (t.tile i.val).pass? sid.toNat row.toNat st.pass = some { rp with combined := step.val :: rp.combined } ∧
        (∀ k : Fin 88, k ≠ i → t.tile k.val = s.tile k.val) ∧ t = { s with streams := t.streams, tiles := t.tiles }) ∧
    (∀ (rp : RowPass) (a : StatAcc), s.tileRuns i.val = true → (s.tile i.val).pass? sid.toNat row.toNat st.pass = some rp →
      step.val ∉ rp.combined → st.op = opStat → rp.finished = true → rp.writes = 0 →
      s.levelRoom x r step.val = true → rp.accs.find? (fun a => a.step == step.val) = some a →
      exec (.tileRecordCombine i sid row step) s = .next
        (((s.modStream sid.toNat (fun y => y.modRow row.toNat (fun c =>
          { c with recs := c.recs ++ [(step.val, i.val, rp.tileRec a (rp.refOf r step.val))] }))).putPass i.val
            { rp with combined := step.val :: rp.combined }).settleTile i.val)) ∧
    (∀ k m, st.op = opStat → r.chain.mergeOf step.val = some (k, m) → m.mlay ≠ 0 → (∀ q ∈ r.recs, q.1 ≠ step.val) →
      s.merge? b sid.toNat row.toNat step.val = none → r.final? step.val = none →
      256 ≤ (s.band b).merges.length + s.mergesDue b → exec (.tileRecordCombine i sid row step) s = .next s) ∧
    (∀ (own : Rec) (parts : List (Nat × TileRec)), s.bandRuns b = true → st.op = opStat → r.final? step.val = none →
      s.merge? b sid.toNat row.toNat step.val = none → parts = partsOf (sortTiles r.tiles) step.val r.recs →
      parts.length = r.tiles.length → bandRecord parts = some (own, []) →
      (r.chain.mergeOf step.val = none → exec (.bandRecordCombine sid row step) s = .next
        ((s.modStream sid.toNat (fun y => y.modRow row.toNat (fun c =>
          { c with recs := c.recs.filter (fun p => p.1 != step.val) }))).putFinal sid.toNat row.toNat step.val own)) ∧
      (∀ k m, r.chain.mergeOf step.val = some (k, m) → (r.chain.stage k).mlay ≠ 0 →
        (s.band b).merges.length < 256 →
        ∃ t g, exec (.bandRecordCombine sid row step) s = .next t ∧ (t.band b).merges = (s.band b).merges ++ [g] ∧
          g.own = own ∧ g.total = s.rowLen x r st.pass ∧ g.base = areaAddr r.chain x.desc k row.toNat ∧
          g.asked = g.reads.length ∧ (t.band b).fabQueue = (s.band b).fabQueue ++ g.reads ∧
          (∀ c : Fin 8, c.val ≠ b → t.band c.val = s.band c.val) ∧ t.tiles = s.tiles)) ∧
    (∀ (w : Written) (parts : List (Nat × PsumAcc)), s.bandRuns b = true → st.op = opPsum →
      parts = partsOf (sortTiles r.tiles) step.val r.psumParts → parts ≠ [] → parts.length = r.tiles.length →
      (∀ q ∈ r.psums, q.1 ≠ step.val) →
      ({ r with psumParts := parts.map (fun q => (step.val, q.1, q.2)) } : RowCtx).psumResult step.val = some w →
      ∃ t y c, exec (.bandRecordCombine sid row step) s = .next t ∧ t.stream? sid.toNat = some y ∧
        y.row? row.toNat = some c ∧ c.psums = r.psums ++ [(step.val, w.elem)] ∧ c.psumSum step.val =
          (parts.head?.map (fun q => (q.1, (parts.drop 1).foldl (fun a q => PsumAcc.combine st.pmode a q.2) q.2))) ∧
        t = { s with streams := t.streams }) ∧
    (∀ (p : Fin 4) (rp : RowPass), s.tileRuns i.val = true →
      (s.tile i.val).pass? sid.toNat row.toNat p.val = some rp → rp.next < rp.chain.passEnd rp.pass →
      let at1 := rp.chain.stage rp.next
      let goes (out : RowPass × Notes) : Prop := exec (.statisticApplyStart i sid row p) s = .next
        (((s.passRan i.val out.1 (out.1.factorRequest rp.next ++ out.1.requests (stagesFrom rp.next out.1.next) 0)).addNotes
          i.val out.1 out.2).settleTile i.val)
      (∀ j, rp.conflict = none → (at1.op = opApply ∧ j = at1.astat ∨ at1.op = opStat ∧ j = at1.ref) →
        (r.final? j = none → exec (.statisticApplyStart i sid row p) s = .next s) ∧
        (∀ f, r.final? j = some f → goes (rp.startRef f (rp.lenOf (rp.chain.stage j).pass)))) ∧
      (at1.op = opPsum → (∀ q ∈ r.psums, q.1 ≠ rp.next) → exec (.statisticApplyStart i sid row p) s = .next s) ∧
      (∀ low acc, at1.op = opPsum → (∃ q ∈ r.psums, q.1 = rp.next) → r.psumSum rp.next = some (low, acc) →
        goes (rp.startPsum (low == i.val) (acc.posInf && acc.negInf && !acc.invalid && !acc.poison)
          (acc.result at1.pmode (fmtOf at1.opfD)))))

/-- R201, R205, R250: a re-read issues the reads that the merge's or the window's phase has left; the list of the earliest
window that has its rows is read, whatever windows stand before it; a wait that exceeds MWAIT raises one finding for its row
or window, and is not reported again; MWAIT = 0 disables both findings. A band that stands still raises none.
The model's reading: log entries 12 and 84.
Counts of findings: log entry 47.
A command that is not enabled changes nothing: log entry 10. -/
def Obligations.WaitsAreReReadAndReportedOnce : Prop :=
  (∀ (sid : BitVec 14) (row : BitVec 48) (step : Fin 12) (m : Merge) (s : State),
    let b := sidBand sid.toNat
    s.merge? b sid.toNat row.toNat step.val = some m →
    (m.again = true → m.asked = 0 → (s.band b).fabUp = true → s.bandRuns b = true →
      ∃ t, exec (.mergeReread sid row step) s = .next t ∧ (t.band b).fabQueue = (s.band b).fabQueue ++ m.reads ∧
        t.merge? b sid.toNat row.toNat step.val = some { m with asked := m.reads.length, again := false } ∧
        (∀ k : Fin 8, k.val ≠ b → t.band k.val = s.band k.val) ∧ t = { s with bands := t.bands }) ∧
    (m.again = false ∨ (s.band b).fabUp = false ∨ s.bandRuns b = false → exec (.mergeReread sid row step) s = .next s) ∧
    (s.bandRuns b = false → exec (.mwaitExpiry sid row step) s = .next s) ∧
    (s.bandRuns b = true → s.policy.mwait ≠ 0 → m.began = true → m.waitReported = false →
      ∃ t, exec (.mwaitExpiry sid row step) s = .next t ∧
        t.merge? b sid.toNat row.toNat step.val = some { m with waitReported := true } ∧
        t.kindCount (srcBand b) evMergeWait = satInc (s.kindCount (srcBand b) evMergeWait) ∧
        (t.band b).fabQueue = (s.band b).fabQueue ∧
        t = { s with bands := t.bands, taps := t.taps, arb := t.arb, intStatus := t.intStatus } ∧
        exec (.mwaitExpiry sid row step) t = .next t) ∧
    (s.policy.mwait = 0 → exec (.mwaitExpiry sid row step) s = .next s)) ∧
  (∀ (i : Fin 88) (sid : BitVec 14) (p : Fin 4) (w : Block) (s : State),
    let b := bandOf i.val
    let asks (t : State) (rs : List FabReq) : Prop :=
      rs = readRange (fun off => .list i.val w.sid w.pass w.index off) 2 (listAddr w % 2 ^ 52) 0 16 ∧
      (t.band b).fabQueue = (s.band b).fabQueue ++ rs ∧
      t.tile i.val = (s.tile i.val).putBlock { w with
        phase := .header, want := 16, gbytes := List.replicate 16 0, readBad := false, asked := rs.length } ∧
      (∀ k : Fin 88, k ≠ i → t.tile k.val = s.tile k.val) ∧ t = { s with tiles := t.tiles, bands := t.bands }
    let due (f : Block → Bool) : Option Block := (s.tile i.val).window? sid.toNat p.val f
    (s.tileRuns i.val = true →
      (due (fun w => w.phase == .collecting && s.windowFull i.val w) = some w →
        ∃ t rs, exec (.gatherListRead i sid p) s = .next t ∧ asks t rs) ∧
      (due (fun w => w.phase == .waiting) = some w →
        ∃ t rs, exec (.gatherListReread i sid p) s = .next t ∧ asks t rs) ∧
      (s.policy.mwait ≠ 0 → due (fun w => w.waiting && !w.waitReported) = some w →
        ∃ t, exec (.gatherWaitExpiry i sid p) s = .next t ∧
          t.tile i.val = (s.tile i.val).putBlock { w with waitReported := true } ∧
          (∀ k : Fin 88, k ≠ i → t.tile k.val = s.tile k.val) ∧
          t.kindCount (srcBand b) evGatherWait = satInc (s.kindCount (srcBand b) evGatherWait) ∧
          t = { s with tiles := t.tiles, taps := t.taps, arb := t.arb, intStatus := t.intStatus } ∧
          ∀ v ∈ (t.tile i.val).blocks, v.same w = true → v.waitReported = true)) ∧
    (s.tileRuns i.val = false ∨ due (fun w => w.phase == .collecting && s.windowFull i.val w) = none →
      exec (.gatherListRead i sid p) s = .next s) ∧
    (s.tileRuns i.val = false ∨ due (fun w => w.phase == .waiting) = none →
      exec (.gatherListReread i sid p) s = .next s) ∧
    (s.tileRuns i.val = false ∨ s.policy.mwait = 0 ∨ due (fun w => w.waiting && !w.waitReported) = none →
      exec (.gatherWaitExpiry i sid p) s = .next s))

/-! ### Ports -/

/-- R294, R296, R300, R302: a beat leaves OPD_OUT, and a request FAB, only against a credit, which it takes; streams leave
in turn, from the one after the last; while the tile stands still, those that OPD_OUT's queue holds (R311). A tag is not used while it is outstanding, nor by a
request without data while the tag's place among the band's dataless responses is taken (Table 13.2). Returned credits add up to 255; a return of
none, or one that would go beyond 255, is a finding of the port, and the counter stays at 255. R245: the units of a STORE
row's writes are free with the last one that FAB has accepted. That the requests of a band leave in the order in which they
came is the model's choice (log entry 56), and so is how the 64 response lines of Table 13.2 bound the READs and what holds a tag's place (log entry 67); that a
band whose compute clock is absent, or that the trap has halted, sends only what the management plane asks for, and of its own
requests those that have crossed to FCLK before, is R328, R379 and R311, read as log entries 66 and 67 say.
Counts of findings: log entry 47.
A command that is not enabled changes nothing: log entry 10. -/
def Obligations.CreditsAreTakenAndReturned : Prop :=
  (∀ (i : Fin 88) (s : State), s.tileRuns i.val = true →
    let y := s.tile i.val
    (y.opdCredits = 0 ∨ y.egress = [] → exec (.opdBeat i) s = .next s) ∧
    (∀ (n : Nat) (b : OpdBeat) (rest : List OpdBeat), y.opdCredits ≠ 0 → y.nextSender = some n →
      splitFirst n y.egress = some (b, rest) → exec (.opdBeat i) s = .next
        ((s.setTile i.val { y with
          egress := rest, opdCredits := y.opdCredits - 1, opdSpent := y.opdSpent + 1, opdOut := some b, opdNext := n + 1,
          rows := y.rows.map (beatSent b) }).settleTile i.val) ∧
        b ∈ y.egress ∧ b.sid.toNat = n ∧
        (∀ c ∈ y.egress, y.opdNext ≤ c.sid.toNat → y.opdNext ≤ n ∧ n ≤ c.sid.toNat) ∧
        ((∀ c ∈ y.egress, c.sid.toNat < y.opdNext) → ∀ c ∈ y.egress, n ≤ c.sid.toNat))) ∧
  (∀ (i : Fin 88) (s : State), s.tileRuns i.val = false →
    let y := s.tile i.val
    (s.portRuns i.val = false ∨ y.opdCredits = 0 ∨ y.egress = [] ∨ s.opdLeft i.val = 0 → exec (.opdBeat i) s = .next s) ∧
    (s.portRuns i.val = true → y.opdCredits ≠ 0 → y.egress ≠ [] → s.opdLeft i.val ≠ 0 →
      ∃ t b, exec (.opdBeat i) s = .next t ∧ b ∈ y.egress ∧ (t.tile i.val).opdOut = some b ∧
        (t.tile i.val).opdCredits = y.opdCredits - 1 ∧ t.opdLeft i.val = s.opdLeft i.val - 1 ∧
        (t.tile i.val).egress.length + 1 = y.egress.length ∧ (∀ k : Fin 88, k ≠ i → t.tile k.val = s.tile k.val) ∧
        t = { s with bands := t.bands, tiles := t.tiles })) ∧
  (∀ (i : Fin 88) (n : BitVec 4) (s : State), s.portRuns i.val = true →
    let y := s.tile i.val
    let sum := y.opdCredits + n.toNat
    ∃ t, exec (.opdCreditReturn i n) s = .next t ∧
      t.tile i.val = { y with opdCredits := min sum 255, opdReturned := y.opdReturned + (min sum 255 - y.opdCredits) } ∧
      (∀ k : Fin 88, k ≠ i → t.tile k.val = s.tile k.val) ∧
      t.kindCount i.val evOpdCredit =
        (if n = 0 ∨ sum > 255 then satInc (s.kindCount i.val evOpdCredit) else s.kindCount i.val evOpdCredit) ∧
      t = { s with tiles := t.tiles, taps := t.taps, arb := t.arb, intStatus := t.intStatus }) ∧
  (∀ (b : Fin 8) (tag : BitVec 10) (s : State), s.fclkOut = true →
    let x := s.band b.val
    let held (q : FabReq) : Prop := (x.away = true ∨ x.halted = true) ∧ q.owner.vane = false ∧ x.fabLeft = 0
    ((∀ q ∈ x.fabQueue, held q) ∨ x.fabCredits = 0 ∨ (∃ o ∈ x.fabOut, o.1 = tag.toNat) →
      exec (.fabRequest b tag) s = .next s) ∧
    (∀ pre r rest, x.fabQueue = pre ++ r :: rest → (∀ q ∈ pre, held q) → ¬ held r →
      let line := r.op ≠ .read ∨
        x.fabOut.countP (fun o => o.2.op == .read) + x.fabHeld.countP (fun h => h.req.op == .read) < 64
      let sent := s.setBand b.val { x with
        fabLeft := if r.owner.vane then x.fabLeft else x.fabLeft - 1
        fabQueue := pre ++ rest, fabCredits := x.fabCredits - 1, fabSpent := x.fabSpent + 1
        fabOut := x.fabOut ++ [(tag.toNat, r)], fabLast := some (tag.toNat, r), fabIssued := satInc x.fabIssued
        fabBytes := x.fabBytes + r.bytes }
      let place := r.op ≠ .read → r.owner.vane = false → ∀ h ∈ x.fabHeld, h.req.op ≠ .read → h.tag ≠ tag.toNat
      (¬ line ∨ ¬ place → exec (.fabRequest b tag) s = .next s) ∧
      (line → place → x.fabCredits ≠ 0 → (∀ o ∈ x.fabOut, o.1 ≠ tag.toNat) →
        (∀ k sid row p, r.owner = .store k sid row p → exec (.fabRequest b tag) s = .next
          ((sent.modTile k (fun y => y.modPass sid row p (fun q => { q with unsent := q.unsent - 1 }))).settleTile k)) ∧
        ((∀ k sid row p, r.owner ≠ .store k sid row p) → exec (.fabRequest b tag) s = .next sent)))) ∧
  (∀ (b : Fin 8) (n : BitVec 4) (s : State), s.fclkOut = true →
    let x := s.band b.val
    let sum := x.fabCredits + n.toNat
    ∃ t, exec (.fabCreditReturn b n) s = .next t ∧
      t.band b.val = { x with fabCredits := min sum 255, fabReturned := x.fabReturned + (min sum 255 - x.fabCredits) } ∧
      (∀ k : Fin 8, k ≠ b → t.band k.val = s.band k.val) ∧
      t.kindCount (srcBand b.val) evFabCredit =
        (if n = 0 ∨ sum > 255 then satInc (s.kindCount (srcBand b.val) evFabCredit)
         else s.kindCount (srcBand b.val) evFabCredit) ∧
      t = { s with bands := t.bands, taps := t.taps, arb := t.arb, intStatus := t.intStatus })

/-- R302, R303: a response whose tag is not outstanding is a FAB_TAG finding and nothing else; any other frees its tag, and
one that is not OK is a FAB_ERROR finding (3 counts as ERROR). While the compute clock of the band is absent (R328), or the
trap has halted the band (R379), one for logic of the band waits, accepted (R311). Else its owner is told: a merge (R200, R201, R303), which goes on with its next phase, or has a re-read due
where the part cannot proceed yet, or ends poisoned; the row of a STORE write, whose records wait for the response and are
poisoned by a failed one (R245); the GATHER window, whose bytes take their place in its list (R250, R303); the event ring,
whose TAIL a write advances that is OK (R383, R396), or which takes its committed base after a write to the old ring (R398);
the log mirror, where the entry stands at TAIL or is lost (R389). The write of COMBINE changes nothing more.
The model's reading: log entries 39 and 45; that responses for logic of a halted or absent band wait, log entries 84 and 67. Counts of findings: log entry 47.
A command that is not enabled changes nothing: log entry 10. -/
def Obligations.FabResponseFreesItsTag : Prop :=
  ∀ (b : Fin 8) (tag : BitVec 10) (status : BitVec 2) (data : BitVec 1024) (s : State), s.fclkOut = true →
    let x := s.band b.val
    let src := srcBand b.val
    let freed := { x with fabOut := x.fabOut.filter (fun o => o.1 != tag.toNat) }
    let line := toLe 128 data.toNat
    let answers (t : State) : Prop := exec (.fabResponse b tag status data) s = .next t
    ((∀ o ∈ x.fabOut, o.1 ≠ tag.toNat) → ∃ t, answers t ∧ t.kindCount src evFabTag = satInc (s.kindCount src evFabTag) ∧
      t = { s with taps := t.taps, arb := t.arb, intStatus := t.intStatus }) ∧
    (∀ r : FabReq, x.fabOut.find? (fun o => o.1 == tag.toNat) = some (tag.toNat, r) →
      let s0 := s.setBand b.val freed
      let st := if status = 3 then 1 else status.toNat
      let s1 := if status = 0 then s0
        else s0.fabFinding b.val evFabError r.owner.stream.1 r.owner.stream.2 r.addr.toNat r.op.code st
      (s1.kindCount src evFabError = if status = 0 then s.kindCount src evFabError
        else satInc (s.kindCount src evFabError)) ∧
      s1 = { s0 with taps := s1.taps, arb := s1.arb, intStatus := s1.intStatus } ∧
      (x.away = true ∨ x.halted = true → r.owner.vane = false → answers (s1.modBand b.val (fun y =>
        { y with fabHeld := y.fabHeld ++ [{ tag := tag.toNat, req := r, ok := status == 0, data := data }] }))) ∧
      (x.away = false ∧ x.halted = false ∨ r.owner.vane = true →
        (∃ t, answers t ∧ (t.band b.val).fabOut = freed.fabOut) ∧
        (r.owner = .combine → answers s1) ∧
        (∀ old, r.owner = .event old → ∃ t, answers t ∧ t.arb.inFlight = false ∧
          t.arb.written = (if status = 0 then satInc s.arb.written else s.arb.written) ∧
          (old = true → t.evq = { s.evq with base := s.evq.baseLo.toNat + s.evq.baseHi.toNat % 2 ^ 20 * 2 ^ 32 }) ∧
          (old = false → status ≠ 0 → t.evq = s.evq) ∧
          (old = false → status = 0 → t.evq = { s.evq with tail := (s.evq.tail + 1) % max s.evq.size 1 } ∧
            (∀ k : Fin 32, t.intStatus.getLsbD k.val = (s.intStatus.getLsbD k.val || k.val == 8 ||
              (k.val == 9 && t.evq.shut && (!s.arb.held.isEmpty || s.arb.second.isSome))))) ∧
          t = { s1 with arb := t.arb, evq := t.evq, intStatus := t.intStatus }) ∧
        (∀ seq old, r.owner = .logMirror seq old →
          (old = true → answers { s1 with logm := { s.logm with
            base := s.logm.baseLo.toNat + s.logm.baseHi.toNat % 2 ^ 20 * 2 ^ 32 } }) ∧
          (old = false → status ≠ 0 →
            answers { s1 with log := { s.log with entries := setMirror seq .lost s.log.entries } }) ∧
          (old = false → status = 0 → answers { s1 with
            log := { s.log with entries := setMirror seq (.at s.logm.tail) s.log.entries }
            logm := { s.logm with tail := (s.logm.tail + 1) % max s.logm.size 1 }
            intStatus := s.intStatus ||| 0x00000400 })) ∧
        (∀ k sid row p, r.owner = .store k sid row p → answers ((s1.modTile k (fun y => y.modPass sid row p (fun q =>
          { q with writes := q.writes - 1, poison := q.poison || status != 0 }))).settleTile k)) ∧
        (∀ k sid p idx off, r.owner = .list k sid p idx off →
          let mine (w : Block) : Bool := w.sid == sid && w.pass == p && w.index == idx && w.gather
          answers (s1.listResponse k sid p idx off (if status = 0 then some line else none)) ∧
          (∀ w, (s.tile k).blocks.find? mine = some w → 2 ≤ w.asked →
            answers (s1.modTile k (fun y => y.putBlock (if status = 0 then
                { w with asked := w.asked - 1
                         gbytes := placeBytes w.gbytes off (line.drop ((listAddr w + w.phaseOffset + off) % 128)) }
              else { w with asked := w.asked - 1, readBad := true })))) ∧
          ((s.tile k).blocks.find? mine = none → answers s1)) ∧
        (∀ sid row step q, r.owner = .merge sid row step q →
          let slot := if r.be.toNat % 2 ^ 64 = 0 then line.drop 64 else line.take 64
          answers (s1.mergeResponse b.val sid row step q (if status = 0 then some slot else none)) ∧
          (q = .addReaders ∨ s.merge? b.val sid row step = none → answers s1) ∧
          (∀ m : Merge, s.merge? b.val sid row step = some m →
            let fin := poisonedFinal m.own m.own
            let goes (m1 : Merge) (rs : List FabReq) : Prop := ∃ t, answers t ∧ t.merge? b.val sid row step = some m1 ∧
              (t.band b.val).fabQueue = x.fabQueue ++ rs ∧ t = { s with bands := t.bands, tiles := t.tiles }
            let m1 := { m with asked := m.asked - 1 }
            (q ≠ .addReaders → status ≠ 0 → answers (s1.endMerge b.val m1 fin)) ∧
            (status = 0 → q = .readReaders → m.phase = .readers →
              (leAt slot 0 4 ≠ m.need.toNat → goes { m1 with began := true, waiting := true, again := true } []) ∧
              (leAt slot 0 4 = m.need.toNat → m.layout ≠ 2 → goes { m with phase := .writing, waiting := false, asked := 1 }
                [writeSlot (m.owner .writePart) (m.base + 64 * m.pidx)
                  (recBytes { m.own with stream := BitVec.ofNat 14 m.sid })]) ∧
              (leAt slot 0 4 = m.need.toNat → m.layout = 2 → goes { m with phase := .writing, waiting := false, asked := 1 }
                [writeSlot (m.owner .arm) m.base (armBytes m.own)])) ∧
            (∀ p : MergePhase, status = 0 → m.phase = .writing ∧ q = .writePart ∧ p = .reading ∨
                m.phase = .writing ∧ q = .arm ∧ p = .arming ∨ m.phase = .committing ∧ q = .addCount ∧ p = .counting →
              let m2 := { m1 with phase := p, waiting := false }
              goes { m2 with asked := m2.reads.length, again := false } m2.reads)))))

/-- R298: a request takes an entry of the tile's response buffer and is answered in order; one that is OK takes its places
in the evaluators' queues from the tile's XEV pointer on and moves it by n. R137: a result that an error reached is
poisoned, and each error is a finding that names no row. R299: a function code outside R108, a reserved or XF format, an
integer output, n outside 1 to 64, or a narrow output on a loaded table without a narrow array is MALFORMED; a slot that is
not the first of a LOADED table is NOT_LOADED; both carry zero data, keep their place, and use no evaluator. The oldest
response leaves first, from a tile that stands still where it was in the response queue when the band came to stand still
(R311); in a halted band requests wait (R379). The references that a request takes on its table and leaves with its last element go into the
books (R387).
The model's reading: which responses leave a tile that stands still, log entry 67.
Counts of findings: log entry 47.
A command that is not enabled changes nothing: log entry 10. -/
def Obligations.XevAnswersInOrder : Prop :=
  (∀ (i : Fin 88) (r : XevReq) (s : State),
    let y := s.tile i.val
    (s.xevReady i.val = false → exec (.xevRequest i r) s = .next s) ∧
    (s.xevReady i.val = true → ∃ t a, exec (.xevRequest i r) s = .next t ∧
      t.tile i.val = { y with
        xevBuf := y.xevBuf ++ [a], xevPtr := (t.tile i.val).xevPtr, xevCnt := (t.tile i.val).xevCnt
        corrected := (t.tile i.val).corrected } ∧
      a.id = r.id ∧ a.n = r.n ∧ a.status.toNat = s.xevStatus r ∧
      (s.xevStatus r = 0 → (t.tile i.val).xevPtr = (y.xevPtr + r.n.toNat) % 256 ∧
        a.places = (List.range r.n.toNat).map (fun k => (y.xevPtr + k) % 256) ∧
        a.poison = BitVec.ofNat 64 (xevPoisons r) ∧
        a.data = BitVec.ofNat 2048 (packElems (fmtOf r.ofmt.toNat).width
          ((List.range r.n.toNat).map (fun k => (s.xevResult r k).1)))) ∧
      (s.xevStatus r ≠ 0 → (t.tile i.val).xevPtr = y.xevPtr ∧ (t.tile i.val).corrected = y.corrected ∧ a.data = 0 ∧
        a.poison = 0 ∧ a.places = []) ∧
      (s.xevStatus r ≠ 0 ∨ r.faults = [] → t = { s with tiles := t.tiles, books := t.books }) ∧
      t.books = s.books.follow s.inUse t.inUse ∧
      (∀ f, s.xevStatus r = 0 → r.faults = [f] → f.elem < r.n.toNat →
        t.kindCount i.val (faultEvent f.kind) = satInc (s.kindCount i.val (faultEvent f.kind))) ∧
      (∀ k : Fin 88, k ≠ i → t.tile k.val = s.tile k.val) ∧
      t = { s with tiles := t.tiles, books := t.books, taps := t.taps, arb := t.arb, intStatus := t.intStatus }) ∧
    (r.n = 0 ∨ 64 < r.n.toNat ∨ r.func = 0 ∨ (6 < r.func.toNat ∧ r.func.toNat < 0x10) ∨ 0x13 < r.func.toNat ∨
        opfOk r.ifmt.toNat = false ∨ r.ifmt = 8 ∨ opfOk r.ofmt.toNat = false ∨ r.ofmt = 8 ∨
        (fmtOf r.ofmt.toNat).isInt = true →
      s.xevStatus r = 2) ∧
    (∀ (k : Fin 4) (x : Table), r.func.toNat = 0x10 + k.val →
      s.slots.get k = { state := .loaded, first := k.val, table := some x } → x.narrow = false →
      grantElems r.ofmt.toNat = 4 → s.xevStatus r = 2) ∧
    (∀ k : Fin 4, r.func.toNat = 0x10 + k.val → ((s.slots.get k).state ≠ .loaded ∨ (s.slots.get k).first ≠ k.val) →
      opfOk r.ifmt.toNat = true → r.ifmt ≠ 8 → opfOk r.ofmt.toNat = true → r.ofmt ≠ 8 →
      (fmtOf r.ofmt.toNat).isInt = false → 1 ≤ r.n.toNat → r.n.toNat ≤ 64 → s.xevStatus r = 1)) ∧
  (∀ (r : XevReq) (k : Nat), r.faults.any (fun f => f.elem == k) = true →
    ∀ s : State, (s.xevResult r k).1 =
      if (fmtOf r.ofmt.toNat).hasNan then (fmtOf r.ofmt.toNat).nanCode else 0) ∧
  (∀ (i : Fin 88) (s : State), (s.portRuns i.val = false ∨ (s.tile i.val).xevBuf = [] → exec (.xevResponse i) s = .next s) ∧
    (∀ (a : XevRsp) (rest : List XevRsp), (s.tile i.val).xevBuf = a :: rest →
      (s.tileRuns i.val = false → (s.tile i.val).xevLeft = 0 → exec (.xevResponse i) s = .next s) ∧
      (s.portRuns i.val = true → (s.tileRuns i.val = true ∨ (s.tile i.val).xevLeft ≠ 0) → ∃ t, exec (.xevResponse i) s = .next t ∧
        t.tile i.val = { s.tile i.val with
          xevBuf := rest, xevOut := some { a with places := [] }
          xevLeft := if s.tileRuns i.val then (s.tile i.val).xevLeft else (s.tile i.val).xevLeft - 1
          evalGrants := (t.tile i.val).evalGrants, evalResults := (t.tile i.val).evalResults } ∧
        (a.places = [] → (t.tile i.val).evalGrants = (s.tile i.val).evalGrants ∧
          (t.tile i.val).evalResults = (s.tile i.val).evalResults) ∧
        (∀ k : Fin 88, k ≠ i → t.tile k.val = s.tile k.val) ∧
        t = { s with tiles := t.tiles, slots := t.slots, books := t.books })))

/-- R381 to R384, R389: the next record goes to index TAIL of its ring over the lowest band of the map, with the next SEQ;
while a ring is full or absent, or a write is under way, none goes. R382: a TIME_MARK with the full TIME goes as the first
record of a ring, and before a record whose TOFS would exceed 16,383 or whose arrival lies below the last mark; any other
record carries its arrival as TOFS after that mark, in units of 100 ticks. An entry goes to the log mirror as a read of
management SRAM delivers it, which counts a corrected error and sets FATAL_STATUS.MGMT at one that is not correctable.
The model's reading: log entry 45. How that read ends, and what it then delivers, are free values: log entry 82.
A command that is not enabled changes nothing: log entry 10. -/
def Obligations.RecordsGoToTheirRings : Prop :=
  ∀ s : State, s.mgmtRuns = true → s.paused = false →
    (s.evq.shut = true ∨ s.arb.inFlight = true → exec .eventRecordWrite s = .next s) ∧
    (∀ (b : Fin 8) (o : Outgoing) (a : Arbiter), s.evq.shut = false → s.arb.inFlight = false →
      s.lowestBand = some b.val → s.arb.next s.time = some (o, a) →
      ∃ t, exec .eventRecordWrite s = .next t ∧
        (t.band b.val).fabQueue =
          (s.band b.val).fabQueue ++ [s.evq.recordWrite (.event false) (o.bytes s.arb.nextSeq)] ∧
        t.arb.nextSeq = s.arb.nextSeq + 1 ∧ t.arb.inFlight = true ∧ t.evq = s.evq ∧ t.log = s.log ∧
        (∀ k : Fin 8, k ≠ b → t.band k.val = s.band k.val) ∧ t.tiles = s.tiles ∧ t.streams = s.streams ∧
        (s.arb.mark = none → o.code = evTimeMark ∧ t.arb.mark ≠ none) ∧
        (let due := match s.arb.second, s.arb.held with
          | some e, _ => some e.arrival
          | none, e :: _ => some e.arrival
          | none, [] => none
         (∀ d : BitVec 64, due = some d →
           (∀ m, s.arb.mark = some m → d.toNat < m.toNat ∨ 16383 < (d.toNat - m.toNat) / 100) →
           o.code = evTimeMark ∧ o.payload % 2 ^ 64 = d.toNat ∧ t.arb.mark = some d) ∧
         (∀ d m : BitVec 64, due = some d → s.arb.mark = some m → m.toNat ≤ d.toNat →
           (d.toNat - m.toNat) / 100 ≤ 16383 →
           o.tofs = (d.toNat - m.toNat) / 100 ∧ t.arb.mark = some m) ∧
         (due = none → o.code = evTimeMark ∧ o.payload % 2 ^ 64 = s.time.toNat ∧ t.arb.mark = some s.time))) ∧
    (s.logm.shut = true ∨ s.log.busy = true ∨ s.oldMirrorWrite = true → exec .logMirrorWrite s = .next s) ∧
    (∀ (b : Fin 8) (e : LogEntry), s.logm.shut = false → s.log.busy = false → s.oldMirrorWrite = false →
      s.lowestBand = some b.val → firstUnsent s.log.entries = some e →
      ∃ t, exec .logMirrorWrite s = .next t ∧
        (t.band b.val).fabQueue =
          (s.band b.val).fabQueue ++ [s.logm.recordWrite (.logMirror e.seq false)
            (if Config.sramOutcome s.fresh = .uncorrectable then
              (List.range 8).flatMap (fun i => toLe 4 (Config.sramWord s.fresh i).toNat)
            else e.bytes)] ∧
        t.mgmtCorrected = (if Config.sramOutcome s.fresh = .corrected then satInc s.mgmtCorrected else s.mgmtCorrected) ∧
        t.fatal = (if Config.sramOutcome s.fresh = .uncorrectable then s.fatal ||| 4 else s.fatal) ∧
        t.log.entries.map (fun z => z.1) = s.log.entries.map (fun z => z.1) ∧ (e, Mirror.inFlight) ∈ t.log.entries ∧
        (∀ k : Fin 8, k ≠ b → t.band k.val = s.band k.val) ∧
        t = { s with bands := t.bands, log := t.log, fresh := s.fresh + 1, mgmtCorrected := t.mgmtCorrected
                     fatal := t.fatal })

/-! ### Time, clocks and power -/

/-- R306, R317: the block follows every sample of TIME; one that is not the value before plus 1 is a TIME_STEP finding. A
lost TIME is one TIME_LOST finding. Where every band's clocks stand at the floor or above and no squall is in progress,
a window of the clock monitor records what it measured and nothing else. Beside such bands, a window of one band: above
1,313 MHz it is a CLOCK_HIGH finding; more than 1 % below the floor it begins a squall of cause 2; at the floor it ends the
squall in progress. R328: a running band that loses CCLK or HCLK in a second window leaves the map where it is in it, and
stands still, with the XEV responses in their crossing that its evaluators have returned (R311); and after 200 windows
in a row with its clocks it comes back, and what waited in it goes on.
The model's reading: log entry 40; which responses leave a band that stands still, log entry 67; that a band outside the map
loses and regains its clocks as one in it does, log entry 84. Counts of findings: log entry 47. -/
def Obligations.TimeAndClocksAreMonitored : Prop :=
  (∀ (v : BitVec 64) (s : State), s.tclkOut = true → ∃ t, exec (.timeSample v) s = .next t ∧ t.time = v ∧
    t.timeSeen = true ∧ t.timeLost = false ∧
    t.kindCount srcMgmt evTimeStep = (if s.timeSeen = true ∧ v ≠ s.time + 1 then
      satInc (s.kindCount srcMgmt evTimeStep) else s.kindCount srcMgmt evTimeStep) ∧
    t = { s with time := v, timeSeen := true, timeLost := false, tiles := t.tiles, taps := t.taps, arb := t.arb,
                 intStatus := t.intStatus }) ∧
  (∀ s : State, s.mgmtRuns = true → s.timeLost = false → ∃ t, exec .tclkTimeout s = .next t ∧ t.timeLost = true ∧
    t.kindCount srcMgmt evTimeLost = satInc (s.kindCount srcMgmt evTimeLost) ∧
    t = { s with timeLost := true, taps := t.taps, arb := t.arb, intStatus := t.intStatus } ∧
    exec .tclkTimeout t = .next t) ∧
  (∀ (cclk hclk : Vector (BitVec 16) 8) (s : State), s.mgmtRuns = true → s.tclkOut = true → s.timeLost = false →
    let c (b : Fin 8) : Nat := (cclk.get b).toNat
    let h (b : Fin 8) : Nat := (hclk.get b).toNat
    let atFloor (b : Fin 8) : Prop := 99 * pointMhz (s.band b.val).floor ≤ 100 * c b ∧
      (s.band b.val).floor ≤ (s.band b.val).cur
    let healthy (b : Fin 8) : Prop := c b ≤ 1313 ∧ atFloor b ∧ 1 ≤ c b ∧ 1 ≤ h b ∧ (s.band b.val).away = false ∧
      (s.band b.val).squall = false ∧ ((s.band b.val).cclkTicks = true ∨ (s.band b.val).cclkOut = false)
    let crossed (b : Fin 8) (t : State) : Prop := ∀ i : Fin 88, t.tile i.val = { s.tile i.val with
      xevLeft := if s.bandRuns b.val = true ∧ bandOf i.val = b.val then (s.tile i.val).xevReturned else (s.tile i.val).xevLeft }
    let measured (b : Fin 8) (x : Band) : Prop := x.cclkMhz = c b ∧ x.hclkMhz = h b
    ((∀ b, healthy b) → ∃ t, exec (.clockMonitorWindow cclk hclk) s = .next t ∧
      (∀ b : Fin 8, let x := s.band b.val
        t.band b.val = { x with
          cclkMhz := c b, hclkMhz := h b, zeroWins := 0, goodWins := 0
          sqThrottle := !s.judged b.val && x.sqThrottle, sqMonitor := !s.judged b.val && x.sqMonitor }) ∧
      t = { s with bands := t.bands }) ∧
    (∀ b : Fin 8, (∀ k, k ≠ b → healthy k) →
      let x := s.band b.val
      let goes (p : State → Prop) : Prop := ∃ t, exec (.clockMonitorWindow cclk hclk) s = .next t ∧
        measured b (t.band b.val) ∧ p t
      (1313 < c b → atFloor b → 1 ≤ h b → x.away = false → x.squall = false → goes (fun t =>
        t.kindCount srcMgmt evClockHigh = satInc (s.kindCount srcMgmt evClockHigh) ∧ t.tiles = s.tiles ∧
        t = { s with bands := t.bands, taps := t.taps, arb := t.arb, intStatus := t.intStatus })) ∧
      (s.judged b.val = true → 100 * c b < 99 * pointMhz x.floor → 1 ≤ c b → 1 ≤ h b → x.floor ≤ x.cur →
        x.away = false → x.squall = false → goes (fun t =>
        (t.band b.val).sqCause = 2 ∧ (t.band b.val).sqMonitor = true ∧ (t.band b.val).squalls = satInc x.squalls ∧
        t.kindCount srcMgmt evSquall = satInc (s.kindCount srcMgmt evSquall) ∧ t.tiles = s.tiles ∧
        (∀ y ∈ t.streams, sidBand y.sid = b.val → y.suspended = true ∧ y.causes.squall = true))) ∧
      (s.judged b.val = true → c b ≤ 1313 → atFloor b → 1 ≤ c b → 1 ≤ h b → x.away = false → x.squall = true →
        goes (fun t =>
        (t.band b.val).squall = false ∧ (t.band b.val).sqMonitor = false ∧
        t.kindCount srcMgmt evSquallEnd = satInc (s.kindCount srcMgmt evSquallEnd) ∧ t.tiles = s.tiles ∧
        (∀ y ∈ t.streams, sidBand y.sid = b.val → y.causes.squall = false))) ∧
      (c b = 0 ∨ h b = 0 → 1 ≤ x.zeroWins → x.clocked = true → x.present = false → goes (fun t =>
        (t.band b.val).present = false ∧ (t.band b.val).away = true ∧ (t.band b.val).clocked = false ∧ crossed b t ∧
        t.kindCount srcMgmt evServiceMap = s.kindCount srcMgmt evServiceMap)) ∧
      (c b = 0 ∨ h b = 0 → 1 ≤ x.zeroWins → x.clocked = true → x.present = true →
        s.readyDone = true ∨ s.bootPhase = .ready → goes (fun t =>
        (t.band b.val).present = false ∧ (t.band b.val).away = true ∧ (t.band b.val).clocked = false ∧
        t.mapWord b.val = 0 ∧ t.kindCount srcMgmt evServiceMap = satInc (s.kindCount srcMgmt evServiceMap) ∧
        crossed b t ∧
        (∀ y ∈ t.streams, sidBand y.sid = b.val → y.suspended = true ∧ y.causes.noClock = true))) ∧
      (s.readyDone = true → x.present = false → x.away = true → c b ≤ 1313 → atFloor b → pointMhz 0 ≤ c b → 1 ≤ h b →
        goes (fun t =>
        (x.goodWins < 199 → (t.band b.val).away = true ∧ (t.band b.val).present = false ∧
          (t.band b.val).goodWins = x.goodWins + 1 ∧ t.tiles = s.tiles ∧
          t.kindCount srcMgmt evServiceMap = s.kindCount srcMgmt evServiceMap) ∧
        (199 ≤ x.goodWins → (t.band b.val).away = false ∧ (t.band b.val).clocked = true ∧
          (∀ y ∈ t.streams, sidBand y.sid = b.val → y.causes.noClock = false) ∧
          (x.fabUp = true → (∃ i : Fin 88, bandOf i.val = b.val ∧ (s.tile i.val).active = true) → x.fabHeld = [] →
            (∀ i : Fin 88, bandOf i.val = b.val → (s.tile i.val).rows = [] ∧ (s.tile i.val).queue = [] ∧
              (s.tile i.val).blocks = []) →
            (t.band b.val).present = true ∧ t.service = .service ∧ t.tiles = s.tiles ∧
            t.kindCount srcMgmt evServiceMap = satInc (s.kindCount srcMgmt evServiceMap)))))))

/-- R276, R280, R314, R315: a point that the host applies becomes the band's, and one below the floor begins a squall at
once; one at the floor ends none, which takes a window of the clock monitor (R317). A cap holds the request at or below it,
also where the log has no room for the entry (R391); before Glomen runs there is no request, and the cap is kept for it. A window's choice takes the largest occupancy of the band's powered
tiles, and raises the point or lowers it within cap and floor; each powered tile's gauge shows its occupancy (R404), also
during a hand-over and for a band outside the map, for which no point is chosen.
The model's reading: log entries 40, 75 and 144. Counts of findings: log entry 47. -/
def Obligations.PointsFollowCapFloorAndChoice : Prop :=
  (∀ (b : Fin 8) (p : BitVec 4) (s : State), s.mgmtRuns = true → p.toNat ≤ 8 →
    let x := s.band b.val
    ∃ t, exec (.clockPointApplied b p) s = .next t ∧ (t.band b.val).cur = p.toNat ∧
      (∀ k : Fin 8, k ≠ b → t.band k.val = s.band k.val) ∧ t.tiles = s.tiles ∧ t.chains = s.chains ∧
      (s.judged b.val = false → t.band b.val = { x with cur := p.toNat } ∧ t = { s with bands := t.bands }) ∧
      (s.judged b.val = true → p.toNat < x.floor → x.squall = false →
        (t.band b.val).sqThrottle = true ∧ (t.band b.val).sqCause = 1 ∧
        t.kindCount srcMgmt evSquall = satInc (s.kindCount srcMgmt evSquall) ∧
        (∀ y ∈ t.streams, sidBand y.sid = b.val → y.suspended = true ∧ y.causes.squall = true)) ∧
      (s.judged b.val = true → x.floor ≤ p.toNat →
        t.band b.val = { x with cur := p.toNat, sqThrottle := false } ∧ t = { s with bands := t.bands })) ∧
  (∀ (b : Fin 8) (p : BitVec 4) (s : State), s.mgmtRuns = true → p.toNat ≤ 8 → s.glomenUp = false →
    ∃ t, exec (.throttleCapChange b p) s = .next t ∧ t.band b.val = { s.band b.val with cap := p.toNat } ∧
      (∀ k : Fin 8, k ≠ b → t.band k.val = s.band k.val) ∧ t = { s with bands := t.bands }) ∧
  (∀ (b : Fin 8) (p : BitVec 4) (s : State), s.mgmtRuns = true → p.toNat ≤ 8 → s.glomenUp = true →
    let x := s.band b.val
    ∃ t, exec (.throttleCapChange b p) s = .next t ∧
      t.band b.val = { x with cap := p.toNat, req := (t.band b.val).req } ∧ (t.band b.val).req ≤ p.toNat ∧
      (s.logRoom false = true → p.toNat < x.floor → (t.band b.val).req = p.toNat) ∧
      (s.logRoom false = true → x.floor ≤ p.toNat → x.floor ≤ (t.band b.val).req) ∧
      (s.logRoom false = true → x.clkMode = 1 → (t.band b.val).req = p.toNat) ∧
      (s.logRoom false = false → x.req ≤ p.toNat → (t.band b.val).req = x.req ∧ t = { s with bands := t.bands }) ∧
      (s.logAvail = 0 → s.log.nextSeq ≠ 0xFFFFFFFF → p.toNat < x.req →
        t.kindCount srcMgmt evLogDropped = satInc (s.kindCount srcMgmt evLogDropped) ∧
        t.log = { s.log with nextSeq := s.log.nextSeq + 1 }) ∧
      (∀ k : Fin 8, k ≠ b → t.band k.val = s.band k.val) ∧
      t = { s with bands := t.bands, log := t.log, taps := t.taps, arb := t.arb, intStatus := t.intStatus }) ∧
  (∀ (b : Fin 8) (u : Vector (Fin 1001) 11) (top : Nat) (s : State), s.mgmtRuns = true →
    let x := s.band b.val
    let up (i : Fin 11) : Prop := (s.tile (11 * b.val + i.val)).power = .ready
    let gauges (t : State) : Prop := (∀ i : Fin 11, let y := s.tile (11 * b.val + i.val)
        (up i → t.tile (11 * b.val + i.val) = { y with occupancy := (u.get i).val }) ∧
        (¬ up i → t.tile (11 * b.val + i.val) = y)) ∧
      (∀ i : Fin 88, bandOf i.val ≠ b.val → t.tile i.val = s.tile i.val)
    (s.paused = true ∨ x.present = false →
      ∃ t, exec (.clockChoiceWindow b u) s = .next t ∧ gauges t ∧ t = { s with tiles := t.tiles }) ∧
    (s.paused = false → x.present = true → s.logRoom false = true → (∀ i, up i → (u.get i).val ≤ top) → (top = 0 ∨ ∃ i, up i ∧ (u.get i).val = top) →
    ∃ t, exec (.clockChoiceWindow b u) s = .next t ∧
      t.band b.val = { x with req := (t.band b.val).req } ∧
      (x.clkMode = 1 → (t.band b.val).req = x.cap) ∧
      (x.clkMode ≠ 1 → x.uhi ≤ top → (t.band b.val).req = x.requestFor (min (x.cur + 1) 8)) ∧
      (x.clkMode ≠ 1 → top < x.uhi →
        let lower := 0 < x.cur ∧ top * pointMhz x.cur ≤ x.ulo * pointMhz (x.cur - 1)
        (lower → (t.band b.val).req = x.requestFor (x.cur - 1)) ∧
        (¬ lower → (t.band b.val).req = x.requestFor x.req)) ∧
      (∀ k : Fin 8, k ≠ b → t.band k.val = s.band k.val) ∧ gauges t ∧
      t = { s with bands := t.bands, tiles := t.tiles, log := t.log, taps := t.taps, arb := t.arb
                   intStatus := t.intStatus }))

/-- R316: a host notice is logged as a HOST_NOTICE that carries its kind and its argument, and the block takes no other
action on it. That its source is the management plane, number 96, and that it counts there, is the model's reading: log
entry 47. -/
def Obligations.HostNoticeIsOnlyReported : Prop :=
  ∀ (kind : BitVec 4) (arg : BitVec 16) (s : State), s.mgmtRuns = true → ∃ t, exec (.thrNote kind arg) s = .next t ∧
    t = s.notice srcMgmt evHostNotice (pack [(0, kind.toNat), (2, arg.toNat)]) ∧
    t.kindCount srcMgmt evHostNotice = satInc (s.kindCount srcMgmt evHostNotice) ∧
    t = { s with taps := t.taps, arb := t.arb, intStatus := t.intStatus }

/-- R320 to R322, R349: the host takes the power of a tile only where the block has released it; a tile that the block has
asked for goes into reset with its power, then into its entry check, and joins the map with one that passes; one that fails is
released again, and is no active tile of its band (R35). The values of its last calibration take effect as it joins the map
(Table 15.5). Each step of a TILE_RESTORE counts in its DONE, which never falls (R282), and during a hand-over it goes no further than the step in
hand. The entries written are read from management SRAM: how such a read ends is a free value, log entry 82. Power lost to a tile is TILE_POWER_LOST and its FATAL_STATUS bit, the tile is out of the map, and the
streams that it serves are suspended; one that has been cut over to the spare goes on there (R374). No two streams have one
id, since OPEN_STREAM takes only a FREE context.
The model's reading: log entries 31 and 36.
Counts of findings: log entry 47.
A command that is not enabled changes nothing: log entry 10. -/
def Obligations.TilePowerFollowsItsSteps : Prop :=
  ∀ (i : Fin 88) (s : State), s.mgmtRuns = true →
    let y := s.tile i.val
    let only (t : State) (z : Tile) : Prop := t.tile i.val = z ∧ (∀ k : Fin 88, k ≠ i → t.tile k.val = s.tile k.val)
    (∃ t, exec (.tilePowerOff i) s = .next t ∧ t = { s with tiles := t.tiles } ∧
      only t (if y.pgReq && y.pgState then { y with pgState := false } else y)) ∧
    let counts (t : State) (yes : Prop) : Prop :=
      (s.restoring i.val = none ∨ ¬ yes → t.longOps = s.longOps ∧ t.bands = s.bands) ∧
      (∀ o, s.restoring i.val = some o → yes →
        t.bands = (s.setSvc (bandOf i.val) (some { o with steps := o.steps + 1 })).bands ∧
        ∀ l, s.longOp? o.origin o.tag = some l →
          ∃ k, t.longOp? o.origin o.tag = some k ∧ k.done = max l.done (o.steps + 1))
    (∃ t, exec (.tilePowered i) s = .next t ∧ t = { s with tiles := t.tiles, bands := t.bands, longOps := t.longOps } ∧
      counts t (y.pgState = false ∧ y.pgReq = false) ∧
      only t (if y.pgState then y else if y.pgReq || s.restoreHeld i.val then { y with pgState := true }
        else { y with pgState := true, power := .resetHold })) ∧
    (y.power = .resetHold → (s.band (bandOf i.val)).cclkOut = true → (s.band (bandOf i.val)).clocked = true →
      s.paused = false ∨ s.restoreSteps i.val < 2 →
      ∃ t, exec (.tileResetHoldExpiry i) s = .next t ∧
        t = { s with tiles := t.tiles, bands := t.bands, longOps := t.longOps, fresh := s.fresh + 1, mgmtCorrected := t.mgmtCorrected
                     fatal := t.fatal } ∧
        t.mgmtCorrected = (if Config.sramOutcome s.fresh = .corrected then satInc s.mgmtCorrected else s.mgmtCorrected) ∧
        t.fatal = (if Config.sramOutcome s.fresh = .uncorrectable then s.fatal ||| 4 else s.fatal) ∧
        counts t True ∧ only t (if s.restoreHeld i.val then y else { y with power := .entryCheck })) ∧
    (s.paused = true → 2 ≤ s.restoreSteps i.val → exec (.tileResetHoldExpiry i) s = .next s) ∧
    (s.cclkRuns (bandOf i.val) = false → ∀ pass, exec (.tileEntryCheckDone i pass) s = .next s) ∧
    (y.power = .entryCheck → s.cclkRuns (bandOf i.val) = true → (s.band (bandOf i.val)).svc = none →
      (∃ t, exec (.tileEntryCheckDone i true) s = .next t ∧
        only t { y with power := .ready, active := true, lost := false, failed := false, calUsed := y.calRecord }) ∧
      (∃ t, exec (.tileEntryCheckDone i false) s = .next t ∧
        only t { y.cleared with power := .off, pgReq := true, active := false, failed := true } ∧
        t.kindCount srcMgmt evTileTestFail = satInc (s.kindCount srcMgmt evTileTestFail))) ∧
    (y.pgReq = true ∨ y.pgState = false → exec (.tilePowerLost i) s = .next s) ∧
    (y.pgReq = false → y.pgState = true → (s.band (bandOf i.val)).svc = none →
      (s.streams.map (fun x => x.sid)).Nodup →
      (∀ x ∈ s.streamsOn i.val, x.closing = false ∧ ∀ u ∈ x.allTiles, (s.tile u).rows = [] ∧ (s.tile u).blocks = []) →
      ∃ t, exec (.tilePowerLost i) s = .next t ∧
        t.tile i.val = { y.cleared with pgState := false, power := .off, active := false, lost := y.lost || y.active } ∧
        t.fatal = s.fatal ||| 0x00000001 ∧
        (s.streamsOn i.val = [] →
          t.kindCount srcMgmt evTilePowerLost = satInc (s.kindCount srcMgmt evTilePowerLost)) ∧
        (∀ x ∈ s.streamsOn i.val, i.val ∈ x.tiles → ∃ z, t.stream? x.sid = some z ∧ z.suspended = true ∧ z.causes.noPower = true))

/-! ### Testing, audits and the test port -/

/-- R363 to R365, R375, Tables 16.1 and 16.2: a Drizzle test that passes counts a sweep at most, a corrected error only its
counter, a fault is a finding and nothing else; a test of an evaluator that holds XEV requests has no slot (R132). A
path monitor below the threshold that its tile's calibration has in effect at the band's applied point is a MARGIN_LOW finding
(R367). A damaged table entry poisons every row pass of the tile that reads it, and
the read of management SRAM that mends it counts a corrected error or sets FATAL_STATUS.MGMT, as does the read with which
an evaluator's narrow arrays are compared, whose end is a free value (log entry 82); an audit holds the counters of the books
against what they count (Table 16.6); an imbalance that a second audit finds again, and work that waits too long, set their FATAL_STATUS bits.
The model's reading: log entries 13 and 27.
Counts of findings: log entry 47.
A command that is not enabled changes nothing: log entry 10. -/
def Obligations.BackgroundChecksReportAndGoOn : Prop :=
  (∀ (i : Fin 88) (s : State),
    let y := s.tile i.val
    let reads (t : State) (unit : Nat) : Prop :=
      t.fresh = (if unit = 1 then s.fresh + 1 else s.fresh) ∧
      t.mgmtCorrected = (if unit = 1 ∧ Config.sramOutcome s.fresh = .corrected then satInc s.mgmtCorrected
        else s.mgmtCorrected) ∧
      t.fatal = if unit = 1 ∧ Config.sramOutcome s.fresh = .uncorrectable then s.fatal ||| 4 else s.fatal
    (∀ r, s.drizzles i.val r = false → exec (.drizzleTest i r) s = .next s) ∧
    (∀ (n : BitVec 16) (e o : Word) (d : Bool), (∃ q ∈ y.xevBuf, n.toNat ∈ q.places) →
      s.drizzles i.val (.pass 1 n d) = false ∧ s.drizzles i.val (.fault 1 n e o) = false ∧
      s.drizzles i.val (.eccFault 1 n e o) = false) ∧
    (∀ (u : Byte) (n : BitVec 16) (done : Bool), s.drizzles i.val (.pass u n done) = true →
      ∃ t, exec (.drizzleTest i (.pass u n done)) s = .next t ∧
      t.tile i.val = { y with sweeps := if done then satInc y.sweeps else y.sweeps } ∧ reads t u.toNat ∧
      (∀ k : Fin 88, k ≠ i → t.tile k.val = s.tile k.val) ∧
      t = { s with tiles := t.tiles, fresh := t.fresh, mgmtCorrected := t.mgmtCorrected, fatal := t.fatal }) ∧
    (∀ a b c : Bool, s.drizzles i.val (.corrected a b c) = true → ∃ t, exec (.drizzleTest i (.corrected a b c)) s = .next t ∧
      t.tile i.val = { y with corrected := (t.tile i.val).corrected } ∧
      (∀ k : Fin 88, k ≠ i → t.tile k.val = s.tile k.val) ∧ t = { s with tiles := t.tiles }) ∧
    (∀ (r : DrizzleResult) (u : Byte) (n : BitVec 16) (e o : Word),
      r = .fault u n e o ∨ r = .eccFault u n e o → s.drizzles i.val r = true →
      ∃ t, exec (.drizzleTest i r) s = .next t ∧ reads t u.toNat ∧
        t = { s with
          taps := t.taps, arb := t.arb, intStatus := t.intStatus, fresh := t.fresh, mgmtCorrected := t.mgmtCorrected
          fatal := t.fatal } ∧
        t.kindCount i.val evDrizzleFault = satInc (s.kindCount i.val evDrizzleFault)) ∧
    (∀ (n : BitVec 16) (o : Word), s.drizzles i.val (.marginLow n o) = true →
      let low := y.calUsed.margins.getD (s.band (bandOf i.val)).cur 0
      (low ≤ o.toNat → exec (.drizzleTest i (.marginLow n o)) s = .next s) ∧
      (o.toNat < low → ∃ t, exec (.drizzleTest i (.marginLow n o)) s = .next t ∧
        t.kindCount i.val evMarginLow = satInc (s.kindCount i.val evMarginLow) ∧
        t = { s with taps := t.taps, arb := t.arb, intStatus := t.intStatus }))) ∧
  (∀ (i : Fin 88) (e : EntryRef) (r : SramRead) (s : State), s.tileRuns i.val = true → s.holdsEntry i.val e = true →
    ∃ t, exec (.tableEntryRewrite i e r) s = .next t ∧
      t.tile i.val = { s.tile i.val with
        rows := (s.tile i.val).rows.map (fun r => { r with poison := r.poison || entryReadBy e r }) } ∧
      (∀ k : Fin 88, k ≠ i → t.tile k.val = s.tile k.val) ∧
      t.kindCount i.val evPoisonEcc = satInc (s.kindCount i.val evPoisonEcc) ∧
      t = { s with
        tiles := t.tiles, taps := t.taps, arb := t.arb, intStatus := t.intStatus
        mgmtCorrected := if r = .corrected then satInc s.mgmtCorrected else s.mgmtCorrected
        fatal := if r = .uncorrectable then s.fatal ||| 0x00000004 else s.fatal }) ∧
  (∀ s : State, s.mgmtRuns = true → s.paused = false → s.readyDone = true → ∃ t, exec .booksAudit s = .next t ∧
    (s.unbalanced = [] → t = { s with booksBad := [] } ∧
      (∀ i : Fin 88, s.books.skid.getD i.val 0 + (s.tile i.val).queue.countP (fun q => q.isBeat) = 128 ∧
        (s.migratesOn i.val = false → s.bookUnits i.val = 192)) ∧
      (∀ b : Fin 8, s.books.contexts.getD b.val 0 + (s.streamsIn b.val).length = 2048) ∧
      (∀ k : Fin 4, s.books.slots.getD k.val 0 = s.slotRefs k.val) ∧
      (∀ id ∈ s.chainsNamed, refOf s.books.chains id = s.chainRefs id) ∧
      (∀ (i : Fin 88) (e : Nat), refOf (s.tile i.val).evalGrants e = refOf (s.tile i.val).evalResults e)) ∧
    (∀ x ∈ s.unbalanced, ∀ y, s.booksBad.find? (fun z => z.1 == x.1 && z.2.1 == x.2.1) = some y → y.2.2 = false →
      t.fatal.getLsbD 1 = true) ∧
    ((∀ x ∈ s.unbalanced, s.booksBad.find? (fun z => z.1 == x.1 && z.2.1 == x.2.1) = none) → t.fatal = s.fatal) ∧
    t = { s with booksBad := t.booksBad, fatal := t.fatal, taps := t.taps, arb := t.arb, intStatus := t.intStatus }) ∧
  (∀ s : State, s.mgmtRuns = true → exec .watchdogExpiry s = .next
    (if s.workPending then { s with fatal := s.fatal ||| 0x00000008 } else s))

/-- R411, R412: while a unit's test gate is closed, WS_EXTEST, WS_INTEST, WS_CLAMP, scan, a BIST write and a repair write set
its BLOCKED bit and do nothing else; while it is open, the wrapper holds the instruction, a repair write takes its register,
and scan and a BIST write change nothing that the block holds. WS_BYPASS and WS_PRELOAD pass at any time. A read delivers
its value and never changes anything else; a junction without power reads 0, as in the telemetry. The gate of a tile is closed
while the tile is in the service map, and outside it open while the tile is retired or gated; that of a band is closed while one of its tiles is neither,
which a tile under a TILE_RESTORE is not either. trst_n clears the registers and every BLOCKED bit. R410: an edge of tck moves the TAP alone; IDCODE
captures its 32 bits with the declared MFR, and a reserved instruction acts as BYPASS; five edges with tms high reset the TAP.
The model's reading: log entries 28 and 77. -/
def Obligations.TestGatesKeepTheMissionState : Prop :=
  (∀ (code : Byte) (s : State),
    exec (.testAccess (.loadIr code)) s = .next { s with tap := { s.tap with phase := .idle, ir := code } }) ∧
  (∀ (i : Instrument) (s : State), ∃ t, exec (.testAccess (.readInstrument i)) s = .next t ∧
    t = { s with tap := { s.tap with read := t.tap.read } } ∧ (s.tap.ir ≠ 0x11 → t = s) ∧
    (∀ k : Fin 88, s.tap.ir = 0x11 → i = .status k → t.tap.read =
      (if s.testGate (.tile k) then 1 else 0) + (if (s.tile k.val).blocked then 2 else 0)) ∧
    (∀ b : Fin 8, s.tap.ir = 0x11 → i = .clockCounts b → t.tap.read =
      (s.band b.val).cclkMhz + (s.band b.val).hclkMhz * 65536) ∧
    (∀ (k : Fin 88) (v : BitVec 16), s.tap.ir = 0x11 → i = .junction k v → t.tap.read =
      if (s.tile k.val).power = .off then 0 else v.toNat)) ∧
  (∀ (tms tdi : Bool) (s : State), ∃ t, exec (.testAccess (.clock tms tdi)) s = .next t ∧
    t = { s with tap := t.tap, fresh := t.fresh } ∧
    (s.tap.phase = .captureDr → s.tap.ir = 0x01 → t.tap.shift =
      let word := 1 + leAt s.declaration 16 2 % 2048 * 2 + 0xC505 * 4096 + 0x5 * 268435456
      (List.range 32).map (fun k => word.testBit k)) ∧
    (s.tap.phase = .captureDr → s.tap.ir ≠ 0x01 → s.tap.ir ≠ 0x10 → s.tap.ir ≠ 0x11 → t.tap.shift = [false]) ∧
    (s.tap.phase = .shiftDr → t.tap.shift = s.tap.shift.drop 1 ++ [tdi] ∧ t.tap.ir = s.tap.ir ∧
      t.tap.phase = if tms then .exit1Dr else .shiftDr)) ∧
  (∀ (tdi : Bool) (s : State),
    let edge (s : State) : State := s.tapClock true tdi
    (edge (edge (edge (edge (edge s))))).tap.phase = .reset ∧ (edge (edge (edge (edge (edge s))))).tap.ir = 0x01 ∧
    exec (.testAccess (.clock true tdi)) s = .next (edge s)) ∧
  (∀ (op : TestOp) (u : TestUnit) (s : State),
    ((op = .wrapper u .extest ∨ op = .wrapper u .intest ∨ op = .wrapper u .clamp ∨ op = .scan u) ∧ s.tap.ir = 0x10 ∨
      op = .bistWrite u ∧ s.tap.ir = 0x11 ∨
      (∃ i bad banks rows, u = .tile i ∧ op = .repairWrite i bad banks rows) ∧ s.tap.ir = 0x11) →
    s.testGate u = false → ∃ t, exec (.testAccess op) s = .next t ∧
      (match u with
        | .tile i => t = s.setTile i.val { s.tile i.val with blocked := true }
        | .band b => t = s.setBand b.val { s.band b.val with blocked := true }
        | .management => t = { s with mgmtBlocked := true })) ∧
  (∀ (u : TestUnit) (w : WrapperInstr) (s : State), s.tap.ir = 0x10 → s.testGate u = true ∨ w = .bypass ∨ w = .preload →
    ∃ t, exec (.testAccess (.wrapper u w)) s = .next t ∧
      t = { s with tap := { s.tap with wrappers := t.tap.wrappers } } ∧
      (∀ k : Fin 97, t.tap.wrappers.get k =
        if k.val = State.unitPlace u then w else s.tap.wrappers.get k)) ∧
  (∀ (u : TestUnit) (s : State), s.testGate u = true →
    (s.tap.ir = 0x10 → exec (.testAccess (.scan u)) s = .next s) ∧
    (s.tap.ir = 0x11 → exec (.testAccess (.bistWrite u)) s = .next s)) ∧
  (∀ (i : Fin 88) (bad : Bool) (banks : BitVec 16) (rows : List Bool) (s : State), s.tap.ir = 0x11 →
    s.testGate (.tile i) = true → exec (.testAccess (.repairWrite i bad banks rows)) s = .next
      (s.setTile i.val { s.tile i.val with repBad := bad, repBanks := banks, repRows := rows })) ∧
  (∀ (s : State) (i : Fin 88), s.readyDone = true →
    (s.inMap i.val = true → s.testGate (.tile i) = false) ∧
    ((s.tile i.val).active = false → (s.band (bandOf i.val)).svc = none →
      s.testGate (.tile i) = ((s.tile i.val).pgReq || (s.tile i.val).retired))) ∧
  (∀ (s : State) (b : Fin 8), s.readyDone = true → (s.testGate (.band b) = true ↔ (s.band b.val).present = false ∧
    ∀ i : Fin 88, bandOf i.val = b.val → (s.tile i.val).pgReq = true ∨ (s.tile i.val).retired = true ∧
      ∀ o, (s.band b.val).svc = some o → o.kind = .restore → o.cur ≠ i.val)) ∧
  (∀ (s : State) (u : TestUnit), s.readyDone = false → u ≠ .management → s.testGate u = true) ∧
  (∀ s : State, ∃ t, exec .trstN s = .next t ∧ t.mgmtBlocked = false ∧
    (∀ i : Fin 88, t.tile i.val = { s.tile i.val with repBad := false, repBanks := 0, repRows := [], blocked := false }) ∧
    (∀ b : Fin 8, t.band b.val = { s.band b.val with blocked := false }) ∧
    t.tap.ir = 0x01 ∧ t.tap.phase = .reset ∧ (∀ k : Fin 97, t.tap.wrappers.get k = .bypass) ∧
    t = { s with tiles := t.tiles, bands := t.bands, mgmtBlocked := false, tap := t.tap })

/-! ### Records and number formats -/

/-- R183 to R185, Table 8.2: the 64 bytes in which a record goes to host memory carry every field of it: reading them back
gives the record, and its CRC holds. -/
def Obligations.RecordsReadBackAsWritten : Prop :=
  ∀ r : Rec, (recBytes r).length = 64 ∧ parseRec (recBytes r) = r ∧ recCrcOk (recBytes r) = true

/-- R196: records merge by maxima and by sums, each field as the procedure says, with the identity and the fields that KIND
does not merge from the first. R179: the merge of any set of records that agree by R195 is independent of their order and of
how they are grouped, in every field that its KIND has, and in all but STREAM where the fields that it does not have are alike;
the zero record is its identity. -/
def Obligations.MergingRecordsHasNoOrder : Prop :=
  let sameRow (a b : Rec) : Prop := a.sig = b.sig ∧ a.kind = b.kind ∧ a.row = b.row ∧ a.pass = b.pass ∧ a.step = b.step
  let agree (a b : Rec) : Prop := sameRow a b ∧ (kSum a.kind.toNat = true → a.maxkey = b.maxkey) ∧
    (kSumsq a.kind.toNat = true → a.e = b.e)
  let same (a b : Rec) : Prop := sameRow a b ∧ a.count = b.count ∧ a.satuf = b.satuf ∧ a.nanc = b.nanc ∧ a.flags = b.flags ∧
    (kMax a.kind.toNat = true ∨ kSum a.kind.toNat = true → a.maxkey = b.maxkey) ∧
    (kAbsmax a.kind.toNat = true → a.absmax = b.absmax) ∧
    (kExpo a.kind.toNat = true ∨ kSumsq a.kind.toNat = true → a.e = b.e) ∧
    (kSum a.kind.toNat = true → a.sum = b.sum) ∧ (kSumsq a.kind.toNat = true → a.sumsq = b.sumsq)
  let alike (a b : Rec) : Prop := (kMax a.kind.toNat = false → a.maxkey = b.maxkey) ∧
    (kAbsmax a.kind.toNat = false → a.absmax = b.absmax) ∧ (kExpo a.kind.toNat = false → a.e = b.e) ∧
    (kSum a.kind.toNat = false → a.sum = b.sum) ∧ (kSumsq a.kind.toNat = false → a.sumsq = b.sumsq)
  (∀ a b : Rec, let m := mergeRec a b
    sameRow m a ∧ m.stream = a.stream ∧
    (if kMax a.kind.toNat then m.maxkey.toNat = max a.maxkey.toNat b.maxkey.toNat else m.maxkey = a.maxkey) ∧
    (if kAbsmax a.kind.toNat then m.absmax.toNat = max a.absmax.toNat b.absmax.toNat else m.absmax = a.absmax) ∧
    (if kExpo a.kind.toNat then m.e.toInt = max a.e.toInt b.e.toInt else m.e = a.e) ∧
    (if kSum a.kind.toNat then m.sum = a.sum + b.sum else m.sum = a.sum) ∧
    (if kSumsq a.kind.toNat then m.sumsq = a.sumsq + b.sumsq else m.sumsq = a.sumsq) ∧
    m.count = a.count + b.count ∧ m.satuf = a.satuf + b.satuf ∧ m.nanc = a.nanc + b.nanc ∧
    (∀ i : Fin 8, m.flags.getLsbD i.val =
      if i.val = 0 then a.flags.getLsbD 0 && b.flags.getLsbD 0
      else (i.val == 1 || i.val == 2 || i.val == 3) && (a.flags.getLsbD i.val || b.flags.getLsbD i.val))) ∧
  (∀ r : Rec, let z := zeroRec r
    sameRow z r ∧ z.stream = 0 ∧ z.flags = 0x01 ∧ (if kSum r.kind.toNat then z.maxkey = r.maxkey else z.maxkey = 0) ∧
    z.absmax = 0 ∧ (if kExpo r.kind.toNat then z.e = 0x8000 else if kSumsq r.kind.toNat then z.e = r.e else z.e = 0) ∧
    z.sum = 0 ∧ z.sumsq = 0 ∧ z.count = 0 ∧ z.satuf = 0 ∧ z.nanc = 0) ∧
  (∀ l₁ l₂ : List Rec, List.Perm l₁ l₂ → (∀ x ∈ l₁, ∀ y ∈ l₁, agree x y) →
    ∀ a b, mergeAll l₁ = some a → mergeAll l₂ = some b →
      same a b ∧ ((∀ x ∈ l₁, ∀ y ∈ l₁, alike x y) → { a with stream := b.stream } = b)) ∧
  (∀ (l₁ l₂ : List Rec) (a b : Rec), (∀ x ∈ l₁ ++ l₂, ∀ y ∈ l₁ ++ l₂, agree x y) → mergeAll l₁ = some a →
    mergeAll l₂ = some b → mergeAll (l₁ ++ l₂) = some (mergeRec a b)) ∧
  (∀ r : Rec, r.flags.toNat < 16 → same (mergeRec (zeroRec r) r) r ∧ same (mergeRec r (zeroRec r)) r)

/-- R103, R105, R188 to R190: what a STAT stage accumulates over a row does not depend on the order of the elements: maxima,
exact sums of the terms, and flags. Each value is taken as binary32 (R188), a NaN adds no term and sets NAN_SEEN, and no term
exceeds what its clamp leaves. An exact PSUM does not depend on the order of its products either, nor on how the row is split
over the tiles whose partials combine, and R105 decides what a NaN, infinities or a sum of zero make of it. -/
def Obligations.AccumulationsHaveNoOrder : Prop :=
  (∀ (kind psh : Nat) (e : Int) (f : Fmt) (a : StatAcc) (xs ys : List Val), List.Perm xs ys →
    xs.foldl (fun a x => a.take kind psh e f x) a = ys.foldl (fun a x => a.take kind psh e f x) a) ∧
  (∀ (step kind psh : Nat) (e : Int) (f : Fmt) (xs : List Val),
    let r := xs.foldl (fun a x => a.take kind psh e f x) (StatAcc.start step)
    let vs := (xs.map (fun x => if f = .xf then reround .b32 x else x)).filter (fun v => !v.isNan)
    let key (v : Val) : Nat := maxKey (encodeLane .b32 v).code
    let mag (v : Val) : Nat := (encodeLane .b32 v).code % 2 ^ 31
    r.sum = (if kSum kind then (vs.map (fun v => (sumTerm psh v).t)).sum else 0) ∧
    r.sumsq = (if kSumsq kind then (vs.map (fun v => (sumsqTerm e v).t)).sum else 0) ∧
    (kMax kind = true → (∀ v ∈ vs, key v ≤ r.maxkey) ∧ (r.maxkey = 0 ∨ ∃ v ∈ vs, r.maxkey = key v)) ∧
    (kAbsmax kind = true → (∀ v ∈ vs, mag v ≤ r.absmax) ∧ (r.absmax = 0 ∨ ∃ v ∈ vs, r.absmax = mag v)) ∧
    (r.nan = true ↔ vs.length < xs.length) ∧
    (r.allZero = true ↔ vs.length = xs.length ∧ ∀ v ∈ vs, v.isZero = true) ∧
    (r.sat = true ↔ ∃ v ∈ vs, (kSum kind = true ∧ (sumTerm psh v).sat = true) ∨
      (kSumsq kind = true ∧ (sumsqTerm e v).sat = true))) ∧
  (∀ (psh : Nat) (e : Int) (s : Bool) (n d : Nat) (k : Int), 0 < d →
    (sumTerm psh (.fin s n d k)).t ≤ 2 ^ 38 ∧ (sumsqTerm e (.fin s n d k)).t ≤ 2 ^ 46) ∧
  (∀ (a : PsumAcc) (xs ys : List Val), List.Perm xs ys →
    xs.foldl (fun a v => a.product true v) a = ys.foldl (fun a v => a.product true v) a) ∧
  (∀ (step : Nat) (lsb : Int) (xs ys : List Val),
    PsumAcc.combine true (xs.foldl (fun a v => a.product true v) (PsumAcc.start step lsb))
        (ys.foldl (fun a v => a.product true v) (PsumAcc.start step lsb)) =
      (xs ++ ys).foldl (fun a v => a.product true v) (PsumAcc.start step lsb)) ∧
  (∀ (step : Nat) (lsb : Int) (xs : List Val),
    let r := xs.foldl (fun a v => a.product true v) (PsumAcc.start step lsb)
    let has (v : Val) : Prop := v ∈ xs
    let finite : Prop := ∀ v ∈ xs, v.isNan = false ∧ v.isInf = false
    ((∃ v ∈ xs, v.isNan = true) ∨ has (.inf false) ∧ has (.inf true) → r.value true = Val.default) ∧
    (∀ s, (∀ v ∈ xs, v.isNan = false) → has (.inf s) → ¬ has (.inf (!s)) → r.value true = .inf s) ∧
    (finite → r.exact = (xs.map (fun v => match v with
      | .fin s n _ e => if s then -(floorAt lsb n 1 e : Int) else floorAt lsb n 1 e
      | _ => 0)).sum) ∧
    (finite → r.exact = 0 → r.value true =
      .fin (decide (∀ v ∈ xs, v.isZero = true ∧ v.neg? = true)) 0 1 0) ∧
    (finite → r.exact ≠ 0 → r.value true = .fin (decide (r.exact < 0)) r.exact.natAbs 1 lsb))

/-- R39 to R49, R50, R57, R62: a value that a format holds is written in it exactly and loses nothing: the code that it rounds
to decodes to the same value. -/
def Obligations.FormatsHoldTheirOwnValues : Prop :=
  ∀ (f : Fmt) (c : Nat), c < 2 ^ f.width → (decode f c).isNan = false →
    decode f (encodeLane f (decode f c)).code = decode f c ∧ (encodeLane f (decode f c)).ev = .none


/-- R77, R78: over all held values of a row from which no outlier is removed, the SE8 output scale is the smallest power of
two, and the binary16 fine scale the smallest binary16 value, under which no value exceeds the target's reference magnitude,
within the limits of their codes; a row of zeros, or of zeros and NaNs, takes the neutral scale and ZERO_ROW, and a row of
NaNs the scale that marks it. -/
def Obligations.RowScaleCoversTheRow : Prop :=
  ∀ (E : ConvEnv) (hs : List (Nat × HeldElem)),
    let f := E.st.holdf
    let R := convRow E hs
    let mx := refMag E.st.fmt
    let nan (p : Nat × HeldElem) : Prop := (decode f p.2.code).isNan = true
    let zero (p : Nat × HeldElem) : Prop := (decode f p.2.code).isZero = true
    let value (p : Nat × HeldElem) : Val := decode f (heldMag f p.2.code)
    let exceeds (p : Nat × HeldElem) (v : Val) : Prop := ¬ nan p ∧ Val.lt v (value p) = true
    (f = .b32 ∨ f = .b16) → (∀ p ∈ hs, p.2.code < 2 ^ f.width ∧ (decode f p.2.code).isInf = false) →
    ((∀ p ∈ hs, nan p) → R.scale = (if E.st.scout = 1 then 255 else 0x7E00) ∧ R.zeroRow = false ∧ R.removed = []) ∧
    ((∃ p ∈ hs, ¬ nan p) → (∀ p ∈ hs, nan p ∨ zero p) →
      R.scale = (if E.st.scout = 1 then 127 else 0x3C00) ∧ R.neutral = true ∧ R.zeroRow = true ∧ R.removed = []) ∧
    ((∃ p ∈ hs, ¬ nan p ∧ ¬ zero p) → E.st.outl = 0 → E.st.k3 = 0xFFFF →
      R.zeroRow = false ∧ R.neutral = false ∧ R.removed = [] ∧
      (E.st.scout = 1 → R.scale ≤ 254 ∧
        (R.scale < 254 → ∀ p ∈ hs, ¬ exceeds p (Val.scale2 ((R.scale : Int) - 127) mx)) ∧
        (0 < R.scale → ∃ p ∈ hs, exceeds p (Val.scale2 ((R.scale : Int) - 128) mx))) ∧
      (E.st.scout = 2 → 1 ≤ R.scale ∧ R.scale ≤ 0x7BFF ∧
        (R.scale < 0x7BFF → ∀ p ∈ hs, ¬ exceeds p (Val.mul (decode .b16 R.scale) mx)) ∧
        (1 < R.scale → ∃ p ∈ hs, exceeds p (Val.mul (decode .b16 (R.scale - 1)) mx))))

/-- Special inputs. R126, Table 5.4: the built-in functions at a NaN, the infinities, the zeros and negative numbers, in
every format; for FM8, LN8 and LN4 a negative number is first rounded to binary32 (R124), where it may become -0. R215, R219, R220, R224: APPLY where infinities or a zero statistic meet. R62, R167, Tables 7.4 and 7.5: a step
passes its first NaN operand, quieted, GETE and GETM take zeros and infinities as Table 7.4 says, SCL2 asks for an integer,
and the fix map gives the exponential's, the logarithm's and the reciprocal's values in its classes. -/
def Obligations.SpecialInputsFollowTheTables : Prop :=
  (∀ (o : Fmt) (psh : Nat) (s : Bool) (n d : Nat) (e : Int) (fr : Nat), 0 < n → 0 < d → fr < 2 ^ 26 →
    let ev (func : Nat) (x : Val) : Enc := evalEnc func none psh o x
    let out (v : Val) : Enc := encodeLane o v
    let scaled (v : Val) : Enc := encodeLane o (Val.scale2 psh v)
    (∀ func, 1 ≤ func → func ≤ 6 → ev func (.nan s fr) = out (.nan s (fr ||| 2 ^ 25))) ∧
    (∀ func, func = 1 ∨ func = 2 → ev func (.inf true) = out Val.zero ∧ ev func (.inf false) = out (.inf false) ∧
      ev func (.fin s 0 d e) = scaled Val.one) ∧
    (∀ func, func = 3 ∨ func = 4 → ev func (.inf true) = out Val.default ∧ ev func (.inf false) = out (.inf false) ∧
      ev func (.fin s 0 d e) = out (.inf true) ∧
      (o.isLong = true ∨ o = .fm16 ∨ o = .xf → ev func (.fin true n d e) = out Val.default)) ∧
    ev 5 (.inf s) = out (.fin s 0 1 0) ∧ ev 5 (.fin s 0 d e) = out (.inf s) ∧
    ev 6 (.inf true) = out Val.default ∧ ev 6 (.inf false) = out Val.zero ∧ ev 6 (.fin s 0 d e) = out (.inf s) ∧
    (o.isLong = true ∨ o = .fm16 ∨ o = .xf → ev 6 (.fin true n d e) = out Val.default) ∧
    (∀ func, func = 3 ∨ func = 4 ∨ func = 6 → o.isLong = false → o ≠ .fm16 → o ≠ .xf →
      let x32 := reround .b32 (.fin true n d e)
      ev func (.fin true n d e) = if x32.isZero then out (.inf true) else out Val.default)) ∧
  (∀ (c : Chain) (k col : Nat) (a : Opnd) (st : Val),
    let d := fmtOf (c.stage k).opfD
    let r := applyElem c k col st a
    ((c.stage k).aop = 0 → a.val = .inf true → st = .inf true → r = encodeLane d (.inf true)) ∧
    ((c.stage k).aop = 0 → a.val = .inf false → st = .inf false → r = encodeLane d Val.default) ∧
    ((c.stage k).aop = 1 → st.isZero = true → a.val.isNan = false → r = encodeLane d Val.zero) ∧
    ((c.stage k).aop < 2 → a.val.isNan = true → r = encodeLane d a.val.quiet)) ∧
  (∀ (r : StepRegs) (w : Nat),
    let op := bits w 31 27
    let a := r.read (bits w 21 17)
    let b := r.read (bits w 16 12)
    let va := decode .b32 a
    let vb := decode .b32 b
    let res := stepResult r w
    let imm := bits w 6 0
    (op ∈ [0x02, 0x03, 0x04, 0x05, 0x06, 0x07, 0x09, 0x0A] → va.isNan = true → res = rn32 va.quiet) ∧
    (op ∈ [0x02, 0x03, 0x04] → va.isNan = false → vb.isNan = true → res = rn32 vb.quiet) ∧
    (op = 0x06 → va.isInf = true ∨ va.isZero = true → res = 0) ∧
    (op = 0x07 → va.isInf = true ∨ va.isZero = true → res = rn32 va) ∧
    (op = 0x08 → va.isNan = false → vb.isInteger = false → vb.isNan = false → res = 0x7FC00000) ∧
    (op = 0x0D → imm = 0 → res = a) ∧
    (op = 0x0D → let x := decode .b32 r.x
      (imm ≠ 0 → x.isNan = true → res = rn32 x.quiet) ∧
      (x = .inf true → (imm = 1 → res = 0) ∧ (imm = 2 ∨ imm = 4 → res = 0x7FC00000) ∧ (imm = 3 → res = 0x80000000)) ∧
      (x = .inf false → (imm = 1 ∨ imm = 2 → res = 0x7F800000) ∧ (imm = 3 ∨ imm = 4 → res = 0)) ∧
      (x.isZero = true → (imm = 1 → res = 0x3F800000) ∧ (imm = 2 → res = 0xFF800000) ∧
        (imm = 3 ∨ imm = 4 → res = if x.neg? then 0xFF800000 else 0x7F800000)) ∧
      (∀ n d e, x = .fin true (n + 1) d e → (imm = 2 ∨ imm = 4 → res = 0x7FC00000) ∧ (imm = 1 ∨ imm = 3 → res = a)) ∧
      (∀ n d e, x = .fin false (n + 1) d e → res = a)))
end

