-- ==== Sys2Proof/Laws/Books.lean ====
section
/-!
SUPPORT. What an operation on the books leaves alone: `booked` changes the counters of R387 and nothing else.
-/

namespace Sys2Proof.Machine

namespace State

variable (s : State) (f : State → State)

@[simp] theorem booked_pending : (s.booked f).pending = (f s).pending := rfl
@[simp] theorem booked_porN : (s.booked f).porN = (f s).porN := rfl
@[simp] theorem booked_mclk : (s.booked f).mclk = (f s).mclk := rfl
@[simp] theorem booked_mgmtOut : (s.booked f).mgmtOut = (f s).mgmtOut := rfl
@[simp] theorem booked_fclkOut : (s.booked f).fclkOut = (f s).fclkOut := rfl
@[simp] theorem booked_tclkOut : (s.booked f).tclkOut = (f s).tclkOut := rfl
@[simp] theorem booked_fresh : (s.booked f).fresh = (f s).fresh := rfl
@[simp] theorem booked_fwVersion : (s.booked f).fwVersion = (f s).fwVersion := rfl
@[simp] theorem booked_service : (s.booked f).service = (f s).service := rfl
@[simp] theorem booked_cause : (s.booked f).cause = (f s).cause := rfl
@[simp] theorem booked_slotB : (s.booked f).slotB = (f s).slotB := rfl
@[simp] theorem booked_bootPhase : (s.booked f).bootPhase = (f s).bootPhase := rfl
@[simp] theorem booked_keyHash : (s.booked f).keyHash = (f s).keyHash := rfl
@[simp] theorem booked_keyArc : (s.booked f).keyArc = (f s).keyArc := rfl
@[simp] theorem booked_keyValid : (s.booked f).keyValid = (f s).keyValid := rfl
@[simp] theorem booked_bootBase : (s.booked f).bootBase = (f s).bootBase := rfl
@[simp] theorem booked_arcReq : (s.booked f).arcReq = (f s).arcReq := rfl
@[simp] theorem booked_imgA : (s.booked f).imgA = (f s).imgA := rfl
@[simp] theorem booked_imgB : (s.booked f).imgB = (f s).imgB := rfl
@[simp] theorem booked_staging : (s.booked f).staging = (f s).staging := rfl
@[simp] theorem booked_readyDone : (s.booked f).readyDone = (f s).readyDone := rfl
@[simp] theorem booked_vaneRestarts : (s.booked f).vaneRestarts = (f s).vaneRestarts := rfl
@[simp] theorem booked_handover : (s.booked f).handover = (f s).handover := rfl
@[simp] theorem booked_arcWaits : (s.booked f).arcWaits = (f s).arcWaits := rfl
@[simp] theorem booked_intStatus : (s.booked f).intStatus = (f s).intStatus := rfl
@[simp] theorem booked_intEnable : (s.booked f).intEnable = (f s).intEnable := rfl
@[simp] theorem booked_fatal : (s.booked f).fatal = (f s).fatal := rfl
@[simp] theorem booked_time : (s.booked f).time = (f s).time := rfl
@[simp] theorem booked_timeSeen : (s.booked f).timeSeen = (f s).timeSeen := rfl
@[simp] theorem booked_timeLost : (s.booked f).timeLost = (f s).timeLost := rfl
@[simp] theorem booked_timeShadow : (s.booked f).timeShadow = (f s).timeShadow := rfl
@[simp] theorem booked_evq : (s.booked f).evq = (f s).evq := rfl
@[simp] theorem booked_logm : (s.booked f).logm = (f s).logm := rfl
@[simp] theorem booked_cfgLock : (s.booked f).cfgLock = (f s).cfgLock := rfl
@[simp] theorem booked_trap : (s.booked f).trap = (f s).trap := rfl
@[simp] theorem booked_tel : (s.booked f).tel = (f s).tel := rfl
@[simp] theorem booked_ctlAck : (s.booked f).ctlAck = (f s).ctlAck := rfl
@[simp] theorem booked_ctlRdata : (s.booked f).ctlRdata = (f s).ctlRdata := rfl
@[simp] theorem booked_mbx : (s.booked f).mbx = (f s).mbx := rfl
@[simp] theorem booked_bells : (s.booked f).bells = (f s).bells := rfl
@[simp] theorem booked_policy : (s.booked f).policy = (f s).policy := rfl
@[simp] theorem booked_longOps : (s.booked f).longOps = (f s).longOps := rfl
@[simp] theorem booked_loads : (s.booked f).loads = (f s).loads := rfl
@[simp] theorem booked_slots : (s.booked f).slots = (f s).slots := rfl
@[simp] theorem booked_chains : (s.booked f).chains = (f s).chains := rfl
@[simp] theorem booked_nextVer : (s.booked f).nextVer = (f s).nextVer := rfl
@[simp] theorem booked_streams : (s.booked f).streams = (f s).streams := rfl
@[simp] theorem booked_intervals : (s.booked f).intervals = (f s).intervals := rfl
@[simp] theorem booked_log : (s.booked f).log = (f s).log := rfl
@[simp] theorem booked_arb : (s.booked f).arb = (f s).arb := rfl
@[simp] theorem booked_taps : (s.booked f).taps = (f s).taps := rfl
@[simp] theorem booked_bands : (s.booked f).bands = (f s).bands := rfl
@[simp] theorem booked_tiles : (s.booked f).tiles = (f s).tiles := rfl
@[simp] theorem booked_mgmtCorrected : (s.booked f).mgmtCorrected = (f s).mgmtCorrected := rfl
@[simp] theorem booked_commandsTaken : (s.booked f).commandsTaken = (f s).commandsTaken := rfl
@[simp] theorem booked_refusals : (s.booked f).refusals = (f s).refusals := rfl
@[simp] theorem booked_booksBad : (s.booked f).booksBad = (f s).booksBad := rfl
@[simp] theorem booked_mgmtBlocked : (s.booked f).mgmtBlocked = (f s).mgmtBlocked := rfl
@[simp] theorem booked_tap : (s.booked f).tap = (f s).tap := rfl
@[simp] theorem booked_declaration : (s.booked f).declaration = (f s).declaration := rfl
@[simp] theorem booked_books : (s.booked f).books = s.books.follow s.inUse (f s).inUse := rfl

/-- The books change, and nothing else. -/
theorem booked_eq : s.booked f = { f s with books := (s.booked f).books } := rfl

/-- Where the operation does nothing to what the books count, the counters stand. -/
theorem booked_books_of_inUse (h : (f s).inUse = s.inUse) : (s.booked f).books = s.books := by
  simp [BookCounts.follow, h]

/-- An operation that leaves the state leaves the books. -/
@[simp] theorem booked_id (h : f s = s) : s.booked f = s := by
  have hb := booked_books_of_inUse s f (by rw [h])
  rw [booked_eq, hb, h]

end State

/-! ### What an evaluator serves (R131, book 6) -/

/-- An evaluator that serves its lanes changes its two counters and its lane pointer alone. -/
theorem Tile.serve_frame (x : Tile) (q : Nat × List (List EvalKind)) :
    x.serve q = { x with lanePtrs := (x.serve q).lanePtrs, evalGrants := (x.serve q).evalGrants,
                         evalResults := (x.serve q).evalResults } := rfl

/-- So do several of them. -/
theorem Tile.serves_frame (x : Tile) (qs : List (Nat × List (List EvalKind))) :
    qs.foldl Tile.serve x = { x with lanePtrs := (qs.foldl Tile.serve x).lanePtrs, evalGrants := (qs.foldl Tile.serve x).evalGrants,
                                     evalResults := (qs.foldl Tile.serve x).evalResults } := by
  induction qs generalizing x with
  | nil => rfl
  | cons q qs ih => rw [List.foldl_cons, ih]; rfl

@[simp] theorem refOf_nil (k : Nat) : refOf [] k = 0 := rfl

theorem refOf_cons (x : Nat × Nat) (xs : List (Nat × Nat)) (k : Nat) :
    refOf (x :: xs) k = if x.1 = k then x.2 else refOf xs k := by
  by_cases h : x.1 = k <;> simp [refOf, h]

/-- A counter counts what it is given, and no other counter does. -/
@[simp] theorem refOf_countAt (e k : Nat) (l : List (Nat × Nat)) :
    refOf (countAt e l) k = refOf l k + (if k = e then 1 else 0) := by
  induction l with
  | nil => simp [countAt, refOf_cons, eq_comm]
  | cons x xs ih =>
    by_cases hx : e = x.1
    · have : countAt e (x :: xs) = (e, x.2 + 1) :: xs := by simp [countAt, hx]
      rw [this, refOf_cons, refOf_cons]
      subst hx
      by_cases hk : x.1 = k
      · simp [hk]
      · simp [hk, Ne.symm hk]
    · have : countAt e (x :: xs) = x :: countAt e xs := by simp [countAt, hx]
      rw [this, refOf_cons, refOf_cons, ih]
      by_cases hk : x.1 = k
      · have : k ≠ e := by omega
        simp [hk, this]
      · simp [hk]

/-- An entry that is set reads as set, and every other entry as before. -/
@[simp] theorem refOf_setAt (e n k : Nat) (l : List (Nat × Nat)) :
    refOf (setAt e n l) k = if k = e then n else refOf l k := by
  induction l with
  | nil => simp [setAt, refOf_cons, eq_comm]
  | cons x xs ih =>
    by_cases hx : e = x.1
    · have : setAt e n (x :: xs) = (e, n) :: xs := by simp [setAt, hx]
      rw [this, refOf_cons, refOf_cons]
      subst hx
      by_cases hk : x.1 = k
      · simp [hk]
      · simp [hk, Ne.symm hk]
    · have : setAt e n (x :: xs) = x :: setAt e n xs := by simp [setAt, hx]
      rw [this, refOf_cons, refOf_cons, ih]
      by_cases hk : x.1 = k
      · have : k ≠ e := by omega
        simp [hk, this]
      · simp [hk]

end Sys2Proof.Machine
end

