-- ==== Sys2Proof/Laws/Kept.lean ====
section
/-!
SUPPORT. The registers that only the host's own writes, the reset and the test port change: every other
operation leaves them as they are. One lemma per operation, so that an invariant of these registers, and the
queue of commands, need no operation unfolded.
-/

namespace Sys2Proof.Machine

/-- The queue of commands, the resets, and the registers of the host and of the test port. -/
structure Kept where
  pending   : List Instr
  porN      : Bool
  mclk      : Bool
  mgmtOut   : Bool
  fclkOut   : Bool
  tclkOut   : Bool
  keyHash   : BitVec 384
  intEnable : Word
  cfgLock   : Bool
  evq       : RingRegs
  logm      : RingRegs
  tap       : TapState
  declaration : List Byte

def State.kept (s : State) : Kept where
  pending := s.pending
  porN := s.porN
  mclk := s.mclk
  mgmtOut := s.mgmtOut
  fclkOut := s.fclkOut
  tclkOut := s.tclkOut
  keyHash := s.keyHash
  intEnable := s.intEnable
  cfgLock := s.cfgLock
  evq := s.evq
  logm := s.logm
  tap := s.tap
  declaration := s.declaration

/-- A fold of operations that leave these registers leaves them. -/
theorem foldl_kept {α : Type} (f : State → α → State) (h : ∀ s a, (f s a).kept = s.kept) (l : List α) (s : State) :
    (l.foldl f s).kept = s.kept := by
  induction l generalizing s with
  | nil => rfl
  | cons a l ih => simp [ih, h]

theorem kept_ite (c : Prop) [Decidable c] (a b : State) :
    (if c then a else b).kept = if c then a.kept else b.kept := apply_ite _ _ _ _

@[simp] theorem State.setBand_kept (s : State) (a1 : Nat) (a2 : Band) :
    (s.setBand a1 a2).kept = s.kept := by rfl

@[simp] theorem State.setTile_kept (s : State) (a1 : Nat) (a2 : Tile) :
    (s.setTile a1 a2).kept = s.kept := by rfl

@[simp] theorem State.setMailbox_kept (s : State) (a1 : Nat) (a2 : Mailbox) :
    (s.setMailbox a1 a2).kept = s.kept := by rfl

@[simp] theorem State.modBand_kept (s : State) (a1 : Nat) (a2 : Band → Band) :
    (s.modBand a1 a2).kept = s.kept := by rfl

@[simp] theorem State.modTile_kept (s : State) (a1 : Nat) (a2 : Tile → Tile) :
    (s.modTile a1 a2).kept = s.kept := by rfl

@[simp] theorem State.modTiles_kept (s : State) (a1 : List Nat) (a2 : Tile → Tile) :
    (s.modTiles a1 a2).kept = s.kept := by
  unfold State.modTiles
  simp [foldl_kept, kept_ite]

@[simp] theorem State.modStream_kept (s : State) (a1 : Nat) (a2 : Stream → Stream) :
    (s.modStream a1 a2).kept = s.kept := by rfl

@[simp] theorem State.dropStream_kept (s : State) (a1 : Nat) :
    (s.dropStream a1).kept = s.kept := by rfl

@[simp] theorem State.refreshService_kept (s : State) :
    (s.refreshService).kept = s.kept := by
  unfold State.refreshService
  try dsimp only
  repeat' split
  all_goals first
    | rfl
    | (simp [foldl_kept, kept_ite]; done)
    | (simp [foldl_kept, kept_ite]; rfl)

@[simp] theorem State.countReads_kept (s : State) (a1 : Nat) (a2 : Nat) :
    (s.countReads a1 a2).kept = s.kept := by rfl

@[simp] theorem State.setInt_kept (s : State) (a1 : Nat) :
    (s.setInt a1).kept = s.kept := by rfl

@[simp] theorem State.setFatal_kept (s : State) (a1 : Nat) :
    (s.setFatal a1).kept = s.kept := by rfl

@[simp] theorem State.ctlDone_kept (s : State) (a1 : Word) :
    (s.ctlDone a1).kept = s.kept := by rfl

@[simp] theorem State.ctlWrite_kept (s : State) (a1 : State → State) (h1 : ∀ s, (a1 s).kept = s.kept) :
    (s.ctlWrite a1).kept = s.kept := by
  first
  | rfl
  | (unfold State.ctlWrite
     try dsimp only
     repeat' split
     all_goals first
       | rfl
       | (simp [foldl_kept, kept_ite, h1]; done)
       | (simp [foldl_kept, kept_ite, h1]; rfl))

@[simp] theorem State.markFull_kept (s : State)  :
    (s.markFull).kept = s.kept := by
  first
  | rfl
  | (unfold State.markFull
     try dsimp only
     repeat' split
     all_goals first
       | rfl
       | (simp [foldl_kept, kept_ite]; done)
       | (simp [foldl_kept, kept_ite]; rfl))

@[simp] theorem State.holdEvent_kept (s : State) (a1 : Event) :
    (s.holdEvent a1).kept = s.kept := by
  unfold State.holdEvent
  simp [foldl_kept, kept_ite]
  rfl

@[simp] theorem State.loseEvent_kept (s : State) (a1 : Nat) :
    (s.loseEvent a1).kept = s.kept := by rfl

@[simp] theorem State.takeTaps_kept (s : State) (a1 : Nat) :
    (s.takeTaps a1).kept = s.kept := by
  induction a1 generalizing s with
  | zero => rfl
  | succ n ih =>
    unfold State.takeTaps
    split
    · split
      · rfl
      · simp [ih]; rfl
    · rfl

@[simp] theorem State.report2_kept (s : State) (a1 : Nat) (a2 : Nat) (a3 : Nat → Nat) (a4 : Option Nat) :
    (s.report2 a1 a2 a3 a4).kept = s.kept := by
  unfold State.report2
  rw [← State.takeTaps_kept s 4096]
  generalize s.takeTaps 4096 = u
  dsimp only
  repeat' split
  all_goals first
    | rfl
    | (simp [foldl_kept, kept_ite]; done)
    | (simp [foldl_kept, kept_ite]; rfl)

@[simp] theorem State.report_kept (s : State) (a1 : Nat) (a2 : Nat) (a3 : Nat → Nat) :
    (s.report a1 a2 a3).kept = s.kept := by
  unfold State.report
  simp [foldl_kept, kept_ite]

@[simp] theorem State.notice_kept (s : State) (a1 : Nat) (a2 : Nat) (a3 : Nat) :
    (s.notice a1 a2 a3).kept = s.kept := by
  unfold State.notice
  simp [foldl_kept, kept_ite]

@[simp] theorem State.sramRead_kept (s : State) (r : Sys2Proof.SramRead) : (s.sramRead r).kept = s.kept := by
  cases r <;> rfl

@[simp] theorem State.sramUse_kept (s : State)  :
    (s.sramUse).kept = s.kept := by
  show (s.sramRead _).kept = _
  simp

@[simp] theorem State.logAppend_kept (s : State) (a1 : LogInfo) :
    (s.logAppend a1).kept = s.kept := by
  unfold State.logAppend
  simp [foldl_kept, kept_ite]
  rfl

@[simp] theorem State.logDrop_kept (s : State) (a1 : Nat) (a2 : Nat) :
    (s.logDrop a1 a2).kept = s.kept := by
  unfold State.logDrop
  show (State.report _ _ _ _).kept = _
  simp

@[simp] theorem State.logWrap_kept (s : State) :
    (s.logWrap).kept = s.kept := by
  unfold State.logWrap
  try dsimp only
  repeat' split
  all_goals first
    | rfl
    | (simp [foldl_kept, kept_ite]; done)
    | (simp [foldl_kept, kept_ite]; rfl)

@[simp] theorem State.logPut_kept (s : State) (a1 : LogInfo) :
    (s.logPut a1).kept = s.kept := by
  unfold State.logPut
  simp [foldl_kept, kept_ite]

@[simp] theorem State.logHw_kept (s : State) (a1 : Nat) (a2 : Nat) (a3 : Nat) (a4 : Nat) :
    (s.logHw a1 a2 a3 a4).kept = s.kept := by
  unfold State.logHw
  simp [foldl_kept, kept_ite]

@[simp] theorem State.logGlomen_kept (s : State) (a1 : Nat) (a2 : Nat) (a3 : Nat) (a4 : Nat) (a5 : Nat) :
    (s.logGlomen a1 a2 a3 a4 a5).kept = s.kept := by
  unfold State.logGlomen
  simp [foldl_kept, kept_ite]

@[simp] theorem State.glomenChange_kept (s : State) (a1 : Nat) (a2 : Nat) (a3 : Nat) (a4 : Nat) (a5 : State → State) (h5 : ∀ s, (a5 s).kept = s.kept) :
    (s.glomenChange a1 a2 a3 a4 a5).kept = s.kept := by
  first
  | rfl
  | (unfold State.glomenChange
     try dsimp only
     repeat' split
     all_goals first
       | rfl
       | (simp [foldl_kept, kept_ite, h5]; done)
       | (simp [foldl_kept, kept_ite, h5]; rfl))

@[simp] theorem State.modLong_kept (s : State) (a1 : Nat) (a2 : BitVec 16) (a3 : LongOp → LongOp) :
    (s.modLong a1 a2 a3).kept = s.kept := by rfl

@[simp] theorem State.finishLong_kept (s : State) (a1 : Nat) (a2 : BitVec 16) (a3 : Nat) (a4 : Nat) (a5 : Nat) :
    (s.finishLong a1 a2 a3 a4 a5).kept = s.kept := by
  unfold State.finishLong
  try dsimp only
  repeat' split
  all_goals first
    | rfl
    | (simp [foldl_kept, kept_ite]; done)
    | (simp [foldl_kept, kept_ite]; rfl)

@[simp] theorem State.reportMap_kept (s : State) (a1 : Nat) (a2 : Nat) :
    (s.reportMap a1 a2).kept = s.kept := by
  unfold State.reportMap
  simp [foldl_kept, kept_ite]

@[simp] theorem State.refreshBand_kept (s : State) (a1 : Nat) :
    (s.refreshBand a1).kept = s.kept := by
  unfold State.refreshBand
  simp [foldl_kept, kept_ite]

@[simp] theorem State.changeMap_kept (s : State) (a1 : Nat) (a2 : State → State) (h2 : ∀ s, (a2 s).kept = s.kept) :
    (s.changeMap a1 a2).kept = s.kept := by
  unfold State.changeMap
  simp [foldl_kept, kept_ite, h2]

@[simp] theorem State.writeOut_kept (s : State) (a1 : Nat) (a2 : List Nat) :
    (s.writeOut a1 a2).kept = s.kept := by rfl

@[simp] theorem State.respond_kept (s : State) (a1 : Nat) (a2 : List Nat) :
    (s.respond a1 a2).kept = s.kept := by
  unfold State.respond
  simp [foldl_kept, kept_ite]

@[simp] theorem State.writeReady_kept (s : State) :
    (s.writeReady).kept = s.kept := by
  unfold State.writeReady
  simp [foldl_kept, kept_ite]

@[simp] theorem State.takeBell_kept (s : State) (a1 : Nat) :
    (s.takeBell a1).kept = s.kept := by rfl

@[simp] theorem State.answer_kept (s : State) (a1 : Cmd) (a2 : Nat) (a3 : List Nat) :
    (s.answer a1 a2 a3).kept = s.kept := by
  unfold State.answer
  simp [foldl_kept, kept_ite]

@[simp] theorem State.refuse_kept (s : State) (a1 : Cmd) (a2 : Refuse) :
    (s.refuse a1 a2).kept = s.kept := by
  unfold State.refuse
  try dsimp only
  repeat' split
  all_goals first
    | rfl
    | (simp [foldl_kept, kept_ite]; done)
    | (simp [foldl_kept, kept_ite]; rfl)

@[simp] theorem State.commit_kept (s : State) (a1 : Cmd) (a2 : Nat) (a3 : Nat) (a4 : State → State) (a5 : State → List Nat) (h4 : ∀ s, (a4 s).kept = s.kept) :
    (s.commit a1 a2 a3 a4 a5).kept = s.kept := by
  unfold State.commit
  simp [foldl_kept, kept_ite, h4]

@[simp] theorem State.accept_kept (s : State) (a1 : Cmd) (a2 : Nat) (a3 : Nat) (a4 : Nat) (a5 : Nat) (a6 : State → State) (h6 : ∀ s, (a6 s).kept = s.kept) :
    (s.accept a1 a2 a3 a4 a5 a6).kept = s.kept := by
  unfold State.accept
  split
  · simp only [State.answer_kept, h6]
    exact State.logPut_kept s _
  · simp

@[simp] theorem State.runCmd_kept (s : State) (a1 : Nat) (a2 : Nat) (a3 : Cmd → Bool) (a4 : Cmd → State → State) (h4 : ∀ c s, (a4 c s).kept = s.kept) :
    (s.runCmd a1 a2 a3 a4).kept = s.kept := by
  unfold State.runCmd
  try dsimp only
  repeat' split
  all_goals first
    | rfl
    | (simp [foldl_kept, kept_ite, h4]; done)
    | (simp [foldl_kept, kept_ite, h4]; rfl)

@[simp] theorem State.readError_kept (s : State) (a1 : Nat) (a2 : Nat) (a3 : Bool) :
    (s.readError a1 a2 a3).kept = s.kept := by
  first
  | rfl
  | (unfold State.readError
     try dsimp only
     repeat' split
     all_goals first
       | rfl
       | (simp [foldl_kept, kept_ite]; done)
       | (simp [foldl_kept, kept_ite]; rfl))

@[simp] theorem State.vaneRead_kept (s : State) (a1 : Nat) (a2 : Nat) (a3 : HostRead) :
    (s.vaneRead a1 a2 a3).kept = s.kept := by
  first
  | rfl
  | (unfold State.vaneRead
     try dsimp only
     repeat' split
     all_goals first
       | rfl
       | (simp [foldl_kept, kept_ite]; done)
       | (simp [foldl_kept, kept_ite]; rfl))

@[simp] theorem State.withRead_kept (s : State) (a1 : Cmd) (a2 : Nat) (a3 : Nat) (a4 : Nat) (a5 : HostRead) (a6 : List Byte → State → State) (h6 : ∀ c s, (a6 c s).kept = s.kept) :
    (s.withRead a1 a2 a3 a4 a5 a6).kept = s.kept := by
  first
  | rfl
  | (unfold State.withRead
     try dsimp only
     repeat' split
     all_goals first
       | rfl
       | (simp [foldl_kept, kept_ite, h6]; done)
       | (simp [foldl_kept, kept_ite, h6]; rfl))

@[simp] theorem State.orRefuse_kept (s : State) (a1 : Cmd) (a2 : Option Refuse) (a3 : State → State) (h3 : ∀ s, (a3 s).kept = s.kept) :
    (s.orRefuse a1 a2 a3).kept = s.kept := by
  unfold State.orRefuse
  try dsimp only
  repeat' split
  all_goals first
    | rfl
    | (simp [foldl_kept, kept_ite, h3]; done)
    | (simp [foldl_kept, kept_ite, h3]; rfl)

@[simp] theorem State.acknowledge_kept (s : State) (a1 : Nat) :
    (s.acknowledge a1).kept = s.kept := by
  have h : ∀ w : BitVec 32, ({ s with intStatus := w } : State).kept = s.kept := fun _ => rfl
  unfold State.acknowledge
  dsimp only
  split <;> simp only [State.writeOut_kept, State.setMailbox_kept, h]

@[simp] theorem State.suspend_kept (s : State) (a1 : Nat) (a2 : Causes → Causes) :
    (s.suspend a1 a2).kept = s.kept := by rfl

@[simp] theorem State.resume_kept (s : State) (a1 : Nat) :
    (s.resume a1).kept = s.kept := by
  unfold State.resume
  try dsimp only
  repeat' split
  all_goals first
    | rfl
    | (simp [foldl_kept, kept_ite]; done)
    | (simp [foldl_kept, kept_ite]; rfl)

@[simp] theorem State.resumeAll_kept (s : State) (a1 : List Nat) :
    (s.resumeAll a1).kept = s.kept := by
  unfold State.resumeAll
  simp [foldl_kept, kept_ite]

@[simp] theorem State.unsuspend_kept (s : State) (a1 : List Nat) (a2 : Causes → Causes) :
    (s.unsuspend a1 a2).kept = s.kept := by
  unfold State.unsuspend
  simp [foldl_kept, kept_ite]

@[simp] theorem State.passEnded_kept (s : State) (a1 : Nat) (a2 : Nat) (a3 : Nat) (a4 : Nat) (a5 : Bool) :
    (s.passEnded a1 a2 a3 a4 a5).kept = s.kept := by
  unfold State.passEnded
  try dsimp only
  repeat' split
  all_goals first
    | rfl
    | (simp [foldl_kept, kept_ite]; done)
    | (simp [foldl_kept, kept_ite]; rfl)

@[simp] theorem State.pruneChains_kept (s : State) :
    (s.pruneChains).kept = s.kept := by rfl

@[simp] theorem State.drainSlots_kept (s : State) :
    (s.drainSlots).kept = s.kept := by rfl

@[simp] theorem State.booked_kept (s : State) (a1 : State → State) :
    (s.booked a1).kept = (a1 s).kept := rfl

@[simp] theorem State.prune_kept (s : State) :
    (s.prune).kept = s.kept := by rfl

@[simp] theorem State.gate_kept (s : State) (a1 : Nat) :
    (s.gate a1).kept = s.kept := by rfl

@[simp] theorem State.powerUp_kept (s : State) (a1 : Nat) :
    (s.powerUp a1).kept = s.kept := by rfl

@[simp] theorem State.setActive_kept (s : State) (a1 : Nat) (a2 : Bool) :
    (s.setActive a1 a2).kept = s.kept := by rfl

@[simp] theorem State.setSpare_kept (s : State) (a1 : Nat) (a2 : Option Nat) :
    (s.setSpare a1 a2).kept = s.kept := by rfl

@[simp] theorem State.testFail_kept (s : State) (a1 : Nat) (a2 : Nat) (a3 : Nat) :
    (s.testFail a1 a2 a3).kept = s.kept := by
  unfold State.testFail
  simp [foldl_kept, kept_ite]

@[simp] theorem State.setSvc_kept (s : State) (a1 : Nat) (a2 : Option SvcOp) :
    (s.setSvc a1 a2).kept = s.kept := by rfl

@[simp] theorem State.enterService_kept (s : State) (a1 : Nat) :
    (s.enterService a1).kept = s.kept := by
  first
  | rfl
  | (unfold State.enterService
     try dsimp only
     repeat' split
     all_goals first
       | rfl
       | (simp [foldl_kept, kept_ite]; done)
       | (simp [foldl_kept, kept_ite]; rfl))

@[simp] theorem State.svcEnd_kept (s : State) (a1 : Nat) :
    (s.svcEnd a1).kept = s.kept := by
  unfold State.svcEnd
  try dsimp only
  repeat' split
  all_goals first
    | rfl
    | (simp [foldl_kept, kept_ite]; done)
    | (simp [foldl_kept, kept_ite]; rfl)

@[simp] theorem State.svcStop_kept (s : State) (a1 : Nat) :
    (s.svcStop a1).kept = s.kept := by
  first
  | rfl
  | (unfold State.svcStop
     try dsimp only
     repeat' split
     all_goals first
       | rfl
       | (simp [foldl_kept, kept_ite]; done)
       | (simp [foldl_kept, kept_ite]; rfl))

@[simp] theorem State.svcFail_kept (s : State) (a1 : Nat) :
    (s.svcFail a1).kept = s.kept := by
  unfold State.svcFail
  try dsimp only
  repeat' split
  all_goals first
    | rfl
    | (simp [foldl_kept, kept_ite]; done)
    | (simp [foldl_kept, kept_ite]; rfl)

@[simp] theorem State.svcCount_kept (s : State) (a1 : SvcOp) :
    (s.svcCount a1).kept = s.kept := by rfl

@[simp] theorem State.powerBack_kept (s : State) (a1 : Nat) :
    (s.powerBack a1).kept = s.kept := by
  first
  | rfl
  | (unfold State.powerBack
     try dsimp only
     repeat' split
     all_goals first
       | rfl
       | (simp [foldl_kept, kept_ite]; done)
       | (simp [foldl_kept, kept_ite]; rfl))

@[simp] theorem State.svcBegin_kept (s : State) (a1 : Nat) (a2 : SvcOp) (a3 : Nat) :
    (s.svcBegin a1 a2 a3).kept = s.kept := by
  unfold State.svcBegin
  try dsimp only
  repeat' split
  all_goals first
    | (simp [foldl_kept, kept_ite]; done)
    | rfl

@[simp] theorem State.svcNext_kept (s : State) (a1 : Nat) :
    (s.svcNext a1).kept = s.kept := by
  unfold State.svcNext
  try dsimp only
  repeat' split
  all_goals first
    | rfl
    | (simp [foldl_kept, kept_ite]; done)
    | (simp [foldl_kept, kept_ite]; rfl)

@[simp] theorem State.svcGoOn_kept (s : State) (a1 : Nat) :
    (s.svcGoOn a1).kept = s.kept := by
  unfold State.svcGoOn
  try dsimp only
  repeat' split
  all_goals first
    | rfl
    | (simp [foldl_kept, kept_ite]; done)
    | (simp [foldl_kept, kept_ite]; rfl)

@[simp] theorem State.svcRestore_kept (s : State) (a1 : Nat) (a2 : SvcOp) :
    (s.svcRestore a1 a2).kept = s.kept := by
  simp [State.svcRestore]

@[simp] theorem State.svcRetire_kept (s : State) (a1 : Nat) (a2 : SvcOp) :
    (s.svcRetire a1 a2).kept = s.kept := by
  simp [State.svcRetire]

@[simp] theorem State.svcGate_kept (s : State) (a1 : Nat) (a2 : SvcOp) :
    (s.svcGate a1 a2).kept = s.kept := by
  unfold State.svcGate
  try dsimp only
  repeat' split
  all_goals first
    | (simp [foldl_kept, kept_ite]; done)
    | rfl

@[simp] theorem State.restoreStep_kept (s : State) (a1 : Nat) :
    (s.restoreStep a1).kept = s.kept := by
  unfold State.restoreStep
  try dsimp only
  repeat' split
  all_goals first
    | rfl
    | (simp [foldl_kept, kept_ite]; done)
    | (simp [foldl_kept, kept_ite]; rfl)

@[simp] theorem State.restoreAnew_kept (s : State) (a1 : Nat) :
    (s.restoreAnew a1).kept = s.kept := by
  first
  | rfl
  | (unfold State.restoreAnew
     try dsimp only
     repeat' split
     all_goals first
       | rfl
       | (simp [foldl_kept, kept_ite]; done)
       | (simp [foldl_kept, kept_ite]; rfl))

@[simp] theorem State.restoreGoOn_kept (s : State) (a1 : Nat) :
    (s.restoreGoOn a1).kept = s.kept := by
  first
  | rfl
  | (unfold State.restoreGoOn
     try dsimp only
     repeat' split
     all_goals first
       | rfl
       | (simp [foldl_kept, kept_ite]; done)
       | (simp [foldl_kept, kept_ite]; rfl))

@[simp] theorem State.svcSettle_kept (s : State) (a1 : Nat) :
    (s.svcSettle a1).kept = s.kept := by
  unfold State.svcSettle
  try dsimp only
  repeat' split
  all_goals first
    | rfl
    | (simp [foldl_kept, kept_ite]; done)
    | (simp [foldl_kept, kept_ite]; rfl)

@[simp] theorem State.joinMap_kept (s : State) (a1 : Nat) :
    (s.joinMap a1).kept = s.kept := by
  unfold State.joinMap
  simp [foldl_kept, kept_ite]

@[simp] theorem State.becomeSpare_kept (s : State) (a1 : Nat) (a2 : Nat) :
    (s.becomeSpare a1 a2).kept = s.kept := by
  first
  | rfl
  | (unfold State.becomeSpare
     try dsimp only
     repeat' split
     all_goals first
       | rfl
       | (simp [foldl_kept, kept_ite]; done)
       | (simp [foldl_kept, kept_ite]; rfl))

@[simp] theorem State.svcDone_kept (s : State) (a1 : Nat) (a2 : SvcOp) :
    (s.svcDone a1 a2).kept = s.kept := by
  first
  | rfl
  | (unfold State.svcDone
     try dsimp only
     repeat' split
     all_goals first
       | rfl
       | (simp [foldl_kept, kept_ite]; done)
       | (simp [foldl_kept, kept_ite]; rfl))

@[simp] theorem State.loseSpare_kept (s : State) (a1 : Nat) (a2 : Nat) :
    (s.loseSpare a1 a2).kept = s.kept := by
  unfold State.loseSpare
  simp [foldl_kept, kept_ite]

@[simp] theorem State.entryChecked_kept (s : State) (a1 : Nat) (a2 : Bool) :
    (s.entryChecked a1 a2).kept = s.kept := by
  unfold State.entryChecked
  try dsimp only
  repeat' split
  all_goals first
    | rfl
    | (simp [foldl_kept, kept_ite]; done)
    | (simp [foldl_kept, kept_ite]; rfl)

@[simp] theorem State.finishClose_kept (s : State) (a1 : Nat) :
    (s.finishClose a1).kept = s.kept := by
  unfold State.finishClose
  try dsimp only
  repeat' split
  all_goals first
    | rfl
    | (simp [foldl_kept, kept_ite]; done)
    | (simp [foldl_kept, kept_ite]; rfl)

@[simp] theorem State.countTap_kept (s : State) (a1 : Nat) (a2 : Nat) (a3 : Nat) :
    (s.countTap a1 a2 a3).kept = s.kept := by
  unfold State.countTap
  try dsimp only
  repeat' split
  all_goals first
    | rfl
    | (simp [foldl_kept, kept_ite]; done)
    | (simp [foldl_kept, kept_ite]; rfl)

@[simp] theorem State.noteSats_kept (s : State) (a1 : Nat) (a2 : RowPass) (a3 : List (Nat × Nat × Nat)) :
    (s.noteSats a1 a2 a3).kept = s.kept := by
  unfold State.noteSats
  try dsimp only
  repeat' split
  all_goals first
    | rfl
    | (simp [foldl_kept, kept_ite]; done)
    | (simp [foldl_kept, kept_ite]; rfl)

@[simp] theorem State.opdCross_kept (s : State) (a1 : Nat) :
    (s.opdCross a1).kept = s.kept := by
  first
  | rfl
  | (unfold State.opdCross
     try dsimp only
     repeat' split
     all_goals first
       | rfl
       | (simp [foldl_kept, kept_ite]; done)
       | (simp [foldl_kept, kept_ite]; rfl))

@[simp] theorem State.fabCross_kept (s : State) (a1 : Nat) :
    (s.fabCross a1).kept = s.kept := by
  first
  | rfl
  | (unfold State.fabCross
     try dsimp only
     repeat' split
     all_goals first
       | rfl
       | (simp [foldl_kept, kept_ite]; done)
       | (simp [foldl_kept, kept_ite]; rfl))

@[simp] theorem State.trapHalted_kept (s : State)  :
    (s.trapHalted).kept = s.kept := by
  first
  | rfl
  | (unfold State.trapHalted
     try dsimp only
     repeat' split
     all_goals first
       | rfl
       | (simp [foldl_kept, kept_ite]; done)
       | (simp [foldl_kept, kept_ite]; rfl))

@[simp] theorem State.haltBand_kept (s : State) (a1 : Nat) :
    (s.haltBand a1).kept = s.kept := by
  unfold State.haltBand
  simp [foldl_kept]

@[simp] theorem State.noteNans_kept (s : State) (a1 : Nat) (a2 : RowPass) (a3 : List NanNote) :
    (s.noteNans a1 a2 a3).kept = s.kept := by
  unfold State.noteNans
  try dsimp only
  repeat' split
  all_goals first
    | rfl
    | (simp [foldl_kept, kept_ite]; done)
    | (simp [foldl_kept, kept_ite]; rfl)

@[simp] theorem State.noteFault_kept (s : State) (a1 : Nat) (a2 : RowPass) (a3 : Sys2Proof.HwFault) :
    (s.noteFault a1 a2 a3).kept = s.kept := by
  unfold State.noteFault
  simp [foldl_kept, kept_ite]

@[simp] theorem State.addNotes_kept (s : State) (a1 : Nat) (a2 : RowPass) (a3 : Notes) :
    (s.addNotes a1 a2 a3).kept = s.kept := by
  unfold State.addNotes
  simp [foldl_kept, kept_ite]

@[simp] theorem State.openRow_kept (s : State) (a1 : Stream) (a2 : Nat) :
    (s.openRow a1 a2).kept = s.kept := by
  unfold State.openRow
  split
  · rfl
  · split
    · rfl
    · exact (State.prune_kept _).trans rfl

@[simp] theorem State.placePass_kept (s : State) (a1 : Nat) (a2 : RowPass) :
    (s.placePass a1 a2).kept = s.kept := by rfl

@[simp] theorem State.claimRow_kept (s : State) (a1 : RowPass) :
    (s.claimRow a1).kept = s.kept := by
  unfold State.claimRow
  split
  · rfl
  · split <;> simp

@[simp] theorem State.beginPass_kept (s : State) (a1 : Nat) (a2 : RowPass) :
    (s.beginPass a1 a2).kept = s.kept := by
  unfold State.beginPass
  extract_lets s1 c s2
  have h1 : s1.kept = s.kept := State.claimRow_kept _ _
  have h2 : s2.kept = s1.kept := State.placePass_kept _ _ _
  split
  · cases c with
    | none => exact h2.trans h1
    | some h => exact (State.notice_kept _ _ _ _).trans (h2.trans h1)
  · exact State.placePass_kept _ _ _

@[simp] theorem State.putPass_kept (s : State) (a1 : Nat) (a2 : RowPass) :
    (s.putPass a1 a2).kept = s.kept := by rfl

@[simp] theorem State.passRan_kept (s : State) (a1 : Nat) (a2 : RowPass) (a3 : List (Nat × List (List EvalKind))) :
    (s.passRan a1 a2 a3).kept = s.kept := by
  rfl

@[simp] theorem State.startClock_kept (s : State) (a1 : Nat) (a2 : RowPass) :
    (s.startClock a1 a2).kept = s.kept := by
  first
  | rfl
  | (unfold State.startClock
     try dsimp only
     repeat' split
     all_goals first
       | rfl
       | (simp [foldl_kept, kept_ite]; done)
       | (simp [foldl_kept, kept_ite]; rfl))

@[simp] theorem State.finishPass_kept (s : State) (a1 : Nat) (a2 : RowPass) :
    (s.finishPass a1 a2).kept = s.kept := by
  unfold State.finishPass
  simp [foldl_kept, kept_ite]

@[simp] theorem State.endAbsent_kept (s : State) (a1 : Nat) (a2 : Stream) (a3 : RowCtx) (a4 : Nat) :
    (s.endAbsent a1 a2 a3 a4).kept = s.kept := by
  simp [State.endAbsent]

@[simp] theorem State.joinAbsent_kept (s : State) (a1 : Nat) (a2 : Nat) :
    (s.joinAbsent a1 a2).kept = s.kept := by
  unfold State.joinAbsent
  split
  · rfl
  · split
    · rfl
    · refine foldl_kept _ (fun s t => ?_) _ _
      refine foldl_kept _ (fun s p => ?_) _ _
      split <;> simp

@[simp] theorem State.handOn_kept (s : State) (a1 : Nat) (a2 : RowPass) :
    (s.handOn a1 a2).kept = s.kept := by
  first
  | rfl
  | (unfold State.handOn
     try dsimp only
     repeat' split
     all_goals first
       | rfl
       | (simp [foldl_kept, kept_ite]; done)
       | (simp [foldl_kept, kept_ite]; rfl))

@[simp] theorem State.releasePass_kept (s : State) (a1 : Nat) (a2 : RowPass) :
    (s.releasePass a1 a2).kept = s.kept := by rfl

@[simp] theorem State.measurePass_kept (s : State) (a1 : Nat) (a2 : RowPass) (a3 : RowCtx) :
    (s.measurePass a1 a2 a3).kept = s.kept := by
  first
  | rfl
  | (unfold State.measurePass
     try dsimp only
     repeat' split
     all_goals first
       | rfl
       | (simp [foldl_kept, kept_ite]; done)
       | (simp [foldl_kept, kept_ite]; rfl))

@[simp] theorem State.freeHold_kept (s : State) (a1 : Nat) (a2 : Nat) :
    (s.freeHold a1 a2).kept = s.kept := by
  first
  | rfl
  | (unfold State.freeHold
     try dsimp only
     repeat' split
     all_goals first
       | rfl
       | (simp [foldl_kept, kept_ite]; done)
       | (simp [foldl_kept, kept_ite]; rfl))

@[simp] theorem State.endPass_kept (s : State) (a1 : Nat) (a2 : RowPass) :
    (s.endPass a1 a2).kept = s.kept := by
  unfold State.endPass
  extract_lets e s1 s2
  have h1 : s1.kept = s.kept := State.booked_kept _ _
  have h2 : s2.kept = s.kept := (State.modStream_kept _ _ _).trans h1
  clear_value s2
  split
  · exact h2
  · split
    · exact h2
    · extract_lets s3 s4 s5 s6
      have h3 : s3.kept = s.kept := by
        subst s3
        split <;> simp [h2]
      have h4 : s4.kept = s3.kept := State.booked_kept _ _
      have h5 : s5.kept = s4.kept := by
        subst s5
        split
        · exact State.modLong_kept _ _ _ _
        · rfl
      have h6 : s6.kept = s.kept := by
        subst s6
        split
        · exact (State.prune_kept _).trans (h5.trans (h4.trans h3))
        · exact h3
      simp [h6]

@[simp] theorem State.advancePass_kept (s : State) (a1 : Nat) (a2 : Nat) (a3 : Nat) (a4 : Nat) :
    (s.advancePass a1 a2 a3 a4).kept = s.kept := by
  unfold State.advancePass
  extract_lets s1 s2 s3 s4
  have h1 : s1.kept = s.kept := by
    subst s1
    split
    · split <;> simp
    · rfl
  have h2 : s2.kept = s1.kept := by
    subst s2
    split
    · split <;> simp
    · rfl
  have h3 : s3.kept = s2.kept := by
    subst s3
    split
    · split <;> simp
    · rfl
  have h4 : s4.kept = s3.kept := by
    subst s4
    split
    · split <;> simp
    · rfl
  split
  · split
    · rw [State.endPass_kept, h4, h3, h2, h1]
    · rw [h4, h3, h2, h1]
  · rw [h4, h3, h2, h1]

@[simp] theorem State.settlePass_kept (s : State) (a1 : Nat) (a2 : Nat) (a3 : Nat) (a4 : Nat) :
    (s.settlePass a1 a2 a3 a4).kept = s.kept := by
  unfold State.settlePass
  split <;> simp

@[simp] theorem State.sendBlocks_kept (s : State) (a1 : Nat) :
    (s.sendBlocks a1).kept = s.kept := by
  first
  | rfl
  | (unfold State.sendBlocks
     try dsimp only
     repeat' split
     all_goals first
       | rfl
       | (simp [foldl_kept, kept_ite]; done)
       | (simp [foldl_kept, kept_ite]; rfl))

@[simp] theorem State.settleBlocks_kept (s : State) (a1 : Nat) :
    (s.settleBlocks a1).kept = s.kept := by
  unfold State.settleBlocks
  simp [foldl_kept, kept_ite]

@[simp] theorem State.settleTile_kept (s : State) (a1 : Nat) :
    (s.settleTile a1).kept = s.kept := by
  unfold State.settleTile
  simp [foldl_kept, kept_ite]

@[simp] theorem State.settleTiles_kept (s : State) (a1 : List Nat) :
    (s.settleTiles a1).kept = s.kept := by
  unfold State.settleTiles
  simp [foldl_kept, kept_ite]

@[simp] theorem State.settleRow_kept (s : State) (a1 : Nat) (a2 : Nat) (a3 : Nat) :
    (s.settleRow a1 a2 a3).kept = s.kept := by
  first
  | rfl
  | (unfold State.settleRow
     try dsimp only
     repeat' split
     all_goals first
       | rfl
       | (simp [foldl_kept, kept_ite]; done)
       | (simp [foldl_kept, kept_ite]; rfl))

theorem State.passWait_kept (s : State) (t : Nat) (r : RowCtx) (rp : RowPass) (s1 : State) (rp1 : RowPass) (n : Notes)
    (h : s.passWait t r rp = some (s1, rp1, n)) : s1.kept = s.kept := by
  unfold State.passWait at h
  extract_lets k st j ps R s2 out at h
  split at h
  · cases h
  · split at h
    · simp only [Option.map_eq_some_iff, Prod.mk.injEq] at h
      obtain ⟨x, _, rfl, _⟩ := h
      rfl
    · split at h
      · split at h
        · simp only [Option.map_eq_some_iff, Prod.mk.injEq] at h
          obtain ⟨x, _, rfl, _⟩ := h
          rfl
        · cases h
      · split at h
        · simp only [Option.some.injEq, Prod.mk.injEq] at h
          rw [← h.1]
        · split at h
          · simp only [Option.some.injEq, Prod.mk.injEq] at h
            rw [← h.1]
            exact foldl_kept _ (fun s p => State.putPass_kept s _ _) _ s
          · cases h

@[simp] theorem State.applyStart_kept (s : State) (a1 : Nat) (a2 : Nat) (a3 : Nat) (a4 : Nat) :
    (s.applyStart a1 a2 a3 a4).kept = s.kept := by
  unfold State.applyStart
  split
  · split
    · rename_i hw
      simp [State.passWait_kept _ _ _ _ _ _ _ hw]
    · rfl
  · rfl

@[simp] theorem State.repromise_kept (s : State) (a1 : Stream → Bool) :
    (s.repromise a1).kept = s.kept := by rfl

@[simp] theorem State.queueFab_kept (s : State) (a1 : Nat) (a2 : List FabReq) :
    (s.queueFab a1 a2).kept = s.kept := by rfl

@[simp] theorem State.putMerge_kept (s : State) (a1 : Nat) (a2 : Merge) :
    (s.putMerge a1 a2).kept = s.kept := by rfl

@[simp] theorem State.askMerge_kept (s : State) (a1 : Nat) (a2 : Merge) :
    (s.askMerge a1 a2).kept = s.kept := by rfl

@[simp] theorem State.keepWaiting_kept (s : State) (a1 : Merge) :
    (s.keepWaiting a1).kept = s.kept := by
  first
  | rfl
  | (unfold State.keepWaiting
     try dsimp only
     repeat' split
     all_goals first
       | rfl
       | (simp [foldl_kept, kept_ite]; done)
       | (simp [foldl_kept, kept_ite]; rfl))

@[simp] theorem State.endWait_kept (s : State) (a1 : Merge) :
    (s.endWait a1).kept = s.kept := by
  first
  | rfl
  | (unfold State.endWait
     try dsimp only
     repeat' split
     all_goals first
       | rfl
       | (simp [foldl_kept, kept_ite]; done)
       | (simp [foldl_kept, kept_ite]; rfl))

@[simp] theorem State.blockMerge_kept (s : State) (a1 : Nat) (a2 : Merge) :
    (s.blockMerge a1 a2).kept = s.kept := by rfl

@[simp] theorem State.readOn_kept (s : State) (a1 : Nat) (a2 : Merge) (a3 : MergePhase) :
    (s.readOn a1 a2 a3).kept = s.kept := by rfl

@[simp] theorem State.sendOn_kept (s : State) (a1 : Nat) (a2 : Merge) (a3 : MergePhase) (a4 : List FabReq) :
    (s.sendOn a1 a2 a3 a4).kept = s.kept := by rfl

@[simp] theorem State.mismatch_kept (s : State) (a1 : Nat) (a2 : Rec) (a3 : Nat) (a4 : Rec) (a5 : Nat) (a6 : Nat) :
    (s.mismatch a1 a2 a3 a4 a5 a6).kept = s.kept := by
  unfold State.mismatch
  simp [foldl_kept, kept_ite]

@[simp] theorem State.putFinal_kept (s : State) (a1 : Nat) (a2 : Nat) (a3 : Nat) (a4 : Rec) :
    (s.putFinal a1 a2 a3 a4).kept = s.kept := by
  unfold State.putFinal
  try dsimp only
  repeat' split
  all_goals first
    | rfl
    | (simp [foldl_kept, kept_ite]; done)
    | (simp [foldl_kept, kept_ite]; rfl)

@[simp] theorem State.endMerge_kept (s : State) (a1 : Nat) (a2 : Merge) (a3 : Rec) :
    (s.endMerge a1 a2 a3).kept = s.kept := by
  unfold State.endMerge
  simp [foldl_kept, kept_ite]

@[simp] theorem State.failMerge_kept (s : State) (a1 : Nat) (a2 : Merge) :
    (s.failMerge a1 a2).kept = s.kept := by
  unfold State.failMerge
  simp [foldl_kept, kept_ite]

@[simp] theorem State.completeMerge_kept (s : State) (a1 : Nat) (a2 : Merge) (a3 : Rec) (a4 : Nat) :
    (s.completeMerge a1 a2 a3 a4).kept = s.kept := by
  unfold State.completeMerge
  simp [foldl_kept, kept_ite]

@[simp] theorem State.gathered_kept (s : State) (a1 : Nat) (a2 : Merge) :
    (s.gathered a1 a2).kept = s.kept := by
  unfold State.gathered
  try dsimp only
  repeat' split
  all_goals first
    | rfl
    | (simp [foldl_kept, kept_ite]; done)
    | (simp [foldl_kept, kept_ite]; rfl)

@[simp] theorem State.mergeRead_kept (s : State) (a1 : Nat) (a2 : Merge) (a3 : MergeReq) (a4 : List Sys2Proof.Byte) :
    (s.mergeRead a1 a2 a3 a4).kept = s.kept := by
  unfold State.mergeRead
  split <;> (repeat' split) <;> simp [kept_ite]

@[simp] theorem State.mergeDone_kept (s : State) (a1 : Nat) (a2 : Merge) (a3 : MergeReq) :
    (s.mergeDone a1 a2 a3).kept = s.kept := by
  unfold State.mergeDone
  repeat' split
  all_goals simp

@[simp] theorem State.mergeResponse_kept (s : State) (a1 : Nat) (a2 : Nat) (a3 : Nat) (a4 : Nat) (a5 : MergeReq) (a6 : Option (List Sys2Proof.Byte)) :
    (s.mergeResponse a1 a2 a3 a4 a5 a6).kept = s.kept := by
  unfold State.mergeResponse
  split
  · rfl
  · split
    · rfl
    · split <;> simp

@[simp] theorem State.startMerge_kept (s : State) (a1 : Stream) (a2 : RowCtx) (a3 : Nat) (a4 : Nat) (a5 : Rec) (a6 : Nat) :
    (s.startMerge a1 a2 a3 a4 a5 a6).kept = s.kept := by
  unfold State.startMerge
  simp

@[simp] theorem State.mergeReread_kept (s : State) (a1 : Nat) (a2 : Nat) (a3 : Nat) :
    (s.mergeReread a1 a2 a3).kept = s.kept := by
  unfold State.mergeReread
  try dsimp only
  repeat' split
  all_goals first
    | rfl
    | (simp [foldl_kept, kept_ite]; done)
    | (simp [foldl_kept, kept_ite]; rfl)

@[simp] theorem State.mwaitExpiry_kept (s : State) (a1 : Nat) (a2 : Nat) (a3 : Nat) :
    (s.mwaitExpiry a1 a2 a3).kept = s.kept := by
  unfold State.mwaitExpiry
  try dsimp only
  repeat' split
  all_goals first
    | rfl
    | (simp [foldl_kept, kept_ite]; done)
    | (simp [foldl_kept, kept_ite]; rfl)

@[simp] theorem State.windowWait_kept (s : State) (a1 : Nat) (a2 : Block) (a3 : Bool) :
    (s.windowWait a1 a2 a3).kept = s.kept := by
  first
  | rfl
  | (unfold State.windowWait
     try dsimp only
     repeat' split
     all_goals first
       | rfl
       | (simp [foldl_kept, kept_ite]; done)
       | (simp [foldl_kept, kept_ite]; rfl))

@[simp] theorem State.askList_kept (s : State) (a1 : Nat) (a2 : Block) (a3 : ListPhase) (a4 : Nat) :
    (s.askList a1 a2 a3 a4).kept = s.kept := by rfl

@[simp] theorem State.listFinding_kept (s : State) (a1 : Nat) (a2 : Block) :
    (s.listFinding a1 a2).kept = s.kept := by
  unfold State.listFinding
  simp [foldl_kept, kept_ite]

@[simp] theorem State.freeWindow_kept (s : State) (a1 : Nat) (a2 : Block) (a3 : Bool) :
    (s.freeWindow a1 a2 a3).kept = s.kept := by
  unfold State.freeWindow
  simp [foldl_kept, kept_ite]

@[simp] theorem State.noteBadIndex_kept (s : State) (a1 : Nat) (a2 : Block) (a3 : Nat) :
    (s.noteBadIndex a1 a2 a3).kept = s.kept := by
  unfold State.noteBadIndex
  try dsimp only
  repeat' split
  all_goals first
    | rfl
    | (simp [foldl_kept, kept_ite]; done)
    | (simp [foldl_kept, kept_ite]; rfl)

@[simp] theorem State.listRead_kept (s : State) (a1 : Nat) (a2 : Block) (a3 : List Byte) :
    (s.listRead a1 a2 a3).kept = s.kept := by
  first
  | rfl
  | (unfold State.listRead
     try dsimp only
     repeat' split
     all_goals first
       | rfl
       | (simp [foldl_kept, kept_ite]; done)
       | (simp [foldl_kept, kept_ite]; rfl))

@[simp] theorem State.listStep_kept (s : State) (a1 : Nat) (a2 : Block) :
    (s.listStep a1 a2).kept = s.kept := by
  unfold State.listStep
  split
  · simp
  · split
    · rfl
    · dsimp only
      split <;> split <;> simp
  · simp
  · rfl

@[simp] theorem State.listGoOn_kept (s : State) (a1 : Nat) (a2 : Block) :
    (s.listGoOn a1 a2).kept = s.kept := by
  unfold State.listGoOn
  split
  · split <;> simp
  · rfl

@[simp] theorem State.listResponse_kept (s : State) (a1 : Nat) (a2 : Nat) (a3 : Nat) (a4 : Nat) (a5 : Nat) (a6 : Option (List Sys2Proof.Byte)) :
    (s.listResponse a1 a2 a3 a4 a5 a6).kept = s.kept := by
  unfold State.listResponse
  split
  · rfl
  · split <;> (repeat' split) <;> simp [kept_ite]

@[simp] theorem State.listAsk_kept (s : State) (a1 : Nat) (a2 : Nat) (a3 : Nat) :
    (s.listAsk a1 a2 a3).kept = s.kept := by
  first
  | rfl
  | (unfold State.listAsk
     try dsimp only
     repeat' split
     all_goals first
       | rfl
       | (simp [foldl_kept, kept_ite]; done)
       | (simp [foldl_kept, kept_ite]; rfl))

@[simp] theorem State.listReread_kept (s : State) (a1 : Nat) (a2 : Nat) (a3 : Nat) :
    (s.listReread a1 a2 a3).kept = s.kept := by
  unfold State.listReread
  try dsimp only
  repeat' split
  all_goals first
    | rfl
    | (simp [foldl_kept, kept_ite]; done)
    | (simp [foldl_kept, kept_ite]; rfl)

@[simp] theorem State.gatherWait_kept (s : State) (a1 : Nat) (a2 : Nat) (a3 : Nat) :
    (s.gatherWait a1 a2 a3).kept = s.kept := by
  unfold State.gatherWait
  try dsimp only
  repeat' split
  all_goals first
    | rfl
    | (simp [foldl_kept, kept_ite]; done)
    | (simp [foldl_kept, kept_ite]; rfl)

@[simp] theorem State.portFinding_kept (s : State) (a1 : Nat) (a2 : Nat) (a3 : Nat) (a4 : Nat) (a5 : Nat) :
    (s.portFinding a1 a2 a3 a4 a5).kept = s.kept := by
  unfold State.portFinding
  simp [foldl_kept, kept_ite]

@[simp] theorem State.enqueue_kept (s : State) (a1 : Nat) (a2 : QEntry) :
    (s.enqueue a1 a2).kept = s.kept := by rfl

@[simp] theorem State.takeBeat_kept (s : State) (a1 : Nat) (a2 : OpenPass) (a3 : Sys2Proof.AccBeat) (a4 : Nat) (a5 : Bool) :
    (s.takeBeat a1 a2 a3 a4 a5).kept = s.kept := by
  unfold State.takeBeat
  simp only [State.modTile_kept, State.enqueue_kept]

@[simp] theorem State.judgeBeat_kept (s : State) (a1 : Nat) (a2 : Stream) (a3 : Chain) (a4 : OpenPass) (a5 : Sys2Proof.AccBeat) (a6 : Bool) :
    (s.judgeBeat a1 a2 a3 a4 a5 a6).kept = s.kept := by
  unfold State.judgeBeat
  simp [foldl_kept, kept_ite]

@[simp] theorem State.judgeFirst_kept (s : State) (a1 : Nat) (a2 : Stream) (a3 : Sys2Proof.AccBeat) :
    (s.judgeFirst a1 a2 a3).kept = s.kept := by
  unfold State.judgeFirst
  try dsimp only
  repeat' split
  all_goals first
    | rfl
    | (simp [foldl_kept, kept_ite]; done)
    | (simp [foldl_kept, kept_ite]; rfl)

@[simp] theorem State.overrun_kept (s : State) (a1 : Nat) (a2 : Stream) (a3 : Sys2Proof.AccBeat) :
    (s.overrun a1 a2 a3).kept = s.kept := by
  unfold State.overrun
  dsimp only
  split
  · split
    · split <;> simp
    · split <;> simp [kept_ite]
  · split <;> simp

@[simp] theorem State.beginRow_kept (s : State) (a1 : Nat) (a2 : Stream) (a3 : QEntry) :
    (s.beginRow a1 a2 a3).kept = s.kept := by
  unfold State.beginRow
  try dsimp only
  repeat' split
  all_goals first
    | rfl
    | (simp [foldl_kept, kept_ite]; done)
    | (simp [foldl_kept, kept_ite]; rfl)

@[simp] theorem State.feed_kept (s : State) (a1 : Nat) (a2 : QEntry) (a3 : List Sys2Proof.HwFault) :
    (s.feed a1 a2 a3).kept = s.kept := by
  unfold State.feed
  try dsimp only
  repeat' split
  all_goals first
    | rfl
    | (simp [foldl_kept, kept_ite]; done)
    | (simp [foldl_kept, kept_ite]; rfl)

theorem State.takeEntry_kept (s : State) (t : Nat) (q : QEntry) (fs : List HwFault) (s1 : State)
    (h : s.takeEntry t q fs = some s1) : s1.kept = s.kept := by
  unfold State.takeEntry at h
  split at h
  · cases h; rfl
  · split at h
    · split at h
      · split at h
        · cases h; simp
        · cases h
      · cases h; simp
    · split at h
      · split at h
        · cases h; simp
        · cases h
      · cases h; rfl
theorem State.takeHead_kept (s : State) (t : Nat) (fs : List HwFault) (s1 : State)
    (h : s.takeHead t fs = some s1) : s1.kept = s.kept := by
  unfold State.takeHead at h
  split at h
  · cases h
  · rw [State.takeEntry_kept _ _ _ _ _ h]; simp

@[simp] theorem State.takeMarks_kept (s : State) (a1 : Nat) (a2 : Nat) :
    (s.takeMarks a1 a2).kept = s.kept := by
  induction a2 generalizing s with
  | zero => rfl
  | succ n ih =>
    unfold State.takeMarks
    split
    · split
      · rfl
      · split
        · rename_i h; rw [ih, State.takeHead_kept _ _ _ _ h]
        · rfl
    · rfl

@[simp] theorem State.drainMarks_kept (s : State) (a1 : Nat) (a2 : Nat) :
    (s.drainMarks a1 a2).kept = s.kept := by
  unfold State.drainMarks
  split <;> simp

@[simp] theorem State.addCorrected_kept (s : State) (a1 : Nat) (a2 : Sys2Proof.Corrected) :
    (s.addCorrected a1 a2).kept = s.kept := by rfl

@[simp] theorem State.sendBeat_kept (s : State) (a1 : Nat) :
    (s.sendBeat a1).kept = s.kept := by
  unfold State.sendBeat
  try dsimp only
  repeat' split
  all_goals first
    | rfl
    | (simp [foldl_kept, kept_ite]; done)
    | (simp [foldl_kept, kept_ite]; rfl)

@[simp] theorem State.sendCrossed_kept (s : State) (a1 : Nat) :
    (s.sendCrossed a1).kept = s.kept := by
  first
  | rfl
  | (unfold State.sendCrossed
     try dsimp only
     repeat' split
     all_goals first
       | rfl
       | (simp [foldl_kept, kept_ite]; done)
       | (simp [foldl_kept, kept_ite]; rfl))

@[simp] theorem State.xevFault_kept (s : State) (a1 : Nat) (a2 : XevFault) :
    (s.xevFault a1 a2).kept = s.kept := by
  first
  | rfl
  | (unfold State.xevFault
     try dsimp only
     repeat' split
     all_goals first
       | rfl
       | (simp [foldl_kept, kept_ite]; done)
       | (simp [foldl_kept, kept_ite]; rfl))

@[simp] theorem State.xevAccept_kept (s : State) (a1 : Nat) (a2 : Sys2Proof.XevReq) :
    (s.xevAccept a1 a2).kept = s.kept := by
  unfold State.xevAccept
  try dsimp only
  repeat' split
  all_goals first
    | rfl
    | (simp [foldl_kept, kept_ite]; done)
    | (simp [foldl_kept, kept_ite]; rfl)

@[simp] theorem State.tileCombine_kept (s : State) (a1 : Nat) (a2 : Nat) (a3 : Nat) (a4 : Nat) :
    (s.tileCombine a1 a2 a3 a4).kept = s.kept := by
  unfold State.tileCombine
  try dsimp only
  repeat' split
  all_goals first
    | rfl
    | (simp [foldl_kept, kept_ite]; done)
    | (simp [foldl_kept, kept_ite]; rfl)

@[simp] theorem State.bandReady_kept (s : State) (a1 : Stream) (a2 : RowCtx) (a3 : Nat) (a4 : Rec) (a5 : Nat) (a6 : Bool) :
    (s.bandReady a1 a2 a3 a4 a5 a6).kept = s.kept := by
  unfold State.bandReady
  dsimp only
  repeat' split
  all_goals simp

@[simp] theorem State.combineStat_kept (s : State) (a1 : Stream) (a2 : RowCtx) (a3 : Nat) :
    (s.combineStat a1 a2 a3).kept = s.kept := by
  unfold State.combineStat
  dsimp only
  split
  · rfl
  · split
    · simp [foldl_kept]
    · rfl

@[simp] theorem State.combinePsum_kept (s : State) (a1 : Stream) (a2 : RowCtx) (a3 : Nat) :
    (s.combinePsum a1 a2 a3).kept = s.kept := by
  unfold State.combinePsum
  try dsimp only
  repeat' split
  all_goals first
    | rfl
    | (simp [foldl_kept, kept_ite]; done)
    | (simp [foldl_kept, kept_ite]; rfl)

@[simp] theorem State.bandCombine_kept (s : State) (a1 : Nat) (a2 : Nat) (a3 : Nat) :
    (s.bandCombine a1 a2 a3).kept = s.kept := by
  unfold State.bandCombine
  try dsimp only
  repeat' split
  all_goals first
    | rfl
    | (simp [foldl_kept, kept_ite]; done)
    | (simp [foldl_kept, kept_ite]; rfl)

@[simp] theorem State.writeEvent_kept (s : State) :
    (s.writeEvent).kept = s.kept := by
  unfold State.writeEvent
  try dsimp only
  repeat' split
  all_goals first
    | rfl
    | (simp [foldl_kept, kept_ite]; done)
    | (simp [foldl_kept, kept_ite]; rfl)

@[simp] theorem State.writeMirror_kept (s : State) :
    (s.writeMirror).kept = s.kept := by
  unfold State.writeMirror
  try dsimp only
  repeat' split
  all_goals first
    | rfl
    | (simp [foldl_kept, kept_ite]; done)
    | (simp [foldl_kept, kept_ite]; rfl)

@[simp] theorem State.audit_kept (s : State) :
    (s.audit).kept = s.kept := by
  have h : ∀ (s : State) (bad : List (Nat × Nat × Bool)), ({ s with booksBad := bad }).kept = s.kept := fun _ _ => rfl
  unfold State.audit
  dsimp only
  rw [h]
  exact foldl_kept _ (fun s x => by split <;> simp) _ s

@[simp] theorem State.storeSent_kept (s : State) (a1 : FabReq) :
    (s.storeSent a1).kept = s.kept := by
  first
  | rfl
  | (unfold State.storeSent
     try dsimp only
     repeat' split
     all_goals first
       | rfl
       | (simp [foldl_kept, kept_ite]; done)
       | (simp [foldl_kept, kept_ite]; rfl))

@[simp] theorem State.fabIssue_kept (s : State) (a1 : Nat) (a2 : Nat) :
    (s.fabIssue a1 a2).kept = s.kept := by
  unfold State.fabIssue
  try dsimp only
  repeat' split
  all_goals first
    | rfl
    | (simp [foldl_kept, kept_ite]; done)
    | (simp [foldl_kept, kept_ite]; rfl)

@[simp] theorem State.fabFinding_kept (s : State) (a1 : Nat) (a2 : Nat) (a3 : Nat) (a4 : Nat) (a5 : Nat) (a6 : Nat) (a7 : Nat) :
    (s.fabFinding a1 a2 a3 a4 a5 a6 a7).kept = s.kept := by
  unfold State.fabFinding
  simp [foldl_kept, kept_ite]

@[simp] theorem State.storeDone_kept (s : State) (a1 : Nat) (a2 : Nat) (a3 : Nat) (a4 : Nat) (a5 : Bool) :
    (s.storeDone a1 a2 a3 a4 a5).kept = s.kept := by
  unfold State.storeDone
  simp [foldl_kept, kept_ite]

@[simp] theorem State.bandDone_kept (s : State) (a1 : Nat) (a2 : FabReq) (a3 : Bool) (a4 : BitVec 1024) :
    (s.bandDone a1 a2 a3 a4).kept = s.kept := by
  first
  | rfl
  | (unfold State.bandDone
     try dsimp only
     repeat' split
     all_goals first
       | rfl
       | (simp [foldl_kept, kept_ite]; done)
       | (simp [foldl_kept, kept_ite]; rfl))

@[simp] theorem State.wakeBand_kept (s : State) (a1 : Nat) :
    (s.wakeBand a1).kept = s.kept := by
  unfold State.wakeBand
  split
  · dsimp only
    rw [foldl_kept _ (fun s t => by simp), foldl_kept _ (fun s h => by simp)]
    rfl
  · rfl

@[simp] theorem State.setSlots_kept (s : State) (a1 : List Nat) (a2 : Slot) :
    (s.setSlots a1 a2).kept = s.kept := by rfl

@[simp] theorem State.loadTable_kept (s : State) (a1 : Cmd) (a2 : Sys2Proof.HostRead) :
    (s.loadTable a1 a2).kept = s.kept := by
  unfold State.loadTable
  apply State.withRead_kept
  intro bs s
  split
  · simp
  · rename_i t _
    apply State.accept_kept
    intro s
    exact State.setSlots_kept s (slotRange (bits (a1.arg 3) 17 16) t.nslots)
      { state := .loading, first := bits (a1.arg 3) 17 16, table := some t }

@[simp] theorem State.repointId_kept (s : State) (a1 : Nat) (a2 : Nat) (a3 : Nat) :
    (s.repointId a1 a2 a3).kept = s.kept := by
  unfold State.repointId
  split
  · rfl
  · split
    · exact State.glomenChange_kept _ _ _ _ _ _ (fun _ => rfl)
    · rfl

@[simp] theorem State.repointAll_kept (s : State) (a1 : Nat) (a2 : Nat) :
    (s.repointAll a1 a2).kept = s.kept := by
  unfold State.repointAll
  simp only [State.prune_kept]
  exact foldl_kept _ (fun s a => by simp) _ s

@[simp] theorem State.tableWritten_kept (s : State) (a1 : Nat) :
    (s.tableWritten a1).kept = s.kept := by
  unfold State.tableWritten
  try dsimp only
  repeat' split
  all_goals first
    | rfl
    | (simp [foldl_kept, kept_ite]; done)
    | (simp [foldl_kept, kept_ite]; rfl)

@[simp] theorem State.retireTable_kept (s : State) (a1 : Cmd) :
    (s.retireTable a1).kept = s.kept := by
  unfold State.retireTable
  try dsimp only
  repeat' split
  all_goals first
    | rfl
    | (simp [foldl_kept, kept_ite]; done)
    | (simp [foldl_kept, kept_ite]; rfl)

@[simp] theorem State.installChain_kept (s : State) (a1 : Chain) :
    (s.installChain a1).kept = s.kept := (State.prune_kept _).trans rfl

@[simp] theorem State.loadChain_kept (s : State) (a1 : Cmd) (a2 : Sys2Proof.HostRead) :
    (s.loadChain a1 a2).kept = s.kept := by
  unfold State.loadChain
  apply State.withRead_kept
  intro bs s
  split
  · simp
  · repeat (apply State.orRefuse_kept; intro s)
    apply State.commit_kept
    intro s
    simp

@[simp] theorem State.dropChain_kept (s : State) (a1 : Nat) :
    (s.dropChain a1).kept = s.kept := (State.prune_kept _).trans rfl

@[simp] theorem State.retireChain_kept (s : State) (a1 : Cmd) :
    (s.retireChain a1).kept = s.kept := by
  unfold State.retireChain
  dsimp only
  split
  · simp
  · split
    · simp
    · apply State.commit_kept
      intro s
      simp

@[simp] theorem State.addStream_kept (s : State) (a1 : Stream) (a2 : Bool) :
    (s.addStream a1 a2).kept = s.kept := by rfl

@[simp] theorem State.openStream_kept (s : State) (a1 : Cmd) (a2 : Sys2Proof.HostRead) :
    (s.openStream a1 a2).kept = s.kept := by
  unfold State.openStream
  apply State.withRead_kept
  intro bs s
  dsimp only
  split
  · simp
  · apply State.orRefuse_kept
    intro s
    split
    · rfl
    · apply State.orRefuse_kept
      intro s
      apply State.commit_kept
      intro s
      simp

@[simp] theorem State.closeStream_kept (s : State) (a1 : Cmd) :
    (s.closeStream a1).kept = s.kept := by
  unfold State.closeStream
  try dsimp only
  repeat' split
  all_goals first
    | rfl
    | (simp [foldl_kept, kept_ite]; done)
    | (simp [foldl_kept, kept_ite]; rfl)

@[simp] theorem State.mergeAbandon_kept (s : State) (a1 : Cmd) :
    (s.mergeAbandon a1).kept = s.kept := by
  unfold State.mergeAbandon
  try dsimp only
  repeat' split
  all_goals first
    | rfl
    | (simp [foldl_kept, kept_ite]; done)
    | (simp [foldl_kept, kept_ite]; rfl)

@[simp] theorem State.combineInto_kept (s : State) (a1 : Stream) (a2 : Chain) (a3 : Nat) (a4 : Nat) (a5 : Nat) (a6 : Nat) (a7 : List Sys2Proof.HostRead) :
    (s.combineInto a1 a2 a3 a4 a5 a6 a7).kept = s.kept := by
  have h : ∀ (s : State) b n own parts, (s.combineArea b n own parts).1.kept = s.kept := by
    intro s b n own parts
    unfold State.combineArea
    dsimp only
    repeat' split
    all_goals simp [foldl_kept]
  have hr : ∀ s : State, (s.combineRecord a1 a2 a3 a4 a6 a7).1.kept = s.kept := by
    intro s
    unfold State.combineRecord
    extract_lets
    split
    · exact h _ _ _ _ _
    · exact foldl_kept (fun (s : State) (p : Nat × Bool) => s.readError s.vaneBand p.1 p.2)
        (fun s p => State.readError_kept s s.vaneBand p.1 p.2) _ _
  unfold State.combineInto
  extract_lets out
  have ho : out.1.kept = s.kept := (hr _).trans (State.countReads_kept _ _ _)
  clear_value out
  split
  · simpa using ho
  · exact ho

@[simp] theorem State.mergeCombine_kept (s : State) (a1 : Cmd) (a2 : List Sys2Proof.HostRead) :
    (s.mergeCombine a1 a2).kept = s.kept := by
  unfold State.mergeCombine
  try dsimp only
  repeat' split
  all_goals first
    | rfl
    | (simp [foldl_kept, kept_ite]; done)
    | (simp [foldl_kept, kept_ite]; rfl)

@[simp] theorem State.getInfo_kept (s : State) (a1 : Cmd) :
    (s.getInfo a1).kept = s.kept := by
  unfold State.getInfo
  simp [foldl_kept, kept_ite]

@[simp] theorem State.queryStream_kept (s : State) (a1 : Cmd) :
    (s.queryStream a1).kept = s.kept := by
  unfold State.queryStream
  try dsimp only
  repeat' split
  all_goals first
    | rfl
    | (simp [foldl_kept, kept_ite]; done)
    | (simp [foldl_kept, kept_ite]; rfl)

@[simp] theorem State.queryProgress_kept (s : State) (a1 : Cmd) :
    (s.queryProgress a1).kept = s.kept := by
  unfold State.queryProgress
  try dsimp only
  repeat' split
  all_goals first
    | rfl
    | (simp [foldl_kept, kept_ite]; done)
    | (simp [foldl_kept, kept_ite]; rfl)

@[simp] theorem State.readLog_kept (s : State) (a1 : Cmd) :
    (s.readLog a1).kept = s.kept := by
  unfold State.readLog
  try dsimp only
  repeat' split
  all_goals first
    | rfl
    | (simp [foldl_kept, kept_ite]; done)
    | (simp [foldl_kept, kept_ite]; rfl)

@[simp] theorem State.beginSquall_kept (s : State) (a1 : Nat) (a2 : Nat) (a3 : Nat) :
    (s.beginSquall a1 a2 a3).kept = s.kept := by
  first
  | rfl
  | (unfold State.beginSquall
     try dsimp only
     repeat' split
     all_goals first
       | rfl
       | (simp [foldl_kept, kept_ite]; done)
       | (simp [foldl_kept, kept_ite]; rfl))

@[simp] theorem State.endSquall_kept (s : State) (a1 : Nat) (a2 : Nat) :
    (s.endSquall a1 a2).kept = s.kept := by
  first
  | rfl
  | (unfold State.endSquall
     try dsimp only
     repeat' split
     all_goals first
       | rfl
       | (simp [foldl_kept, kept_ite]; done)
       | (simp [foldl_kept, kept_ite]; rfl))

@[simp] theorem State.pointSquall_kept (s : State) (a1 : Nat) :
    (s.pointSquall a1).kept = s.kept := by
  unfold State.pointSquall
  simp [foldl_kept, kept_ite]

@[simp] theorem State.windowSquall_kept (s : State) (a1 : Nat) (a2 : Nat) :
    (s.windowSquall a1 a2).kept = s.kept := by
  first
  | rfl
  | (unfold State.windowSquall
     try dsimp only
     repeat' split
     all_goals first
       | rfl
       | (simp [foldl_kept, kept_ite]; done)
       | (simp [foldl_kept, kept_ite]; rfl))

@[simp] theorem State.setRequest_kept (s : State) (a1 : Nat) (a2 : Nat) :
    (s.setRequest a1 a2).kept = s.kept := by
  unfold State.setRequest
  simp [foldl_kept, kept_ite]

@[simp] theorem State.putPolicy_kept (s : State) (a1 : Nat) (a2 : Nat) (a3 : Nat) :
    (s.putPolicy a1 a2 a3).kept = s.kept := by
  unfold State.putPolicy
  try dsimp only
  repeat' split
  all_goals first
    | rfl
    | (simp [foldl_kept, kept_ite]; done)
    | (simp [foldl_kept, kept_ite]; rfl)

@[simp] theorem State.setPolicy_kept (s : State) (a1 : Cmd) :
    (s.setPolicy a1).kept = s.kept := by
  unfold State.setPolicy
  simp [foldl_kept, kept_ite]

@[simp] theorem State.putFloor_kept (s : State) (a1 : Nat) (a2 : Nat) :
    (s.putFloor a1 a2).kept = s.kept := by rfl

@[simp] theorem State.followFloor_kept (s : State) (a1 : Nat) :
    (s.followFloor a1).kept = s.kept := by
  unfold State.followFloor
  simp [foldl_kept, kept_ite]

@[simp] theorem State.setFloor_kept (s : State) (a1 : Cmd) :
    (s.setFloor a1).kept = s.kept := by
  unfold State.setFloor
  simp [foldl_kept, kept_ite]

@[simp] theorem State.openInterval_kept (s : State) (a1 : BitVec 4) (a2 : BitVec 8) (a3 : Sys2Proof.Word) :
    (s.openInterval a1 a2 a3).kept = s.kept := by
  unfold State.openInterval
  try dsimp only
  repeat' split
  all_goals first
    | rfl
    | (simp [foldl_kept, kept_ite]; done)
    | (simp [foldl_kept, kept_ite]; rfl)

@[simp] theorem State.noticeBegin_kept (s : State) (a1 : Cmd) :
    (s.noticeBegin a1).kept = s.kept := by
  unfold State.noticeBegin
  simp [foldl_kept, kept_ite]

@[simp] theorem State.endInterval_kept (s : State) (a1 : BitVec 4) (a2 : BitVec 8) :
    (s.endInterval a1 a2).kept = s.kept := by
  unfold State.endInterval
  try dsimp only
  repeat' split
  all_goals first
    | rfl
    | (simp [foldl_kept, kept_ite]; done)
    | (simp [foldl_kept, kept_ite]; rfl)

@[simp] theorem State.noticeEnd_kept (s : State) (a1 : Cmd) :
    (s.noticeEnd a1).kept = s.kept := by
  unfold State.noticeEnd
  simp [foldl_kept, kept_ite]

@[simp] theorem State.intervalOverdue_kept (s : State) (a1 : BitVec 4) (a2 : BitVec 8) :
    (s.intervalOverdue a1 a2).kept = s.kept := by
  unfold State.intervalOverdue
  try dsimp only
  repeat' split
  all_goals first
    | rfl
    | (simp [foldl_kept, kept_ite]; done)
    | (simp [foldl_kept, kept_ite]; rfl)

@[simp] theorem State.acceptSvc_kept (s : State) (a1 : Cmd) (a2 : Nat) (a3 : Nat) (a4 : State → State) (h4 : ∀ s, (a4 s).kept = s.kept) :
    (s.acceptSvc a1 a2 a3 a4).kept = s.kept := by
  unfold State.acceptSvc
  simp [foldl_kept, kept_ite, h4]

@[simp] theorem State.tileRetire_kept (s : State) (a1 : Cmd) :
    (s.tileRetire a1).kept = s.kept := by
  unfold State.tileRetire
  try dsimp only
  repeat' split
  all_goals first
    | rfl
    | (simp [foldl_kept, kept_ite]; done)
    | (simp [foldl_kept, kept_ite]; rfl)

@[simp] theorem State.tileRestore_kept (s : State) (a1 : Cmd) :
    (s.tileRestore a1).kept = s.kept := by
  unfold State.tileRestore
  simp [foldl_kept, kept_ite]

@[simp] theorem State.tileWork_kept (s : State) (a1 : Cmd) (a2 : SvcKind) :
    (s.tileWork a1 a2).kept = s.kept := by
  unfold State.tileWork
  simp [foldl_kept, kept_ite]

@[simp] theorem State.calibrate_kept (s : State) (a1 : Cmd) :
    (s.calibrate a1).kept = s.kept := by
  unfold State.calibrate
  simp [foldl_kept, kept_ite]

@[simp] theorem State.bankOffInPlace_kept (s : State) (a1 : Nat) (a2 : Nat) :
    (s.bankOffInPlace a1 a2).kept = s.kept := by rfl

@[simp] theorem State.bankOff_kept (s : State) (a1 : Cmd) :
    (s.bankOff a1).kept = s.kept := by
  unfold State.bankOff
  try dsimp only
  repeat' split
  all_goals first
    | rfl
    | (simp [foldl_kept, kept_ite]; done)
    | (simp [foldl_kept, kept_ite]; rfl)

@[simp] theorem State.bankOn_kept (s : State) (a1 : Cmd) :
    (s.bankOn a1).kept = s.kept := by
  unfold State.bankOn
  simp [foldl_kept, kept_ite]

@[simp] theorem State.moveHold_kept (s : State) (a1 : Stream) (a2 : Nat) (a3 : Nat) :
    (s.moveHold a1 a2 a3).kept = s.kept := by rfl

@[simp] theorem State.cutStream_kept (s : State) (a1 : Stream) (a2 : Nat) (a3 : Nat) (a4 : Bool) :
    (s.cutStream a1 a2 a3 a4).kept = s.kept := by
  unfold State.cutStream
  simp [foldl_kept, kept_ite]

@[simp] theorem State.streamCut_kept (s : State) (a1 : Nat) :
    (s.streamCut a1).kept = s.kept := by
  unfold State.streamCut
  try dsimp only
  repeat' split
  all_goals first
    | rfl
    | (simp [foldl_kept, kept_ite]; done)
    | (simp [foldl_kept, kept_ite]; rfl)

@[simp] theorem State.leaveRows_kept (s : State) (a1 : Nat) (a2 : Nat) (a3 : RowCtx → Bool) :
    (s.leaveRows a1 a2 a3).kept = s.kept := by
  first
  | rfl
  | (unfold State.leaveRows
     try dsimp only
     repeat' split
     all_goals first
       | rfl
       | (simp [foldl_kept, kept_ite]; done)
       | (simp [foldl_kept, kept_ite]; rfl))

@[simp] theorem State.streamLeaves_kept (s : State) (a1 : Nat) :
    (s.streamLeaves a1).kept = s.kept := by
  unfold State.streamLeaves
  try dsimp only
  repeat' split
  all_goals first
    | rfl
    | (simp [foldl_kept, kept_ite]; done)
    | (simp [foldl_kept, kept_ite]; rfl)

@[simp] theorem State.backToRole_kept (s : State) (a1 : Nat) (a2 : SvcOp) :
    (s.backToRole a1 a2).kept = s.kept := by
  unfold State.backToRole
  simp [foldl_kept, kept_ite]

@[simp] theorem State.testFailed_kept (s : State) (a1 : Nat) (a2 : SvcOp) (a3 : Nat) (a4 : Nat) :
    (s.testFailed a1 a2 a3 a4).kept = s.kept := by
  first
  | rfl
  | (unfold State.testFailed
     try dsimp only
     repeat' split
     all_goals first
       | rfl
       | (simp [foldl_kept, kept_ite]; done)
       | (simp [foldl_kept, kept_ite]; rfl))

@[simp] theorem State.failBanks_kept (s : State) (a1 : Nat) (a2 : BitVec 16) :
    (s.failBanks a1 a2).kept = s.kept := by
  first
  | rfl
  | (unfold State.failBanks
     try dsimp only
     repeat' split
     all_goals first
       | rfl
       | (simp [foldl_kept, kept_ite]; done)
       | (simp [foldl_kept, kept_ite]; rfl))

@[simp] theorem State.selftestDone_kept (s : State) (a1 : Nat) (a2 : Bool) (a3 : Nat) (a4 : BitVec 16) :
    (s.selftestDone a1 a2 a3 a4).kept = s.kept := by
  first
  | rfl
  | (unfold State.selftestDone
     try dsimp only
     repeat' split
     all_goals first
       | rfl
       | (simp [foldl_kept, kept_ite]; done)
       | (simp [foldl_kept, kept_ite]; rfl))

@[simp] theorem State.setCalibration_kept (s : State) (a1 : Nat) (a2 : Nat) :
    (s.setCalibration a1 a2).kept = s.kept := by
  first
  | rfl
  | (unfold State.setCalibration
     try dsimp only
     repeat' split
     all_goals first
       | rfl
       | (simp [foldl_kept, kept_ite]; done)
       | (simp [foldl_kept, kept_ite]; rfl))

@[simp] theorem State.logCalibration_kept (s : State) (a1 : SvcOp) (a2 : Nat) (a3 : Nat) :
    (s.logCalibration a1 a2 a3).kept = s.kept := by
  first
  | rfl
  | (unfold State.logCalibration
     try dsimp only
     repeat' split
     all_goals first
       | rfl
       | (simp [foldl_kept, kept_ite]; done)
       | (simp [foldl_kept, kept_ite]; rfl))

@[simp] theorem State.bankMarched_kept (s : State) (a1 : Nat) (a2 : SvcOp) (a3 : Nat) (a4 : Bool) :
    (s.bankMarched a1 a2 a3 a4).kept = s.kept := by
  unfold State.bankMarched
  simp [foldl_kept, kept_ite]

@[simp] theorem State.calibrateDone_kept (s : State) (a1 : Nat) (a2 : Bool) :
    (s.calibrateDone a1 a2).kept = s.kept := by
  unfold State.calibrateDone
  try dsimp only
  repeat' split
  all_goals first
    | rfl
    | (simp [foldl_kept, kept_ite]; done)
    | (simp [foldl_kept, kept_ite]; rfl)

@[simp] theorem State.powerOff_kept (s : State) (a1 : Nat) :
    (s.powerOff a1).kept = s.kept := by
  unfold State.powerOff
  simp [foldl_kept, kept_ite]

@[simp] theorem State.powered_kept (s : State) (a1 : Nat) :
    (s.powered a1).kept = s.kept := by
  unfold State.powered
  simp [foldl_kept, kept_ite]

@[simp] theorem State.holdExpired_kept (s : State) (a1 : Nat) :
    (s.holdExpired a1).kept = s.kept := by
  unfold State.holdExpired
  simp [foldl_kept, kept_ite]

@[simp] theorem State.checkDone_kept (s : State) (a1 : Nat) (a2 : Bool) :
    (s.checkDone a1 a2).kept = s.kept := by
  unfold State.checkDone
  simp [foldl_kept, kept_ite]

@[simp] theorem State.reportLoss_kept (s : State) (a1 : Nat) :
    (s.reportLoss a1).kept = s.kept := by
  unfold State.reportLoss
  dsimp only
  split
  · simp
  · exact foldl_kept _ (fun s x => by split <;> simp [foldl_kept]) _ s

@[simp] theorem State.loseRows_kept (s : State) (a1 : Nat) (a2 : Nat) :
    (s.loseRows a1 a2).kept = s.kept := by rfl

@[simp] theorem State.powerLost_kept (s : State) (a1 : Nat) :
    (s.powerLost a1).kept = s.kept := by
  unfold State.powerLost
  simp [foldl_kept, kept_ite]

@[simp] theorem State.setStaging_kept (s : State) (a1 : Staging) (a2 : List Sys2Proof.Byte) :
    (s.setStaging a1 a2).kept = s.kept := by
  unfold State.setStaging
  try dsimp only
  repeat' split
  all_goals first
    | rfl
    | (simp [foldl_kept, kept_ite]; done)
    | (simp [foldl_kept, kept_ite]; rfl)

@[simp] theorem State.fwStage_kept (s : State) (a1 : Cmd) :
    (s.fwStage a1).kept = s.kept := by
  unfold State.fwStage
  simp [foldl_kept, kept_ite]

@[simp] theorem State.fwStaged_kept (s : State) (a1 : Sys2Proof.HostRead) (a2 : BitVec 64) :
    (s.fwStaged a1 a2).kept = s.kept := by
  unfold State.fwStaged
  split
  · rfl
  · dsimp only
    split
    · simp
    · split
      · rfl
      · simp only [State.finishLong_kept, State.modLong_kept, kept_ite, State.setStaging_kept]
        split <;> exact (State.glomenChange_kept _ _ _ _ _ _ (by intro _; rfl)).trans (State.vaneRead_kept _ _ _ _)

@[simp] theorem State.fwActivate_kept (s : State) (a1 : Cmd) :
    (s.fwActivate a1).kept = s.kept := by
  unfold State.fwActivate
  repeat' split
  all_goals first | (simp; done) | skip
  apply State.accept_kept
  intro s
  rfl

@[simp] theorem State.afterReady_kept (s : State) :
    (s.afterReady).kept = s.kept := by
  unfold State.afterReady
  simp [foldl_kept]

@[simp] theorem State.endActivate_kept (s : State) (a1 : Nat) (a2 : BitVec 16) (a3 : Nat) (a4 : Nat) (a5 : Nat) :
    (s.endActivate a1 a2 a3 a4 a5).kept = s.kept := by
  first
  | rfl
  | (unfold State.endActivate
     try dsimp only
     repeat' split
     all_goals first
       | rfl
       | (simp [foldl_kept, kept_ite]; done)
       | (simp [foldl_kept, kept_ite]; rfl))

@[simp] theorem State.endHandover_kept (s : State) (a1 : Handover) (a2 : Nat) (a3 : Nat) (a4 : Nat) :
    (s.endHandover a1 a2 a3 a4).kept = s.kept := by
  unfold State.endHandover
  simp [foldl_kept, kept_ite]
  rfl

@[simp] theorem State.endMet_kept (s : State) (ws : List ArcWait) : (s.endMet ws).kept = s.kept := by
  induction ws generalizing s with
  | nil => rfl
  | cons w rest ih =>
    unfold State.endMet
    split
    · rw [ih, State.endActivate_kept]
      rfl
    · rfl

@[simp] theorem State.askArc_kept (s : State)  :
    (s.askArc).kept = s.kept := by
  unfold State.askArc
  split
  · rfl
  · dsimp only
    split
    · split
      · exact State.endMet_kept _ _
      · exact State.endMet_kept _ _
    · exact State.endMet_kept _ _

@[simp] theorem State.awaitArc_kept (s : State) (a1 : Handover) (a2 : Nat) :
    (s.awaitArc a1 a2).kept = s.kept := by
  first
  | rfl
  | (unfold State.awaitArc
     try dsimp only
     repeat' split
     all_goals first
       | rfl
       | (simp [foldl_kept, kept_ite]; done)
       | (simp [foldl_kept, kept_ite]; rfl))

@[simp] theorem State.settleArc_kept (s : State)  :
    (s.settleArc).kept = s.kept := by
  unfold State.settleArc
  split
  · split
    · split
      · dsimp only
        rw [State.askArc_kept, State.endActivate_kept]
        exact State.glomenChange_kept _ _ _ _ _ _ (fun _ => rfl)
      · rfl
    · rfl
  · rfl

@[simp] theorem State.handoverReady_kept (s : State) (a1 : BitVec 64) :
    (s.handoverReady a1).kept = s.kept := by
  unfold State.handoverReady
  split
  · rfl
  · dsimp only
    split
    · rfl
    · split
      · simp; rfl
      · simp; rfl

@[simp] theorem State.handoverReverts_kept (s : State) (a1 : Sys2Proof.RevertCause) :
    (s.handoverReverts a1).kept = s.kept := by
  unfold State.handoverReverts
  split
  · rfl
  · dsimp only
    split
    · rfl
    · simp; rfl

@[simp] theorem State.arcDone_kept (s : State) (a1 : BitVec 64) :
    (s.arcDone a1).kept = s.kept := by
  unfold State.arcDone
  split
  · rw [State.settleArc_kept]; rfl
  · rfl
  · rfl

@[simp] theorem State.startGlomen_kept (s : State) :
    (s.startGlomen).kept = s.kept := by
  unfold State.startGlomen
  exact foldl_kept _ (fun s b => by simp) _ _

@[simp] theorem State.imageChecked_kept (s : State) (a1 : Sys2Proof.HostRead) (a2 : BitVec 64) :
    (s.imageChecked a1 a2).kept = s.kept := by
  unfold State.imageChecked
  have h (s : State) (i : LogInfo) (b : BitVec 64) : (({ s with keyArc := b }).logPut i).kept = s.kept := by
    rw [State.logPut_kept]; rfl
  have f (s : State) (v : Word) : ({ s with fwVersion := v }).kept = s.kept := rfl
  have a (s : State) (v : Bool) (w : List Byte) : ({ s with slotB := v, imgA := w }).kept = s.kept := rfl
  have b (s : State) (v : Bool) (w : List Byte) : ({ s with slotB := v, imgB := w }).kept = s.kept := rfl
  have p (s : State) (v : BootPhase) : ({ s with bootPhase := v }).kept = s.kept := rfl
  have q (s : State) (v : BootPhase) (x : Service) (y : Cause) :
    ({ s with service := x, cause := y, bootPhase := v }).kept = s.kept := rfl
  cases a1 with
  | failed =>
    dsimp only
    split
    · rw [q, h, State.vaneRead_kept]
    · rw [p, h, State.vaneRead_kept]
  | data bs =>
    dsimp only
    generalize stubCheck _ _ _ = c
    cases c with
    | ok =>
      dsimp only
      rw [State.startGlomen_kept, f, kept_ite, a, b, h, State.vaneRead_kept]
      simp
    | format =>
      dsimp only
      split
      · rw [q, h, State.vaneRead_kept]
      · rw [p, h, State.vaneRead_kept]
    | signature =>
      dsimp only
      split
      · rw [q, h, State.vaneRead_kept]
      · rw [p, h, State.vaneRead_kept]

@[simp] theorem State.tapsCross_kept (s : State) (a1 : Nat) (a2 : Bool) :
    (s.tapsCross a1 a2).kept = s.kept := by
  unfold State.tapsCross
  try dsimp only
  repeat' split
  all_goals first
    | rfl
    | (simp [foldl_kept, kept_ite]; done)
    | (simp [foldl_kept, kept_ite]; rfl)

@[simp] theorem State.mapBand_kept (s : State) (a1 : Sys2Proof.PostReport) (a2 : Nat) :
    (s.mapBand a1 a2).kept = s.kept := by
  unfold State.mapBand
  simp [foldl_kept, kept_ite]

@[simp] theorem State.installPolicy_kept (s : State) (a1 : Nat) (a2 : Nat) (a3 : Nat) :
    (s.installPolicy a1 a2 a3).kept = s.kept := by
  unfold State.installPolicy
  simp [foldl_kept, kept_ite]

@[simp] theorem State.installFloor_kept (s : State) (a1 : Nat) (a2 : Nat) :
    (s.installFloor a1 a2).kept = s.kept := by
  unfold State.installFloor
  simp [foldl_kept, kept_ite]

@[simp] theorem State.installDecl_kept (s : State) (a1 : List Sys2Proof.Byte) :
    (s.installDecl a1).kept = s.kept := by
  unfold State.installDecl
  simp [foldl_kept, kept_ite]

@[simp] theorem State.startService_kept (s : State) : s.startService.kept = s.kept := by
  have h : ∀ s : State, (({ s with readyDone := true, bootPhase := .finished }).refreshService).kept = s.kept :=
    fun s => State.refreshService_kept _
  unfold State.startService
  rw [foldl_kept _ (fun s b => State.pointSquall_kept s b), State.writeReady_kept, h, State.installDecl_kept]

@[simp] theorem State.settleReady_kept (s : State) : s.settleReady.kept = s.kept := by
  unfold State.settleReady
  split <;> simp

@[simp] theorem State.selfTested_kept (s : State) (a1 : Sys2Proof.PostReport) :
    (s.selfTested a1).kept = s.kept := by
  have h : ∀ s : State, ({ s with bootPhase := .ready } : State).kept = s.kept := fun _ => rfl
  unfold State.selfTested
  split
  · rw [State.settleReady_kept, h, State.booked_kept, foldl_kept _ (fun s b => State.mapBand_kept s a1 b)]
  · rfl

@[simp] theorem State.outAcked_kept (s : State) (a1 : Nat) : (s.outAcked a1).kept = s.kept := by
  unfold State.outAcked
  split <;> simp

@[simp] theorem State.passTime_kept (s : State) (a1 : Nat) :
    (s.passTime a1).kept = s.kept := by rfl

@[simp] theorem State.skipTime_kept (s : State) (a1 : Nat) :
    (s.skipTime a1).kept = s.kept := by
  first
  | rfl
  | (unfold State.skipTime
     try dsimp only
     repeat' split
     all_goals first
       | rfl
       | (simp [foldl_kept, kept_ite]; done)
       | (simp [foldl_kept, kept_ite]; rfl))

@[simp] theorem State.takeTime_kept (s : State) (a1 : BitVec 64) :
    (s.takeTime a1).kept = s.kept := by
  unfold State.takeTime
  extract_lets step n s1 s2
  have h1 : s1.kept = s.kept := by
    subst s1
    split <;> simp
  have h2 : s2.kept = s.kept := h1
  split
  · exact (State.report_kept _ _ _ _).trans h2
  · exact h2

@[simp] theorem State.timeOut_kept (s : State) :
    (s.timeOut).kept = s.kept := by
  unfold State.timeOut
  try dsimp only
  repeat' split
  all_goals first
    | rfl
    | (simp [foldl_kept, kept_ite]; done)
    | (simp [foldl_kept, kept_ite]; rfl)

@[simp] theorem State.clockHigh_kept (s : State) (a1 : Nat) (a2 : Nat) :
    (s.clockHigh a1 a2).kept = s.kept := by
  unfold State.clockHigh
  simp [foldl_kept, kept_ite]

@[simp] theorem State.loseBand_kept (s : State) (a1 : Nat) :
    (s.loseBand a1).kept = s.kept := by
  unfold State.loseBand
  simp [foldl_kept, kept_ite]

@[simp] theorem State.regainBand_kept (s : State) (a1 : Nat) :
    (s.regainBand a1).kept = s.kept := by
  unfold State.regainBand
  simp [foldl_kept, kept_ite]

@[simp] theorem State.bandWindow_kept (s : State) (a1 : Nat) (a2 : Nat) (a3 : Nat) :
    (s.bandWindow a1 a2 a3).kept = s.kept := by
  unfold State.bandWindow
  simp [foldl_kept, kept_ite]

@[simp] theorem State.monitorWindow_kept (s : State) (a1 : Vector (BitVec 16) 8) (a2 : Vector (BitVec 16) 8) :
    (s.monitorWindow a1 a2).kept = s.kept := by
  unfold State.monitorWindow
  simp [foldl_kept, kept_ite]

@[simp] theorem State.applyPoint_kept (s : State) (a1 : Nat) (a2 : Nat) :
    (s.applyPoint a1 a2).kept = s.kept := by
  unfold State.applyPoint
  simp [foldl_kept, kept_ite]

@[simp] theorem State.changeCap_kept (s : State) (a1 : Nat) (a2 : Nat) :
    (s.changeCap a1 a2).kept = s.kept := by
  unfold State.changeCap
  simp [foldl_kept, kept_ite]

@[simp] theorem State.choosePoint_kept (s : State) (a1 : Nat) (a2 : Nat) :
    (s.choosePoint a1 a2).kept = s.kept := by
  first
  | rfl
  | (unfold State.choosePoint
     try dsimp only
     repeat' split
     all_goals first
       | rfl
       | (simp [foldl_kept, kept_ite]; done)
       | (simp [foldl_kept, kept_ite]; rfl))

@[simp] theorem State.clockChoice_kept (s : State) (a1 : Nat) (a2 : List Nat) :
    (s.clockChoice a1 a2).kept = s.kept := by
  first
  | rfl
  | (unfold State.clockChoice
     try dsimp only
     repeat' split
     all_goals first
       | rfl
       | (simp [foldl_kept, kept_ite]; done)
       | (simp [foldl_kept, kept_ite]; rfl))

@[simp] theorem State.logConfig_kept (s : State) (a1 : Nat) (a2 : Nat) (a3 : Nat) :
    (s.logConfig a1 a2 a3).kept = s.kept := by
  unfold State.logConfig
  simp [foldl_kept, kept_ite]

@[simp] theorem State.retireWrites_kept (s : State) (a1 : Sys2Proof.Ring) :
    (s.retireWrites a1).kept = s.kept := by rfl

@[simp] theorem State.rearm_kept (s : State) :
    (s.rearm).kept = s.kept := by rfl

@[simp] theorem State.resumeHalt_kept (s : State) :
    (s.resumeHalt).kept = s.kept := by
  unfold State.resumeHalt
  dsimp only
  rw [foldl_kept _ (fun s b => by simp), foldl_kept _ (fun s b => by simp)]
  exact foldl_kept _ (fun s b => by simp) _ s

@[simp] theorem State.trapCtl_kept (s : State) (a1 : Sys2Proof.Word) :
    (s.trapCtl a1).kept = s.kept := by
  unfold State.trapCtl
  simp [foldl_kept, kept_ite]
  rfl

@[simp] theorem State.snap_kept (s : State) (a1 : Sys2Proof.Word) :
    (s.snap a1).kept = s.kept := by
  unfold State.snap
  try dsimp only
  repeat' split
  all_goals first
    | rfl
    | (simp [foldl_kept, kept_ite]; done)
    | (simp [foldl_kept, kept_ite]; rfl)

@[simp] theorem State.snapDone_kept (s : State) (a1 : Sys2Proof.Word) :
    (s.snapDone a1).kept = s.kept := by
  unfold State.snapDone
  try dsimp only
  repeat' split
  all_goals first
    | rfl
    | (simp [foldl_kept, kept_ite]; done)
    | (simp [foldl_kept, kept_ite]; rfl)

@[simp] theorem State.ring_kept (s : State) (a1 : Fin 4) (a2 : Sys2Proof.Word) :
    (s.ring a1 a2).kept = s.kept := by
  unfold State.ring
  try dsimp only
  repeat' split
  all_goals first
    | rfl
    | (simp [foldl_kept, kept_ite]; done)
    | (simp [foldl_kept, kept_ite]; rfl)

@[simp] theorem State.mailboxWrite_kept (s : State) (a1 : Fin 4) (a2 : Nat) (a3 : Sys2Proof.Word) :
    (s.mailboxWrite a1 a2 a3).kept = s.kept := by
  unfold State.mailboxWrite
  simp [foldl_kept, kept_ite]

@[simp] theorem State.ctlRead_kept (s : State) (a1 : Nat) :
    (s.ctlRead a1).kept = s.kept := by
  first
  | rfl
  | (unfold State.ctlRead
     try dsimp only
     repeat' split
     all_goals first
       | rfl
       | (simp [foldl_kept, kept_ite]; done)
       | (simp [foldl_kept, kept_ite]; rfl))

@[simp] theorem State.scrubCorrected_kept (s : State) (a1 : Nat) (a2 : Bool) (a3 : Bool) (a4 : Bool) :
    (s.scrubCorrected a1 a2 a3 a4).kept = s.kept := by rfl

@[simp] theorem State.drizzleFinding_kept (s : State) (a1 : Nat) (a2 : Nat) (a3 : Nat) (a4 : Nat) (a5 : Nat) (a6 : Nat) :
    (s.drizzleFinding a1 a2 a3 a4 a5 a6).kept = s.kept := by
  unfold State.drizzleFinding
  simp [foldl_kept, kept_ite]

@[simp] theorem State.pathMonitor_kept (s : State) (a1 : Nat) (a2 : Nat) (a3 : Nat) :
    (s.pathMonitor a1 a2 a3).kept = s.kept := by
  first
  | rfl
  | (unfold State.pathMonitor
     try dsimp only
     repeat' split
     all_goals first
       | rfl
       | (simp [foldl_kept, kept_ite]; done)
       | (simp [foldl_kept, kept_ite]; rfl))

@[simp] theorem State.drizzle_kept (s : State) (a1 : Nat) (a2 : Sys2Proof.DrizzleResult) :
    (s.drizzle a1 a2).kept = s.kept := by
  unfold State.drizzle
  try dsimp only
  repeat' split
  all_goals first
    | rfl
    | (simp [foldl_kept, kept_ite]; done)
    | (simp [foldl_kept, kept_ite]; rfl)

@[simp] theorem State.entryRewrite_kept (s : State) (a1 : Nat) (a2 : Sys2Proof.EntryRef) :
    (s.entryRewrite a1 a2).kept = s.kept := by
  unfold State.entryRewrite
  simp [foldl_kept, kept_ite]

@[simp] theorem State.block_kept (s : State) (a1 : Sys2Proof.TestUnit) :
    (s.block a1).kept = s.kept := by
  unfold State.block
  try dsimp only
  repeat' split
  all_goals first
    | rfl
    | (simp [foldl_kept, kept_ite]; done)
    | (simp [foldl_kept, kept_ite]; rfl)

@[simp] theorem State.ownWork_kept (s : State)  :
    (s.ownWork).kept = s.kept := by
  first
  | rfl
  | (unfold State.ownWork
     try dsimp only
     repeat' split
     all_goals first
       | rfl
       | (simp [foldl_kept, kept_ite]; done)
       | (simp [foldl_kept, kept_ite]; rfl))

@[simp] theorem tick_kept (s : State)  :
    (tick s).kept = s.kept := by
  unfold tick
  dsimp only
  rw [State.drainSlots_kept]
  split <;> exact State.ownWork_kept s

end Sys2Proof.Machine
end

