-- ==== Sys2Proof/Laws/Exec.lean ====
section
/-!
SUPPORT. Which commands may change the queue, the resets and the registers of the host and of the test port: all
the others leave them.
-/

namespace Sys2Proof.Machine

/-- The commands whose meaning writes a register of `Kept`. -/
def Instr.writesKept : Instr → Bool
  | .porN _ | .domainResetRelease _ | .romStubStart .. | .ringBaseWrite .. | .ringSizeWrite .. | .ringHeadWrite ..
  | .cfgLockWrite _ | .registerWrite .. | .fabResponse .. | .testAccess _ | .trstN => true
  | _ => false

/-- A command that writes none of these registers leaves them and the queue. -/
theorem exec_kept (c : Instr) (s t : State) (h : exec c s = .next t) (hc : Instr.writesKept c = false) :
    t.kept = s.kept := by
  cases c
  case accBeatDequeue t fs cs =>
    simp only [exec, execAccBeatDequeue, Host.Outcome.next.injEq] at h
    subst h
    split
    · split
      · rename_i h; simp [State.takeHead_kept _ _ _ _ h]
      · simp
    · rfl
  all_goals cases hc
  all_goals
    simp only [exec, execAccBeat, execArcReqDone, execBandRecordCombine, execBankOff, execBankOn, execBooksAudit,
      execBootImageCheckDone, execCalibrate, execCalibrateTileDone, execClockChoiceWindow,
      execClockMonitorWindow, execClockPointApplied, execCloseStream, execCommandMalformed, execDrizzleTest,
      execEventRecordWrite, execFabCreditReturn, execFabRequest, execFwActivate, execFwStage, execFwStageDone,
      execGatherListRead, execGatherListReread, execGatherWaitExpiry, execGetInfo, execHandoverReady,
      execHandoverTimeout, execLoadChain, execLoadTable, execLogMirrorWrite, execMergeAbandon, execMergeCombine,
      execMergeReread, execMwaitExpiry, execNanTrapRearm, execNanTrapResume, execOpdBeat, execOpdCreditReturn,
      execOpenStream, execOutAck, execPowerOnSelfTestDone, execQueryProgress, execQueryStream, execReadLog,
      execRetireChain, execRetireTable, execSelftest, execSelftestTileDone, execSetFloorClock, execSetPolicy,
      execStatisticApplyStart, execStreamCut, execStreamLeavesOldTile, execSurroundingsDurationExpiry,
      execSurroundingsNoticeBegin, execSurroundingsNoticeEnd, execTableEntryRewrite, execTableWriteDone,
      execTclkTimeout, execTelSnap, execTelSnapshotDone, execThrNote, execThrottleCapChange,
      execTileEntryCheckDone, execTilePowerLost, execTilePowerOff, execTilePowered, execTileRecordCombine,
      execTileResetHoldExpiry, execTileRestore, execTileRetire, execTimeLoRead, execTimeSample,
      execWatchdogExpiry, execXevRequest, execXevResponse, Host.Outcome.next.injEq] at h
    subst h
    first
      | (simp only [kept_ite]; done)
      | (simp [kept_ite]; done)
      | (repeat' split) <;> first | (simp; done) | rfl

end Sys2Proof.Machine
end

