-- ==== Sys2Proof/Laws/State.lean ====
section
/-!
SUPPORT. What the basic updates of the state leave alone, field by field, and what they read back.
-/

namespace Sys2Proof.Machine.State

variable (s : State)

/-! ### setBand -/

@[simp] theorem setBand_pending (b : Nat) (x : Band) : (s.setBand b x).pending = s.pending := rfl
@[simp] theorem setBand_porN (b : Nat) (x : Band) : (s.setBand b x).porN = s.porN := rfl
@[simp] theorem setBand_mclk (b : Nat) (x : Band) : (s.setBand b x).mclk = s.mclk := rfl
@[simp] theorem setBand_mgmtOut (b : Nat) (x : Band) : (s.setBand b x).mgmtOut = s.mgmtOut := rfl
@[simp] theorem setBand_fclkOut (b : Nat) (x : Band) : (s.setBand b x).fclkOut = s.fclkOut := rfl
@[simp] theorem setBand_tclkOut (b : Nat) (x : Band) : (s.setBand b x).tclkOut = s.tclkOut := rfl
@[simp] theorem setBand_fresh (b : Nat) (x : Band) : (s.setBand b x).fresh = s.fresh := rfl
@[simp] theorem setBand_fwVersion (b : Nat) (x : Band) : (s.setBand b x).fwVersion = s.fwVersion := rfl
@[simp] theorem setBand_service (b : Nat) (x : Band) : (s.setBand b x).service = s.service := rfl
@[simp] theorem setBand_cause (b : Nat) (x : Band) : (s.setBand b x).cause = s.cause := rfl
@[simp] theorem setBand_slotB (b : Nat) (x : Band) : (s.setBand b x).slotB = s.slotB := rfl
@[simp] theorem setBand_bootPhase (b : Nat) (x : Band) : (s.setBand b x).bootPhase = s.bootPhase := rfl
@[simp] theorem setBand_keyHash (b : Nat) (x : Band) : (s.setBand b x).keyHash = s.keyHash := rfl
@[simp] theorem setBand_keyArc (b : Nat) (x : Band) : (s.setBand b x).keyArc = s.keyArc := rfl
@[simp] theorem setBand_keyValid (b : Nat) (x : Band) : (s.setBand b x).keyValid = s.keyValid := rfl
@[simp] theorem setBand_bootBase (b : Nat) (x : Band) : (s.setBand b x).bootBase = s.bootBase := rfl
@[simp] theorem setBand_arcReq (b : Nat) (x : Band) : (s.setBand b x).arcReq = s.arcReq := rfl
@[simp] theorem setBand_imgA (b : Nat) (x : Band) : (s.setBand b x).imgA = s.imgA := rfl
@[simp] theorem setBand_imgB (b : Nat) (x : Band) : (s.setBand b x).imgB = s.imgB := rfl
@[simp] theorem setBand_staging (b : Nat) (x : Band) : (s.setBand b x).staging = s.staging := rfl
@[simp] theorem setBand_readyDone (b : Nat) (x : Band) : (s.setBand b x).readyDone = s.readyDone := rfl
@[simp] theorem setBand_vaneRestarts (b : Nat) (x : Band) : (s.setBand b x).vaneRestarts = s.vaneRestarts := rfl
@[simp] theorem setBand_handover (b : Nat) (x : Band) : (s.setBand b x).handover = s.handover := rfl
@[simp] theorem setBand_arcWaits (b : Nat) (x : Band) : (s.setBand b x).arcWaits = s.arcWaits := rfl
@[simp] theorem setBand_intStatus (b : Nat) (x : Band) : (s.setBand b x).intStatus = s.intStatus := rfl
@[simp] theorem setBand_intEnable (b : Nat) (x : Band) : (s.setBand b x).intEnable = s.intEnable := rfl
@[simp] theorem setBand_fatal (b : Nat) (x : Band) : (s.setBand b x).fatal = s.fatal := rfl
@[simp] theorem setBand_time (b : Nat) (x : Band) : (s.setBand b x).time = s.time := rfl
@[simp] theorem setBand_timeSeen (b : Nat) (x : Band) : (s.setBand b x).timeSeen = s.timeSeen := rfl
@[simp] theorem setBand_timeLost (b : Nat) (x : Band) : (s.setBand b x).timeLost = s.timeLost := rfl
@[simp] theorem setBand_timeShadow (b : Nat) (x : Band) : (s.setBand b x).timeShadow = s.timeShadow := rfl
@[simp] theorem setBand_evq (b : Nat) (x : Band) : (s.setBand b x).evq = s.evq := rfl
@[simp] theorem setBand_logm (b : Nat) (x : Band) : (s.setBand b x).logm = s.logm := rfl
@[simp] theorem setBand_cfgLock (b : Nat) (x : Band) : (s.setBand b x).cfgLock = s.cfgLock := rfl
@[simp] theorem setBand_trap (b : Nat) (x : Band) : (s.setBand b x).trap = s.trap := rfl
@[simp] theorem setBand_tel (b : Nat) (x : Band) : (s.setBand b x).tel = s.tel := rfl
@[simp] theorem setBand_ctlRdata (b : Nat) (x : Band) : (s.setBand b x).ctlRdata = s.ctlRdata := rfl
@[simp] theorem setBand_mbx (b : Nat) (x : Band) : (s.setBand b x).mbx = s.mbx := rfl
@[simp] theorem setBand_bells (b : Nat) (x : Band) : (s.setBand b x).bells = s.bells := rfl
@[simp] theorem setBand_policy (b : Nat) (x : Band) : (s.setBand b x).policy = s.policy := rfl
@[simp] theorem setBand_longOps (b : Nat) (x : Band) : (s.setBand b x).longOps = s.longOps := rfl
@[simp] theorem setBand_loads (b : Nat) (x : Band) : (s.setBand b x).loads = s.loads := rfl
@[simp] theorem setBand_slots (b : Nat) (x : Band) : (s.setBand b x).slots = s.slots := rfl
@[simp] theorem setBand_chains (b : Nat) (x : Band) : (s.setBand b x).chains = s.chains := rfl
@[simp] theorem setBand_nextVer (b : Nat) (x : Band) : (s.setBand b x).nextVer = s.nextVer := rfl
@[simp] theorem setBand_streams (b : Nat) (x : Band) : (s.setBand b x).streams = s.streams := rfl
@[simp] theorem setBand_intervals (b : Nat) (x : Band) : (s.setBand b x).intervals = s.intervals := rfl
@[simp] theorem setBand_log (b : Nat) (x : Band) : (s.setBand b x).log = s.log := rfl
@[simp] theorem setBand_arb (b : Nat) (x : Band) : (s.setBand b x).arb = s.arb := rfl
@[simp] theorem setBand_taps (b : Nat) (x : Band) : (s.setBand b x).taps = s.taps := rfl
@[simp] theorem setBand_tiles (b : Nat) (x : Band) : (s.setBand b x).tiles = s.tiles := rfl
@[simp] theorem setBand_mgmtCorrected (b : Nat) (x : Band) : (s.setBand b x).mgmtCorrected = s.mgmtCorrected := rfl
@[simp] theorem setBand_commandsTaken (b : Nat) (x : Band) : (s.setBand b x).commandsTaken = s.commandsTaken := rfl
@[simp] theorem setBand_refusals (b : Nat) (x : Band) : (s.setBand b x).refusals = s.refusals := rfl
@[simp] theorem setBand_books (b : Nat) (x : Band) : (s.setBand b x).books = s.books := rfl
@[simp] theorem setBand_booksBad (b : Nat) (x : Band) : (s.setBand b x).booksBad = s.booksBad := rfl
@[simp] theorem setBand_mgmtBlocked (b : Nat) (x : Band) : (s.setBand b x).mgmtBlocked = s.mgmtBlocked := rfl
@[simp] theorem setBand_tap (b : Nat) (x : Band) : (s.setBand b x).tap = s.tap := rfl
@[simp] theorem setBand_declaration (b : Nat) (x : Band) : (s.setBand b x).declaration = s.declaration := rfl
@[simp] theorem setBand_ctlAck (b : Nat) (x : Band) : (s.setBand b x).ctlAck = s.ctlAck := rfl

/-! ### modBand -/

@[simp] theorem modBand_pending (b : Nat) (f : Band → Band) : (s.modBand b f).pending = s.pending := rfl
@[simp] theorem modBand_porN (b : Nat) (f : Band → Band) : (s.modBand b f).porN = s.porN := rfl
@[simp] theorem modBand_mclk (b : Nat) (f : Band → Band) : (s.modBand b f).mclk = s.mclk := rfl
@[simp] theorem modBand_mgmtOut (b : Nat) (f : Band → Band) : (s.modBand b f).mgmtOut = s.mgmtOut := rfl
@[simp] theorem modBand_fclkOut (b : Nat) (f : Band → Band) : (s.modBand b f).fclkOut = s.fclkOut := rfl
@[simp] theorem modBand_tclkOut (b : Nat) (f : Band → Band) : (s.modBand b f).tclkOut = s.tclkOut := rfl
@[simp] theorem modBand_fresh (b : Nat) (f : Band → Band) : (s.modBand b f).fresh = s.fresh := rfl
@[simp] theorem modBand_fwVersion (b : Nat) (f : Band → Band) : (s.modBand b f).fwVersion = s.fwVersion := rfl
@[simp] theorem modBand_service (b : Nat) (f : Band → Band) : (s.modBand b f).service = s.service := rfl
@[simp] theorem modBand_cause (b : Nat) (f : Band → Band) : (s.modBand b f).cause = s.cause := rfl
@[simp] theorem modBand_slotB (b : Nat) (f : Band → Band) : (s.modBand b f).slotB = s.slotB := rfl
@[simp] theorem modBand_bootPhase (b : Nat) (f : Band → Band) : (s.modBand b f).bootPhase = s.bootPhase := rfl
@[simp] theorem modBand_keyHash (b : Nat) (f : Band → Band) : (s.modBand b f).keyHash = s.keyHash := rfl
@[simp] theorem modBand_keyArc (b : Nat) (f : Band → Band) : (s.modBand b f).keyArc = s.keyArc := rfl
@[simp] theorem modBand_keyValid (b : Nat) (f : Band → Band) : (s.modBand b f).keyValid = s.keyValid := rfl
@[simp] theorem modBand_bootBase (b : Nat) (f : Band → Band) : (s.modBand b f).bootBase = s.bootBase := rfl
@[simp] theorem modBand_arcReq (b : Nat) (f : Band → Band) : (s.modBand b f).arcReq = s.arcReq := rfl
@[simp] theorem modBand_imgA (b : Nat) (f : Band → Band) : (s.modBand b f).imgA = s.imgA := rfl
@[simp] theorem modBand_imgB (b : Nat) (f : Band → Band) : (s.modBand b f).imgB = s.imgB := rfl
@[simp] theorem modBand_staging (b : Nat) (f : Band → Band) : (s.modBand b f).staging = s.staging := rfl
@[simp] theorem modBand_readyDone (b : Nat) (f : Band → Band) : (s.modBand b f).readyDone = s.readyDone := rfl
@[simp] theorem modBand_vaneRestarts (b : Nat) (f : Band → Band) : (s.modBand b f).vaneRestarts = s.vaneRestarts := rfl
@[simp] theorem modBand_handover (b : Nat) (f : Band → Band) : (s.modBand b f).handover = s.handover := rfl
@[simp] theorem modBand_arcWaits (b : Nat) (f : Band → Band) : (s.modBand b f).arcWaits = s.arcWaits := rfl
@[simp] theorem modBand_intStatus (b : Nat) (f : Band → Band) : (s.modBand b f).intStatus = s.intStatus := rfl
@[simp] theorem modBand_intEnable (b : Nat) (f : Band → Band) : (s.modBand b f).intEnable = s.intEnable := rfl
@[simp] theorem modBand_fatal (b : Nat) (f : Band → Band) : (s.modBand b f).fatal = s.fatal := rfl
@[simp] theorem modBand_time (b : Nat) (f : Band → Band) : (s.modBand b f).time = s.time := rfl
@[simp] theorem modBand_timeSeen (b : Nat) (f : Band → Band) : (s.modBand b f).timeSeen = s.timeSeen := rfl
@[simp] theorem modBand_timeLost (b : Nat) (f : Band → Band) : (s.modBand b f).timeLost = s.timeLost := rfl
@[simp] theorem modBand_timeShadow (b : Nat) (f : Band → Band) : (s.modBand b f).timeShadow = s.timeShadow := rfl
@[simp] theorem modBand_evq (b : Nat) (f : Band → Band) : (s.modBand b f).evq = s.evq := rfl
@[simp] theorem modBand_logm (b : Nat) (f : Band → Band) : (s.modBand b f).logm = s.logm := rfl
@[simp] theorem modBand_cfgLock (b : Nat) (f : Band → Band) : (s.modBand b f).cfgLock = s.cfgLock := rfl
@[simp] theorem modBand_trap (b : Nat) (f : Band → Band) : (s.modBand b f).trap = s.trap := rfl
@[simp] theorem modBand_tel (b : Nat) (f : Band → Band) : (s.modBand b f).tel = s.tel := rfl
@[simp] theorem modBand_ctlRdata (b : Nat) (f : Band → Band) : (s.modBand b f).ctlRdata = s.ctlRdata := rfl
@[simp] theorem modBand_mbx (b : Nat) (f : Band → Band) : (s.modBand b f).mbx = s.mbx := rfl
@[simp] theorem modBand_bells (b : Nat) (f : Band → Band) : (s.modBand b f).bells = s.bells := rfl
@[simp] theorem modBand_policy (b : Nat) (f : Band → Band) : (s.modBand b f).policy = s.policy := rfl
@[simp] theorem modBand_longOps (b : Nat) (f : Band → Band) : (s.modBand b f).longOps = s.longOps := rfl
@[simp] theorem modBand_loads (b : Nat) (f : Band → Band) : (s.modBand b f).loads = s.loads := rfl
@[simp] theorem modBand_slots (b : Nat) (f : Band → Band) : (s.modBand b f).slots = s.slots := rfl
@[simp] theorem modBand_chains (b : Nat) (f : Band → Band) : (s.modBand b f).chains = s.chains := rfl
@[simp] theorem modBand_nextVer (b : Nat) (f : Band → Band) : (s.modBand b f).nextVer = s.nextVer := rfl
@[simp] theorem modBand_streams (b : Nat) (f : Band → Band) : (s.modBand b f).streams = s.streams := rfl
@[simp] theorem modBand_intervals (b : Nat) (f : Band → Band) : (s.modBand b f).intervals = s.intervals := rfl
@[simp] theorem modBand_log (b : Nat) (f : Band → Band) : (s.modBand b f).log = s.log := rfl
@[simp] theorem modBand_arb (b : Nat) (f : Band → Band) : (s.modBand b f).arb = s.arb := rfl
@[simp] theorem modBand_taps (b : Nat) (f : Band → Band) : (s.modBand b f).taps = s.taps := rfl
@[simp] theorem modBand_tiles (b : Nat) (f : Band → Band) : (s.modBand b f).tiles = s.tiles := rfl
@[simp] theorem modBand_mgmtCorrected (b : Nat) (f : Band → Band) : (s.modBand b f).mgmtCorrected = s.mgmtCorrected := rfl
@[simp] theorem modBand_commandsTaken (b : Nat) (f : Band → Band) : (s.modBand b f).commandsTaken = s.commandsTaken := rfl
@[simp] theorem modBand_refusals (b : Nat) (f : Band → Band) : (s.modBand b f).refusals = s.refusals := rfl
@[simp] theorem modBand_books (b : Nat) (f : Band → Band) : (s.modBand b f).books = s.books := rfl
@[simp] theorem modBand_booksBad (b : Nat) (f : Band → Band) : (s.modBand b f).booksBad = s.booksBad := rfl
@[simp] theorem modBand_mgmtBlocked (b : Nat) (f : Band → Band) : (s.modBand b f).mgmtBlocked = s.mgmtBlocked := rfl
@[simp] theorem modBand_tap (b : Nat) (f : Band → Band) : (s.modBand b f).tap = s.tap := rfl
@[simp] theorem modBand_declaration (b : Nat) (f : Band → Band) : (s.modBand b f).declaration = s.declaration := rfl
@[simp] theorem modBand_ctlAck (b : Nat) (f : Band → Band) : (s.modBand b f).ctlAck = s.ctlAck := rfl

/-! ### setTile -/

@[simp] theorem setTile_pending (t : Nat) (x : Tile) : (s.setTile t x).pending = s.pending := rfl
@[simp] theorem setTile_porN (t : Nat) (x : Tile) : (s.setTile t x).porN = s.porN := rfl
@[simp] theorem setTile_mclk (t : Nat) (x : Tile) : (s.setTile t x).mclk = s.mclk := rfl
@[simp] theorem setTile_mgmtOut (t : Nat) (x : Tile) : (s.setTile t x).mgmtOut = s.mgmtOut := rfl
@[simp] theorem setTile_fclkOut (t : Nat) (x : Tile) : (s.setTile t x).fclkOut = s.fclkOut := rfl
@[simp] theorem setTile_tclkOut (t : Nat) (x : Tile) : (s.setTile t x).tclkOut = s.tclkOut := rfl
@[simp] theorem setTile_fresh (t : Nat) (x : Tile) : (s.setTile t x).fresh = s.fresh := rfl
@[simp] theorem setTile_fwVersion (t : Nat) (x : Tile) : (s.setTile t x).fwVersion = s.fwVersion := rfl
@[simp] theorem setTile_service (t : Nat) (x : Tile) : (s.setTile t x).service = s.service := rfl
@[simp] theorem setTile_cause (t : Nat) (x : Tile) : (s.setTile t x).cause = s.cause := rfl
@[simp] theorem setTile_slotB (t : Nat) (x : Tile) : (s.setTile t x).slotB = s.slotB := rfl
@[simp] theorem setTile_bootPhase (t : Nat) (x : Tile) : (s.setTile t x).bootPhase = s.bootPhase := rfl
@[simp] theorem setTile_keyHash (t : Nat) (x : Tile) : (s.setTile t x).keyHash = s.keyHash := rfl
@[simp] theorem setTile_keyArc (t : Nat) (x : Tile) : (s.setTile t x).keyArc = s.keyArc := rfl
@[simp] theorem setTile_keyValid (t : Nat) (x : Tile) : (s.setTile t x).keyValid = s.keyValid := rfl
@[simp] theorem setTile_bootBase (t : Nat) (x : Tile) : (s.setTile t x).bootBase = s.bootBase := rfl
@[simp] theorem setTile_arcReq (t : Nat) (x : Tile) : (s.setTile t x).arcReq = s.arcReq := rfl
@[simp] theorem setTile_imgA (t : Nat) (x : Tile) : (s.setTile t x).imgA = s.imgA := rfl
@[simp] theorem setTile_imgB (t : Nat) (x : Tile) : (s.setTile t x).imgB = s.imgB := rfl
@[simp] theorem setTile_staging (t : Nat) (x : Tile) : (s.setTile t x).staging = s.staging := rfl
@[simp] theorem setTile_readyDone (t : Nat) (x : Tile) : (s.setTile t x).readyDone = s.readyDone := rfl
@[simp] theorem setTile_vaneRestarts (t : Nat) (x : Tile) : (s.setTile t x).vaneRestarts = s.vaneRestarts := rfl
@[simp] theorem setTile_handover (t : Nat) (x : Tile) : (s.setTile t x).handover = s.handover := rfl
@[simp] theorem setTile_arcWaits (t : Nat) (x : Tile) : (s.setTile t x).arcWaits = s.arcWaits := rfl
@[simp] theorem setTile_intStatus (t : Nat) (x : Tile) : (s.setTile t x).intStatus = s.intStatus := rfl
@[simp] theorem setTile_intEnable (t : Nat) (x : Tile) : (s.setTile t x).intEnable = s.intEnable := rfl
@[simp] theorem setTile_fatal (t : Nat) (x : Tile) : (s.setTile t x).fatal = s.fatal := rfl
@[simp] theorem setTile_time (t : Nat) (x : Tile) : (s.setTile t x).time = s.time := rfl
@[simp] theorem setTile_timeSeen (t : Nat) (x : Tile) : (s.setTile t x).timeSeen = s.timeSeen := rfl
@[simp] theorem setTile_timeLost (t : Nat) (x : Tile) : (s.setTile t x).timeLost = s.timeLost := rfl
@[simp] theorem setTile_timeShadow (t : Nat) (x : Tile) : (s.setTile t x).timeShadow = s.timeShadow := rfl
@[simp] theorem setTile_evq (t : Nat) (x : Tile) : (s.setTile t x).evq = s.evq := rfl
@[simp] theorem setTile_logm (t : Nat) (x : Tile) : (s.setTile t x).logm = s.logm := rfl
@[simp] theorem setTile_cfgLock (t : Nat) (x : Tile) : (s.setTile t x).cfgLock = s.cfgLock := rfl
@[simp] theorem setTile_trap (t : Nat) (x : Tile) : (s.setTile t x).trap = s.trap := rfl
@[simp] theorem setTile_tel (t : Nat) (x : Tile) : (s.setTile t x).tel = s.tel := rfl
@[simp] theorem setTile_ctlRdata (t : Nat) (x : Tile) : (s.setTile t x).ctlRdata = s.ctlRdata := rfl
@[simp] theorem setTile_mbx (t : Nat) (x : Tile) : (s.setTile t x).mbx = s.mbx := rfl
@[simp] theorem setTile_bells (t : Nat) (x : Tile) : (s.setTile t x).bells = s.bells := rfl
@[simp] theorem setTile_policy (t : Nat) (x : Tile) : (s.setTile t x).policy = s.policy := rfl
@[simp] theorem setTile_longOps (t : Nat) (x : Tile) : (s.setTile t x).longOps = s.longOps := rfl
@[simp] theorem setTile_loads (t : Nat) (x : Tile) : (s.setTile t x).loads = s.loads := rfl
@[simp] theorem setTile_slots (t : Nat) (x : Tile) : (s.setTile t x).slots = s.slots := rfl
@[simp] theorem setTile_chains (t : Nat) (x : Tile) : (s.setTile t x).chains = s.chains := rfl
@[simp] theorem setTile_nextVer (t : Nat) (x : Tile) : (s.setTile t x).nextVer = s.nextVer := rfl
@[simp] theorem setTile_streams (t : Nat) (x : Tile) : (s.setTile t x).streams = s.streams := rfl
@[simp] theorem setTile_intervals (t : Nat) (x : Tile) : (s.setTile t x).intervals = s.intervals := rfl
@[simp] theorem setTile_log (t : Nat) (x : Tile) : (s.setTile t x).log = s.log := rfl
@[simp] theorem setTile_arb (t : Nat) (x : Tile) : (s.setTile t x).arb = s.arb := rfl
@[simp] theorem setTile_taps (t : Nat) (x : Tile) : (s.setTile t x).taps = s.taps := rfl
@[simp] theorem setTile_bands (t : Nat) (x : Tile) : (s.setTile t x).bands = s.bands := rfl
@[simp] theorem setTile_mgmtCorrected (t : Nat) (x : Tile) : (s.setTile t x).mgmtCorrected = s.mgmtCorrected := rfl
@[simp] theorem setTile_commandsTaken (t : Nat) (x : Tile) : (s.setTile t x).commandsTaken = s.commandsTaken := rfl
@[simp] theorem setTile_refusals (t : Nat) (x : Tile) : (s.setTile t x).refusals = s.refusals := rfl
@[simp] theorem setTile_books (t : Nat) (x : Tile) : (s.setTile t x).books = s.books := rfl
@[simp] theorem setTile_booksBad (t : Nat) (x : Tile) : (s.setTile t x).booksBad = s.booksBad := rfl
@[simp] theorem setTile_mgmtBlocked (t : Nat) (x : Tile) : (s.setTile t x).mgmtBlocked = s.mgmtBlocked := rfl
@[simp] theorem setTile_tap (t : Nat) (x : Tile) : (s.setTile t x).tap = s.tap := rfl
@[simp] theorem setTile_declaration (t : Nat) (x : Tile) : (s.setTile t x).declaration = s.declaration := rfl
@[simp] theorem setTile_ctlAck (t : Nat) (x : Tile) : (s.setTile t x).ctlAck = s.ctlAck := rfl

/-! ### modTile -/

@[simp] theorem modTile_pending (t : Nat) (f : Tile → Tile) : (s.modTile t f).pending = s.pending := rfl
@[simp] theorem modTile_porN (t : Nat) (f : Tile → Tile) : (s.modTile t f).porN = s.porN := rfl
@[simp] theorem modTile_mclk (t : Nat) (f : Tile → Tile) : (s.modTile t f).mclk = s.mclk := rfl
@[simp] theorem modTile_mgmtOut (t : Nat) (f : Tile → Tile) : (s.modTile t f).mgmtOut = s.mgmtOut := rfl
@[simp] theorem modTile_fclkOut (t : Nat) (f : Tile → Tile) : (s.modTile t f).fclkOut = s.fclkOut := rfl
@[simp] theorem modTile_tclkOut (t : Nat) (f : Tile → Tile) : (s.modTile t f).tclkOut = s.tclkOut := rfl
@[simp] theorem modTile_fresh (t : Nat) (f : Tile → Tile) : (s.modTile t f).fresh = s.fresh := rfl
@[simp] theorem modTile_fwVersion (t : Nat) (f : Tile → Tile) : (s.modTile t f).fwVersion = s.fwVersion := rfl
@[simp] theorem modTile_service (t : Nat) (f : Tile → Tile) : (s.modTile t f).service = s.service := rfl
@[simp] theorem modTile_cause (t : Nat) (f : Tile → Tile) : (s.modTile t f).cause = s.cause := rfl
@[simp] theorem modTile_slotB (t : Nat) (f : Tile → Tile) : (s.modTile t f).slotB = s.slotB := rfl
@[simp] theorem modTile_bootPhase (t : Nat) (f : Tile → Tile) : (s.modTile t f).bootPhase = s.bootPhase := rfl
@[simp] theorem modTile_keyHash (t : Nat) (f : Tile → Tile) : (s.modTile t f).keyHash = s.keyHash := rfl
@[simp] theorem modTile_keyArc (t : Nat) (f : Tile → Tile) : (s.modTile t f).keyArc = s.keyArc := rfl
@[simp] theorem modTile_keyValid (t : Nat) (f : Tile → Tile) : (s.modTile t f).keyValid = s.keyValid := rfl
@[simp] theorem modTile_bootBase (t : Nat) (f : Tile → Tile) : (s.modTile t f).bootBase = s.bootBase := rfl
@[simp] theorem modTile_arcReq (t : Nat) (f : Tile → Tile) : (s.modTile t f).arcReq = s.arcReq := rfl
@[simp] theorem modTile_imgA (t : Nat) (f : Tile → Tile) : (s.modTile t f).imgA = s.imgA := rfl
@[simp] theorem modTile_imgB (t : Nat) (f : Tile → Tile) : (s.modTile t f).imgB = s.imgB := rfl
@[simp] theorem modTile_staging (t : Nat) (f : Tile → Tile) : (s.modTile t f).staging = s.staging := rfl
@[simp] theorem modTile_readyDone (t : Nat) (f : Tile → Tile) : (s.modTile t f).readyDone = s.readyDone := rfl
@[simp] theorem modTile_vaneRestarts (t : Nat) (f : Tile → Tile) : (s.modTile t f).vaneRestarts = s.vaneRestarts := rfl
@[simp] theorem modTile_handover (t : Nat) (f : Tile → Tile) : (s.modTile t f).handover = s.handover := rfl
@[simp] theorem modTile_arcWaits (t : Nat) (f : Tile → Tile) : (s.modTile t f).arcWaits = s.arcWaits := rfl
@[simp] theorem modTile_intStatus (t : Nat) (f : Tile → Tile) : (s.modTile t f).intStatus = s.intStatus := rfl
@[simp] theorem modTile_intEnable (t : Nat) (f : Tile → Tile) : (s.modTile t f).intEnable = s.intEnable := rfl
@[simp] theorem modTile_fatal (t : Nat) (f : Tile → Tile) : (s.modTile t f).fatal = s.fatal := rfl
@[simp] theorem modTile_time (t : Nat) (f : Tile → Tile) : (s.modTile t f).time = s.time := rfl
@[simp] theorem modTile_timeSeen (t : Nat) (f : Tile → Tile) : (s.modTile t f).timeSeen = s.timeSeen := rfl
@[simp] theorem modTile_timeLost (t : Nat) (f : Tile → Tile) : (s.modTile t f).timeLost = s.timeLost := rfl
@[simp] theorem modTile_timeShadow (t : Nat) (f : Tile → Tile) : (s.modTile t f).timeShadow = s.timeShadow := rfl
@[simp] theorem modTile_evq (t : Nat) (f : Tile → Tile) : (s.modTile t f).evq = s.evq := rfl
@[simp] theorem modTile_logm (t : Nat) (f : Tile → Tile) : (s.modTile t f).logm = s.logm := rfl
@[simp] theorem modTile_cfgLock (t : Nat) (f : Tile → Tile) : (s.modTile t f).cfgLock = s.cfgLock := rfl
@[simp] theorem modTile_trap (t : Nat) (f : Tile → Tile) : (s.modTile t f).trap = s.trap := rfl
@[simp] theorem modTile_tel (t : Nat) (f : Tile → Tile) : (s.modTile t f).tel = s.tel := rfl
@[simp] theorem modTile_ctlRdata (t : Nat) (f : Tile → Tile) : (s.modTile t f).ctlRdata = s.ctlRdata := rfl
@[simp] theorem modTile_mbx (t : Nat) (f : Tile → Tile) : (s.modTile t f).mbx = s.mbx := rfl
@[simp] theorem modTile_bells (t : Nat) (f : Tile → Tile) : (s.modTile t f).bells = s.bells := rfl
@[simp] theorem modTile_policy (t : Nat) (f : Tile → Tile) : (s.modTile t f).policy = s.policy := rfl
@[simp] theorem modTile_longOps (t : Nat) (f : Tile → Tile) : (s.modTile t f).longOps = s.longOps := rfl
@[simp] theorem modTile_loads (t : Nat) (f : Tile → Tile) : (s.modTile t f).loads = s.loads := rfl
@[simp] theorem modTile_slots (t : Nat) (f : Tile → Tile) : (s.modTile t f).slots = s.slots := rfl
@[simp] theorem modTile_chains (t : Nat) (f : Tile → Tile) : (s.modTile t f).chains = s.chains := rfl
@[simp] theorem modTile_nextVer (t : Nat) (f : Tile → Tile) : (s.modTile t f).nextVer = s.nextVer := rfl
@[simp] theorem modTile_streams (t : Nat) (f : Tile → Tile) : (s.modTile t f).streams = s.streams := rfl
@[simp] theorem modTile_intervals (t : Nat) (f : Tile → Tile) : (s.modTile t f).intervals = s.intervals := rfl
@[simp] theorem modTile_log (t : Nat) (f : Tile → Tile) : (s.modTile t f).log = s.log := rfl
@[simp] theorem modTile_arb (t : Nat) (f : Tile → Tile) : (s.modTile t f).arb = s.arb := rfl
@[simp] theorem modTile_taps (t : Nat) (f : Tile → Tile) : (s.modTile t f).taps = s.taps := rfl
@[simp] theorem modTile_bands (t : Nat) (f : Tile → Tile) : (s.modTile t f).bands = s.bands := rfl
@[simp] theorem modTile_mgmtCorrected (t : Nat) (f : Tile → Tile) : (s.modTile t f).mgmtCorrected = s.mgmtCorrected := rfl
@[simp] theorem modTile_commandsTaken (t : Nat) (f : Tile → Tile) : (s.modTile t f).commandsTaken = s.commandsTaken := rfl
@[simp] theorem modTile_refusals (t : Nat) (f : Tile → Tile) : (s.modTile t f).refusals = s.refusals := rfl
@[simp] theorem modTile_books (t : Nat) (f : Tile → Tile) : (s.modTile t f).books = s.books := rfl
@[simp] theorem modTile_booksBad (t : Nat) (f : Tile → Tile) : (s.modTile t f).booksBad = s.booksBad := rfl
@[simp] theorem modTile_mgmtBlocked (t : Nat) (f : Tile → Tile) : (s.modTile t f).mgmtBlocked = s.mgmtBlocked := rfl
@[simp] theorem modTile_tap (t : Nat) (f : Tile → Tile) : (s.modTile t f).tap = s.tap := rfl
@[simp] theorem modTile_declaration (t : Nat) (f : Tile → Tile) : (s.modTile t f).declaration = s.declaration := rfl
@[simp] theorem modTile_ctlAck (t : Nat) (f : Tile → Tile) : (s.modTile t f).ctlAck = s.ctlAck := rfl

/-! ### setMailbox -/

@[simp] theorem setMailbox_pending (m : Nat) (x : Mailbox) : (s.setMailbox m x).pending = s.pending := rfl
@[simp] theorem setMailbox_porN (m : Nat) (x : Mailbox) : (s.setMailbox m x).porN = s.porN := rfl
@[simp] theorem setMailbox_mclk (m : Nat) (x : Mailbox) : (s.setMailbox m x).mclk = s.mclk := rfl
@[simp] theorem setMailbox_mgmtOut (m : Nat) (x : Mailbox) : (s.setMailbox m x).mgmtOut = s.mgmtOut := rfl
@[simp] theorem setMailbox_fclkOut (m : Nat) (x : Mailbox) : (s.setMailbox m x).fclkOut = s.fclkOut := rfl
@[simp] theorem setMailbox_tclkOut (m : Nat) (x : Mailbox) : (s.setMailbox m x).tclkOut = s.tclkOut := rfl
@[simp] theorem setMailbox_fresh (m : Nat) (x : Mailbox) : (s.setMailbox m x).fresh = s.fresh := rfl
@[simp] theorem setMailbox_fwVersion (m : Nat) (x : Mailbox) : (s.setMailbox m x).fwVersion = s.fwVersion := rfl
@[simp] theorem setMailbox_service (m : Nat) (x : Mailbox) : (s.setMailbox m x).service = s.service := rfl
@[simp] theorem setMailbox_cause (m : Nat) (x : Mailbox) : (s.setMailbox m x).cause = s.cause := rfl
@[simp] theorem setMailbox_slotB (m : Nat) (x : Mailbox) : (s.setMailbox m x).slotB = s.slotB := rfl
@[simp] theorem setMailbox_bootPhase (m : Nat) (x : Mailbox) : (s.setMailbox m x).bootPhase = s.bootPhase := rfl
@[simp] theorem setMailbox_keyHash (m : Nat) (x : Mailbox) : (s.setMailbox m x).keyHash = s.keyHash := rfl
@[simp] theorem setMailbox_keyArc (m : Nat) (x : Mailbox) : (s.setMailbox m x).keyArc = s.keyArc := rfl
@[simp] theorem setMailbox_keyValid (m : Nat) (x : Mailbox) : (s.setMailbox m x).keyValid = s.keyValid := rfl
@[simp] theorem setMailbox_bootBase (m : Nat) (x : Mailbox) : (s.setMailbox m x).bootBase = s.bootBase := rfl
@[simp] theorem setMailbox_arcReq (m : Nat) (x : Mailbox) : (s.setMailbox m x).arcReq = s.arcReq := rfl
@[simp] theorem setMailbox_imgA (m : Nat) (x : Mailbox) : (s.setMailbox m x).imgA = s.imgA := rfl
@[simp] theorem setMailbox_imgB (m : Nat) (x : Mailbox) : (s.setMailbox m x).imgB = s.imgB := rfl
@[simp] theorem setMailbox_staging (m : Nat) (x : Mailbox) : (s.setMailbox m x).staging = s.staging := rfl
@[simp] theorem setMailbox_readyDone (m : Nat) (x : Mailbox) : (s.setMailbox m x).readyDone = s.readyDone := rfl
@[simp] theorem setMailbox_vaneRestarts (m : Nat) (x : Mailbox) : (s.setMailbox m x).vaneRestarts = s.vaneRestarts := rfl
@[simp] theorem setMailbox_handover (m : Nat) (x : Mailbox) : (s.setMailbox m x).handover = s.handover := rfl
@[simp] theorem setMailbox_arcWaits (m : Nat) (x : Mailbox) : (s.setMailbox m x).arcWaits = s.arcWaits := rfl
@[simp] theorem setMailbox_intStatus (m : Nat) (x : Mailbox) : (s.setMailbox m x).intStatus = s.intStatus := rfl
@[simp] theorem setMailbox_intEnable (m : Nat) (x : Mailbox) : (s.setMailbox m x).intEnable = s.intEnable := rfl
@[simp] theorem setMailbox_fatal (m : Nat) (x : Mailbox) : (s.setMailbox m x).fatal = s.fatal := rfl
@[simp] theorem setMailbox_time (m : Nat) (x : Mailbox) : (s.setMailbox m x).time = s.time := rfl
@[simp] theorem setMailbox_timeSeen (m : Nat) (x : Mailbox) : (s.setMailbox m x).timeSeen = s.timeSeen := rfl
@[simp] theorem setMailbox_timeLost (m : Nat) (x : Mailbox) : (s.setMailbox m x).timeLost = s.timeLost := rfl
@[simp] theorem setMailbox_timeShadow (m : Nat) (x : Mailbox) : (s.setMailbox m x).timeShadow = s.timeShadow := rfl
@[simp] theorem setMailbox_evq (m : Nat) (x : Mailbox) : (s.setMailbox m x).evq = s.evq := rfl
@[simp] theorem setMailbox_logm (m : Nat) (x : Mailbox) : (s.setMailbox m x).logm = s.logm := rfl
@[simp] theorem setMailbox_cfgLock (m : Nat) (x : Mailbox) : (s.setMailbox m x).cfgLock = s.cfgLock := rfl
@[simp] theorem setMailbox_trap (m : Nat) (x : Mailbox) : (s.setMailbox m x).trap = s.trap := rfl
@[simp] theorem setMailbox_tel (m : Nat) (x : Mailbox) : (s.setMailbox m x).tel = s.tel := rfl
@[simp] theorem setMailbox_ctlRdata (m : Nat) (x : Mailbox) : (s.setMailbox m x).ctlRdata = s.ctlRdata := rfl
@[simp] theorem setMailbox_bells (m : Nat) (x : Mailbox) : (s.setMailbox m x).bells = s.bells := rfl
@[simp] theorem setMailbox_policy (m : Nat) (x : Mailbox) : (s.setMailbox m x).policy = s.policy := rfl
@[simp] theorem setMailbox_longOps (m : Nat) (x : Mailbox) : (s.setMailbox m x).longOps = s.longOps := rfl
@[simp] theorem setMailbox_loads (m : Nat) (x : Mailbox) : (s.setMailbox m x).loads = s.loads := rfl
@[simp] theorem setMailbox_slots (m : Nat) (x : Mailbox) : (s.setMailbox m x).slots = s.slots := rfl
@[simp] theorem setMailbox_chains (m : Nat) (x : Mailbox) : (s.setMailbox m x).chains = s.chains := rfl
@[simp] theorem setMailbox_nextVer (m : Nat) (x : Mailbox) : (s.setMailbox m x).nextVer = s.nextVer := rfl
@[simp] theorem setMailbox_streams (m : Nat) (x : Mailbox) : (s.setMailbox m x).streams = s.streams := rfl
@[simp] theorem setMailbox_intervals (m : Nat) (x : Mailbox) : (s.setMailbox m x).intervals = s.intervals := rfl
@[simp] theorem setMailbox_log (m : Nat) (x : Mailbox) : (s.setMailbox m x).log = s.log := rfl
@[simp] theorem setMailbox_arb (m : Nat) (x : Mailbox) : (s.setMailbox m x).arb = s.arb := rfl
@[simp] theorem setMailbox_taps (m : Nat) (x : Mailbox) : (s.setMailbox m x).taps = s.taps := rfl
@[simp] theorem setMailbox_bands (m : Nat) (x : Mailbox) : (s.setMailbox m x).bands = s.bands := rfl
@[simp] theorem setMailbox_tiles (m : Nat) (x : Mailbox) : (s.setMailbox m x).tiles = s.tiles := rfl
@[simp] theorem setMailbox_mgmtCorrected (m : Nat) (x : Mailbox) : (s.setMailbox m x).mgmtCorrected = s.mgmtCorrected := rfl
@[simp] theorem setMailbox_commandsTaken (m : Nat) (x : Mailbox) : (s.setMailbox m x).commandsTaken = s.commandsTaken := rfl
@[simp] theorem setMailbox_refusals (m : Nat) (x : Mailbox) : (s.setMailbox m x).refusals = s.refusals := rfl
@[simp] theorem setMailbox_books (m : Nat) (x : Mailbox) : (s.setMailbox m x).books = s.books := rfl
@[simp] theorem setMailbox_booksBad (m : Nat) (x : Mailbox) : (s.setMailbox m x).booksBad = s.booksBad := rfl
@[simp] theorem setMailbox_mgmtBlocked (m : Nat) (x : Mailbox) : (s.setMailbox m x).mgmtBlocked = s.mgmtBlocked := rfl
@[simp] theorem setMailbox_tap (m : Nat) (x : Mailbox) : (s.setMailbox m x).tap = s.tap := rfl
@[simp] theorem setMailbox_declaration (m : Nat) (x : Mailbox) : (s.setMailbox m x).declaration = s.declaration := rfl
@[simp] theorem setMailbox_ctlAck (m : Nat) (x : Mailbox) : (s.setMailbox m x).ctlAck = s.ctlAck := rfl

/-! ### modStream -/

@[simp] theorem modStream_pending (n : Nat) (f : Stream → Stream) : (s.modStream n f).pending = s.pending := rfl
@[simp] theorem modStream_porN (n : Nat) (f : Stream → Stream) : (s.modStream n f).porN = s.porN := rfl
@[simp] theorem modStream_mclk (n : Nat) (f : Stream → Stream) : (s.modStream n f).mclk = s.mclk := rfl
@[simp] theorem modStream_mgmtOut (n : Nat) (f : Stream → Stream) : (s.modStream n f).mgmtOut = s.mgmtOut := rfl
@[simp] theorem modStream_fclkOut (n : Nat) (f : Stream → Stream) : (s.modStream n f).fclkOut = s.fclkOut := rfl
@[simp] theorem modStream_tclkOut (n : Nat) (f : Stream → Stream) : (s.modStream n f).tclkOut = s.tclkOut := rfl
@[simp] theorem modStream_fresh (n : Nat) (f : Stream → Stream) : (s.modStream n f).fresh = s.fresh := rfl
@[simp] theorem modStream_fwVersion (n : Nat) (f : Stream → Stream) : (s.modStream n f).fwVersion = s.fwVersion := rfl
@[simp] theorem modStream_service (n : Nat) (f : Stream → Stream) : (s.modStream n f).service = s.service := rfl
@[simp] theorem modStream_cause (n : Nat) (f : Stream → Stream) : (s.modStream n f).cause = s.cause := rfl
@[simp] theorem modStream_slotB (n : Nat) (f : Stream → Stream) : (s.modStream n f).slotB = s.slotB := rfl
@[simp] theorem modStream_bootPhase (n : Nat) (f : Stream → Stream) : (s.modStream n f).bootPhase = s.bootPhase := rfl
@[simp] theorem modStream_keyHash (n : Nat) (f : Stream → Stream) : (s.modStream n f).keyHash = s.keyHash := rfl
@[simp] theorem modStream_keyArc (n : Nat) (f : Stream → Stream) : (s.modStream n f).keyArc = s.keyArc := rfl
@[simp] theorem modStream_keyValid (n : Nat) (f : Stream → Stream) : (s.modStream n f).keyValid = s.keyValid := rfl
@[simp] theorem modStream_bootBase (n : Nat) (f : Stream → Stream) : (s.modStream n f).bootBase = s.bootBase := rfl
@[simp] theorem modStream_arcReq (n : Nat) (f : Stream → Stream) : (s.modStream n f).arcReq = s.arcReq := rfl
@[simp] theorem modStream_imgA (n : Nat) (f : Stream → Stream) : (s.modStream n f).imgA = s.imgA := rfl
@[simp] theorem modStream_imgB (n : Nat) (f : Stream → Stream) : (s.modStream n f).imgB = s.imgB := rfl
@[simp] theorem modStream_staging (n : Nat) (f : Stream → Stream) : (s.modStream n f).staging = s.staging := rfl
@[simp] theorem modStream_readyDone (n : Nat) (f : Stream → Stream) : (s.modStream n f).readyDone = s.readyDone := rfl
@[simp] theorem modStream_vaneRestarts (n : Nat) (f : Stream → Stream) : (s.modStream n f).vaneRestarts = s.vaneRestarts := rfl
@[simp] theorem modStream_handover (n : Nat) (f : Stream → Stream) : (s.modStream n f).handover = s.handover := rfl
@[simp] theorem modStream_arcWaits (n : Nat) (f : Stream → Stream) : (s.modStream n f).arcWaits = s.arcWaits := rfl
@[simp] theorem modStream_intStatus (n : Nat) (f : Stream → Stream) : (s.modStream n f).intStatus = s.intStatus := rfl
@[simp] theorem modStream_intEnable (n : Nat) (f : Stream → Stream) : (s.modStream n f).intEnable = s.intEnable := rfl
@[simp] theorem modStream_fatal (n : Nat) (f : Stream → Stream) : (s.modStream n f).fatal = s.fatal := rfl
@[simp] theorem modStream_time (n : Nat) (f : Stream → Stream) : (s.modStream n f).time = s.time := rfl
@[simp] theorem modStream_timeSeen (n : Nat) (f : Stream → Stream) : (s.modStream n f).timeSeen = s.timeSeen := rfl
@[simp] theorem modStream_timeLost (n : Nat) (f : Stream → Stream) : (s.modStream n f).timeLost = s.timeLost := rfl
@[simp] theorem modStream_timeShadow (n : Nat) (f : Stream → Stream) : (s.modStream n f).timeShadow = s.timeShadow := rfl
@[simp] theorem modStream_evq (n : Nat) (f : Stream → Stream) : (s.modStream n f).evq = s.evq := rfl
@[simp] theorem modStream_logm (n : Nat) (f : Stream → Stream) : (s.modStream n f).logm = s.logm := rfl
@[simp] theorem modStream_cfgLock (n : Nat) (f : Stream → Stream) : (s.modStream n f).cfgLock = s.cfgLock := rfl
@[simp] theorem modStream_trap (n : Nat) (f : Stream → Stream) : (s.modStream n f).trap = s.trap := rfl
@[simp] theorem modStream_tel (n : Nat) (f : Stream → Stream) : (s.modStream n f).tel = s.tel := rfl
@[simp] theorem modStream_ctlRdata (n : Nat) (f : Stream → Stream) : (s.modStream n f).ctlRdata = s.ctlRdata := rfl
@[simp] theorem modStream_mbx (n : Nat) (f : Stream → Stream) : (s.modStream n f).mbx = s.mbx := rfl
@[simp] theorem modStream_bells (n : Nat) (f : Stream → Stream) : (s.modStream n f).bells = s.bells := rfl
@[simp] theorem modStream_policy (n : Nat) (f : Stream → Stream) : (s.modStream n f).policy = s.policy := rfl
@[simp] theorem modStream_longOps (n : Nat) (f : Stream → Stream) : (s.modStream n f).longOps = s.longOps := rfl
@[simp] theorem modStream_loads (n : Nat) (f : Stream → Stream) : (s.modStream n f).loads = s.loads := rfl
@[simp] theorem modStream_slots (n : Nat) (f : Stream → Stream) : (s.modStream n f).slots = s.slots := rfl
@[simp] theorem modStream_chains (n : Nat) (f : Stream → Stream) : (s.modStream n f).chains = s.chains := rfl
@[simp] theorem modStream_nextVer (n : Nat) (f : Stream → Stream) : (s.modStream n f).nextVer = s.nextVer := rfl
@[simp] theorem modStream_intervals (n : Nat) (f : Stream → Stream) : (s.modStream n f).intervals = s.intervals := rfl
@[simp] theorem modStream_log (n : Nat) (f : Stream → Stream) : (s.modStream n f).log = s.log := rfl
@[simp] theorem modStream_arb (n : Nat) (f : Stream → Stream) : (s.modStream n f).arb = s.arb := rfl
@[simp] theorem modStream_taps (n : Nat) (f : Stream → Stream) : (s.modStream n f).taps = s.taps := rfl
@[simp] theorem modStream_bands (n : Nat) (f : Stream → Stream) : (s.modStream n f).bands = s.bands := rfl
@[simp] theorem modStream_tiles (n : Nat) (f : Stream → Stream) : (s.modStream n f).tiles = s.tiles := rfl
@[simp] theorem modStream_mgmtCorrected (n : Nat) (f : Stream → Stream) : (s.modStream n f).mgmtCorrected = s.mgmtCorrected := rfl
@[simp] theorem modStream_commandsTaken (n : Nat) (f : Stream → Stream) : (s.modStream n f).commandsTaken = s.commandsTaken := rfl
@[simp] theorem modStream_refusals (n : Nat) (f : Stream → Stream) : (s.modStream n f).refusals = s.refusals := rfl
@[simp] theorem modStream_books (n : Nat) (f : Stream → Stream) : (s.modStream n f).books = s.books := rfl
@[simp] theorem modStream_booksBad (n : Nat) (f : Stream → Stream) : (s.modStream n f).booksBad = s.booksBad := rfl
@[simp] theorem modStream_mgmtBlocked (n : Nat) (f : Stream → Stream) : (s.modStream n f).mgmtBlocked = s.mgmtBlocked := rfl
@[simp] theorem modStream_tap (n : Nat) (f : Stream → Stream) : (s.modStream n f).tap = s.tap := rfl
@[simp] theorem modStream_declaration (n : Nat) (f : Stream → Stream) : (s.modStream n f).declaration = s.declaration := rfl
@[simp] theorem modStream_ctlAck (n : Nat) (f : Stream → Stream) : (s.modStream n f).ctlAck = s.ctlAck := rfl

/-! ### dropStream -/

@[simp] theorem dropStream_pending (n : Nat) : (s.dropStream n).pending = s.pending := rfl
@[simp] theorem dropStream_porN (n : Nat) : (s.dropStream n).porN = s.porN := rfl
@[simp] theorem dropStream_mclk (n : Nat) : (s.dropStream n).mclk = s.mclk := rfl
@[simp] theorem dropStream_mgmtOut (n : Nat) : (s.dropStream n).mgmtOut = s.mgmtOut := rfl
@[simp] theorem dropStream_fclkOut (n : Nat) : (s.dropStream n).fclkOut = s.fclkOut := rfl
@[simp] theorem dropStream_tclkOut (n : Nat) : (s.dropStream n).tclkOut = s.tclkOut := rfl
@[simp] theorem dropStream_fresh (n : Nat) : (s.dropStream n).fresh = s.fresh := rfl
@[simp] theorem dropStream_fwVersion (n : Nat) : (s.dropStream n).fwVersion = s.fwVersion := rfl
@[simp] theorem dropStream_service (n : Nat) : (s.dropStream n).service = s.service := rfl
@[simp] theorem dropStream_cause (n : Nat) : (s.dropStream n).cause = s.cause := rfl
@[simp] theorem dropStream_slotB (n : Nat) : (s.dropStream n).slotB = s.slotB := rfl
@[simp] theorem dropStream_bootPhase (n : Nat) : (s.dropStream n).bootPhase = s.bootPhase := rfl
@[simp] theorem dropStream_keyHash (n : Nat) : (s.dropStream n).keyHash = s.keyHash := rfl
@[simp] theorem dropStream_keyArc (n : Nat) : (s.dropStream n).keyArc = s.keyArc := rfl
@[simp] theorem dropStream_keyValid (n : Nat) : (s.dropStream n).keyValid = s.keyValid := rfl
@[simp] theorem dropStream_bootBase (n : Nat) : (s.dropStream n).bootBase = s.bootBase := rfl
@[simp] theorem dropStream_arcReq (n : Nat) : (s.dropStream n).arcReq = s.arcReq := rfl
@[simp] theorem dropStream_imgA (n : Nat) : (s.dropStream n).imgA = s.imgA := rfl
@[simp] theorem dropStream_imgB (n : Nat) : (s.dropStream n).imgB = s.imgB := rfl
@[simp] theorem dropStream_staging (n : Nat) : (s.dropStream n).staging = s.staging := rfl
@[simp] theorem dropStream_readyDone (n : Nat) : (s.dropStream n).readyDone = s.readyDone := rfl
@[simp] theorem dropStream_vaneRestarts (n : Nat) : (s.dropStream n).vaneRestarts = s.vaneRestarts := rfl
@[simp] theorem dropStream_handover (n : Nat) : (s.dropStream n).handover = s.handover := rfl
@[simp] theorem dropStream_arcWaits (n : Nat) : (s.dropStream n).arcWaits = s.arcWaits := rfl
@[simp] theorem dropStream_intStatus (n : Nat) : (s.dropStream n).intStatus = s.intStatus := rfl
@[simp] theorem dropStream_intEnable (n : Nat) : (s.dropStream n).intEnable = s.intEnable := rfl
@[simp] theorem dropStream_fatal (n : Nat) : (s.dropStream n).fatal = s.fatal := rfl
@[simp] theorem dropStream_time (n : Nat) : (s.dropStream n).time = s.time := rfl
@[simp] theorem dropStream_timeSeen (n : Nat) : (s.dropStream n).timeSeen = s.timeSeen := rfl
@[simp] theorem dropStream_timeLost (n : Nat) : (s.dropStream n).timeLost = s.timeLost := rfl
@[simp] theorem dropStream_timeShadow (n : Nat) : (s.dropStream n).timeShadow = s.timeShadow := rfl
@[simp] theorem dropStream_evq (n : Nat) : (s.dropStream n).evq = s.evq := rfl
@[simp] theorem dropStream_logm (n : Nat) : (s.dropStream n).logm = s.logm := rfl
@[simp] theorem dropStream_cfgLock (n : Nat) : (s.dropStream n).cfgLock = s.cfgLock := rfl
@[simp] theorem dropStream_trap (n : Nat) : (s.dropStream n).trap = s.trap := rfl
@[simp] theorem dropStream_tel (n : Nat) : (s.dropStream n).tel = s.tel := rfl
@[simp] theorem dropStream_ctlRdata (n : Nat) : (s.dropStream n).ctlRdata = s.ctlRdata := rfl
@[simp] theorem dropStream_mbx (n : Nat) : (s.dropStream n).mbx = s.mbx := rfl
@[simp] theorem dropStream_bells (n : Nat) : (s.dropStream n).bells = s.bells := rfl
@[simp] theorem dropStream_policy (n : Nat) : (s.dropStream n).policy = s.policy := rfl
@[simp] theorem dropStream_longOps (n : Nat) : (s.dropStream n).longOps = s.longOps := rfl
@[simp] theorem dropStream_loads (n : Nat) : (s.dropStream n).loads = s.loads := rfl
@[simp] theorem dropStream_slots (n : Nat) : (s.dropStream n).slots = s.slots := rfl
@[simp] theorem dropStream_chains (n : Nat) : (s.dropStream n).chains = s.chains := rfl
@[simp] theorem dropStream_nextVer (n : Nat) : (s.dropStream n).nextVer = s.nextVer := rfl
@[simp] theorem dropStream_intervals (n : Nat) : (s.dropStream n).intervals = s.intervals := rfl
@[simp] theorem dropStream_log (n : Nat) : (s.dropStream n).log = s.log := rfl
@[simp] theorem dropStream_arb (n : Nat) : (s.dropStream n).arb = s.arb := rfl
@[simp] theorem dropStream_taps (n : Nat) : (s.dropStream n).taps = s.taps := rfl
@[simp] theorem dropStream_bands (n : Nat) : (s.dropStream n).bands = s.bands := rfl
@[simp] theorem dropStream_tiles (n : Nat) : (s.dropStream n).tiles = s.tiles := rfl
@[simp] theorem dropStream_mgmtCorrected (n : Nat) : (s.dropStream n).mgmtCorrected = s.mgmtCorrected := rfl
@[simp] theorem dropStream_commandsTaken (n : Nat) : (s.dropStream n).commandsTaken = s.commandsTaken := rfl
@[simp] theorem dropStream_refusals (n : Nat) : (s.dropStream n).refusals = s.refusals := rfl
@[simp] theorem dropStream_books (n : Nat) : (s.dropStream n).books = s.books := rfl
@[simp] theorem dropStream_booksBad (n : Nat) : (s.dropStream n).booksBad = s.booksBad := rfl
@[simp] theorem dropStream_mgmtBlocked (n : Nat) : (s.dropStream n).mgmtBlocked = s.mgmtBlocked := rfl
@[simp] theorem dropStream_tap (n : Nat) : (s.dropStream n).tap = s.tap := rfl
@[simp] theorem dropStream_declaration (n : Nat) : (s.dropStream n).declaration = s.declaration := rfl
@[simp] theorem dropStream_ctlAck (n : Nat) : (s.dropStream n).ctlAck = s.ctlAck := rfl

/-! ### setInt -/

@[simp] theorem setInt_pending (k : Nat) : (s.setInt k).pending = s.pending := rfl
@[simp] theorem setInt_porN (k : Nat) : (s.setInt k).porN = s.porN := rfl
@[simp] theorem setInt_mclk (k : Nat) : (s.setInt k).mclk = s.mclk := rfl
@[simp] theorem setInt_mgmtOut (k : Nat) : (s.setInt k).mgmtOut = s.mgmtOut := rfl
@[simp] theorem setInt_fclkOut (k : Nat) : (s.setInt k).fclkOut = s.fclkOut := rfl
@[simp] theorem setInt_tclkOut (k : Nat) : (s.setInt k).tclkOut = s.tclkOut := rfl
@[simp] theorem setInt_fresh (k : Nat) : (s.setInt k).fresh = s.fresh := rfl
@[simp] theorem setInt_fwVersion (k : Nat) : (s.setInt k).fwVersion = s.fwVersion := rfl
@[simp] theorem setInt_service (k : Nat) : (s.setInt k).service = s.service := rfl
@[simp] theorem setInt_cause (k : Nat) : (s.setInt k).cause = s.cause := rfl
@[simp] theorem setInt_slotB (k : Nat) : (s.setInt k).slotB = s.slotB := rfl
@[simp] theorem setInt_bootPhase (k : Nat) : (s.setInt k).bootPhase = s.bootPhase := rfl
@[simp] theorem setInt_keyHash (k : Nat) : (s.setInt k).keyHash = s.keyHash := rfl
@[simp] theorem setInt_keyArc (k : Nat) : (s.setInt k).keyArc = s.keyArc := rfl
@[simp] theorem setInt_keyValid (k : Nat) : (s.setInt k).keyValid = s.keyValid := rfl
@[simp] theorem setInt_bootBase (k : Nat) : (s.setInt k).bootBase = s.bootBase := rfl
@[simp] theorem setInt_arcReq (k : Nat) : (s.setInt k).arcReq = s.arcReq := rfl
@[simp] theorem setInt_imgA (k : Nat) : (s.setInt k).imgA = s.imgA := rfl
@[simp] theorem setInt_imgB (k : Nat) : (s.setInt k).imgB = s.imgB := rfl
@[simp] theorem setInt_staging (k : Nat) : (s.setInt k).staging = s.staging := rfl
@[simp] theorem setInt_readyDone (k : Nat) : (s.setInt k).readyDone = s.readyDone := rfl
@[simp] theorem setInt_vaneRestarts (k : Nat) : (s.setInt k).vaneRestarts = s.vaneRestarts := rfl
@[simp] theorem setInt_handover (k : Nat) : (s.setInt k).handover = s.handover := rfl
@[simp] theorem setInt_arcWaits (k : Nat) : (s.setInt k).arcWaits = s.arcWaits := rfl
@[simp] theorem setInt_intEnable (k : Nat) : (s.setInt k).intEnable = s.intEnable := rfl
@[simp] theorem setInt_fatal (k : Nat) : (s.setInt k).fatal = s.fatal := rfl
@[simp] theorem setInt_time (k : Nat) : (s.setInt k).time = s.time := rfl
@[simp] theorem setInt_timeSeen (k : Nat) : (s.setInt k).timeSeen = s.timeSeen := rfl
@[simp] theorem setInt_timeLost (k : Nat) : (s.setInt k).timeLost = s.timeLost := rfl
@[simp] theorem setInt_timeShadow (k : Nat) : (s.setInt k).timeShadow = s.timeShadow := rfl
@[simp] theorem setInt_evq (k : Nat) : (s.setInt k).evq = s.evq := rfl
@[simp] theorem setInt_logm (k : Nat) : (s.setInt k).logm = s.logm := rfl
@[simp] theorem setInt_cfgLock (k : Nat) : (s.setInt k).cfgLock = s.cfgLock := rfl
@[simp] theorem setInt_trap (k : Nat) : (s.setInt k).trap = s.trap := rfl
@[simp] theorem setInt_tel (k : Nat) : (s.setInt k).tel = s.tel := rfl
@[simp] theorem setInt_ctlRdata (k : Nat) : (s.setInt k).ctlRdata = s.ctlRdata := rfl
@[simp] theorem setInt_mbx (k : Nat) : (s.setInt k).mbx = s.mbx := rfl
@[simp] theorem setInt_bells (k : Nat) : (s.setInt k).bells = s.bells := rfl
@[simp] theorem setInt_policy (k : Nat) : (s.setInt k).policy = s.policy := rfl
@[simp] theorem setInt_longOps (k : Nat) : (s.setInt k).longOps = s.longOps := rfl
@[simp] theorem setInt_loads (k : Nat) : (s.setInt k).loads = s.loads := rfl
@[simp] theorem setInt_slots (k : Nat) : (s.setInt k).slots = s.slots := rfl
@[simp] theorem setInt_chains (k : Nat) : (s.setInt k).chains = s.chains := rfl
@[simp] theorem setInt_nextVer (k : Nat) : (s.setInt k).nextVer = s.nextVer := rfl
@[simp] theorem setInt_streams (k : Nat) : (s.setInt k).streams = s.streams := rfl
@[simp] theorem setInt_intervals (k : Nat) : (s.setInt k).intervals = s.intervals := rfl
@[simp] theorem setInt_log (k : Nat) : (s.setInt k).log = s.log := rfl
@[simp] theorem setInt_arb (k : Nat) : (s.setInt k).arb = s.arb := rfl
@[simp] theorem setInt_taps (k : Nat) : (s.setInt k).taps = s.taps := rfl
@[simp] theorem setInt_bands (k : Nat) : (s.setInt k).bands = s.bands := rfl
@[simp] theorem setInt_tiles (k : Nat) : (s.setInt k).tiles = s.tiles := rfl
@[simp] theorem setInt_mgmtCorrected (k : Nat) : (s.setInt k).mgmtCorrected = s.mgmtCorrected := rfl
@[simp] theorem setInt_commandsTaken (k : Nat) : (s.setInt k).commandsTaken = s.commandsTaken := rfl
@[simp] theorem setInt_refusals (k : Nat) : (s.setInt k).refusals = s.refusals := rfl
@[simp] theorem setInt_books (k : Nat) : (s.setInt k).books = s.books := rfl
@[simp] theorem setInt_booksBad (k : Nat) : (s.setInt k).booksBad = s.booksBad := rfl
@[simp] theorem setInt_mgmtBlocked (k : Nat) : (s.setInt k).mgmtBlocked = s.mgmtBlocked := rfl
@[simp] theorem setInt_tap (k : Nat) : (s.setInt k).tap = s.tap := rfl
@[simp] theorem setInt_declaration (k : Nat) : (s.setInt k).declaration = s.declaration := rfl
@[simp] theorem setInt_ctlAck (k : Nat) : (s.setInt k).ctlAck = s.ctlAck := rfl

/-! ### setFatal -/

@[simp] theorem setFatal_pending (k : Nat) : (s.setFatal k).pending = s.pending := rfl
@[simp] theorem setFatal_porN (k : Nat) : (s.setFatal k).porN = s.porN := rfl
@[simp] theorem setFatal_mclk (k : Nat) : (s.setFatal k).mclk = s.mclk := rfl
@[simp] theorem setFatal_mgmtOut (k : Nat) : (s.setFatal k).mgmtOut = s.mgmtOut := rfl
@[simp] theorem setFatal_fclkOut (k : Nat) : (s.setFatal k).fclkOut = s.fclkOut := rfl
@[simp] theorem setFatal_tclkOut (k : Nat) : (s.setFatal k).tclkOut = s.tclkOut := rfl
@[simp] theorem setFatal_fresh (k : Nat) : (s.setFatal k).fresh = s.fresh := rfl
@[simp] theorem setFatal_fwVersion (k : Nat) : (s.setFatal k).fwVersion = s.fwVersion := rfl
@[simp] theorem setFatal_service (k : Nat) : (s.setFatal k).service = s.service := rfl
@[simp] theorem setFatal_cause (k : Nat) : (s.setFatal k).cause = s.cause := rfl
@[simp] theorem setFatal_slotB (k : Nat) : (s.setFatal k).slotB = s.slotB := rfl
@[simp] theorem setFatal_bootPhase (k : Nat) : (s.setFatal k).bootPhase = s.bootPhase := rfl
@[simp] theorem setFatal_keyHash (k : Nat) : (s.setFatal k).keyHash = s.keyHash := rfl
@[simp] theorem setFatal_keyArc (k : Nat) : (s.setFatal k).keyArc = s.keyArc := rfl
@[simp] theorem setFatal_keyValid (k : Nat) : (s.setFatal k).keyValid = s.keyValid := rfl
@[simp] theorem setFatal_bootBase (k : Nat) : (s.setFatal k).bootBase = s.bootBase := rfl
@[simp] theorem setFatal_arcReq (k : Nat) : (s.setFatal k).arcReq = s.arcReq := rfl
@[simp] theorem setFatal_imgA (k : Nat) : (s.setFatal k).imgA = s.imgA := rfl
@[simp] theorem setFatal_imgB (k : Nat) : (s.setFatal k).imgB = s.imgB := rfl
@[simp] theorem setFatal_staging (k : Nat) : (s.setFatal k).staging = s.staging := rfl
@[simp] theorem setFatal_readyDone (k : Nat) : (s.setFatal k).readyDone = s.readyDone := rfl
@[simp] theorem setFatal_vaneRestarts (k : Nat) : (s.setFatal k).vaneRestarts = s.vaneRestarts := rfl
@[simp] theorem setFatal_handover (k : Nat) : (s.setFatal k).handover = s.handover := rfl
@[simp] theorem setFatal_arcWaits (k : Nat) : (s.setFatal k).arcWaits = s.arcWaits := rfl
@[simp] theorem setFatal_intStatus (k : Nat) : (s.setFatal k).intStatus = s.intStatus := rfl
@[simp] theorem setFatal_intEnable (k : Nat) : (s.setFatal k).intEnable = s.intEnable := rfl
@[simp] theorem setFatal_time (k : Nat) : (s.setFatal k).time = s.time := rfl
@[simp] theorem setFatal_timeSeen (k : Nat) : (s.setFatal k).timeSeen = s.timeSeen := rfl
@[simp] theorem setFatal_timeLost (k : Nat) : (s.setFatal k).timeLost = s.timeLost := rfl
@[simp] theorem setFatal_timeShadow (k : Nat) : (s.setFatal k).timeShadow = s.timeShadow := rfl
@[simp] theorem setFatal_evq (k : Nat) : (s.setFatal k).evq = s.evq := rfl
@[simp] theorem setFatal_logm (k : Nat) : (s.setFatal k).logm = s.logm := rfl
@[simp] theorem setFatal_cfgLock (k : Nat) : (s.setFatal k).cfgLock = s.cfgLock := rfl
@[simp] theorem setFatal_trap (k : Nat) : (s.setFatal k).trap = s.trap := rfl
@[simp] theorem setFatal_tel (k : Nat) : (s.setFatal k).tel = s.tel := rfl
@[simp] theorem setFatal_ctlRdata (k : Nat) : (s.setFatal k).ctlRdata = s.ctlRdata := rfl
@[simp] theorem setFatal_mbx (k : Nat) : (s.setFatal k).mbx = s.mbx := rfl
@[simp] theorem setFatal_bells (k : Nat) : (s.setFatal k).bells = s.bells := rfl
@[simp] theorem setFatal_policy (k : Nat) : (s.setFatal k).policy = s.policy := rfl
@[simp] theorem setFatal_longOps (k : Nat) : (s.setFatal k).longOps = s.longOps := rfl
@[simp] theorem setFatal_loads (k : Nat) : (s.setFatal k).loads = s.loads := rfl
@[simp] theorem setFatal_slots (k : Nat) : (s.setFatal k).slots = s.slots := rfl
@[simp] theorem setFatal_chains (k : Nat) : (s.setFatal k).chains = s.chains := rfl
@[simp] theorem setFatal_nextVer (k : Nat) : (s.setFatal k).nextVer = s.nextVer := rfl
@[simp] theorem setFatal_streams (k : Nat) : (s.setFatal k).streams = s.streams := rfl
@[simp] theorem setFatal_intervals (k : Nat) : (s.setFatal k).intervals = s.intervals := rfl
@[simp] theorem setFatal_log (k : Nat) : (s.setFatal k).log = s.log := rfl
@[simp] theorem setFatal_arb (k : Nat) : (s.setFatal k).arb = s.arb := rfl
@[simp] theorem setFatal_taps (k : Nat) : (s.setFatal k).taps = s.taps := rfl
@[simp] theorem setFatal_bands (k : Nat) : (s.setFatal k).bands = s.bands := rfl
@[simp] theorem setFatal_tiles (k : Nat) : (s.setFatal k).tiles = s.tiles := rfl
@[simp] theorem setFatal_mgmtCorrected (k : Nat) : (s.setFatal k).mgmtCorrected = s.mgmtCorrected := rfl
@[simp] theorem setFatal_commandsTaken (k : Nat) : (s.setFatal k).commandsTaken = s.commandsTaken := rfl
@[simp] theorem setFatal_refusals (k : Nat) : (s.setFatal k).refusals = s.refusals := rfl
@[simp] theorem setFatal_books (k : Nat) : (s.setFatal k).books = s.books := rfl
@[simp] theorem setFatal_booksBad (k : Nat) : (s.setFatal k).booksBad = s.booksBad := rfl
@[simp] theorem setFatal_mgmtBlocked (k : Nat) : (s.setFatal k).mgmtBlocked = s.mgmtBlocked := rfl
@[simp] theorem setFatal_tap (k : Nat) : (s.setFatal k).tap = s.tap := rfl
@[simp] theorem setFatal_declaration (k : Nat) : (s.setFatal k).declaration = s.declaration := rfl
@[simp] theorem setFatal_ctlAck (k : Nat) : (s.setFatal k).ctlAck = s.ctlAck := rfl

/-! ### modLong -/

@[simp] theorem modLong_pending (o : Nat) (g : BitVec 16) (f : LongOp → LongOp) : (s.modLong o g f).pending = s.pending := rfl
@[simp] theorem modLong_porN (o : Nat) (g : BitVec 16) (f : LongOp → LongOp) : (s.modLong o g f).porN = s.porN := rfl
@[simp] theorem modLong_mclk (o : Nat) (g : BitVec 16) (f : LongOp → LongOp) : (s.modLong o g f).mclk = s.mclk := rfl
@[simp] theorem modLong_mgmtOut (o : Nat) (g : BitVec 16) (f : LongOp → LongOp) : (s.modLong o g f).mgmtOut = s.mgmtOut := rfl
@[simp] theorem modLong_fclkOut (o : Nat) (g : BitVec 16) (f : LongOp → LongOp) : (s.modLong o g f).fclkOut = s.fclkOut := rfl
@[simp] theorem modLong_tclkOut (o : Nat) (g : BitVec 16) (f : LongOp → LongOp) : (s.modLong o g f).tclkOut = s.tclkOut := rfl
@[simp] theorem modLong_fresh (o : Nat) (g : BitVec 16) (f : LongOp → LongOp) : (s.modLong o g f).fresh = s.fresh := rfl
@[simp] theorem modLong_fwVersion (o : Nat) (g : BitVec 16) (f : LongOp → LongOp) : (s.modLong o g f).fwVersion = s.fwVersion := rfl
@[simp] theorem modLong_service (o : Nat) (g : BitVec 16) (f : LongOp → LongOp) : (s.modLong o g f).service = s.service := rfl
@[simp] theorem modLong_cause (o : Nat) (g : BitVec 16) (f : LongOp → LongOp) : (s.modLong o g f).cause = s.cause := rfl
@[simp] theorem modLong_slotB (o : Nat) (g : BitVec 16) (f : LongOp → LongOp) : (s.modLong o g f).slotB = s.slotB := rfl
@[simp] theorem modLong_bootPhase (o : Nat) (g : BitVec 16) (f : LongOp → LongOp) : (s.modLong o g f).bootPhase = s.bootPhase := rfl
@[simp] theorem modLong_keyHash (o : Nat) (g : BitVec 16) (f : LongOp → LongOp) : (s.modLong o g f).keyHash = s.keyHash := rfl
@[simp] theorem modLong_keyArc (o : Nat) (g : BitVec 16) (f : LongOp → LongOp) : (s.modLong o g f).keyArc = s.keyArc := rfl
@[simp] theorem modLong_keyValid (o : Nat) (g : BitVec 16) (f : LongOp → LongOp) : (s.modLong o g f).keyValid = s.keyValid := rfl
@[simp] theorem modLong_bootBase (o : Nat) (g : BitVec 16) (f : LongOp → LongOp) : (s.modLong o g f).bootBase = s.bootBase := rfl
@[simp] theorem modLong_arcReq (o : Nat) (g : BitVec 16) (f : LongOp → LongOp) : (s.modLong o g f).arcReq = s.arcReq := rfl
@[simp] theorem modLong_imgA (o : Nat) (g : BitVec 16) (f : LongOp → LongOp) : (s.modLong o g f).imgA = s.imgA := rfl
@[simp] theorem modLong_imgB (o : Nat) (g : BitVec 16) (f : LongOp → LongOp) : (s.modLong o g f).imgB = s.imgB := rfl
@[simp] theorem modLong_staging (o : Nat) (g : BitVec 16) (f : LongOp → LongOp) : (s.modLong o g f).staging = s.staging := rfl
@[simp] theorem modLong_readyDone (o : Nat) (g : BitVec 16) (f : LongOp → LongOp) : (s.modLong o g f).readyDone = s.readyDone := rfl
@[simp] theorem modLong_vaneRestarts (o : Nat) (g : BitVec 16) (f : LongOp → LongOp) : (s.modLong o g f).vaneRestarts = s.vaneRestarts := rfl
@[simp] theorem modLong_handover (o : Nat) (g : BitVec 16) (f : LongOp → LongOp) : (s.modLong o g f).handover = s.handover := rfl
@[simp] theorem modLong_arcWaits (o : Nat) (g : BitVec 16) (f : LongOp → LongOp) : (s.modLong o g f).arcWaits = s.arcWaits := rfl
@[simp] theorem modLong_intStatus (o : Nat) (g : BitVec 16) (f : LongOp → LongOp) : (s.modLong o g f).intStatus = s.intStatus := rfl
@[simp] theorem modLong_intEnable (o : Nat) (g : BitVec 16) (f : LongOp → LongOp) : (s.modLong o g f).intEnable = s.intEnable := rfl
@[simp] theorem modLong_fatal (o : Nat) (g : BitVec 16) (f : LongOp → LongOp) : (s.modLong o g f).fatal = s.fatal := rfl
@[simp] theorem modLong_time (o : Nat) (g : BitVec 16) (f : LongOp → LongOp) : (s.modLong o g f).time = s.time := rfl
@[simp] theorem modLong_timeSeen (o : Nat) (g : BitVec 16) (f : LongOp → LongOp) : (s.modLong o g f).timeSeen = s.timeSeen := rfl
@[simp] theorem modLong_timeLost (o : Nat) (g : BitVec 16) (f : LongOp → LongOp) : (s.modLong o g f).timeLost = s.timeLost := rfl
@[simp] theorem modLong_timeShadow (o : Nat) (g : BitVec 16) (f : LongOp → LongOp) : (s.modLong o g f).timeShadow = s.timeShadow := rfl
@[simp] theorem modLong_evq (o : Nat) (g : BitVec 16) (f : LongOp → LongOp) : (s.modLong o g f).evq = s.evq := rfl
@[simp] theorem modLong_logm (o : Nat) (g : BitVec 16) (f : LongOp → LongOp) : (s.modLong o g f).logm = s.logm := rfl
@[simp] theorem modLong_cfgLock (o : Nat) (g : BitVec 16) (f : LongOp → LongOp) : (s.modLong o g f).cfgLock = s.cfgLock := rfl
@[simp] theorem modLong_trap (o : Nat) (g : BitVec 16) (f : LongOp → LongOp) : (s.modLong o g f).trap = s.trap := rfl
@[simp] theorem modLong_tel (o : Nat) (g : BitVec 16) (f : LongOp → LongOp) : (s.modLong o g f).tel = s.tel := rfl
@[simp] theorem modLong_ctlRdata (o : Nat) (g : BitVec 16) (f : LongOp → LongOp) : (s.modLong o g f).ctlRdata = s.ctlRdata := rfl
@[simp] theorem modLong_mbx (o : Nat) (g : BitVec 16) (f : LongOp → LongOp) : (s.modLong o g f).mbx = s.mbx := rfl
@[simp] theorem modLong_bells (o : Nat) (g : BitVec 16) (f : LongOp → LongOp) : (s.modLong o g f).bells = s.bells := rfl
@[simp] theorem modLong_policy (o : Nat) (g : BitVec 16) (f : LongOp → LongOp) : (s.modLong o g f).policy = s.policy := rfl
@[simp] theorem modLong_loads (o : Nat) (g : BitVec 16) (f : LongOp → LongOp) : (s.modLong o g f).loads = s.loads := rfl
@[simp] theorem modLong_slots (o : Nat) (g : BitVec 16) (f : LongOp → LongOp) : (s.modLong o g f).slots = s.slots := rfl
@[simp] theorem modLong_chains (o : Nat) (g : BitVec 16) (f : LongOp → LongOp) : (s.modLong o g f).chains = s.chains := rfl
@[simp] theorem modLong_nextVer (o : Nat) (g : BitVec 16) (f : LongOp → LongOp) : (s.modLong o g f).nextVer = s.nextVer := rfl
@[simp] theorem modLong_streams (o : Nat) (g : BitVec 16) (f : LongOp → LongOp) : (s.modLong o g f).streams = s.streams := rfl
@[simp] theorem modLong_intervals (o : Nat) (g : BitVec 16) (f : LongOp → LongOp) : (s.modLong o g f).intervals = s.intervals := rfl
@[simp] theorem modLong_log (o : Nat) (g : BitVec 16) (f : LongOp → LongOp) : (s.modLong o g f).log = s.log := rfl
@[simp] theorem modLong_arb (o : Nat) (g : BitVec 16) (f : LongOp → LongOp) : (s.modLong o g f).arb = s.arb := rfl
@[simp] theorem modLong_taps (o : Nat) (g : BitVec 16) (f : LongOp → LongOp) : (s.modLong o g f).taps = s.taps := rfl
@[simp] theorem modLong_bands (o : Nat) (g : BitVec 16) (f : LongOp → LongOp) : (s.modLong o g f).bands = s.bands := rfl
@[simp] theorem modLong_tiles (o : Nat) (g : BitVec 16) (f : LongOp → LongOp) : (s.modLong o g f).tiles = s.tiles := rfl
@[simp] theorem modLong_mgmtCorrected (o : Nat) (g : BitVec 16) (f : LongOp → LongOp) : (s.modLong o g f).mgmtCorrected = s.mgmtCorrected := rfl
@[simp] theorem modLong_commandsTaken (o : Nat) (g : BitVec 16) (f : LongOp → LongOp) : (s.modLong o g f).commandsTaken = s.commandsTaken := rfl
@[simp] theorem modLong_refusals (o : Nat) (g : BitVec 16) (f : LongOp → LongOp) : (s.modLong o g f).refusals = s.refusals := rfl
@[simp] theorem modLong_books (o : Nat) (g : BitVec 16) (f : LongOp → LongOp) : (s.modLong o g f).books = s.books := rfl
@[simp] theorem modLong_booksBad (o : Nat) (g : BitVec 16) (f : LongOp → LongOp) : (s.modLong o g f).booksBad = s.booksBad := rfl
@[simp] theorem modLong_mgmtBlocked (o : Nat) (g : BitVec 16) (f : LongOp → LongOp) : (s.modLong o g f).mgmtBlocked = s.mgmtBlocked := rfl
@[simp] theorem modLong_tap (o : Nat) (g : BitVec 16) (f : LongOp → LongOp) : (s.modLong o g f).tap = s.tap := rfl
@[simp] theorem modLong_declaration (o : Nat) (g : BitVec 16) (f : LongOp → LongOp) : (s.modLong o g f).declaration = s.declaration := rfl
@[simp] theorem modLong_ctlAck (o : Nat) (g : BitVec 16) (f : LongOp → LongOp) : (s.modLong o g f).ctlAck = s.ctlAck := rfl

/-! ### Reading back -/

@[simp] theorem setBand_band (b : Nat) (x : Band) (h : b < 8) : (s.setBand b x).band b = x := by
  simp [setBand, band, h]

theorem setBand_band_ne (b c : Nat) (x : Band) (h : b ≠ c) : (s.setBand b x).band c = s.band c := by
  simp [setBand, band, h]

@[simp] theorem setTile_tile (t : Nat) (x : Tile) (h : t < 88) : (s.setTile t x).tile t = x := by
  simp [setTile, tile, h]

theorem setTile_tile_ne (t u : Nat) (x : Tile) (h : t ≠ u) : (s.setTile t x).tile u = s.tile u := by
  simp [setTile, tile, h]

@[simp] theorem setMailbox_mailbox (m : Nat) (x : Mailbox) (h : m < 4) : (s.setMailbox m x).mailbox m = x := by
  simp [setMailbox, mailbox, h]

theorem setMailbox_mailbox_ne (m k : Nat) (x : Mailbox) (h : m ≠ k) : (s.setMailbox m x).mailbox k = s.mailbox k := by
  simp [setMailbox, mailbox, h]

@[simp] theorem modBand_band (b : Nat) (f : Band → Band) (h : b < 8) : (s.modBand b f).band b = f (s.band b) :=
  setBand_band s b _ h

theorem modBand_band_ne (b c : Nat) (f : Band → Band) (h : b ≠ c) : (s.modBand b f).band c = s.band c :=
  setBand_band_ne s b c _ h

@[simp] theorem modTile_tile (t : Nat) (f : Tile → Tile) (h : t < 88) : (s.modTile t f).tile t = f (s.tile t) :=
  setTile_tile s t _ h

theorem modTile_tile_ne (t u : Nat) (f : Tile → Tile) (h : t ≠ u) : (s.modTile t f).tile u = s.tile u :=
  setTile_tile_ne s t u _ h

@[simp] theorem setBand_tile (b : Nat) (x : Band) (u : Nat) : (s.setBand b x).tile u = s.tile u := rfl
@[simp] theorem modBand_tile (b : Nat) (f : Band → Band) (u : Nat) : (s.modBand b f).tile u = s.tile u := rfl
@[simp] theorem setTile_band (t : Nat) (x : Tile) (c : Nat) : (s.setTile t x).band c = s.band c := rfl
@[simp] theorem modTile_band (t : Nat) (f : Tile → Tile) (c : Nat) : (s.modTile t f).band c = s.band c := rfl
@[simp] theorem setBand_mailbox (b : Nat) (x : Band) (m : Nat) : (s.setBand b x).mailbox m = s.mailbox m := rfl
@[simp] theorem modBand_mailbox (b : Nat) (f : Band → Band) (m : Nat) : (s.modBand b f).mailbox m = s.mailbox m := rfl
@[simp] theorem setTile_mailbox (t : Nat) (x : Tile) (m : Nat) : (s.setTile t x).mailbox m = s.mailbox m := rfl
@[simp] theorem modTile_mailbox (t : Nat) (f : Tile → Tile) (m : Nat) : (s.modTile t f).mailbox m = s.mailbox m := rfl
@[simp] theorem setMailbox_band (m : Nat) (x : Mailbox) (c : Nat) : (s.setMailbox m x).band c = s.band c := rfl
@[simp] theorem setMailbox_tile (m : Nat) (x : Mailbox) (u : Nat) : (s.setMailbox m x).tile u = s.tile u := rfl
@[simp] theorem modStream_band (n : Nat) (f : Stream → Stream) (c : Nat) : (s.modStream n f).band c = s.band c := rfl
@[simp] theorem modStream_tile (n : Nat) (f : Stream → Stream) (u : Nat) : (s.modStream n f).tile u = s.tile u := rfl
@[simp] theorem modStream_mailbox (n : Nat) (f : Stream → Stream) (m : Nat) : (s.modStream n f).mailbox m = s.mailbox m := rfl
@[simp] theorem setInt_band (k c : Nat) : (s.setInt k).band c = s.band c := rfl
@[simp] theorem setInt_tile (k u : Nat) : (s.setInt k).tile u = s.tile u := rfl
@[simp] theorem setInt_mailbox (k m : Nat) : (s.setInt k).mailbox m = s.mailbox m := rfl
@[simp] theorem setFatal_band (k c : Nat) : (s.setFatal k).band c = s.band c := rfl
@[simp] theorem setFatal_tile (k u : Nat) : (s.setFatal k).tile u = s.tile u := rfl
@[simp] theorem setFatal_mailbox (k m : Nat) : (s.setFatal k).mailbox m = s.mailbox m := rfl

/-- Setting an INT_STATUS bit reads back. -/
theorem setInt_bit (k : Nat) (h : k < 32) : (s.setInt k).intStatus.getLsbD k = true := by
  unfold setInt
  simp only [BitVec.getLsbD_or, BitVec.getLsbD_ofNat, h, Nat.testBit_two_pow_self]
  simp

end Sys2Proof.Machine.State
end

