-- ==== Sys2Proof/Laws/Ops.lean ====
section
/-!
SUPPORT. What the shared operations can do: reports, change-log entries, answers, refusals, commits and
acceptances. Each has one lemma that names every field it may change; the field lemmas follow from it.
-/

namespace Sys2Proof.Machine.State

open Sys2Proof.Safety

variable (s : State)

/-! ### Reports (R380 to R385) -/

/-- An event enters the hold. -/
theorem holdEvent_frame (e : Event) :
    s.holdEvent e = { s with intStatus := (s.holdEvent e).intStatus, arb := (s.holdEvent e).arb } := by
  unfold holdEvent markFull
  split <;> rfl

/-- An event is counted only. -/
theorem loseEvent_frame (c : Nat) :
    s.loseEvent c = { s with arb := (s.loseEvent c).arb } := by
  rfl

/-- Records that cross change the taps, the arbiter and INT_STATUS.EVQ_FULL. -/
theorem takeTaps_frame (n : Nat) :
    s.takeTaps n = { s with intStatus := (s.takeTaps n).intStatus, arb := (s.takeTaps n).arb, taps := (s.takeTaps n).taps } := by
  induction n generalizing s with
  | zero => rfl
  | succ n ih =>
    unfold takeTaps
    split
    · split
      · rfl
      · dsimp only
        rw [ih, holdEvent_frame]
    · rfl

/-- Records that cross leave the counts of the taps alone. -/
@[simp] theorem takeTaps_kindCount (n src code : Nat) : (s.takeTaps n).kindCount src code = s.kindCount src code := by
  induction n generalizing s with
  | zero => rfl
  | succ n ih =>
    unfold takeTaps
    split
    · split
      · rfl
      · dsimp only
        rw [ih, holdEvent_frame]
        simp only [kindCount, tapOf, List.find?_map]
        have hp : ∀ (f : Tap → Tap), (∀ t, (f t).src = t.src ∧ (f t).code = t.code) →
            (fun (t : Tap) => t.src == src && t.code == code) ∘ f = (fun t => t.src == src && t.code == code) := by
          intro f hf
          funext t
          simp [hf t]
        rw [hp _ (by intro t; split <;> exact ⟨rfl, rfl⟩)]
        cases s.taps.find? (fun t => t.src == src && t.code == code) with
        | none => rfl
        | some t => simp only [Option.map_some, Option.getD_some]; split <;> rfl
    · rfl

/-- A report changes the taps, the arbiter and INT_STATUS.EVQ_FULL. -/
theorem report2_frame (src code : Nat) (p : Nat → Nat) (q : Option Nat) :
    s.report2 src code p q = { s with intStatus := (s.report2 src code p q).intStatus, arb := (s.report2 src code p q).arb, taps := (s.report2 src code p q).taps } := by
  unfold report2
  dsimp only
  rw [takeTaps_frame]
  split
  · split
    · rw [holdEvent_frame]
    · rfl
  · split
    · rfl
    · split
      · rw [holdEvent_frame]
      · rfl

@[simp] theorem report2_pending (src code : Nat) (p : Nat → Nat) (q : Option Nat) : (s.report2 src code p q).pending = s.pending := by rw [report2_frame]
@[simp] theorem report2_porN (src code : Nat) (p : Nat → Nat) (q : Option Nat) : (s.report2 src code p q).porN = s.porN := by rw [report2_frame]
@[simp] theorem report2_mclk (src code : Nat) (p : Nat → Nat) (q : Option Nat) : (s.report2 src code p q).mclk = s.mclk := by rw [report2_frame]
@[simp] theorem report2_mgmtOut (src code : Nat) (p : Nat → Nat) (q : Option Nat) : (s.report2 src code p q).mgmtOut = s.mgmtOut := by rw [report2_frame]
@[simp] theorem report2_fclkOut (src code : Nat) (p : Nat → Nat) (q : Option Nat) : (s.report2 src code p q).fclkOut = s.fclkOut := by rw [report2_frame]
@[simp] theorem report2_tclkOut (src code : Nat) (p : Nat → Nat) (q : Option Nat) : (s.report2 src code p q).tclkOut = s.tclkOut := by rw [report2_frame]
@[simp] theorem report2_fresh (src code : Nat) (p : Nat → Nat) (q : Option Nat) : (s.report2 src code p q).fresh = s.fresh := by rw [report2_frame]
@[simp] theorem report2_fwVersion (src code : Nat) (p : Nat → Nat) (q : Option Nat) : (s.report2 src code p q).fwVersion = s.fwVersion := by rw [report2_frame]
@[simp] theorem report2_service (src code : Nat) (p : Nat → Nat) (q : Option Nat) : (s.report2 src code p q).service = s.service := by rw [report2_frame]
@[simp] theorem report2_cause (src code : Nat) (p : Nat → Nat) (q : Option Nat) : (s.report2 src code p q).cause = s.cause := by rw [report2_frame]
@[simp] theorem report2_slotB (src code : Nat) (p : Nat → Nat) (q : Option Nat) : (s.report2 src code p q).slotB = s.slotB := by rw [report2_frame]
@[simp] theorem report2_bootPhase (src code : Nat) (p : Nat → Nat) (q : Option Nat) : (s.report2 src code p q).bootPhase = s.bootPhase := by rw [report2_frame]
@[simp] theorem report2_keyHash (src code : Nat) (p : Nat → Nat) (q : Option Nat) : (s.report2 src code p q).keyHash = s.keyHash := by rw [report2_frame]
@[simp] theorem report2_keyArc (src code : Nat) (p : Nat → Nat) (q : Option Nat) : (s.report2 src code p q).keyArc = s.keyArc := by rw [report2_frame]
@[simp] theorem report2_keyValid (src code : Nat) (p : Nat → Nat) (q : Option Nat) : (s.report2 src code p q).keyValid = s.keyValid := by rw [report2_frame]
@[simp] theorem report2_bootBase (src code : Nat) (p : Nat → Nat) (q : Option Nat) : (s.report2 src code p q).bootBase = s.bootBase := by rw [report2_frame]
@[simp] theorem report2_arcReq (src code : Nat) (p : Nat → Nat) (q : Option Nat) : (s.report2 src code p q).arcReq = s.arcReq := by rw [report2_frame]
@[simp] theorem report2_imgA (src code : Nat) (p : Nat → Nat) (q : Option Nat) : (s.report2 src code p q).imgA = s.imgA := by rw [report2_frame]
@[simp] theorem report2_arcWaits (src code : Nat) (p : Nat → Nat) (q : Option Nat) : (s.report2 src code p q).arcWaits = s.arcWaits := by rw [report2_frame]
@[simp] theorem report2_imgB (src code : Nat) (p : Nat → Nat) (q : Option Nat) : (s.report2 src code p q).imgB = s.imgB := by rw [report2_frame]
@[simp] theorem report2_staging (src code : Nat) (p : Nat → Nat) (q : Option Nat) : (s.report2 src code p q).staging = s.staging := by rw [report2_frame]
@[simp] theorem report2_readyDone (src code : Nat) (p : Nat → Nat) (q : Option Nat) : (s.report2 src code p q).readyDone = s.readyDone := by rw [report2_frame]
@[simp] theorem report2_vaneRestarts (src code : Nat) (p : Nat → Nat) (q : Option Nat) : (s.report2 src code p q).vaneRestarts = s.vaneRestarts := by rw [report2_frame]
@[simp] theorem report2_handover (src code : Nat) (p : Nat → Nat) (q : Option Nat) : (s.report2 src code p q).handover = s.handover := by rw [report2_frame]
@[simp] theorem report2_intEnable (src code : Nat) (p : Nat → Nat) (q : Option Nat) : (s.report2 src code p q).intEnable = s.intEnable := by rw [report2_frame]
@[simp] theorem report2_fatal (src code : Nat) (p : Nat → Nat) (q : Option Nat) : (s.report2 src code p q).fatal = s.fatal := by rw [report2_frame]
@[simp] theorem report2_time (src code : Nat) (p : Nat → Nat) (q : Option Nat) : (s.report2 src code p q).time = s.time := by rw [report2_frame]
@[simp] theorem report2_timeSeen (src code : Nat) (p : Nat → Nat) (q : Option Nat) : (s.report2 src code p q).timeSeen = s.timeSeen := by rw [report2_frame]
@[simp] theorem report2_timeLost (src code : Nat) (p : Nat → Nat) (q : Option Nat) : (s.report2 src code p q).timeLost = s.timeLost := by rw [report2_frame]
@[simp] theorem report2_timeShadow (src code : Nat) (p : Nat → Nat) (q : Option Nat) : (s.report2 src code p q).timeShadow = s.timeShadow := by rw [report2_frame]
@[simp] theorem report2_evq (src code : Nat) (p : Nat → Nat) (q : Option Nat) : (s.report2 src code p q).evq = s.evq := by rw [report2_frame]
@[simp] theorem report2_logm (src code : Nat) (p : Nat → Nat) (q : Option Nat) : (s.report2 src code p q).logm = s.logm := by rw [report2_frame]
@[simp] theorem report2_cfgLock (src code : Nat) (p : Nat → Nat) (q : Option Nat) : (s.report2 src code p q).cfgLock = s.cfgLock := by rw [report2_frame]
@[simp] theorem report2_trap (src code : Nat) (p : Nat → Nat) (q : Option Nat) : (s.report2 src code p q).trap = s.trap := by rw [report2_frame]
@[simp] theorem report2_tel (src code : Nat) (p : Nat → Nat) (q : Option Nat) : (s.report2 src code p q).tel = s.tel := by rw [report2_frame]
@[simp] theorem report2_ctlRdata (src code : Nat) (p : Nat → Nat) (q : Option Nat) : (s.report2 src code p q).ctlRdata = s.ctlRdata := by rw [report2_frame]
@[simp] theorem report2_mbx (src code : Nat) (p : Nat → Nat) (q : Option Nat) : (s.report2 src code p q).mbx = s.mbx := by rw [report2_frame]
@[simp] theorem report2_bells (src code : Nat) (p : Nat → Nat) (q : Option Nat) : (s.report2 src code p q).bells = s.bells := by rw [report2_frame]
@[simp] theorem report2_policy (src code : Nat) (p : Nat → Nat) (q : Option Nat) : (s.report2 src code p q).policy = s.policy := by rw [report2_frame]
@[simp] theorem report2_longOps (src code : Nat) (p : Nat → Nat) (q : Option Nat) : (s.report2 src code p q).longOps = s.longOps := by rw [report2_frame]
@[simp] theorem report2_loads (src code : Nat) (p : Nat → Nat) (q : Option Nat) : (s.report2 src code p q).loads = s.loads := by rw [report2_frame]
@[simp] theorem report2_slots (src code : Nat) (p : Nat → Nat) (q : Option Nat) : (s.report2 src code p q).slots = s.slots := by rw [report2_frame]
@[simp] theorem report2_chains (src code : Nat) (p : Nat → Nat) (q : Option Nat) : (s.report2 src code p q).chains = s.chains := by rw [report2_frame]
@[simp] theorem report2_nextVer (src code : Nat) (p : Nat → Nat) (q : Option Nat) : (s.report2 src code p q).nextVer = s.nextVer := by rw [report2_frame]
@[simp] theorem report2_streams (src code : Nat) (p : Nat → Nat) (q : Option Nat) : (s.report2 src code p q).streams = s.streams := by rw [report2_frame]
@[simp] theorem report2_intervals (src code : Nat) (p : Nat → Nat) (q : Option Nat) : (s.report2 src code p q).intervals = s.intervals := by rw [report2_frame]
@[simp] theorem report2_log (src code : Nat) (p : Nat → Nat) (q : Option Nat) : (s.report2 src code p q).log = s.log := by rw [report2_frame]
@[simp] theorem report2_bands (src code : Nat) (p : Nat → Nat) (q : Option Nat) : (s.report2 src code p q).bands = s.bands := by rw [report2_frame]
@[simp] theorem report2_tiles (src code : Nat) (p : Nat → Nat) (q : Option Nat) : (s.report2 src code p q).tiles = s.tiles := by rw [report2_frame]
@[simp] theorem report2_mgmtCorrected (src code : Nat) (p : Nat → Nat) (q : Option Nat) : (s.report2 src code p q).mgmtCorrected = s.mgmtCorrected := by rw [report2_frame]
@[simp] theorem report2_commandsTaken (src code : Nat) (p : Nat → Nat) (q : Option Nat) : (s.report2 src code p q).commandsTaken = s.commandsTaken := by rw [report2_frame]
@[simp] theorem report2_refusals (src code : Nat) (p : Nat → Nat) (q : Option Nat) : (s.report2 src code p q).refusals = s.refusals := by rw [report2_frame]
@[simp] theorem report2_booksBad (src code : Nat) (p : Nat → Nat) (q : Option Nat) : (s.report2 src code p q).booksBad = s.booksBad := by rw [report2_frame]
@[simp] theorem report2_mgmtBlocked (src code : Nat) (p : Nat → Nat) (q : Option Nat) : (s.report2 src code p q).mgmtBlocked = s.mgmtBlocked := by rw [report2_frame]
@[simp] theorem report2_tap (src code : Nat) (p : Nat → Nat) (q : Option Nat) : (s.report2 src code p q).tap = s.tap := by rw [report2_frame]
@[simp] theorem report2_declaration (src code : Nat) (p : Nat → Nat) (q : Option Nat) : (s.report2 src code p q).declaration = s.declaration := by rw [report2_frame]
@[simp] theorem report2_ctlAck (src code : Nat) (p : Nat → Nat) (q : Option Nat) : (s.report2 src code p q).ctlAck = s.ctlAck := by rw [report2_frame]
@[simp] theorem report2_band (src code : Nat) (p : Nat → Nat) (q : Option Nat) (b : Nat) : (s.report2 src code p q).band b = s.band b := by simp [State.band]
@[simp] theorem report2_tile (src code : Nat) (p : Nat → Nat) (q : Option Nat) (t : Nat) : (s.report2 src code p q).tile t = s.tile t := by simp [State.tile]
@[simp] theorem report2_mailbox (src code : Nat) (p : Nat → Nat) (q : Option Nat) (m : Nat) : (s.report2 src code p q).mailbox m = s.mailbox m := by simp [State.mailbox]

/-- So does a finding. -/
theorem report_frame (src code : Nat) (p : Nat → Nat) :
    s.report src code p = { s with intStatus := (s.report src code p).intStatus, arb := (s.report src code p).arb, taps := (s.report src code p).taps } := by
  exact report2_frame s src code p none

@[simp] theorem report_pending (src code : Nat) (p : Nat → Nat) : (s.report src code p).pending = s.pending := by rw [report_frame]
@[simp] theorem report_porN (src code : Nat) (p : Nat → Nat) : (s.report src code p).porN = s.porN := by rw [report_frame]
@[simp] theorem report_mclk (src code : Nat) (p : Nat → Nat) : (s.report src code p).mclk = s.mclk := by rw [report_frame]
@[simp] theorem report_mgmtOut (src code : Nat) (p : Nat → Nat) : (s.report src code p).mgmtOut = s.mgmtOut := by rw [report_frame]
@[simp] theorem report_fclkOut (src code : Nat) (p : Nat → Nat) : (s.report src code p).fclkOut = s.fclkOut := by rw [report_frame]
@[simp] theorem report_tclkOut (src code : Nat) (p : Nat → Nat) : (s.report src code p).tclkOut = s.tclkOut := by rw [report_frame]
@[simp] theorem report_fresh (src code : Nat) (p : Nat → Nat) : (s.report src code p).fresh = s.fresh := by rw [report_frame]
@[simp] theorem report_fwVersion (src code : Nat) (p : Nat → Nat) : (s.report src code p).fwVersion = s.fwVersion := by rw [report_frame]
@[simp] theorem report_service (src code : Nat) (p : Nat → Nat) : (s.report src code p).service = s.service := by rw [report_frame]
@[simp] theorem report_cause (src code : Nat) (p : Nat → Nat) : (s.report src code p).cause = s.cause := by rw [report_frame]
@[simp] theorem report_slotB (src code : Nat) (p : Nat → Nat) : (s.report src code p).slotB = s.slotB := by rw [report_frame]
@[simp] theorem report_bootPhase (src code : Nat) (p : Nat → Nat) : (s.report src code p).bootPhase = s.bootPhase := by rw [report_frame]
@[simp] theorem report_keyHash (src code : Nat) (p : Nat → Nat) : (s.report src code p).keyHash = s.keyHash := by rw [report_frame]
@[simp] theorem report_keyArc (src code : Nat) (p : Nat → Nat) : (s.report src code p).keyArc = s.keyArc := by rw [report_frame]
@[simp] theorem report_keyValid (src code : Nat) (p : Nat → Nat) : (s.report src code p).keyValid = s.keyValid := by rw [report_frame]
@[simp] theorem report_bootBase (src code : Nat) (p : Nat → Nat) : (s.report src code p).bootBase = s.bootBase := by rw [report_frame]
@[simp] theorem report_arcReq (src code : Nat) (p : Nat → Nat) : (s.report src code p).arcReq = s.arcReq := by rw [report_frame]
@[simp] theorem report_imgA (src code : Nat) (p : Nat → Nat) : (s.report src code p).imgA = s.imgA := by rw [report_frame]
@[simp] theorem report_arcWaits (src code : Nat) (p : Nat → Nat) : (s.report src code p).arcWaits = s.arcWaits := by rw [report_frame]
@[simp] theorem report_imgB (src code : Nat) (p : Nat → Nat) : (s.report src code p).imgB = s.imgB := by rw [report_frame]
@[simp] theorem report_staging (src code : Nat) (p : Nat → Nat) : (s.report src code p).staging = s.staging := by rw [report_frame]
@[simp] theorem report_readyDone (src code : Nat) (p : Nat → Nat) : (s.report src code p).readyDone = s.readyDone := by rw [report_frame]
@[simp] theorem report_vaneRestarts (src code : Nat) (p : Nat → Nat) : (s.report src code p).vaneRestarts = s.vaneRestarts := by rw [report_frame]
@[simp] theorem report_handover (src code : Nat) (p : Nat → Nat) : (s.report src code p).handover = s.handover := by rw [report_frame]
@[simp] theorem report_intEnable (src code : Nat) (p : Nat → Nat) : (s.report src code p).intEnable = s.intEnable := by rw [report_frame]
@[simp] theorem report_fatal (src code : Nat) (p : Nat → Nat) : (s.report src code p).fatal = s.fatal := by rw [report_frame]
@[simp] theorem report_time (src code : Nat) (p : Nat → Nat) : (s.report src code p).time = s.time := by rw [report_frame]
@[simp] theorem report_timeSeen (src code : Nat) (p : Nat → Nat) : (s.report src code p).timeSeen = s.timeSeen := by rw [report_frame]
@[simp] theorem report_timeLost (src code : Nat) (p : Nat → Nat) : (s.report src code p).timeLost = s.timeLost := by rw [report_frame]
@[simp] theorem report_timeShadow (src code : Nat) (p : Nat → Nat) : (s.report src code p).timeShadow = s.timeShadow := by rw [report_frame]
@[simp] theorem report_evq (src code : Nat) (p : Nat → Nat) : (s.report src code p).evq = s.evq := by rw [report_frame]
@[simp] theorem report_logm (src code : Nat) (p : Nat → Nat) : (s.report src code p).logm = s.logm := by rw [report_frame]
@[simp] theorem report_cfgLock (src code : Nat) (p : Nat → Nat) : (s.report src code p).cfgLock = s.cfgLock := by rw [report_frame]
@[simp] theorem report_trap (src code : Nat) (p : Nat → Nat) : (s.report src code p).trap = s.trap := by rw [report_frame]
@[simp] theorem report_tel (src code : Nat) (p : Nat → Nat) : (s.report src code p).tel = s.tel := by rw [report_frame]
@[simp] theorem report_ctlRdata (src code : Nat) (p : Nat → Nat) : (s.report src code p).ctlRdata = s.ctlRdata := by rw [report_frame]
@[simp] theorem report_mbx (src code : Nat) (p : Nat → Nat) : (s.report src code p).mbx = s.mbx := by rw [report_frame]
@[simp] theorem report_bells (src code : Nat) (p : Nat → Nat) : (s.report src code p).bells = s.bells := by rw [report_frame]
@[simp] theorem report_policy (src code : Nat) (p : Nat → Nat) : (s.report src code p).policy = s.policy := by rw [report_frame]
@[simp] theorem report_longOps (src code : Nat) (p : Nat → Nat) : (s.report src code p).longOps = s.longOps := by rw [report_frame]
@[simp] theorem report_loads (src code : Nat) (p : Nat → Nat) : (s.report src code p).loads = s.loads := by rw [report_frame]
@[simp] theorem report_slots (src code : Nat) (p : Nat → Nat) : (s.report src code p).slots = s.slots := by rw [report_frame]
@[simp] theorem report_chains (src code : Nat) (p : Nat → Nat) : (s.report src code p).chains = s.chains := by rw [report_frame]
@[simp] theorem report_nextVer (src code : Nat) (p : Nat → Nat) : (s.report src code p).nextVer = s.nextVer := by rw [report_frame]
@[simp] theorem report_streams (src code : Nat) (p : Nat → Nat) : (s.report src code p).streams = s.streams := by rw [report_frame]
@[simp] theorem report_intervals (src code : Nat) (p : Nat → Nat) : (s.report src code p).intervals = s.intervals := by rw [report_frame]
@[simp] theorem report_log (src code : Nat) (p : Nat → Nat) : (s.report src code p).log = s.log := by rw [report_frame]
@[simp] theorem report_bands (src code : Nat) (p : Nat → Nat) : (s.report src code p).bands = s.bands := by rw [report_frame]
@[simp] theorem report_tiles (src code : Nat) (p : Nat → Nat) : (s.report src code p).tiles = s.tiles := by rw [report_frame]
@[simp] theorem report_mgmtCorrected (src code : Nat) (p : Nat → Nat) : (s.report src code p).mgmtCorrected = s.mgmtCorrected := by rw [report_frame]
@[simp] theorem report_commandsTaken (src code : Nat) (p : Nat → Nat) : (s.report src code p).commandsTaken = s.commandsTaken := by rw [report_frame]
@[simp] theorem report_refusals (src code : Nat) (p : Nat → Nat) : (s.report src code p).refusals = s.refusals := by rw [report_frame]
@[simp] theorem report_booksBad (src code : Nat) (p : Nat → Nat) : (s.report src code p).booksBad = s.booksBad := by rw [report_frame]
@[simp] theorem report_mgmtBlocked (src code : Nat) (p : Nat → Nat) : (s.report src code p).mgmtBlocked = s.mgmtBlocked := by rw [report_frame]
@[simp] theorem report_tap (src code : Nat) (p : Nat → Nat) : (s.report src code p).tap = s.tap := by rw [report_frame]
@[simp] theorem report_declaration (src code : Nat) (p : Nat → Nat) : (s.report src code p).declaration = s.declaration := by rw [report_frame]
@[simp] theorem report_ctlAck (src code : Nat) (p : Nat → Nat) : (s.report src code p).ctlAck = s.ctlAck := by rw [report_frame]
@[simp] theorem report_band (src code : Nat) (p : Nat → Nat) (b : Nat) : (s.report src code p).band b = s.band b := by simp [State.band]
@[simp] theorem report_tile (src code : Nat) (p : Nat → Nat) (t : Nat) : (s.report src code p).tile t = s.tile t := by simp [State.tile]
@[simp] theorem report_mailbox (src code : Nat) (p : Nat → Nat) (m : Nat) : (s.report src code p).mailbox m = s.mailbox m := by simp [State.mailbox]

/-- So does a notice. -/
theorem notice_frame (src code p : Nat) :
    s.notice src code p = { s with intStatus := (s.notice src code p).intStatus, arb := (s.notice src code p).arb, taps := (s.notice src code p).taps } := by
  exact report2_frame s src code (fun _ => p) none

@[simp] theorem notice_pending (src code p : Nat) : (s.notice src code p).pending = s.pending := by rw [notice_frame]
@[simp] theorem notice_porN (src code p : Nat) : (s.notice src code p).porN = s.porN := by rw [notice_frame]
@[simp] theorem notice_mclk (src code p : Nat) : (s.notice src code p).mclk = s.mclk := by rw [notice_frame]
@[simp] theorem notice_mgmtOut (src code p : Nat) : (s.notice src code p).mgmtOut = s.mgmtOut := by rw [notice_frame]
@[simp] theorem notice_fclkOut (src code p : Nat) : (s.notice src code p).fclkOut = s.fclkOut := by rw [notice_frame]
@[simp] theorem notice_tclkOut (src code p : Nat) : (s.notice src code p).tclkOut = s.tclkOut := by rw [notice_frame]
@[simp] theorem notice_fresh (src code p : Nat) : (s.notice src code p).fresh = s.fresh := by rw [notice_frame]
@[simp] theorem notice_fwVersion (src code p : Nat) : (s.notice src code p).fwVersion = s.fwVersion := by rw [notice_frame]
@[simp] theorem notice_service (src code p : Nat) : (s.notice src code p).service = s.service := by rw [notice_frame]
@[simp] theorem notice_cause (src code p : Nat) : (s.notice src code p).cause = s.cause := by rw [notice_frame]
@[simp] theorem notice_slotB (src code p : Nat) : (s.notice src code p).slotB = s.slotB := by rw [notice_frame]
@[simp] theorem notice_bootPhase (src code p : Nat) : (s.notice src code p).bootPhase = s.bootPhase := by rw [notice_frame]
@[simp] theorem notice_keyHash (src code p : Nat) : (s.notice src code p).keyHash = s.keyHash := by rw [notice_frame]
@[simp] theorem notice_keyArc (src code p : Nat) : (s.notice src code p).keyArc = s.keyArc := by rw [notice_frame]
@[simp] theorem notice_keyValid (src code p : Nat) : (s.notice src code p).keyValid = s.keyValid := by rw [notice_frame]
@[simp] theorem notice_bootBase (src code p : Nat) : (s.notice src code p).bootBase = s.bootBase := by rw [notice_frame]
@[simp] theorem notice_arcReq (src code p : Nat) : (s.notice src code p).arcReq = s.arcReq := by rw [notice_frame]
@[simp] theorem notice_imgA (src code p : Nat) : (s.notice src code p).imgA = s.imgA := by rw [notice_frame]
@[simp] theorem notice_arcWaits (src code p : Nat) : (s.notice src code p).arcWaits = s.arcWaits := by rw [notice_frame]
@[simp] theorem notice_imgB (src code p : Nat) : (s.notice src code p).imgB = s.imgB := by rw [notice_frame]
@[simp] theorem notice_staging (src code p : Nat) : (s.notice src code p).staging = s.staging := by rw [notice_frame]
@[simp] theorem notice_readyDone (src code p : Nat) : (s.notice src code p).readyDone = s.readyDone := by rw [notice_frame]
@[simp] theorem notice_vaneRestarts (src code p : Nat) : (s.notice src code p).vaneRestarts = s.vaneRestarts := by rw [notice_frame]
@[simp] theorem notice_handover (src code p : Nat) : (s.notice src code p).handover = s.handover := by rw [notice_frame]
@[simp] theorem notice_intEnable (src code p : Nat) : (s.notice src code p).intEnable = s.intEnable := by rw [notice_frame]
@[simp] theorem notice_fatal (src code p : Nat) : (s.notice src code p).fatal = s.fatal := by rw [notice_frame]
@[simp] theorem notice_time (src code p : Nat) : (s.notice src code p).time = s.time := by rw [notice_frame]
@[simp] theorem notice_timeSeen (src code p : Nat) : (s.notice src code p).timeSeen = s.timeSeen := by rw [notice_frame]
@[simp] theorem notice_timeLost (src code p : Nat) : (s.notice src code p).timeLost = s.timeLost := by rw [notice_frame]
@[simp] theorem notice_timeShadow (src code p : Nat) : (s.notice src code p).timeShadow = s.timeShadow := by rw [notice_frame]
@[simp] theorem notice_evq (src code p : Nat) : (s.notice src code p).evq = s.evq := by rw [notice_frame]
@[simp] theorem notice_logm (src code p : Nat) : (s.notice src code p).logm = s.logm := by rw [notice_frame]
@[simp] theorem notice_cfgLock (src code p : Nat) : (s.notice src code p).cfgLock = s.cfgLock := by rw [notice_frame]
@[simp] theorem notice_trap (src code p : Nat) : (s.notice src code p).trap = s.trap := by rw [notice_frame]
@[simp] theorem notice_tel (src code p : Nat) : (s.notice src code p).tel = s.tel := by rw [notice_frame]
@[simp] theorem notice_ctlRdata (src code p : Nat) : (s.notice src code p).ctlRdata = s.ctlRdata := by rw [notice_frame]
@[simp] theorem notice_mbx (src code p : Nat) : (s.notice src code p).mbx = s.mbx := by rw [notice_frame]
@[simp] theorem notice_bells (src code p : Nat) : (s.notice src code p).bells = s.bells := by rw [notice_frame]
@[simp] theorem notice_policy (src code p : Nat) : (s.notice src code p).policy = s.policy := by rw [notice_frame]
@[simp] theorem notice_longOps (src code p : Nat) : (s.notice src code p).longOps = s.longOps := by rw [notice_frame]
@[simp] theorem notice_loads (src code p : Nat) : (s.notice src code p).loads = s.loads := by rw [notice_frame]
@[simp] theorem notice_slots (src code p : Nat) : (s.notice src code p).slots = s.slots := by rw [notice_frame]
@[simp] theorem notice_chains (src code p : Nat) : (s.notice src code p).chains = s.chains := by rw [notice_frame]
@[simp] theorem notice_nextVer (src code p : Nat) : (s.notice src code p).nextVer = s.nextVer := by rw [notice_frame]
@[simp] theorem notice_streams (src code p : Nat) : (s.notice src code p).streams = s.streams := by rw [notice_frame]
@[simp] theorem notice_intervals (src code p : Nat) : (s.notice src code p).intervals = s.intervals := by rw [notice_frame]
@[simp] theorem notice_log (src code p : Nat) : (s.notice src code p).log = s.log := by rw [notice_frame]
@[simp] theorem notice_bands (src code p : Nat) : (s.notice src code p).bands = s.bands := by rw [notice_frame]
@[simp] theorem notice_tiles (src code p : Nat) : (s.notice src code p).tiles = s.tiles := by rw [notice_frame]
@[simp] theorem notice_mgmtCorrected (src code p : Nat) : (s.notice src code p).mgmtCorrected = s.mgmtCorrected := by rw [notice_frame]
@[simp] theorem notice_commandsTaken (src code p : Nat) : (s.notice src code p).commandsTaken = s.commandsTaken := by rw [notice_frame]
@[simp] theorem notice_refusals (src code p : Nat) : (s.notice src code p).refusals = s.refusals := by rw [notice_frame]
@[simp] theorem notice_booksBad (src code p : Nat) : (s.notice src code p).booksBad = s.booksBad := by rw [notice_frame]
@[simp] theorem notice_mgmtBlocked (src code p : Nat) : (s.notice src code p).mgmtBlocked = s.mgmtBlocked := by rw [notice_frame]
@[simp] theorem notice_tap (src code p : Nat) : (s.notice src code p).tap = s.tap := by rw [notice_frame]
@[simp] theorem notice_declaration (src code p : Nat) : (s.notice src code p).declaration = s.declaration := by rw [notice_frame]
@[simp] theorem notice_ctlAck (src code p : Nat) : (s.notice src code p).ctlAck = s.ctlAck := by rw [notice_frame]
@[simp] theorem notice_band (src code p : Nat) (b : Nat) : (s.notice src code p).band b = s.band b := by simp [State.band]
@[simp] theorem notice_tile (src code p : Nat) (t : Nat) : (s.notice src code p).tile t = s.tile t := by simp [State.tile]
@[simp] theorem notice_mailbox (src code p : Nat) (m : Nat) : (s.notice src code p).mailbox m = s.mailbox m := by simp [State.mailbox]

/-! ### The change log (R388 to R391) -/

/-- An entry at the next SEQ. -/
theorem logAppend_frame (i : LogInfo) :
    s.logAppend i = { s with intStatus := (s.logAppend i).intStatus, log := (s.logAppend i).log } := by
  unfold logAppend
  dsimp only
  split <;> rfl

/-- A dropped entry. -/
theorem logDrop_frame (k x : Nat) :
    s.logDrop k x = { s with intStatus := (s.logDrop k x).intStatus, log := (s.logDrop k x).log, arb := (s.logDrop k x).arb, taps := (s.logDrop k x).taps } := by
  unfold logDrop
  rw [report_frame]

/-- The LOG_WRAP entry. -/
theorem logWrap_frame  :
    s.logWrap  = { s with intStatus := (s.logWrap ).intStatus, log := (s.logWrap ).log, arb := (s.logWrap ).arb, taps := (s.logWrap ).taps } := by
  unfold logWrap
  dsimp only
  split
  · split
    · rw [logAppend_frame]
    · rw [logDrop_frame]
  · rfl

/-- An entry changes the log and INT_STATUS.LOG_LOW; where LOG_WRAP finds no room, the taps and the arbiter. -/
theorem logPut_frame (i : LogInfo) :
    s.logPut i = { s with intStatus := (s.logPut i).intStatus, log := (s.logPut i).log, arb := (s.logPut i).arb, taps := (s.logPut i).taps } := by
  unfold logPut
  rw [logWrap_frame, logAppend_frame]

@[simp] theorem logPut_pending (i : LogInfo) : (s.logPut i).pending = s.pending := by rw [logPut_frame]
@[simp] theorem logPut_porN (i : LogInfo) : (s.logPut i).porN = s.porN := by rw [logPut_frame]
@[simp] theorem logPut_mclk (i : LogInfo) : (s.logPut i).mclk = s.mclk := by rw [logPut_frame]
@[simp] theorem logPut_mgmtOut (i : LogInfo) : (s.logPut i).mgmtOut = s.mgmtOut := by rw [logPut_frame]
@[simp] theorem logPut_fclkOut (i : LogInfo) : (s.logPut i).fclkOut = s.fclkOut := by rw [logPut_frame]
@[simp] theorem logPut_tclkOut (i : LogInfo) : (s.logPut i).tclkOut = s.tclkOut := by rw [logPut_frame]
@[simp] theorem logPut_fresh (i : LogInfo) : (s.logPut i).fresh = s.fresh := by rw [logPut_frame]
@[simp] theorem logPut_fwVersion (i : LogInfo) : (s.logPut i).fwVersion = s.fwVersion := by rw [logPut_frame]
@[simp] theorem logPut_service (i : LogInfo) : (s.logPut i).service = s.service := by rw [logPut_frame]
@[simp] theorem logPut_cause (i : LogInfo) : (s.logPut i).cause = s.cause := by rw [logPut_frame]
@[simp] theorem logPut_slotB (i : LogInfo) : (s.logPut i).slotB = s.slotB := by rw [logPut_frame]
@[simp] theorem logPut_bootPhase (i : LogInfo) : (s.logPut i).bootPhase = s.bootPhase := by rw [logPut_frame]
@[simp] theorem logPut_keyHash (i : LogInfo) : (s.logPut i).keyHash = s.keyHash := by rw [logPut_frame]
@[simp] theorem logPut_keyArc (i : LogInfo) : (s.logPut i).keyArc = s.keyArc := by rw [logPut_frame]
@[simp] theorem logPut_keyValid (i : LogInfo) : (s.logPut i).keyValid = s.keyValid := by rw [logPut_frame]
@[simp] theorem logPut_bootBase (i : LogInfo) : (s.logPut i).bootBase = s.bootBase := by rw [logPut_frame]
@[simp] theorem logPut_arcReq (i : LogInfo) : (s.logPut i).arcReq = s.arcReq := by rw [logPut_frame]
@[simp] theorem logPut_imgA (i : LogInfo) : (s.logPut i).imgA = s.imgA := by rw [logPut_frame]
@[simp] theorem logPut_arcWaits (i : LogInfo) : (s.logPut i).arcWaits = s.arcWaits := by rw [logPut_frame]
@[simp] theorem logPut_imgB (i : LogInfo) : (s.logPut i).imgB = s.imgB := by rw [logPut_frame]
@[simp] theorem logPut_staging (i : LogInfo) : (s.logPut i).staging = s.staging := by rw [logPut_frame]
@[simp] theorem logPut_readyDone (i : LogInfo) : (s.logPut i).readyDone = s.readyDone := by rw [logPut_frame]
@[simp] theorem logPut_vaneRestarts (i : LogInfo) : (s.logPut i).vaneRestarts = s.vaneRestarts := by rw [logPut_frame]
@[simp] theorem logPut_handover (i : LogInfo) : (s.logPut i).handover = s.handover := by rw [logPut_frame]
@[simp] theorem logPut_intEnable (i : LogInfo) : (s.logPut i).intEnable = s.intEnable := by rw [logPut_frame]
@[simp] theorem logPut_fatal (i : LogInfo) : (s.logPut i).fatal = s.fatal := by rw [logPut_frame]
@[simp] theorem logPut_time (i : LogInfo) : (s.logPut i).time = s.time := by rw [logPut_frame]
@[simp] theorem logPut_timeSeen (i : LogInfo) : (s.logPut i).timeSeen = s.timeSeen := by rw [logPut_frame]
@[simp] theorem logPut_timeLost (i : LogInfo) : (s.logPut i).timeLost = s.timeLost := by rw [logPut_frame]
@[simp] theorem logPut_timeShadow (i : LogInfo) : (s.logPut i).timeShadow = s.timeShadow := by rw [logPut_frame]
@[simp] theorem logPut_evq (i : LogInfo) : (s.logPut i).evq = s.evq := by rw [logPut_frame]
@[simp] theorem logPut_logm (i : LogInfo) : (s.logPut i).logm = s.logm := by rw [logPut_frame]
@[simp] theorem logPut_cfgLock (i : LogInfo) : (s.logPut i).cfgLock = s.cfgLock := by rw [logPut_frame]
@[simp] theorem logPut_trap (i : LogInfo) : (s.logPut i).trap = s.trap := by rw [logPut_frame]
@[simp] theorem logPut_tel (i : LogInfo) : (s.logPut i).tel = s.tel := by rw [logPut_frame]
@[simp] theorem logPut_ctlRdata (i : LogInfo) : (s.logPut i).ctlRdata = s.ctlRdata := by rw [logPut_frame]
@[simp] theorem logPut_mbx (i : LogInfo) : (s.logPut i).mbx = s.mbx := by rw [logPut_frame]
@[simp] theorem logPut_bells (i : LogInfo) : (s.logPut i).bells = s.bells := by rw [logPut_frame]
@[simp] theorem logPut_policy (i : LogInfo) : (s.logPut i).policy = s.policy := by rw [logPut_frame]
@[simp] theorem logPut_longOps (i : LogInfo) : (s.logPut i).longOps = s.longOps := by rw [logPut_frame]
@[simp] theorem logPut_loads (i : LogInfo) : (s.logPut i).loads = s.loads := by rw [logPut_frame]
@[simp] theorem logPut_slots (i : LogInfo) : (s.logPut i).slots = s.slots := by rw [logPut_frame]
@[simp] theorem logPut_chains (i : LogInfo) : (s.logPut i).chains = s.chains := by rw [logPut_frame]
@[simp] theorem logPut_nextVer (i : LogInfo) : (s.logPut i).nextVer = s.nextVer := by rw [logPut_frame]
@[simp] theorem logPut_streams (i : LogInfo) : (s.logPut i).streams = s.streams := by rw [logPut_frame]
@[simp] theorem logPut_intervals (i : LogInfo) : (s.logPut i).intervals = s.intervals := by rw [logPut_frame]
@[simp] theorem logPut_bands (i : LogInfo) : (s.logPut i).bands = s.bands := by rw [logPut_frame]
@[simp] theorem logPut_tiles (i : LogInfo) : (s.logPut i).tiles = s.tiles := by rw [logPut_frame]
@[simp] theorem logPut_mgmtCorrected (i : LogInfo) : (s.logPut i).mgmtCorrected = s.mgmtCorrected := by rw [logPut_frame]
@[simp] theorem logPut_commandsTaken (i : LogInfo) : (s.logPut i).commandsTaken = s.commandsTaken := by rw [logPut_frame]
@[simp] theorem logPut_refusals (i : LogInfo) : (s.logPut i).refusals = s.refusals := by rw [logPut_frame]
@[simp] theorem logPut_booksBad (i : LogInfo) : (s.logPut i).booksBad = s.booksBad := by rw [logPut_frame]
@[simp] theorem logPut_mgmtBlocked (i : LogInfo) : (s.logPut i).mgmtBlocked = s.mgmtBlocked := by rw [logPut_frame]
@[simp] theorem logPut_tap (i : LogInfo) : (s.logPut i).tap = s.tap := by rw [logPut_frame]
@[simp] theorem logPut_declaration (i : LogInfo) : (s.logPut i).declaration = s.declaration := by rw [logPut_frame]
@[simp] theorem logPut_ctlAck (i : LogInfo) : (s.logPut i).ctlAck = s.ctlAck := by rw [logPut_frame]
@[simp] theorem logPut_band (i : LogInfo) (b : Nat) : (s.logPut i).band b = s.band b := by simp [State.band]
@[simp] theorem logPut_tile (i : LogInfo) (t : Nat) : (s.logPut i).tile t = s.tile t := by simp [State.tile]
@[simp] theorem logPut_mailbox (i : LogInfo) (m : Nat) : (s.logPut i).mailbox m = s.mailbox m := by simp [State.mailbox]

/-- So does an entry of ORIGIN 6. -/
theorem logHw_frame (k x a b : Nat) :
    s.logHw k x a b = { s with intStatus := (s.logHw k x a b).intStatus, log := (s.logHw k x a b).log, arb := (s.logHw k x a b).arb, taps := (s.logHw k x a b).taps } := by
  unfold logHw
  split
  · rw [logPut_frame]
  · rw [logWrap_frame, logDrop_frame]

@[simp] theorem logHw_pending (k x a b : Nat) : (s.logHw k x a b).pending = s.pending := by rw [logHw_frame]
@[simp] theorem logHw_porN (k x a b : Nat) : (s.logHw k x a b).porN = s.porN := by rw [logHw_frame]
@[simp] theorem logHw_mclk (k x a b : Nat) : (s.logHw k x a b).mclk = s.mclk := by rw [logHw_frame]
@[simp] theorem logHw_mgmtOut (k x a b : Nat) : (s.logHw k x a b).mgmtOut = s.mgmtOut := by rw [logHw_frame]
@[simp] theorem logHw_fclkOut (k x a b : Nat) : (s.logHw k x a b).fclkOut = s.fclkOut := by rw [logHw_frame]
@[simp] theorem logHw_tclkOut (k x a b : Nat) : (s.logHw k x a b).tclkOut = s.tclkOut := by rw [logHw_frame]
@[simp] theorem logHw_fresh (k x a b : Nat) : (s.logHw k x a b).fresh = s.fresh := by rw [logHw_frame]
@[simp] theorem logHw_fwVersion (k x a b : Nat) : (s.logHw k x a b).fwVersion = s.fwVersion := by rw [logHw_frame]
@[simp] theorem logHw_service (k x a b : Nat) : (s.logHw k x a b).service = s.service := by rw [logHw_frame]
@[simp] theorem logHw_cause (k x a b : Nat) : (s.logHw k x a b).cause = s.cause := by rw [logHw_frame]
@[simp] theorem logHw_slotB (k x a b : Nat) : (s.logHw k x a b).slotB = s.slotB := by rw [logHw_frame]
@[simp] theorem logHw_bootPhase (k x a b : Nat) : (s.logHw k x a b).bootPhase = s.bootPhase := by rw [logHw_frame]
@[simp] theorem logHw_keyHash (k x a b : Nat) : (s.logHw k x a b).keyHash = s.keyHash := by rw [logHw_frame]
@[simp] theorem logHw_keyArc (k x a b : Nat) : (s.logHw k x a b).keyArc = s.keyArc := by rw [logHw_frame]
@[simp] theorem logHw_keyValid (k x a b : Nat) : (s.logHw k x a b).keyValid = s.keyValid := by rw [logHw_frame]
@[simp] theorem logHw_bootBase (k x a b : Nat) : (s.logHw k x a b).bootBase = s.bootBase := by rw [logHw_frame]
@[simp] theorem logHw_arcReq (k x a b : Nat) : (s.logHw k x a b).arcReq = s.arcReq := by rw [logHw_frame]
@[simp] theorem logHw_imgA (k x a b : Nat) : (s.logHw k x a b).imgA = s.imgA := by rw [logHw_frame]
@[simp] theorem logHw_arcWaits (k x a b : Nat) : (s.logHw k x a b).arcWaits = s.arcWaits := by rw [logHw_frame]
@[simp] theorem logHw_imgB (k x a b : Nat) : (s.logHw k x a b).imgB = s.imgB := by rw [logHw_frame]
@[simp] theorem logHw_staging (k x a b : Nat) : (s.logHw k x a b).staging = s.staging := by rw [logHw_frame]
@[simp] theorem logHw_readyDone (k x a b : Nat) : (s.logHw k x a b).readyDone = s.readyDone := by rw [logHw_frame]
@[simp] theorem logHw_vaneRestarts (k x a b : Nat) : (s.logHw k x a b).vaneRestarts = s.vaneRestarts := by rw [logHw_frame]
@[simp] theorem logHw_handover (k x a b : Nat) : (s.logHw k x a b).handover = s.handover := by rw [logHw_frame]
@[simp] theorem logHw_intEnable (k x a b : Nat) : (s.logHw k x a b).intEnable = s.intEnable := by rw [logHw_frame]
@[simp] theorem logHw_fatal (k x a b : Nat) : (s.logHw k x a b).fatal = s.fatal := by rw [logHw_frame]
@[simp] theorem logHw_time (k x a b : Nat) : (s.logHw k x a b).time = s.time := by rw [logHw_frame]
@[simp] theorem logHw_timeSeen (k x a b : Nat) : (s.logHw k x a b).timeSeen = s.timeSeen := by rw [logHw_frame]
@[simp] theorem logHw_timeLost (k x a b : Nat) : (s.logHw k x a b).timeLost = s.timeLost := by rw [logHw_frame]
@[simp] theorem logHw_timeShadow (k x a b : Nat) : (s.logHw k x a b).timeShadow = s.timeShadow := by rw [logHw_frame]
@[simp] theorem logHw_evq (k x a b : Nat) : (s.logHw k x a b).evq = s.evq := by rw [logHw_frame]
@[simp] theorem logHw_logm (k x a b : Nat) : (s.logHw k x a b).logm = s.logm := by rw [logHw_frame]
@[simp] theorem logHw_cfgLock (k x a b : Nat) : (s.logHw k x a b).cfgLock = s.cfgLock := by rw [logHw_frame]
@[simp] theorem logHw_trap (k x a b : Nat) : (s.logHw k x a b).trap = s.trap := by rw [logHw_frame]
@[simp] theorem logHw_tel (k x a b : Nat) : (s.logHw k x a b).tel = s.tel := by rw [logHw_frame]
@[simp] theorem logHw_ctlRdata (k x a b : Nat) : (s.logHw k x a b).ctlRdata = s.ctlRdata := by rw [logHw_frame]
@[simp] theorem logHw_mbx (k x a b : Nat) : (s.logHw k x a b).mbx = s.mbx := by rw [logHw_frame]
@[simp] theorem logHw_bells (k x a b : Nat) : (s.logHw k x a b).bells = s.bells := by rw [logHw_frame]
@[simp] theorem logHw_policy (k x a b : Nat) : (s.logHw k x a b).policy = s.policy := by rw [logHw_frame]
@[simp] theorem logHw_longOps (k x a b : Nat) : (s.logHw k x a b).longOps = s.longOps := by rw [logHw_frame]
@[simp] theorem logHw_loads (k x a b : Nat) : (s.logHw k x a b).loads = s.loads := by rw [logHw_frame]
@[simp] theorem logHw_slots (k x a b : Nat) : (s.logHw k x a b).slots = s.slots := by rw [logHw_frame]
@[simp] theorem logHw_chains (k x a b : Nat) : (s.logHw k x a b).chains = s.chains := by rw [logHw_frame]
@[simp] theorem logHw_nextVer (k x a b : Nat) : (s.logHw k x a b).nextVer = s.nextVer := by rw [logHw_frame]
@[simp] theorem logHw_streams (k x a b : Nat) : (s.logHw k x a b).streams = s.streams := by rw [logHw_frame]
@[simp] theorem logHw_intervals (k x a b : Nat) : (s.logHw k x a b).intervals = s.intervals := by rw [logHw_frame]
@[simp] theorem logHw_bands (k x a b : Nat) : (s.logHw k x a b).bands = s.bands := by rw [logHw_frame]
@[simp] theorem logHw_tiles (k x a b : Nat) : (s.logHw k x a b).tiles = s.tiles := by rw [logHw_frame]
@[simp] theorem logHw_mgmtCorrected (k x a b : Nat) : (s.logHw k x a b).mgmtCorrected = s.mgmtCorrected := by rw [logHw_frame]
@[simp] theorem logHw_commandsTaken (k x a b : Nat) : (s.logHw k x a b).commandsTaken = s.commandsTaken := by rw [logHw_frame]
@[simp] theorem logHw_refusals (k x a b : Nat) : (s.logHw k x a b).refusals = s.refusals := by rw [logHw_frame]
@[simp] theorem logHw_booksBad (k x a b : Nat) : (s.logHw k x a b).booksBad = s.booksBad := by rw [logHw_frame]
@[simp] theorem logHw_mgmtBlocked (k x a b : Nat) : (s.logHw k x a b).mgmtBlocked = s.mgmtBlocked := by rw [logHw_frame]
@[simp] theorem logHw_tap (k x a b : Nat) : (s.logHw k x a b).tap = s.tap := by rw [logHw_frame]
@[simp] theorem logHw_declaration (k x a b : Nat) : (s.logHw k x a b).declaration = s.declaration := by rw [logHw_frame]
@[simp] theorem logHw_ctlAck (k x a b : Nat) : (s.logHw k x a b).ctlAck = s.ctlAck := by rw [logHw_frame]
@[simp] theorem logHw_band (k x a b : Nat) (b : Nat) : (s.logHw k x a b).band b = s.band b := by simp [State.band]
@[simp] theorem logHw_tile (k x a b : Nat) (t : Nat) : (s.logHw k x a b).tile t = s.tile t := by simp [State.tile]
@[simp] theorem logHw_mailbox (k x a b : Nat) (m : Nat) : (s.logHw k x a b).mailbox m = s.mailbox m := by simp [State.mailbox]

/-- So does an entry of ORIGIN 4. -/
theorem logGlomen_frame (k r x a b : Nat) :
    s.logGlomen k r x a b = { s with intStatus := (s.logGlomen k r x a b).intStatus, log := (s.logGlomen k r x a b).log, arb := (s.logGlomen k r x a b).arb, taps := (s.logGlomen k r x a b).taps } := by
  unfold logGlomen
  split
  · rw [logPut_frame]
  · rfl

@[simp] theorem logGlomen_pending (k r x a b : Nat) : (s.logGlomen k r x a b).pending = s.pending := by rw [logGlomen_frame]
@[simp] theorem logGlomen_porN (k r x a b : Nat) : (s.logGlomen k r x a b).porN = s.porN := by rw [logGlomen_frame]
@[simp] theorem logGlomen_mclk (k r x a b : Nat) : (s.logGlomen k r x a b).mclk = s.mclk := by rw [logGlomen_frame]
@[simp] theorem logGlomen_mgmtOut (k r x a b : Nat) : (s.logGlomen k r x a b).mgmtOut = s.mgmtOut := by rw [logGlomen_frame]
@[simp] theorem logGlomen_fclkOut (k r x a b : Nat) : (s.logGlomen k r x a b).fclkOut = s.fclkOut := by rw [logGlomen_frame]
@[simp] theorem logGlomen_tclkOut (k r x a b : Nat) : (s.logGlomen k r x a b).tclkOut = s.tclkOut := by rw [logGlomen_frame]
@[simp] theorem logGlomen_fresh (k r x a b : Nat) : (s.logGlomen k r x a b).fresh = s.fresh := by rw [logGlomen_frame]
@[simp] theorem logGlomen_fwVersion (k r x a b : Nat) : (s.logGlomen k r x a b).fwVersion = s.fwVersion := by rw [logGlomen_frame]
@[simp] theorem logGlomen_service (k r x a b : Nat) : (s.logGlomen k r x a b).service = s.service := by rw [logGlomen_frame]
@[simp] theorem logGlomen_cause (k r x a b : Nat) : (s.logGlomen k r x a b).cause = s.cause := by rw [logGlomen_frame]
@[simp] theorem logGlomen_slotB (k r x a b : Nat) : (s.logGlomen k r x a b).slotB = s.slotB := by rw [logGlomen_frame]
@[simp] theorem logGlomen_bootPhase (k r x a b : Nat) : (s.logGlomen k r x a b).bootPhase = s.bootPhase := by rw [logGlomen_frame]
@[simp] theorem logGlomen_keyHash (k r x a b : Nat) : (s.logGlomen k r x a b).keyHash = s.keyHash := by rw [logGlomen_frame]
@[simp] theorem logGlomen_keyArc (k r x a b : Nat) : (s.logGlomen k r x a b).keyArc = s.keyArc := by rw [logGlomen_frame]
@[simp] theorem logGlomen_keyValid (k r x a b : Nat) : (s.logGlomen k r x a b).keyValid = s.keyValid := by rw [logGlomen_frame]
@[simp] theorem logGlomen_bootBase (k r x a b : Nat) : (s.logGlomen k r x a b).bootBase = s.bootBase := by rw [logGlomen_frame]
@[simp] theorem logGlomen_arcReq (k r x a b : Nat) : (s.logGlomen k r x a b).arcReq = s.arcReq := by rw [logGlomen_frame]
@[simp] theorem logGlomen_imgA (k r x a b : Nat) : (s.logGlomen k r x a b).imgA = s.imgA := by rw [logGlomen_frame]
@[simp] theorem logGlomen_arcWaits (k r x a b : Nat) : (s.logGlomen k r x a b).arcWaits = s.arcWaits := by rw [logGlomen_frame]
@[simp] theorem logGlomen_imgB (k r x a b : Nat) : (s.logGlomen k r x a b).imgB = s.imgB := by rw [logGlomen_frame]
@[simp] theorem logGlomen_staging (k r x a b : Nat) : (s.logGlomen k r x a b).staging = s.staging := by rw [logGlomen_frame]
@[simp] theorem logGlomen_readyDone (k r x a b : Nat) : (s.logGlomen k r x a b).readyDone = s.readyDone := by rw [logGlomen_frame]
@[simp] theorem logGlomen_vaneRestarts (k r x a b : Nat) : (s.logGlomen k r x a b).vaneRestarts = s.vaneRestarts := by rw [logGlomen_frame]
@[simp] theorem logGlomen_handover (k r x a b : Nat) : (s.logGlomen k r x a b).handover = s.handover := by rw [logGlomen_frame]
@[simp] theorem logGlomen_intEnable (k r x a b : Nat) : (s.logGlomen k r x a b).intEnable = s.intEnable := by rw [logGlomen_frame]
@[simp] theorem logGlomen_fatal (k r x a b : Nat) : (s.logGlomen k r x a b).fatal = s.fatal := by rw [logGlomen_frame]
@[simp] theorem logGlomen_time (k r x a b : Nat) : (s.logGlomen k r x a b).time = s.time := by rw [logGlomen_frame]
@[simp] theorem logGlomen_timeSeen (k r x a b : Nat) : (s.logGlomen k r x a b).timeSeen = s.timeSeen := by rw [logGlomen_frame]
@[simp] theorem logGlomen_timeLost (k r x a b : Nat) : (s.logGlomen k r x a b).timeLost = s.timeLost := by rw [logGlomen_frame]
@[simp] theorem logGlomen_timeShadow (k r x a b : Nat) : (s.logGlomen k r x a b).timeShadow = s.timeShadow := by rw [logGlomen_frame]
@[simp] theorem logGlomen_evq (k r x a b : Nat) : (s.logGlomen k r x a b).evq = s.evq := by rw [logGlomen_frame]
@[simp] theorem logGlomen_logm (k r x a b : Nat) : (s.logGlomen k r x a b).logm = s.logm := by rw [logGlomen_frame]
@[simp] theorem logGlomen_cfgLock (k r x a b : Nat) : (s.logGlomen k r x a b).cfgLock = s.cfgLock := by rw [logGlomen_frame]
@[simp] theorem logGlomen_trap (k r x a b : Nat) : (s.logGlomen k r x a b).trap = s.trap := by rw [logGlomen_frame]
@[simp] theorem logGlomen_tel (k r x a b : Nat) : (s.logGlomen k r x a b).tel = s.tel := by rw [logGlomen_frame]
@[simp] theorem logGlomen_ctlRdata (k r x a b : Nat) : (s.logGlomen k r x a b).ctlRdata = s.ctlRdata := by rw [logGlomen_frame]
@[simp] theorem logGlomen_mbx (k r x a b : Nat) : (s.logGlomen k r x a b).mbx = s.mbx := by rw [logGlomen_frame]
@[simp] theorem logGlomen_bells (k r x a b : Nat) : (s.logGlomen k r x a b).bells = s.bells := by rw [logGlomen_frame]
@[simp] theorem logGlomen_policy (k r x a b : Nat) : (s.logGlomen k r x a b).policy = s.policy := by rw [logGlomen_frame]
@[simp] theorem logGlomen_longOps (k r x a b : Nat) : (s.logGlomen k r x a b).longOps = s.longOps := by rw [logGlomen_frame]
@[simp] theorem logGlomen_loads (k r x a b : Nat) : (s.logGlomen k r x a b).loads = s.loads := by rw [logGlomen_frame]
@[simp] theorem logGlomen_slots (k r x a b : Nat) : (s.logGlomen k r x a b).slots = s.slots := by rw [logGlomen_frame]
@[simp] theorem logGlomen_chains (k r x a b : Nat) : (s.logGlomen k r x a b).chains = s.chains := by rw [logGlomen_frame]
@[simp] theorem logGlomen_nextVer (k r x a b : Nat) : (s.logGlomen k r x a b).nextVer = s.nextVer := by rw [logGlomen_frame]
@[simp] theorem logGlomen_streams (k r x a b : Nat) : (s.logGlomen k r x a b).streams = s.streams := by rw [logGlomen_frame]
@[simp] theorem logGlomen_intervals (k r x a b : Nat) : (s.logGlomen k r x a b).intervals = s.intervals := by rw [logGlomen_frame]
@[simp] theorem logGlomen_bands (k r x a b : Nat) : (s.logGlomen k r x a b).bands = s.bands := by rw [logGlomen_frame]
@[simp] theorem logGlomen_tiles (k r x a b : Nat) : (s.logGlomen k r x a b).tiles = s.tiles := by rw [logGlomen_frame]
@[simp] theorem logGlomen_mgmtCorrected (k r x a b : Nat) : (s.logGlomen k r x a b).mgmtCorrected = s.mgmtCorrected := by rw [logGlomen_frame]
@[simp] theorem logGlomen_commandsTaken (k r x a b : Nat) : (s.logGlomen k r x a b).commandsTaken = s.commandsTaken := by rw [logGlomen_frame]
@[simp] theorem logGlomen_refusals (k r x a b : Nat) : (s.logGlomen k r x a b).refusals = s.refusals := by rw [logGlomen_frame]
@[simp] theorem logGlomen_booksBad (k r x a b : Nat) : (s.logGlomen k r x a b).booksBad = s.booksBad := by rw [logGlomen_frame]
@[simp] theorem logGlomen_mgmtBlocked (k r x a b : Nat) : (s.logGlomen k r x a b).mgmtBlocked = s.mgmtBlocked := by rw [logGlomen_frame]
@[simp] theorem logGlomen_tap (k r x a b : Nat) : (s.logGlomen k r x a b).tap = s.tap := by rw [logGlomen_frame]
@[simp] theorem logGlomen_declaration (k r x a b : Nat) : (s.logGlomen k r x a b).declaration = s.declaration := by rw [logGlomen_frame]
@[simp] theorem logGlomen_ctlAck (k r x a b : Nat) : (s.logGlomen k r x a b).ctlAck = s.ctlAck := by rw [logGlomen_frame]
@[simp] theorem logGlomen_band (k r x a b : Nat) (b : Nat) : (s.logGlomen k r x a b).band b = s.band b := by simp [State.band]
@[simp] theorem logGlomen_tile (k r x a b : Nat) (t : Nat) : (s.logGlomen k r x a b).tile t = s.tile t := by simp [State.tile]
@[simp] theorem logGlomen_mailbox (k r x a b : Nat) (m : Nat) : (s.logGlomen k r x a b).mailbox m = s.mailbox m := by simp [State.mailbox]

/-- The entry that `logPut` makes is the next one. -/
theorem logPut_entries (i : LogInfo) : ∃ more, (s.logPut i).log.entries =
    s.log.entries ++ (entryAt s i.origin i.kind i.result (BitVec.ofNat 16 i.tag) i.object i.oldh i.newh, Mirror.unsent) :: more := by
  have h : (s.logAppend i).log.entries =
      s.log.entries ++ [(entryAt s i.origin i.kind i.result (BitVec.ofNat 16 i.tag) i.object i.oldh i.newh, Mirror.unsent)] := by
    unfold logAppend
    dsimp only
    split <;> rfl
  unfold logPut logWrap
  dsimp only
  split
  · split
    · have g : ∀ (u : State) (j : LogInfo), ∃ e, (u.logAppend j).log.entries = u.log.entries ++ [e] := by
        intro u j
        unfold logAppend
        dsimp only
        split <;> exact ⟨_, rfl⟩
      obtain ⟨e, he⟩ := g { s.logAppend i with log := { (s.logAppend i).log with epoch := (s.logAppend i).log.epoch + 1 } }
        { origin := 6, kind := kLogWrap, result := 0, tag := 0xFFFF, object := 0,
          oldh := (s.logAppend i).log.epoch.toNat, newh := ((s.logAppend i).log.epoch + 1).toNat }
      refine ⟨[e], ?_⟩
      rw [he]
      simp [h]
    · refine ⟨[], ?_⟩
      unfold logDrop
      simp [h]
  · exact ⟨[], h⟩

/-! ### Answers (R329 to R332) -/

/-- A response or READY is written. -/
theorem writeOut_frame (m : Nat) (ws : List Nat) :
    s.writeOut m ws = { s with intStatus := (s.writeOut m ws).intStatus, mbx := (s.writeOut m ws).mbx } := by
  rfl

/-- A response is written, or held. -/
theorem respond_frame (m : Nat) (ws : List Nat) :
    s.respond m ws = { s with intStatus := (s.respond m ws).intStatus, mbx := (s.respond m ws).mbx } := by
  unfold respond
  dsimp only
  split <;> rfl

/-- An answer changes mailboxes, doorbells, the count of commands and INT_STATUS. -/
theorem answer_frame (c : Cmd) (st : Nat) (ws : List Nat) :
    s.answer c st ws = { s with handover := (s.answer c st ws).handover, intStatus := (s.answer c st ws).intStatus, mbx := (s.answer c st ws).mbx, bells := (s.answer c st ws).bells, commandsTaken := (s.answer c st ws).commandsTaken } := by
  unfold answer
  rw [respond_frame]
  rfl

@[simp] theorem answer_pending (c : Cmd) (st : Nat) (ws : List Nat) : (s.answer c st ws).pending = s.pending := by rw [answer_frame]
@[simp] theorem answer_porN (c : Cmd) (st : Nat) (ws : List Nat) : (s.answer c st ws).porN = s.porN := by rw [answer_frame]
@[simp] theorem answer_mclk (c : Cmd) (st : Nat) (ws : List Nat) : (s.answer c st ws).mclk = s.mclk := by rw [answer_frame]
@[simp] theorem answer_mgmtOut (c : Cmd) (st : Nat) (ws : List Nat) : (s.answer c st ws).mgmtOut = s.mgmtOut := by rw [answer_frame]
@[simp] theorem answer_fclkOut (c : Cmd) (st : Nat) (ws : List Nat) : (s.answer c st ws).fclkOut = s.fclkOut := by rw [answer_frame]
@[simp] theorem answer_tclkOut (c : Cmd) (st : Nat) (ws : List Nat) : (s.answer c st ws).tclkOut = s.tclkOut := by rw [answer_frame]
@[simp] theorem answer_fresh (c : Cmd) (st : Nat) (ws : List Nat) : (s.answer c st ws).fresh = s.fresh := by rw [answer_frame]
@[simp] theorem answer_fwVersion (c : Cmd) (st : Nat) (ws : List Nat) : (s.answer c st ws).fwVersion = s.fwVersion := by rw [answer_frame]
@[simp] theorem answer_service (c : Cmd) (st : Nat) (ws : List Nat) : (s.answer c st ws).service = s.service := by rw [answer_frame]
@[simp] theorem answer_cause (c : Cmd) (st : Nat) (ws : List Nat) : (s.answer c st ws).cause = s.cause := by rw [answer_frame]
@[simp] theorem answer_slotB (c : Cmd) (st : Nat) (ws : List Nat) : (s.answer c st ws).slotB = s.slotB := by rw [answer_frame]
@[simp] theorem answer_bootPhase (c : Cmd) (st : Nat) (ws : List Nat) : (s.answer c st ws).bootPhase = s.bootPhase := by rw [answer_frame]
@[simp] theorem answer_keyHash (c : Cmd) (st : Nat) (ws : List Nat) : (s.answer c st ws).keyHash = s.keyHash := by rw [answer_frame]
@[simp] theorem answer_keyArc (c : Cmd) (st : Nat) (ws : List Nat) : (s.answer c st ws).keyArc = s.keyArc := by rw [answer_frame]
@[simp] theorem answer_keyValid (c : Cmd) (st : Nat) (ws : List Nat) : (s.answer c st ws).keyValid = s.keyValid := by rw [answer_frame]
@[simp] theorem answer_bootBase (c : Cmd) (st : Nat) (ws : List Nat) : (s.answer c st ws).bootBase = s.bootBase := by rw [answer_frame]
@[simp] theorem answer_arcReq (c : Cmd) (st : Nat) (ws : List Nat) : (s.answer c st ws).arcReq = s.arcReq := by rw [answer_frame]
@[simp] theorem answer_imgA (c : Cmd) (st : Nat) (ws : List Nat) : (s.answer c st ws).imgA = s.imgA := by rw [answer_frame]
@[simp] theorem answer_arcWaits (c : Cmd) (st : Nat) (ws : List Nat) : (s.answer c st ws).arcWaits = s.arcWaits := by rw [answer_frame]
@[simp] theorem answer_imgB (c : Cmd) (st : Nat) (ws : List Nat) : (s.answer c st ws).imgB = s.imgB := by rw [answer_frame]
@[simp] theorem answer_staging (c : Cmd) (st : Nat) (ws : List Nat) : (s.answer c st ws).staging = s.staging := by rw [answer_frame]
@[simp] theorem answer_readyDone (c : Cmd) (st : Nat) (ws : List Nat) : (s.answer c st ws).readyDone = s.readyDone := by rw [answer_frame]
@[simp] theorem answer_vaneRestarts (c : Cmd) (st : Nat) (ws : List Nat) : (s.answer c st ws).vaneRestarts = s.vaneRestarts := by rw [answer_frame]
@[simp] theorem answer_intEnable (c : Cmd) (st : Nat) (ws : List Nat) : (s.answer c st ws).intEnable = s.intEnable := by rw [answer_frame]
@[simp] theorem answer_fatal (c : Cmd) (st : Nat) (ws : List Nat) : (s.answer c st ws).fatal = s.fatal := by rw [answer_frame]
@[simp] theorem answer_time (c : Cmd) (st : Nat) (ws : List Nat) : (s.answer c st ws).time = s.time := by rw [answer_frame]
@[simp] theorem answer_timeSeen (c : Cmd) (st : Nat) (ws : List Nat) : (s.answer c st ws).timeSeen = s.timeSeen := by rw [answer_frame]
@[simp] theorem answer_timeLost (c : Cmd) (st : Nat) (ws : List Nat) : (s.answer c st ws).timeLost = s.timeLost := by rw [answer_frame]
@[simp] theorem answer_timeShadow (c : Cmd) (st : Nat) (ws : List Nat) : (s.answer c st ws).timeShadow = s.timeShadow := by rw [answer_frame]
@[simp] theorem answer_evq (c : Cmd) (st : Nat) (ws : List Nat) : (s.answer c st ws).evq = s.evq := by rw [answer_frame]
@[simp] theorem answer_logm (c : Cmd) (st : Nat) (ws : List Nat) : (s.answer c st ws).logm = s.logm := by rw [answer_frame]
@[simp] theorem answer_cfgLock (c : Cmd) (st : Nat) (ws : List Nat) : (s.answer c st ws).cfgLock = s.cfgLock := by rw [answer_frame]
@[simp] theorem answer_trap (c : Cmd) (st : Nat) (ws : List Nat) : (s.answer c st ws).trap = s.trap := by rw [answer_frame]
@[simp] theorem answer_tel (c : Cmd) (st : Nat) (ws : List Nat) : (s.answer c st ws).tel = s.tel := by rw [answer_frame]
@[simp] theorem answer_ctlRdata (c : Cmd) (st : Nat) (ws : List Nat) : (s.answer c st ws).ctlRdata = s.ctlRdata := by rw [answer_frame]
@[simp] theorem answer_policy (c : Cmd) (st : Nat) (ws : List Nat) : (s.answer c st ws).policy = s.policy := by rw [answer_frame]
@[simp] theorem answer_longOps (c : Cmd) (st : Nat) (ws : List Nat) : (s.answer c st ws).longOps = s.longOps := by rw [answer_frame]
@[simp] theorem answer_loads (c : Cmd) (st : Nat) (ws : List Nat) : (s.answer c st ws).loads = s.loads := by rw [answer_frame]
@[simp] theorem answer_slots (c : Cmd) (st : Nat) (ws : List Nat) : (s.answer c st ws).slots = s.slots := by rw [answer_frame]
@[simp] theorem answer_chains (c : Cmd) (st : Nat) (ws : List Nat) : (s.answer c st ws).chains = s.chains := by rw [answer_frame]
@[simp] theorem answer_nextVer (c : Cmd) (st : Nat) (ws : List Nat) : (s.answer c st ws).nextVer = s.nextVer := by rw [answer_frame]
@[simp] theorem answer_streams (c : Cmd) (st : Nat) (ws : List Nat) : (s.answer c st ws).streams = s.streams := by rw [answer_frame]
@[simp] theorem answer_intervals (c : Cmd) (st : Nat) (ws : List Nat) : (s.answer c st ws).intervals = s.intervals := by rw [answer_frame]
@[simp] theorem answer_log (c : Cmd) (st : Nat) (ws : List Nat) : (s.answer c st ws).log = s.log := by rw [answer_frame]
@[simp] theorem answer_arb (c : Cmd) (st : Nat) (ws : List Nat) : (s.answer c st ws).arb = s.arb := by rw [answer_frame]
@[simp] theorem answer_taps (c : Cmd) (st : Nat) (ws : List Nat) : (s.answer c st ws).taps = s.taps := by rw [answer_frame]
@[simp] theorem answer_bands (c : Cmd) (st : Nat) (ws : List Nat) : (s.answer c st ws).bands = s.bands := by rw [answer_frame]
@[simp] theorem answer_tiles (c : Cmd) (st : Nat) (ws : List Nat) : (s.answer c st ws).tiles = s.tiles := by rw [answer_frame]
@[simp] theorem answer_mgmtCorrected (c : Cmd) (st : Nat) (ws : List Nat) : (s.answer c st ws).mgmtCorrected = s.mgmtCorrected := by rw [answer_frame]
@[simp] theorem answer_refusals (c : Cmd) (st : Nat) (ws : List Nat) : (s.answer c st ws).refusals = s.refusals := by rw [answer_frame]
@[simp] theorem answer_booksBad (c : Cmd) (st : Nat) (ws : List Nat) : (s.answer c st ws).booksBad = s.booksBad := by rw [answer_frame]
@[simp] theorem answer_mgmtBlocked (c : Cmd) (st : Nat) (ws : List Nat) : (s.answer c st ws).mgmtBlocked = s.mgmtBlocked := by rw [answer_frame]
@[simp] theorem answer_tap (c : Cmd) (st : Nat) (ws : List Nat) : (s.answer c st ws).tap = s.tap := by rw [answer_frame]
@[simp] theorem answer_declaration (c : Cmd) (st : Nat) (ws : List Nat) : (s.answer c st ws).declaration = s.declaration := by rw [answer_frame]
@[simp] theorem answer_ctlAck (c : Cmd) (st : Nat) (ws : List Nat) : (s.answer c st ws).ctlAck = s.ctlAck := by rw [answer_frame]
@[simp] theorem answer_band (c : Cmd) (st : Nat) (ws : List Nat) (b : Nat) : (s.answer c st ws).band b = s.band b := by simp [State.band]
@[simp] theorem answer_tile (c : Cmd) (st : Nat) (ws : List Nat) (t : Nat) : (s.answer c st ws).tile t = s.tile t := by simp [State.tile]

/-- A refusal may make an entry, and answers. -/
theorem refuse_frame (c : Cmd) (r : Refuse) :
    s.refuse c r = { s with handover := (s.refuse c r).handover, intStatus := (s.refuse c r).intStatus, mbx := (s.refuse c r).mbx, bells := (s.refuse c r).bells, log := (s.refuse c r).log, arb := (s.refuse c r).arb, taps := (s.refuse c r).taps, commandsTaken := (s.refuse c r).commandsTaken, refusals := (s.refuse c r).refusals } := by
  unfold refuse
  dsimp only
  split
  · rw [answer_frame]
  · split
    · rw [answer_frame]
    · split
      · rw [answer_frame]
      · rw [answer_frame, logPut_frame]

@[simp] theorem refuse_pending (c : Cmd) (r : Refuse) : (s.refuse c r).pending = s.pending := by rw [refuse_frame]
@[simp] theorem refuse_porN (c : Cmd) (r : Refuse) : (s.refuse c r).porN = s.porN := by rw [refuse_frame]
@[simp] theorem refuse_mclk (c : Cmd) (r : Refuse) : (s.refuse c r).mclk = s.mclk := by rw [refuse_frame]
@[simp] theorem refuse_mgmtOut (c : Cmd) (r : Refuse) : (s.refuse c r).mgmtOut = s.mgmtOut := by rw [refuse_frame]
@[simp] theorem refuse_fclkOut (c : Cmd) (r : Refuse) : (s.refuse c r).fclkOut = s.fclkOut := by rw [refuse_frame]
@[simp] theorem refuse_tclkOut (c : Cmd) (r : Refuse) : (s.refuse c r).tclkOut = s.tclkOut := by rw [refuse_frame]
@[simp] theorem refuse_fresh (c : Cmd) (r : Refuse) : (s.refuse c r).fresh = s.fresh := by rw [refuse_frame]
@[simp] theorem refuse_fwVersion (c : Cmd) (r : Refuse) : (s.refuse c r).fwVersion = s.fwVersion := by rw [refuse_frame]
@[simp] theorem refuse_service (c : Cmd) (r : Refuse) : (s.refuse c r).service = s.service := by rw [refuse_frame]
@[simp] theorem refuse_cause (c : Cmd) (r : Refuse) : (s.refuse c r).cause = s.cause := by rw [refuse_frame]
@[simp] theorem refuse_slotB (c : Cmd) (r : Refuse) : (s.refuse c r).slotB = s.slotB := by rw [refuse_frame]
@[simp] theorem refuse_bootPhase (c : Cmd) (r : Refuse) : (s.refuse c r).bootPhase = s.bootPhase := by rw [refuse_frame]
@[simp] theorem refuse_keyHash (c : Cmd) (r : Refuse) : (s.refuse c r).keyHash = s.keyHash := by rw [refuse_frame]
@[simp] theorem refuse_keyArc (c : Cmd) (r : Refuse) : (s.refuse c r).keyArc = s.keyArc := by rw [refuse_frame]
@[simp] theorem refuse_keyValid (c : Cmd) (r : Refuse) : (s.refuse c r).keyValid = s.keyValid := by rw [refuse_frame]
@[simp] theorem refuse_bootBase (c : Cmd) (r : Refuse) : (s.refuse c r).bootBase = s.bootBase := by rw [refuse_frame]
@[simp] theorem refuse_arcReq (c : Cmd) (r : Refuse) : (s.refuse c r).arcReq = s.arcReq := by rw [refuse_frame]
@[simp] theorem refuse_imgA (c : Cmd) (r : Refuse) : (s.refuse c r).imgA = s.imgA := by rw [refuse_frame]
@[simp] theorem refuse_arcWaits (c : Cmd) (r : Refuse) : (s.refuse c r).arcWaits = s.arcWaits := by rw [refuse_frame]
@[simp] theorem refuse_imgB (c : Cmd) (r : Refuse) : (s.refuse c r).imgB = s.imgB := by rw [refuse_frame]
@[simp] theorem refuse_staging (c : Cmd) (r : Refuse) : (s.refuse c r).staging = s.staging := by rw [refuse_frame]
@[simp] theorem refuse_readyDone (c : Cmd) (r : Refuse) : (s.refuse c r).readyDone = s.readyDone := by rw [refuse_frame]
@[simp] theorem refuse_vaneRestarts (c : Cmd) (r : Refuse) : (s.refuse c r).vaneRestarts = s.vaneRestarts := by rw [refuse_frame]
@[simp] theorem refuse_intEnable (c : Cmd) (r : Refuse) : (s.refuse c r).intEnable = s.intEnable := by rw [refuse_frame]
@[simp] theorem refuse_fatal (c : Cmd) (r : Refuse) : (s.refuse c r).fatal = s.fatal := by rw [refuse_frame]
@[simp] theorem refuse_time (c : Cmd) (r : Refuse) : (s.refuse c r).time = s.time := by rw [refuse_frame]
@[simp] theorem refuse_timeSeen (c : Cmd) (r : Refuse) : (s.refuse c r).timeSeen = s.timeSeen := by rw [refuse_frame]
@[simp] theorem refuse_timeLost (c : Cmd) (r : Refuse) : (s.refuse c r).timeLost = s.timeLost := by rw [refuse_frame]
@[simp] theorem refuse_timeShadow (c : Cmd) (r : Refuse) : (s.refuse c r).timeShadow = s.timeShadow := by rw [refuse_frame]
@[simp] theorem refuse_evq (c : Cmd) (r : Refuse) : (s.refuse c r).evq = s.evq := by rw [refuse_frame]
@[simp] theorem refuse_logm (c : Cmd) (r : Refuse) : (s.refuse c r).logm = s.logm := by rw [refuse_frame]
@[simp] theorem refuse_cfgLock (c : Cmd) (r : Refuse) : (s.refuse c r).cfgLock = s.cfgLock := by rw [refuse_frame]
@[simp] theorem refuse_trap (c : Cmd) (r : Refuse) : (s.refuse c r).trap = s.trap := by rw [refuse_frame]
@[simp] theorem refuse_tel (c : Cmd) (r : Refuse) : (s.refuse c r).tel = s.tel := by rw [refuse_frame]
@[simp] theorem refuse_ctlRdata (c : Cmd) (r : Refuse) : (s.refuse c r).ctlRdata = s.ctlRdata := by rw [refuse_frame]
@[simp] theorem refuse_policy (c : Cmd) (r : Refuse) : (s.refuse c r).policy = s.policy := by rw [refuse_frame]
@[simp] theorem refuse_longOps (c : Cmd) (r : Refuse) : (s.refuse c r).longOps = s.longOps := by rw [refuse_frame]
@[simp] theorem refuse_loads (c : Cmd) (r : Refuse) : (s.refuse c r).loads = s.loads := by rw [refuse_frame]
@[simp] theorem refuse_slots (c : Cmd) (r : Refuse) : (s.refuse c r).slots = s.slots := by rw [refuse_frame]
@[simp] theorem refuse_chains (c : Cmd) (r : Refuse) : (s.refuse c r).chains = s.chains := by rw [refuse_frame]
@[simp] theorem refuse_nextVer (c : Cmd) (r : Refuse) : (s.refuse c r).nextVer = s.nextVer := by rw [refuse_frame]
@[simp] theorem refuse_streams (c : Cmd) (r : Refuse) : (s.refuse c r).streams = s.streams := by rw [refuse_frame]
@[simp] theorem refuse_intervals (c : Cmd) (r : Refuse) : (s.refuse c r).intervals = s.intervals := by rw [refuse_frame]
@[simp] theorem refuse_bands (c : Cmd) (r : Refuse) : (s.refuse c r).bands = s.bands := by rw [refuse_frame]
@[simp] theorem refuse_tiles (c : Cmd) (r : Refuse) : (s.refuse c r).tiles = s.tiles := by rw [refuse_frame]
@[simp] theorem refuse_mgmtCorrected (c : Cmd) (r : Refuse) : (s.refuse c r).mgmtCorrected = s.mgmtCorrected := by rw [refuse_frame]
@[simp] theorem refuse_booksBad (c : Cmd) (r : Refuse) : (s.refuse c r).booksBad = s.booksBad := by rw [refuse_frame]
@[simp] theorem refuse_mgmtBlocked (c : Cmd) (r : Refuse) : (s.refuse c r).mgmtBlocked = s.mgmtBlocked := by rw [refuse_frame]
@[simp] theorem refuse_tap (c : Cmd) (r : Refuse) : (s.refuse c r).tap = s.tap := by rw [refuse_frame]
@[simp] theorem refuse_declaration (c : Cmd) (r : Refuse) : (s.refuse c r).declaration = s.declaration := by rw [refuse_frame]
@[simp] theorem refuse_ctlAck (c : Cmd) (r : Refuse) : (s.refuse c r).ctlAck = s.ctlAck := by rw [refuse_frame]
@[simp] theorem refuse_band (c : Cmd) (r : Refuse) (b : Nat) : (s.refuse c r).band b = s.band b := by simp [State.band]
@[simp] theorem refuse_tile (c : Cmd) (r : Refuse) (t : Nat) : (s.refuse c r).tile t = s.tile t := by simp [State.tile]

/-- Answering the command of mailbox `m` (R330). `u` is the state that the command has made of `s`. -/
theorem answer_answered (u : State) (m : Fin 4) (st : Nat) (ws : List Nat) (hm : u.mbx = s.mbx) (hb : u.bells = s.bells)
    (c : Cmd) (hc : c.m = m.val) (ht : c.tag = (s.cmd m.val).tag) :
    Answered s (u.answer c st ws) m st ws := by
  have hx : ∀ k, u.mailbox k = s.mailbox k := fun k => by simp [State.mailbox, hm]
  have ht' : (u.takeBell c.m).mailbox m.val = s.mailbox m.val := hx m.val
  have hk : ∀ k, (u.takeBell c.m).mailbox k = s.mailbox k := hx
  unfold Answered answer respond responseWords
  rw [hc] at ht' hk ⊢
  rw [ht]
  dsimp only
  rw [ht']
  refine ⟨?_, ?_, ?_⟩
  · split
    · simp
    · refine ⟨?_, setInt_bit _ _ (by omega)⟩
      simp [writeOut]
  · intro k hkm
    have hne : m.val ≠ k.val := fun h => hkm (Fin.ext h.symm)
    split
    · rw [setMailbox_mailbox_ne _ _ _ _ hne, hk]
    · simp only [writeOut, setInt_mailbox]
      rw [setMailbox_mailbox_ne _ _ _ _ hne, setMailbox_mailbox_ne _ _ _ _ hne, hk]
  · have hbl : (u.takeBell m.val).bells = s.bells.filter (fun b => b.val != m.val) := by simp [takeBell, hb]
    split
    · simpa using hbl
    · simpa [writeOut] using hbl

/-! ### Taking a command -/

/-- An accepted command is carried out. -/
theorem runCmd_accepted (m : Fin 4) (op : Nat) (pick : Cmd → Bool) (body : Cmd → State → State)
    (h : Accepted s m op) (hp : pick (s.cmd m.val) = true) :
    s.runCmd m.val op pick body = body (s.cmd m.val) s := by
  unfold runCmd
  simp [h.1, h.2, hp]

/-- A command that its origin, its hand-over or its family refuses is refused. -/
theorem runCmd_refused (m : Fin 4) (op : Nat) (pick : Cmd → Bool) (body : Cmd → State → State) (r : Refuse)
    (h : s.takes m.val op = true) (hg : s.guard (s.cmd m.val) = some r) (hp : pick (s.cmd m.val) = true) :
    s.runCmd m.val op pick body = s.refuse (s.cmd m.val) r := by
  unfold runCmd
  simp [h, hg, hp]

/-- A command that no mailbox holds, or whose turn it is not, changes nothing. -/
theorem runCmd_idle (m op : Nat) (pick : Cmd → Bool) (body : Cmd → State → State)
    (h : (s.takes m op && pick (s.cmd m)) = false) : s.runCmd m op pick body = s := by
  unfold runCmd
  simp [h]

@[simp] theorem cmd_m (m : Nat) : (s.cmd m).m = m := rfl

/-- A read that succeeds on a Vane path with a credit gives its bytes to the command, and is counted. -/
@[simp] theorem withRead_data (c : Cmd) (a k n : Nat) (bs : List Byte) (body : List Byte → State → State)
    (h : a % k = 0) (hv : s.vaneReads = true) :
    s.withRead c a k n (.data bs) body = body bs (s.countReads (ceilDiv n 128) n) := by
  simp [withRead, h, hv, vaneRead]

/-- Without a credit the command waits. -/
theorem withRead_waits (c : Cmd) (a k n : Nat) (img : HostRead) (body : List Byte → State → State)
    (h : a % k = 0) (hv : s.vaneReads = false) : s.withRead c a k n img body = s := by
  simp [withRead, h, hv]

/-- Counting reads touches the band of the Vane path alone. -/
theorem countReads_frame (n k : Nat) : s.countReads n k = { s with bands := (s.countReads n k).bands } := rfl

/-- A read of management SRAM counts a correction, or sets FATAL_STATUS. -/
theorem sramRead_frame (r : SramRead) :
    s.sramRead r = { s with mgmtCorrected := (s.sramRead r).mgmtCorrected, fatal := (s.sramRead r).fatal } := by
  cases r <;> rfl

/-- The same, for a read whose outcome no operand says. -/
theorem sramUse_frame :
    s.sramUse = { s with mgmtCorrected := s.sramUse.mgmtCorrected, fatal := s.sramUse.fatal, fresh := s.fresh + 1 } := by
  unfold sramUse
  rw [sramRead_frame]

/-- A CTL write has its effect and completes while the management domain runs; else it has none. -/
theorem ctlWrite_out (f : State → State) (h : s.mgmtRuns = true) : s.ctlWrite f = (f s).ctlDone 0 := by
  simp [ctlWrite, h]

theorem ctlWrite_reset (f : State → State) (h : s.mgmtRuns = false) : s.ctlWrite f = s := by
  simp [ctlWrite, h]

/-- A change that Glomen makes on its own is made and logged, or without room not made. -/
theorem glomenChange_room (k a b c : Nat) (f : State → State) (h : s.logRoom false = true) :
    s.glomenChange k a b c f = (f s).logGlomen k 0 a b c := by
  simp [glomenChange, h]

theorem glomenChange_full (k a b c : Nat) (f : State → State) (h : s.logRoom false = false) :
    s.glomenChange k a b c f = s := by
  simp [glomenChange, h]

@[simp] theorem orRefuse_none (c : Cmd) (body : State → State) : s.orRefuse c none body = body s := rfl

/-- A change for which the log has room: applied, logged and answered OK. -/
theorem commit_room (c : Cmd) (a b : Nat) (f : State → State) (g : State → List Nat) (h : s.logRoom false = true) :
    s.commit c a b f g =
      ((f s).logPut { origin := c.m, kind := kindOfOp c.op, result := stOk, tag := c.tag.toNat,
                      object := s.logObject c, oldh := a, newh := b }).answer c stOk
        (g ((f s).logPut { origin := c.m, kind := kindOfOp c.op, result := stOk, tag := c.tag.toNat,
                           object := s.logObject c, oldh := a, newh := b })) := by
  unfold commit
  simp [h]

/-- A change for which it has none. -/
theorem commit_full (c : Cmd) (a b : Nat) (f : State → State) (g : State → List Nat) (h : s.logRoom false = false) :
    s.commit c a b f g = s.refuse c { status := stLogFull, words := [] } := by
  unfold commit
  simp [h]

end Sys2Proof.Machine.State
end

