-- ==== Sys2Proof/Laws/Rows.lean ====
section
/-!
SUPPORT. What the operations on row records, on the hold ring and on the READY of start-up can do, each said once.
-/

namespace Sys2Proof.Machine

/-! ### Records (R196, R197, R418) -/

@[simp] theorem zeroRec_stream (r : Rec) : (zeroRec r).stream = 0 := rfl
@[simp] theorem mergeRec_stream (a b : Rec) : (mergeRec a b).stream = a.stream := rfl
@[simp] theorem mergeRec_kind (a b : Rec) : (mergeRec a b).kind = a.kind := rfl
@[simp] theorem finalOf_stream (sid : Nat) (r : Rec) : (finalOf sid r).stream = BitVec.ofNat 14 sid := rfl
@[simp] theorem poisonedFinal_stream (own counts : Rec) : (poisonedFinal own counts).stream = own.stream := rfl
@[simp] theorem poisonedFinal_count (own counts : Rec) : (poisonedFinal own counts).count = counts.count := rfl

/-! ### The hold ring (R211) -/

/-- A claim adds one entry at most, and none where a row holds it. -/
theorem Tile.claim_frame (x : Tile) (sid row rhold : Nat) :
    x.claim sid row rhold = { x with hold := (x.claim sid row rhold).hold } := by
  unfold Tile.claim
  dsimp only
  split <;> rfl

theorem Tile.claim_held (x : Tile) (sid row rhold r : Nat) (h : x.holder sid (row % max rhold 1) = some r) :
    x.claim sid row rhold = x := by
  simp [Tile.claim, h]

namespace State

variable (s : State)

theorem modTiles_frame (ts : List Nat) (f : Tile → Tile) :
    s.modTiles ts f = { s with tiles := (s.modTiles ts f).tiles } := by
  unfold modTiles
  induction ts generalizing s with
  | nil => rfl
  | cons t ts ih => exact ih _

/-- The claim of a row's hold entry changes hold rings, and that the row has claimed, and nothing else of the block. -/
theorem claimRow_frame (rp : RowPass) :
    s.claimRow rp = { s with tiles := (s.claimRow rp).tiles, streams := (s.claimRow rp).streams } := by
  unfold claimRow
  split
  · rfl
  · split
    · rw [modTiles_frame]; rfl
    · rfl

/-! ### READY of start-up (R332, R409) -/

/-- Without a READY of start-up that waits, or while mailbox 0 holds a response, nothing settles. -/
theorem settleReady_idle (h : s.bootPhase ≠ .ready ∨ (s.mailbox 0).valid = true) : s.settleReady = s := by
  rcases h with h | h <;> simp [settleReady, h]

theorem settleReady_due (hb : s.bootPhase = .ready) (hv : (s.mailbox 0).valid = false) : s.settleReady = s.startService := by
  simp [settleReady, hb, hv]

/-- An acknowledgement of another mailbox is that alone. -/
theorem outAcked_other (m : Nat) (h : m ≠ 0) : s.outAcked m = s.acknowledge m := by simp [outAcked, h]

/-! ### What the books count (R387) -/

/-- The state of the table slots is no part of it. -/
@[simp] theorem inUse_drainSlots : s.drainSlots.inUse = s.inUse := rfl

end State

end Sys2Proof.Machine
end

