-- ==== Sys2Proof/WellFormed.lean ====
section
/-!
DEFINITION. Well-formed commands: the ranges that the widths of the operands alone do not state.
A command the outside can really send is well formed; the meanings are total on the others too.
-/

namespace Sys2Proof

/-- The longest thing the Vane reads in one go is a Glomen image of 262,144 bytes (R344). -/
def HostRead.wf : HostRead → Bool
  | .data bytes => bytes.length ≤ 262144
  | .failed .. => true

/-- A part slot of a GATHER area is 64 bytes (Table 8.8). -/
def HostRead.isSlot : HostRead → Bool
  | .data bytes => bytes.length == 64
  | .failed .. => true

/-- Stage indices are 0 to 11 and a beat has at most 4,096 elements (R230, Table 1.4); units are those
of layout U (Table 16.4). -/
def HwFault.wf (f : HwFault) : Bool :=
  f.stage < 12 && f.elem < 4096 && f.unit.toNat ≤ 10

/-- A request has at most 64 elements (Table 12.7). -/
def XevReq.wf (r : XevReq) : Bool := r.faults.all (fun f => f.elem < 64 && f.unit.toNat ≤ 10)

/-- The banks of a tile are reported once. -/
def PostReport.wf (r : PostReport) : Bool := (r.bankFails.map (·.1)).Nodup

/-- Layout-U units of Drizzle findings (Table 16.4): lanes, evaluators, the step engine's store and the
statistic unit are tested, staging, the table SRAM and the step store are scrubbed (Table 15.4). -/
def DrizzleResult.wf : DrizzleResult → Bool
  | .pass u .. | .fault u .. => [0, 1, 4, 5].contains u.toNat
  | .eccFault u .. => [2, 3, 4].contains u.toNat
  | _ => true

/-- The ranges of a command's operands. -/
def Instr.wf : Instr → Bool
  | .bootImageCheckDone img _ | .fwStageDone img _ => img.wf
  | .loadTable _ img | .loadChain _ img | .openStream _ img => img.wf
  | .powerOnSelfTestDone r => r.wf
  | .mergeCombine _ area => area.length ≤ 256 && area.all HostRead.isSlot
  | .accBeatDequeue _ fs _ => fs.all HwFault.wf
  | .statisticApplyStart _ _ _ p | .gatherListRead _ _ p | .gatherListReread _ _ p
  | .gatherWaitExpiry _ _ p => p.val != 0
  | .clockPointApplied _ p | .throttleCapChange _ p => p.toNat ≤ 8
  | .drizzleTest _ r => r.wf
  | .xevRequest _ r => r.wf
  | _ => true

end Sys2Proof
end

