-- ==== Sys2Proof/Tests/Slice0.lean ====
section
/-!
SUPPORT. Tests: ill-formed commands that `Instr.wf` refuses, small checks against numbers of the manual, and for every
statement with hypotheses a state and operands that meet them.
-/

namespace Sys2Proof.Tests

set_option Elab.async false

open Sys2Proof.Machine Sys2Proof.Safety

/-! ### Well-formed and ill-formed commands -/

theorem test_wf_image_too_long : (Instr.fwStageDone (.data (List.replicate 262145 0)) 0).wf = false := by
  show decide ((List.replicate 262145 (0 : Byte)).length ≤ 262144) = false
  rw [List.length_replicate]
  decide
theorem test_wf_table_too_long : (Instr.loadTable 0 (.data (List.replicate 262145 0))).wf = false := by
  show decide ((List.replicate 262145 (0 : Byte)).length ≤ 262144) = false
  rw [List.length_replicate]
  decide
theorem test_wf_bank_report_twice :
    (Instr.powerOnSelfTestDone { clocked := 0, fabUp := 0, tileFails := 0, bankFails := [(3, 1), (3, 2)] }).wf = false := by
  decide
theorem test_wf_xev_fault_elem :
    (Instr.xevRequest 0 {
      id := 0, func := 1, ifmt := 0, ofmt := 0, n := 1, data := 0, corrected := 0
      faults := [{ kind := .ecc, unit := 3, index := 0, elem := 64 }] }).wf = false := by decide
theorem test_wf_xev_fault_unit :
    (Instr.xevRequest 0 {
      id := 0, func := 1, ifmt := 0, ofmt := 0, n := 1, data := 0, corrected := 0
      faults := [{ kind := .ecc, unit := 11, index := 0, elem := 0 }] }).wf = false := by decide
theorem test_wf_area_slot : (Instr.mergeCombine 0 [.data [1, 2, 3]]).wf = false := by decide
theorem test_wf_area_length : (Instr.mergeCombine 0 (List.replicate 257 (.failed false 0))).wf = false := by decide +kernel
theorem test_wf_fault_stage :
    (Instr.accBeatDequeue 0 [{ kind := .ecc, unit := 2, index := 0, stage := 12, elem := 0, accumulator := false, sweepB := false }]
      { staging := 0, table := 0, step := 0, entries := 0 }).wf = false := by decide
theorem test_wf_fault_elem :
    (Instr.accBeatDequeue 0 [{ kind := .ecc, unit := 2, index := 0, stage := 0, elem := 4096, accumulator := false, sweepB := false }]
      { staging := 0, table := 0, step := 0, entries := 0 }).wf = false := by decide
theorem test_wf_fault_unit :
    (Instr.accBeatDequeue 0 [{ kind := .ecc, unit := 11, index := 0, stage := 0, elem := 0, accumulator := false, sweepB := false }]
      { staging := 0, table := 0, step := 0, entries := 0 }).wf = false := by decide
theorem test_wf_apply_pass : (Instr.statisticApplyStart 0 0 0 0).wf = false := by decide
theorem test_wf_gather_pass : (Instr.gatherListRead 0 0 0).wf = false := by decide
theorem test_wf_gather_reread_pass : (Instr.gatherListReread 0 0 0).wf = false := by decide
theorem test_wf_gather_wait_pass : (Instr.gatherWaitExpiry 0 0 0).wf = false := by decide
theorem test_wf_point : (Instr.clockPointApplied 0 9).wf = false := by decide
theorem test_wf_cap : (Instr.throttleCapChange 0 15).wf = false := by decide
theorem test_wf_drizzle_unit : (Instr.drizzleTest 0 (.fault 2 0 0 0)).wf = false := by decide
theorem test_wf_drizzle_pass_unit : (Instr.drizzleTest 0 (.pass 3 0 false)).wf = false := by decide
theorem test_wf_drizzle_ecc_unit : (Instr.drizzleTest 0 (.eccFault 0 0 0 0)).wf = false := by decide
theorem test_wf_ok : (Instr.clockPointApplied 0 8).wf = true ∧ (Instr.statisticApplyStart 0 0 0 3).wf = true := by decide

/-! ### Numbers of the manual -/

/-- The check value of R185. -/
theorem test_crc32c :
    crc32c [0x31, 0x32, 0x33, 0x34, 0x35, 0x36, 0x37, 0x38, 0x39] = 0xE3069283 := by decide +kernel

/-- Table 16.7: the header word of the first record of the example. -/
theorem test_event_header :
    leAt (({ code := 2, cont := false, src := 37, tofs := 12, payload := 0 } : Outgoing).bytes 0x1A21) 4 4 = 0x00312802 := by
  decide +kernel

/-- Table 16.7: the header word of the example's TIME_MARK. -/
theorem test_mark_header :
    leAt (({ code := 0x100, cont := false, src := 96, tofs := 0, payload := 0 } : Outgoing).bytes 0x1A20) 4 4 = 0x00030100 := by
  decide +kernel

/-- R167 and Table 7.4: a seed ROM is indexed by the top 7 fraction bits, and for SEEDQ the exponent's parity. -/
theorem test_seed_low_bits : seedOf false 0x3F80FFFF = seedOf false 0x3F800000 ∧
    seedOf true 0x4000FFFF = seedOf true 0x40000000 := ⟨rfl, rfl⟩

/-- R317: at a floor of 650 MHz a count of 643 is below the floor, and 644 is not. -/
theorem test_below_floor : belowFloor 643 2 = true ∧ belowFloor 644 2 = false := by decide

/-! ### A block in service -/

/-- A tile as READY leaves it: the last of a band is its gated spare. -/
def tileUp (i : Nat) : Tile :=
  let x := Tile.resetWith false Repair.none
  if i % 11 == 10 then { x with pgReq := true, pgState := false, power := .off } else { x with active := true }

def bandUp : Band :=
  { Band.resetWith false with
    cclkOut := true
    hclkOut := true
    clocked := true
    fabUp := true
    present := true
    cur := 2
    req := 2
    fabCredits := 4
    fabReturned := 4 }

/-- Every band in the map, nothing open. -/
def up : State :=
  { State.reset with
    mgmtOut := true
    fclkOut := true
    tclkOut := true
    service := .service
    bootPhase := .finished
    readyDone := true
    bands := Vector.replicate 8 bandUp
    tiles := Vector.ofFn (fun i : Fin 88 => tileUp i.val) }

/-- The state with a command in mailbox `m`: its words, with TAG 5 in word 0. -/
def ask (m : Fin 4) (op : Nat) (ws : List Nat) (s : State) : State :=
  { s.setMailbox m.val { Mailbox.reset with
      inW := overlay Mailbox.reset.inW ((op + 5 * 2 ^ 16) :: ws)
      state := .queued
      len := BitVec.ofNat 4 ws.length } with
    bells := [m] }

/-- A log with `n` entries. -/
def logOf (n : Nat) : Log where
  entries := List.replicate n ({ seq := 0, epoch := 0, origin := 0, kind := 1, time := 0, result := 0, tag := 0,
                                 object := 0, oldh := 0, newh := 0 }, .unsent)
  nextSeq := BitVec.ofNat 32 n
  epoch := 0

def stageBytes (op pass opf param : Nat) : List Byte :=
  toLe 4 (op + pass * 2 ^ 5 + opf * 2 ^ 8) ++ toLe 4 param ++ toLe 8 (2 ^ 64 - 1)

def chainBytes (nstg npass pins rmax : Nat) (stages : List Byte) : List Byte :=
  toLe 4 (1 + nstg * 2 ^ 8 + npass * 2 ^ 16) ++ toLe 4 pins ++ toLe 4 0 ++ toLe 4 rmax ++ toLe 16 0 ++ stages

/-- One pass on binary16: the maximum of a row, merged in a GATHER area. -/
def demoBytes : List Byte := chainBytes 2 1 1 4096 (stageBytes opStat 1 1 1 ++ stageBytes opMerge 1 1 1)

def demoChain : Chain := { parseChain 5 demoBytes with ver := 1, sig := 7 }

/-- The descriptor of a stream on that chain: tile 0 of its band, class 3, rows of 1,024 elements. -/
def streamBytes : List Byte :=
  toLe 2 5 ++ toLe 2 1 ++ toLe 1 3 ++ toLe 3 0 ++ toLe 4 1 ++ toLe 4 1024 ++ toLe 40 0 ++ toLe 8 0x1000 ++ toLe 4 1 ++
    toLe 2 1 ++ toLe 58 0

def demoStream : Stream where
  sid := 0
  desc := parseStream 0 streamBytes
  hash := 9
  closing := false
  closeBy := none
  closeRows := 0
  suspended := false
  causes := Causes.none
  migration := none
  voided := false
  w := [0, 0, 0]
  ppm := 0
  lateCount := 0
  lateSat := false
  lateRaised := false
  worst := [0, 0, 0]
  done := 0
  npass := 1
  satArmed := true
  satVer := 1
  lateN := 0
  lateFirst := 0
  lateLast := 0
  latePass := 0
  lateWorst := 0
  areas := []
  begun := none
  rows := []

/-- The chain is resident, and the stream open on it. -/
def open1 : State := { up with chains := [(5, [demoChain])], nextVer := 2, streams := [demoStream] }

/-- What `Accepted` asks, as one check. -/
def accepts (s : State) (m : Fin 4) (op : Nat) : Bool := s.takes m.val op && (s.guard (s.cmd m.val)).isNone

theorem accepted_of (s : State) (m : Fin 4) (op : Nat) (h : accepts s m op = true) : Accepted s m op := by
  simpa [accepts, Accepted, Option.isNone_iff_eq_none] using h

/-! ### Steps -/

theorem witness_queue : ({ up with pending := [.trstN] } : State).pending = .trstN :: [] ∧
    ∃ t, step { up with pending := [.trstN] } = .next t := ⟨rfl, _, rfl⟩

def answered : ArcWait := { origin := 0, tag := 6, want := 2, seen := some 2 }

theorem witness_idle : State.reset.pending = [] ∧ State.reset.mgmtRuns = false ∧ up.pending = [] ∧ up.mclk = true ∧
    (∀ w ∈ up.arcWaits.head?, w.seen = none) ∧ ({ up with mclk := false } : State).pending = [] ∧
    ({ up with arcWaits := [answered] } : State).pending = [] ∧
    ({ up with arcWaits := [answered], log := logOf 4080 } : State).logRoom false = false :=
  ⟨rfl, rfl, rfl, rfl, fun _ h => (nomatch (show _ ∈ ([] : List ArcWait).head? from h)), rfl, rfl, by decide +kernel⟩

/-- A counter request that the host has answered, before one that its answer does not meet. -/
theorem witness_idle_answered :
    let next : ArcWait := { answered with tag := 7, want := 9, seen := none }
    let s := { up with arcWaits := [answered, next] }
    s.pending = [] ∧ s.mgmtRuns = true ∧ s.arcWaits = answered :: [next] ∧ answered.seen = some 2 ∧ s.logRoom false = true ∧
    (2 : BitVec 64).toNat < next.want.toNat := by decide +kernel

/-- An XEV request waits in a tile that runs, behind one for the same evaluator; tile 10 is off. -/
theorem witness_idle_tiles :
    let a : XevRsp := { id := 1, n := 1, status := 0, poison := 0, data := 0, slot := none, places := [3] }
    let s := { up with tiles := up.tiles.setIfInBounds 0 { tileUp 0 with xevBuf := [a, { a with id := 2, places := [3, 4] }] } }
    s.pending = [] ∧ ((s.ownWork.band 0).cclkOut && (s.ownWork.band 0).clocked) = true ∧ s.ownWork.tileRuns 0 = true ∧
    s.ownWork.tileRuns 10 = false ∧ ((s.ownWork.tile 0).xevBuf[1]?).isSome = true ∧
    ((State.reset.band 0).cclkOut && (State.reset.band 0).clocked) = false ∧ (∃ r ∈ (s.ownWork.tile 0).xevBuf, 4 ∈ r.places) ∧
    ¬ ∃ r ∈ (s.ownWork.tile 0).xevBuf, 5 ∈ r.places := by decide +kernel

/-- Slot 1 drains and nothing holds its table any more; slot 0's is held by a queued XEV request. -/
theorem witness_idle_slots :
    let a : XevRsp := { id := 1, n := 2, status := 0, poison := 0, data := 0, slot := some 0, places := [3, 4] }
    let s := { up with
      slots := Vector.ofFn (fun i : Fin 4 => { state := if i.val < 2 then .draining else .free, first := i.val, table := none })
      tiles := up.tiles.setIfInBounds 0 { tileUp 0 with xevBuf := [a] } }
    s.pending = [] ∧ (s.ownWork.slots.get 1).state = .draining ∧ s.slotHeld 1 = false ∧
    (s.ownWork.slots.get 0).state = .draining ∧ s.slotHeld 0 = true := by decide +kernel

theorem witness_registers_legal : RegsLegal up ∧ ∃ t, step up = .next t :=
  ⟨⟨⟨by decide, by decide, by decide, by decide, Or.inl rfl, by decide⟩,
    ⟨by decide, by decide, by decide, by decide, Or.inl rfl, by decide⟩, by decide⟩, _, rfl⟩

theorem witness_lock_write : up.mgmtRuns = true ∧ (1 : Word).getLsbD 0 = true := by decide

theorem witness_locked : ({ up with cfgLock := true } : State).cfgLock = true ∧
    (∀ level rest, ({ up with cfgLock := true } : State).pending ≠ .porN level :: rest) ∧
    ∃ t, step { up with cfgLock := true } = .next t :=
  ⟨rfl, fun _ _ h => (nomatch (show ([] : List Instr) = _ from h)), _, rfl⟩

/-! ### Reset and start-up -/

theorem witness_por : false ≠ up.porN := by decide

theorem witness_release : (({ up with bootPhase := .selfTest } : State).bootPhase = .selfTest) ∧
    ({ up with bootPhase := .ready } : State).bootPhase = .ready ∧ up.bootPhase = .finished ∧
    State.reset.bootPhase ≠ .selfTest ∧ State.reset.bootPhase ≠ .ready ∧ State.reset.bootPhase ≠ .finished := by decide

theorem witness_stub : ({ State.reset with mgmtOut := true } : State).mgmtRuns = true ∧
    ({ State.reset with mgmtOut := true } : State).bootPhase = .waiting := by decide

theorem witness_boot_image : ({ up with bootPhase := .readA } : State).mgmtRuns = true ∧
    ({ up with bootPhase := .readA } : State).vaneReads = true ∧
    ({ up with bootPhase := .readB } : State).vaneReads = true ∧ 32 ≤ ({ up with bootPhase := .readB } : State).logAvail ∧
    ({ State.reset with bootPhase := .readB } : State).vaneReads = false ∧
    State.stubCheck (.failed false 0) 0 0 ≠ .ok := by decide +kernel

theorem witness_self_test :
    ({ up with bootPhase := .selfTest } : State).bootPhase = .selfTest ∧ (up.mailbox 0).valid = false ∧
    (({ up with bootPhase := .selfTest } : State).setMailbox 0 { Mailbox.reset with valid := true }).bootPhase = .selfTest ∧
    ((({ up with bootPhase := .selfTest } : State).setMailbox 0 { Mailbox.reset with valid := true }).mailbox 0).valid = true := by
  decide +kernel

/-- Tile 3 of a band fails and its spare passes; one tile of a band is marked by its fuses, or two are. -/
theorem witness_self_test_tiles :
    let r : PostReport := { clocked := 0xFF, fabUp := 0xFF, tileFails := 8, bankFails := [] }
    let s : State := { up with
      bootPhase := .selfTest
      tiles := (up.tiles.setIfInBounds 12 { tileUp 0 with effBad := true }).setIfInBounds 23 { tileUp 0 with effBad := true }
        |>.setIfInBounds 24 { tileUp 0 with effBad := true } |>.setIfInBounds 10 { tileUp 0 with active := false } }
    let marked (b : Nat) : Nat := (bandTiles b).countP (fun i => State.fuseBad (s.tile i))
    s.mgmtRuns = true ∧ r.clocked.getLsbD 0 = true ∧ r.fabUp.getLsbD 0 = true ∧ (s.band 0).cclkOut = true ∧
    (s.band 0).hclkOut = true ∧ marked 0 = 0 ∧ s.testFails r 3 = true ∧ s.testFails r 10 = false ∧ 3 ∈ bandTiles 0 ∧
    s.testFails r 21 = true ∧ (s.tile 21).power = .off ∧
    marked 1 = 1 ∧ 12 ∈ bandTiles 1 ∧ 13 ∈ bandTiles 1 ∧ State.fuseBad (s.tile 13) = false ∧ marked 2 = 2 := by
  decide +kernel

/-! ### The mailboxes -/

def isMalformed (s : State) (m st w : Nat) : Bool :=
  s.mgmtRuns && (s.mailbox m).state == .queued && (s.cmd m).malformed == some (st, w)

theorem witness_malformed_opcode : isMalformed (ask 3 0x0002 [] up) 3 0x0301 0 = true := by decide +kernel
theorem witness_malformed_length : isMalformed (ask 0 opGetInfo [0, 0] up) 0 0x0302 3 = true := by decide +kernel
theorem witness_malformed_reserved : isMalformed (ask 0 opGetInfo [4] up) 0 0x0303 1 = true := by decide +kernel
theorem witness_malformed_tag : isMalformed (ask 0 (opGetInfo + 0xFFFA * 2 ^ 16) [0] up) 0 0x0304 0 = true := by
  decide +kernel

/-- A command of a row is turned away with a status. -/
def turned (s : State) (m op st : Nat) : Bool :=
  s.takes m op && (s.guard (s.cmd m)).any (fun r => r.status == st)

theorem witness_turned_busy :
    mailboxOp (.retireChain 0) = some (0, opRetireChain, fun _ => true) ∧
    turned (ask 0 opRetireChain [5] { up with service := .noService }) 0 opRetireChain stBusy = true :=
  ⟨rfl, by decide +kernel⟩

theorem witness_turned_handover :
    turned (ask 1 opCloseStream [5] { up with handover := some {
      origin := 0, tag := 1, arcup := false, paused := true, prior := [] } }) 1 opCloseStream stHandover =
      true := by decide +kernel

theorem witness_turned_permission :
    turned (ask 2 opCloseStream [5] up) 2 opCloseStream stPermission = true ∧
    (ask 2 opCloseStream [5] up).logRoom false = true ∧
    turned (ask 2 opCloseStream [5] { up with log := logOf 4080 }) 2 opCloseStream stPermission = true ∧
    (ask 2 opCloseStream [5] { up with log := logOf 4080 }).logRoom false = false := by decide +kernel

/-- A response is acknowledged in service; the READY of start-up waits for mailbox 0, alone or behind a held response. -/
theorem witness_out_ack :
    let s := { up with bootPhase := .ready, readyDone := false }
    let held := s.setMailbox 0 { Mailbox.reset with held := some [0] }
    up.mgmtRuns = true ∧ (0 : Word).getLsbD 0 = false ∧ (1 : Word).getLsbD 0 = true ∧ up.bootPhase ≠ .ready ∧
    s.mgmtRuns = true ∧ s.bootPhase = .ready ∧ (s.mailbox 0).held = none ∧ (s.mailbox 0).ready = [] ∧
    held.bootPhase = .ready ∧ (held.mailbox 0).held ≠ none := by decide +kernel

theorem witness_get_info : Accepted (ask 0 opGetInfo [0x00540003] up) 0 opGetInfo := accepted_of _ _ _ (by decide +kernel)

theorem witness_query_stream : Accepted (ask 3 opQueryStream [0] open1) 3 opQueryStream ∧
    (ask 3 opQueryStream [0] open1).stream? 0 = some demoStream :=
  ⟨accepted_of _ _ _ (by decide +kernel), by decide +kernel⟩

def longOf (op : Nat) : LongOp where
  origin := 0
  tag := 6
  opcode := op
  done := 3
  total := 9
  object := 0
  logObj := 0
  oldh := 0
  failed := none

theorem witness_query_progress :
    Accepted (ask 1 opQueryProgress [0] open1) 1 opQueryProgress ∧
    (open1.stream? 0).isSome = true ∧
    Accepted (ask 1 opQueryProgress [0x80000006] { up with longOps := [longOf opLoadTable] }) 1 opQueryProgress ∧
    ({ up with longOps := [longOf opLoadTable] } : State).longOp? 0 6 = some (longOf opLoadTable) :=
  ⟨accepted_of _ _ _ (by decide +kernel), by decide +kernel, accepted_of _ _ _ (by decide +kernel), by decide +kernel⟩

theorem witness_read_log :
    Accepted (ask 2 opReadLog [0, 0] { up with log := logOf 1 }) 2 opReadLog ∧
    ((logOf 1).entries.find? (fun x => x.1.seq.toNat == 0 && x.1.epoch.toNat % 2 ^ 16 == 0)).isSome = true :=
  ⟨accepted_of _ _ _ (by decide +kernel), by decide +kernel⟩

/-! ### Tables, chains and streams -/

def retireState : State := ask 0 opRetireChain [5] { open1 with streams := [] }

theorem witness_retire_chain : Accepted retireState 0 opRetireChain ∧ retireState.logRoom false = true ∧
    retireState.chain? 5 = some demoChain ∧ retireState.openOn 5 = 0 :=
  ⟨accepted_of _ _ _ (by decide +kernel), by decide +kernel⟩

/-- The least image: 128 segments of a constant 0 on 0 to 1, without a narrow array. -/
def tableBytes : List Byte :=
  let head := toLe 8 0x54 ++ toLe 8 (1 + 7 * 2 ^ 8) ++ toLe 4 0 ++ toLe 4 0x3F800000 ++ toLe 8 0
  let body := List.replicate 1024 (0 : Byte)
  head ++ sha256 (head ++ body) ++ body

def demoTable : Table where
  name := toLe 8 0x54
  bits := 7
  idx := 0
  tailLo := 0
  tailHi := 0
  mono := false
  dir := false
  narrow := false
  acc := 0
  uexp := 0
  s1 := 0
  s2 := 0
  dlo := 0
  dhi := 0x3F800000
  slo := 0
  shi := 0
  hash := List.replicate 32 0
  entries := List.replicate 128 (0, 0, 0)
  narrows := []

def slotsWith (i : Nat) (x : Slot) : Vector Slot 4 := up.slots.setIfInBounds i x

def loadedState : State :=
  { up with slots := slotsWith 2 { state := .loaded, first := 2, table := some demoTable } }

theorem witness_retire_table :
    Accepted (ask 0 opRetireTable [2] loadedState) 0 opRetireTable ∧
    (ask 0 opRetireTable [2] loadedState).logRoom false = true ∧
    (ask 0 opRetireTable [2] loadedState).loadedAt 2 = some demoTable ∧
    (ask 0 opRetireTable [2] loadedState).tableNamed 2 = false :=
  ⟨accepted_of _ _ _ (by decide +kernel), by decide +kernel⟩

theorem witness_retire_slots : SlotsLegal loadedState := by
  refine ⟨fun i h => ?_, fun l hl => (nomatch hl), by decide +kernel⟩
  obtain rfl : i = 2 := by
    revert h
    revert i
    decide +kernel
  exact ⟨demoTable, by decide +kernel, by decide +kernel, by decide +kernel, by decide +kernel⟩

theorem witness_retire_legal : SlotsLegal (ask 0 opRetireTable [2] loadedState) := witness_retire_slots

/-- 1,088 bytes at 0x1000 into slot 3. -/
def loadTableState : State := ask 0 opLoadTable [0x1000, 0, 1088 + 3 * 2 ^ 16] up

theorem witness_load_table :
    Accepted loadTableState 0 opLoadTable ∧ loadTableState.logRoom true = true ∧
    (loadTableState.cmd 0).addr 1 % 128 = 0 ∧ loadTableState.vaneReads = true ∧
    ∃ x, loadTableState.tableStep 1088 3 none tableBytes = .ok x := by
  refine ⟨accepted_of _ _ _ (by decide +kernel), by decide +kernel, by decide +kernel, by decide +kernel, ?_⟩
  have h : (match loadTableState.tableStep 1088 3 none tableBytes with
    | .ok _ => true
    | .error _ => false) = true := by decide +kernel
  revert h
  cases loadTableState.tableStep 1088 3 none tableBytes with
  | ok x => exact fun _ => ⟨x, rfl⟩
  | error r => exact fun h => (nomatch h)

def demoLoad : TableLoad := { first := 1, replaces := some 2, origin := 0, tag := 6 }

def loadingState : State :=
  { loadedState with
    slots := loadedState.slots.setIfInBounds 1 { state := .loading, first := 1, table := some demoTable }
    loads := [demoLoad]
    longOps := [longOf opLoadTable] }

theorem witness_slots_legal : SlotsLegal loadingState ∧ ∃ t, step loadingState = .next t := by
  refine ⟨⟨fun i h => ?_, fun l hl => ?_, by decide +kernel⟩, _, rfl⟩
  · have hi : i = 1 ∨ i = 2 := by
      revert h
      revert i
      decide +kernel
    obtain rfl | rfl := hi <;> exact ⟨demoTable, by decide +kernel, by decide +kernel, by decide +kernel, by decide +kernel⟩
  · obtain rfl : l = demoLoad := List.mem_singleton.mp hl
    refine ⟨by decide +kernel, by decide +kernel, fun r x hr hx => ?_⟩
    obtain rfl : 2 = r := Option.some.inj hr
    obtain rfl : demoTable = x := Option.some.inj hx
    decide +kernel

/-- A chain whose EVAL names slot 2. -/
def evalChain : Chain :=
  { parseChain 6 (chainBytes 1 1 1 4096 (stageBytes opEval 1 1 0x12)) with ver := 1, sig := 9 }

/-- The end of the load has to re-point that chain, and the log has no room for its entry. -/
def fullLogState : State := { loadingState with chains := [(6, [evalChain])], log := logOf 4080 }

theorem slots_legal_full_log : SlotsLegal fullLogState := witness_slots_legal.1

theorem witness_table_written : loadingState.mgmtRuns = true ∧
    loadingState.loads.find? (fun y => y.first == 1) = some demoLoad ∧ (loadingState.slot 1).table = some demoTable ∧
    loadingState.loadedAt 2 ≠ none ∧ loadingState.longOp? 0 6 = some (longOf opLoadTable) ∧
    loadingState.repointRoom demoLoad = true ∧ fullLogState.repointRoom demoLoad = false := by decide +kernel

def loadChainState : State := ask 0 opLoadChain [0x1000, 0, 64, 5] up

theorem witness_load_chain :
    Accepted loadChainState 0 opLoadChain ∧ loadChainState.logRoom false = true ∧
    (loadChainState.cmd 0).addr 1 % 128 = 0 ∧ loadChainState.vaneReads = true ∧
    headerOk (padTake demoBytes 32) 64 = true ∧ loadChainState.chainSlotCheck 5 false = none ∧
    chainChecks loadChainState.slots loadChainState.resident (loadChainState.newChain 5 (padTake demoBytes 64)) = none ∧
    loadChainState.replaceCheck (loadChainState.newChain 5 (padTake demoBytes 64)) = none :=
  ⟨accepted_of _ _ _ (by decide +kernel), by decide +kernel⟩

def openState : State := ask 0 opOpenStream [7, 0x1000, 0] open1

theorem witness_open_stream :
    Accepted openState 0 opOpenStream ∧ openState.logRoom false = true ∧ (openState.cmd 0).addr 2 % 128 = 0 ∧
    openState.vaneReads = true ∧
    openState.descFails (padTake streamBytes 128) (parseStream 7 (padTake streamBytes 128)) = none ∧
    openState.contextCheck 7 (parseStream 7 (padTake streamBytes 128)) = none ∧ openState.chain? 5 = some demoChain ∧
    openState.admission 7 demoChain (parseStream 7 (padTake streamBytes 128)) = none :=
  ⟨accepted_of _ _ _ (by decide +kernel), by decide +kernel⟩

theorem witness_close_stream :
    Accepted (ask 1 opCloseStream [0] open1) 1 opCloseStream ∧ (ask 1 opCloseStream [0] open1).logRoom true = true ∧
    (ask 1 opCloseStream [0] open1).stream? 0 = some demoStream ∧ demoStream.closing = false ∧ demoStream.rows = [] ∧
    (ask 1 opCloseStream [0] open1).paused = false ∧
    (∀ i : Fin 88, ((ask 1 opCloseStream [0] open1).tile i.val).blocks = [] ∧
      ((ask 1 opCloseStream [0] open1).tile i.val).queue = [] ∧
      ((ask 1 opCloseStream [0] open1).tile i.val).openPasses = [] ∧
      ((ask 1 opCloseStream [0] open1).tile i.val).rows = []) :=
  ⟨accepted_of _ _ _ (by decide +kernel), by decide +kernel⟩

/-- The same beside another stream that does not close. -/
theorem witness_close_stream_beside :
    let s := ask 1 opCloseStream [0] { open1 with streams := [demoStream, { demoStream with sid := 9 }] }
    Accepted s 1 opCloseStream ∧ s.logRoom true = true ∧ s.stream? 0 = some demoStream ∧
    s.stream? 9 = some { demoStream with sid := 9 } :=
  ⟨accepted_of _ _ _ (by decide +kernel), by decide +kernel⟩

/-! ### Policy, floors, surroundings and merges -/

def policyState : State := ask 0 opSetPolicy [0x04 + 0 * 2 ^ 16, 65535] up

theorem witness_set_policy : Accepted policyState 0 opSetPolicy ∧ policyState.logRoom false = true ∧
    policyState.policyCheck 4 0 65535 = none := ⟨accepted_of _ _ _ (by decide +kernel), by decide +kernel⟩

def floorState : State := ask 0 opSetFloor [7 + 8 * 2 ^ 8] up

theorem witness_set_floor : Accepted floorState 0 opSetFloor ∧ floorState.logRoom false = true ∧
    bits ((floorState.cmd 0).arg 1) 2 0 = 7 ∧ bits ((floorState.cmd 0).arg 1) 11 8 = 8 ∧ (floorState.band 7).present = true ∧
    ¬ 8 < (floorState.band 7).floor := ⟨accepted_of _ _ _ (by decide +kernel), by decide +kernel⟩

def demoInterval : Interval := { stack := 3, chan := 0x21, duration := 50, streams := [0], overdue := false }

/-- The stack and channel of the interval in the word of a notice. -/
def pairWord : Nat := 3 * 2 ^ 8 + 0x21 * 2 ^ 12

def beginState : State := ask 2 opSurroundings [1 + pairWord, 7] open1
def endState : State := ask 2 opSurroundings [2 + pairWord, 0] { open1 with intervals := [demoInterval] }

theorem witness_surroundings_begin : Accepted beginState 2 opSurroundings ∧ beginState.logRoom false = true ∧
    bits ((beginState.cmd 2).arg 1) 3 0 = 1 ∧ beginState.intervals.length < 16 :=
  ⟨accepted_of _ _ _ (by decide +kernel), by decide +kernel⟩

theorem witness_surroundings_end : Accepted endState 2 opSurroundings ∧ endState.logRoom false = true ∧
    bits ((endState.cmd 2).arg 1) 3 0 = 2 ∧ endState.interval? 3 0x21 = some demoInterval :=
  ⟨accepted_of _ _ _ (by decide +kernel), by decide +kernel⟩

theorem witness_overdue : endState.mgmtRuns = true ∧ endState.interval? 3 0x21 = some demoInterval ∧
    demoInterval.overdue = false ∧ endState.interval? 3 0x22 = none := by decide +kernel

def demoRec : Rec where
  sig := 7
  stream := 0
  kind := 1
  flags := 0
  row := 4
  count := 1024
  pass := 1
  step := 0
  maxkey := 0x80000000
  absmax := 0
  sum := 0
  sumsq := 0
  e := 0
  satuf := 0
  nanc := 0

def rowOf (c : Chain) (recs : List (Nat × Nat × TileRec)) (finals : List HeldRec) (parts : List (Nat × Nat × PsumAcc)) : RowCtx where
  row := 4
  chain := c
  tables := []
  tiles := [0]
  recs := recs
  claimed := true
  finals := finals
  psumParts := parts
  psums := []
  ended := []

def demoMerge : Merge where
  sid := 0
  row := 4
  step := 0
  layout := 1
  base := 0x1000
  parts := 1
  pidx := 0
  need := 0
  total := 1024
  own := demoRec
  phase := .reading
  got := []
  asked := 0
  again := true
  began := true
  waiting := true
  waitReported := false
  partsSeen := 0
  countSeen := 0

/-- A merge of band 0 waits for its parts. -/
def mergeState : State :=
  { open1 with
    bands := open1.bands.setIfInBounds 0 { bandUp with merges := [demoMerge] }
    streams := [{ demoStream with rows := [rowOf demoChain [] [] []] }] }

def abandonState : State := ask 1 opMergeCmd [0, 4, 0, 0, 0] mergeState

theorem witness_abandon : Accepted abandonState 1 opMergeCmd ∧ abandonState.logRoom false = true ∧
    bit ((abandonState.cmd 1).arg 1) 0 = false ∧ (abandonState.cmd 1).arg 4 = 0 ∧ (abandonState.cmd 1).arg 5 = 0 ∧
    abandonState.merge? 0 0 (abandonState.cmd 1).mergeRow 0 = some demoMerge ∧ demoMerge.began = true ∧
    abandonState.stream? 0 = some { demoStream with rows := [rowOf demoChain [] [] []] } ∧
    ({ demoStream with rows := [rowOf demoChain [] [] []] } : Stream).row? (abandonState.cmd 1).mergeRow =
      some (rowOf demoChain [] [] []) ∧ (abandonState.band 0).away = false :=
  ⟨accepted_of _ _ _ (by decide +kernel), by decide +kernel⟩

def combineState : State := ask 1 opMergeCmd [1, 4, 0, 0x40, 0] open1

theorem witness_combine : Accepted combineState 1 opMergeCmd ∧ combineState.logRoom false = true ∧
    bit ((combineState.cmd 1).arg 1) 0 = true ∧ (combineState.cmd 1).addr 4 % 64 = 0 ∧
    combineState.stream? 0 = some demoStream ∧ combineState.chain? demoStream.desc.chain = some demoChain ∧
    demoChain.mergeOf 0 = some (1, demoChain.stage 1) ∧ (demoChain.stage 1).mlay = 1 ∧ combineState.lowestBand = some 0 ∧
    combineState.vaneReads = true ∧ (combineState.band (sidBand 0)).away = false ∧ (combineState.band 0).vaneRoom = true :=
  ⟨accepted_of _ _ _ (by decide +kernel), by decide +kernel⟩

/-- The area of that row holds its one part. -/
theorem witness_combine_whole :
    let slots := ([.data (recBytes demoRec)] : List HostRead).take demoStream.desc.p
    let parts := readParts (combineState.cmd 1).mergeRow (demoChain.stage 0).pass 0 slots
    parts.map (fun q => q.2) = [demoRec] ∧ parts.length = slots.length ∧
    (mergeAll (zeroRec demoRec :: demoRec :: [])).isSome = true ∧ demoStream.desc.var = false ∧
    ((mergeAll (zeroRec demoRec :: demoRec :: [])).map (fun x => x.count.toNat)) =
      some (demoStream.desc.len.getD ((demoChain.stage 0).pass - 1) 0) := by decide +kernel

/-! ### Service operations -/

/-- Tile 10 of every band is active, and tile 9 its spare. -/
def swappedState : State :=
  { up with
    tiles := Vector.ofFn (fun i : Fin 88 => { tileUp 0 with active := i.val % 11 != 9 })
    bands := Vector.replicate 8 { bandUp with spare := some 9 } }

theorem witness_tile_retire :
    let s := ask 0 opTileRetire [87 + 2 ^ 8] swappedState
    Accepted s 0 opTileRetire ∧ bits ((s.cmd 0).arg 1) 6 0 = 87 ∧ s.logRoom true = true ∧ (s.band 7).away = false ∧
    (s.band 7).svc = none ∧ s.inMap 87 = true ∧ (s.band 7).spare = some 9 :=
  ⟨accepted_of _ _ _ (by decide +kernel), by decide +kernel⟩

/-- Tile 3 is retired, and band 0 has no spare. -/
def retiredState : State :=
  { up with
    tiles := up.tiles.setIfInBounds 3 { (tileUp 10) with retired := true }
    bands := up.bands.setIfInBounds 0 { bandUp with spare := none } }

theorem witness_tile_restore :
    let s := ask 2 opTileRestore [3] retiredState
    Accepted s 2 opTileRestore ∧ bits ((s.cmd 2).arg 1) 6 0 = 3 ∧ s.logRoom true = true ∧ (s.band 0).away = false ∧
    (s.band 0).svc = none ∧ (s.tile 3).retired = true ∧ (s.band 0).spare = none :=
  ⟨accepted_of _ _ _ (by decide +kernel), by decide +kernel⟩

theorem witness_selftest :
    let s := ask 2 opSelftest [0] open1
    Accepted s 2 opSelftest ∧ s.logRoom true = true ∧ (s.band 0).away = false ∧ (s.band 0).svc = none ∧
    s.hasRole 0 = true ∧ (s.band 0).spare = some 10 ∧ s.streamsOn 0 ≠ [] :=
  ⟨accepted_of _ _ _ (by decide +kernel), by decide +kernel⟩

def handing (prior : List Nat) : Handover where
  origin := 0
  tag := 6
  arcup := true
  paused := true
  prior := prior

/-- A tile in its role, and one that has failed a check and holds no stream, which no run leaves in a role. -/
theorem witness_selftest_turn :
    let s := ask 2 opSelftest [1] up
    let bad := ask 2 opSelftest [1] { up with tiles := up.tiles.setIfInBounds 1 { tileUp 1 with failed := true } }
    (Accepted s 2 opSelftest ∧ Accepted bad 2 opSelftest) ∧ s.hasRole 1 = true ∧ s.outOfTurn 1 = false ∧
    bad.hasRole 1 = true ∧ bad.outOfTurn 1 = true ∧ bad.paused = false ∧ bad.logRoom true = true ∧
    (bad.band 0).spare = some 10 ∧ (bad.band 0).svc = none ∧ (bad.band 0).away = false :=
  ⟨⟨accepted_of _ _ _ (by decide +kernel), accepted_of _ _ _ (by decide +kernel)⟩, by decide +kernel⟩

theorem witness_calibrate_turn :
    let bad := ask 2 opCalibrate [1 + 0x0F * 2 ^ 8] { up with tiles := up.tiles.setIfInBounds 1 { tileUp 1 with failed := true } }
    Accepted bad 2 opCalibrate ∧ State.itemOf (bad.cmd 2) ∈ [1, 2, 3, 0x0F] ∧ bits ((bad.cmd 2).arg 1) 6 0 = 1 ∧
    bad.hasRole 1 = true ∧ bad.outOfTurn 1 = true ∧ bad.paused = false ∧ bad.logRoom true = true ∧
    (bad.band 0).spare = some 10 ∧ (bad.band 0).svc = none ∧ (bad.band 0).away = false :=
  ⟨accepted_of _ _ _ (by decide +kernel), by decide +kernel⟩

/-- The same in a hand-over, from a mailbox whose doorbell rang before it. -/
theorem witness_selftest_paused :
    let s := ask 2 opSelftest [0] { open1 with handover := some (handing [2]) }
    Accepted s 2 opSelftest ∧ s.logRoom true = true ∧ s.hasRole 0 = true ∧ (s.band 0).spare = some 10 ∧ s.paused = true :=
  ⟨accepted_of _ _ _ (by decide +kernel), by decide +kernel⟩

theorem witness_calibrate :
    let s := ask 2 opCalibrate [86 + 0x0F * 2 ^ 8] up
    Accepted s 2 opCalibrate ∧ s.logRoom true = true ∧ State.itemOf (s.cmd 2) ∈ [1, 2, 3, 0x0F] ∧
    bits ((s.cmd 2).arg 1) 6 0 = 86 ∧ s.hasRole 86 = true ∧ (s.band 7).spare = some 10 :=
  ⟨accepted_of _ _ _ (by decide +kernel), by decide +kernel⟩

theorem witness_bank_off :
    let s := ask 2 opCalibrate [0x2F * 2 ^ 8] open1
    Accepted s 2 opCalibrate ∧ s.logRoom true = true ∧ State.itemOf (s.cmd 2) = 0x20 + 15 ∧ s.hasRole 0 = true ∧
    (State.banksDown (s.tile 0)).getLsbD 15 = false ∧ State.bankCount (s.tile 0) < 4 ∧ s.bankShort 0 = [] :=
  ⟨accepted_of _ _ _ (by decide +kernel), by decide +kernel⟩

theorem witness_bank_on :
    let s := ask 2 opCalibrate [0x30 * 2 ^ 8] { up with tiles := up.tiles.setIfInBounds 0 { tileUp 0 with banksOff := 1 } }
    Accepted s 2 opCalibrate ∧ s.logRoom true = true ∧ State.itemOf (s.cmd 2) = 0x30 + 0 ∧ s.hasRole 0 = true ∧
    (State.banksDown (s.tile 0)).getLsbD 0 = true ∧ (s.band 0).spare = some 10 :=
  ⟨accepted_of _ _ _ (by decide +kernel), by decide +kernel⟩

def svcOf (kind : SvcKind) (phase : SvcPhase) (rotate : Bool) : SvcOp where
  kind := kind
  origin := 0
  tag := 6
  todo := []
  late := []
  cur := 0
  rotate := rotate
  wasActive := true
  steps := 0
  phase := phase

/-- Band 0 has a service operation with tile 0 in hand, and its spare has been prepared. -/
def svcState (o : SvcOp) : State := { open1 with
  bands := open1.bands.setIfInBounds 0 { bandUp with svc := some o }
  tiles := open1.tiles.setIfInBounds 10 { tileUp 10 with pgReq := false, pgState := true, power := .ready } }

/-- Four banks are off, or a fifth. -/
theorem witness_test_done :
    let s := svcState (svcOf .selftest .work true)
    let count (banks : BitVec 16) : Nat := State.bankCount { s.tile 0 with banksOff := (s.tile 0).banksOff ||| banks }
    s.mgmtRuns = true ∧ s.cclkRuns 0 = true ∧ (s.band 0).svc = some (svcOf .selftest .work true) ∧ s.paused = false ∧
    (s.tile 0).power = .ready ∧ (up.tile 10).power ≠ .ready ∧ count 0x000F ≤ 4 ∧ 4 < count 0x001F ∧ (0x001F : BitVec 16).getLsbD 4 = true := by decide +kernel

theorem witness_entry_check :
    let o := svcOf .selftest .restorePower true
    let s := { svcState o with tiles := open1.tiles.setIfInBounds 0 { tileUp 0 with power := .entryCheck, retired := true } }
    s.mgmtRuns = true ∧ s.cclkRuns 0 = true ∧ (s.band 0).svc = some o ∧ o.phase = .restorePower ∧ o.cur = 0 ∧ o.rotate = true ∧ o.kind ≠ .restore ∧
    o.todo = [] ∧ o.late = [] ∧ s.paused = false ∧ (s.tile 0).power = .entryCheck := by decide +kernel

theorem witness_calibration_done :
    (svcState (svcOf (.calibrate 1) .work false)).logRoom false = true ∧
    (svcState (svcOf (.calibrate 1) .work false)).cclkRuns 0 = true ∧ (svcOf (.calibrate 1) .work false).wasActive = true ∧
    ((svcState (svcOf (.calibrate 1) .work false)).band 0).svc = some (svcOf (.calibrate 1) .work false) ∧
    ((svcState (svcOf (.bankOn 15) .work true)).band 0).svc = some (svcOf (.bankOn 15) .work true) ∧
    ((svcState (svcOf (.bankOn 15) .work true)).tile 0).power = .ready ∧
    (svcState (svcOf (.bankOn 15) .work true)).paused = false := by decide +kernel

theorem witness_stream_cut :
    let o := svcOf (.retire true) .move true
    let s := svcState o
    s.mgmtRuns = true ∧ s.bandRuns (sidBand 0) = true ∧ s.stream? 0 = some demoStream ∧ (s.band 0).svc = some o ∧
    (s.band 0).spare = some 10 ∧ (s.tile (11 * 0 + 10)).power = .ready ∧
    (open1.band 0).spare = some 10 ∧ (open1.tile (11 * 0 + 10)).power ≠ .ready ∧ open1.stream? 0 = some demoStream ∧
    o.cur ∈ demoStream.tiles ∧ demoStream.migration = none ∧ s.paused = false ∧ s.betweenRows o.cur 0 = true ∧
    demoStream.desc.mig = false ∧ s.logRoom false = true := by
  decide +kernel

theorem witness_stream_cut_unforced :
    let x := { demoStream with desc := { demoStream.desc with mig := true } }
    let o := svcOf .selftest .move true
    let s := { svcState o with streams := [x] }
    s.stream? 0 = some x ∧ (s.band 0).svc = some o ∧ s.blocked o.cur = false ∧ o.cur ∈ x.tiles ∧
    s.betweenRows o.cur 0 = true ∧ x.desc.mig = true := by decide +kernel

/-- The stream has moved from tile 0 to tile 10. -/
def movedStream : Stream := { demoStream with migration := some { old := 0, new := 10 } }

theorem witness_stream_leaves :
    let s := { open1 with streams := [movedStream] }
    s.mgmtRuns = true ∧ s.bandRuns (sidBand 0) = true ∧ s.stream? 0 = some movedStream ∧ movedStream.closing = false ∧
    s.leftOld movedStream 0 = true := by decide +kernel

/-- The last stream of tile 0 leaves it: it has been cut over to tile 10, whose operation has tile 0 in hand. -/
def gateState (kind : SvcKind) : State :=
  { svcState (svcOf kind .move true) with
    streams := [{ movedStream with desc := { movedStream.desc with tmask := 0x400 } }]
    longOps := [longOf opTileRetire] }

theorem witness_gate_phase :
    let x : Stream := { movedStream with desc := { movedStream.desc with tmask := 0x400 } }
    let s := gateState (.retire false)
    s.mgmtRuns = true ∧ s.bandRuns 0 = true ∧ s.stream? 0 = some x ∧ x.migration = some { old := 0, new := 10 } ∧
    (∀ y ∈ s.streams, y.closing = false) ∧ s.leftOld x 0 = true ∧ s.paused = false ∧ s.streamsOn 0 = [x] ∧ 0 ∉ x.tiles ∧
    (s.band 0).svc = some (svcOf (.retire false) .move true) ∧ (s.band 0).spare = some 10 ∧ 11 * 0 + 10 ≠ 0 ∧
    s.longOp? 0 6 = some (longOf opTileRetire) ∧ (∀ k : Fin 8, k.val ≠ 0 → (s.band k.val).svc = none) ∧
    ((gateState (.bankOff 3)).band 0).svc = some (svcOf (.bankOff 3) .move true) ∧
    ((gateState .selftest).tile 0).failed = false ∧
    ({ gateState .selftest with tiles := up.tiles.setIfInBounds 0 { tileUp 0 with failed := true } }.tile 0).failed = true ∧
    ((gateState .selftest).band 0).svc = some (svcOf .selftest .move true) := by decide +kernel

/-! ### Firmware -/

theorem witness_fw_stage :
    let s := ask 2 opFwStage [0x80, 0, 1024] up
    Accepted s 2 opFwStage ∧ s.logRoom true = true ∧ (s.cmd 2).addr 1 % 128 = 0 ∧ bits ((s.cmd 2).arg 3) 18 0 = 1024 ∧
    s.staging ≠ .loading ∧ s.paused = false := ⟨accepted_of _ _ _ (by decide +kernel), by decide +kernel⟩

theorem witness_fw_stage_done :
    let s : State := { up with longOps := [longOf opFwStage], staging := .loading }
    s.mgmtRuns = true ∧ s.paused = false ∧ s.longOps.find? (fun o => o.opcode == opFwStage) = some (longOf opFwStage) ∧
    s.longOp? 0 6 = some (longOf opFwStage) ∧ s.vaneReads = true ∧ s.logRoom false = true ∧
    ({ s with log := logOf 4080 } : State).logRoom false = false ∧ ({ s with fclkOut := false } : State).vaneReads = false := by
  decide +kernel

theorem witness_fw_activate :
    let s := ask 0 opFwActivate [1] { up with staging := .staged, imgB := List.replicate 1024 0, imgA := List.replicate 1024 0 }
    Accepted s 0 opFwActivate ∧ s.logRoom true = true ∧ s.staging = .staged ∧
    imgHsmin s.stagingImg ≤ imgHsver s.running := ⟨accepted_of _ _ _ (by decide +kernel), by decide +kernel⟩

theorem witness_handover :
    let s : State := { up with handover := some (handing []) }
    s.mgmtRuns = true ∧ s.handover = some (handing []) ∧ (handing []).paused = true ∧ (handing []).prior = [] ∧
    s.loads = [] ∧ (0 : BitVec 64).toNat ≤ imgArc s.stagingImg := by decide +kernel

/-- The incoming image's ARC meets what the first of the requests that wait asks for, and exceeds it. -/
theorem witness_handover_met :
    let v : ArcWait := { origin := 1, tag := 5, want := 3, seen := none }
    let s : State := { up with
      handover := some (handing []), arcWaits := [v], longOps := [longOf opFwActivate]
      imgB := List.replicate 8 0 ++ toLe 8 4 ++ List.replicate 1008 0 }
    (3 : BitVec 64).toNat < imgArc s.stagingImg ∧ (handing []).arcup = true ∧ v.want.toNat ≤ (3 : BitVec 64).toNat ∧
    v.seen = none ∧ s.arcReq = none := by decide +kernel

/-- Of the requests that wait behind the answered one, the first is met, and the second is not. -/
theorem witness_arc_met :
    let w : ArcWait := { origin := 0, tag := 6, want := 1, seen := none }
    let s : State := { up with arcReq := some 1, arcWaits := [w, { w with tag := 7 }, { w with tag := 8, want := 2 }] }
    s.mgmtRuns = true ∧ s.arcReq = some 1 ∧ s.arcWaits = w :: [{ w with tag := 7 }, { w with tag := 8, want := 2 }] ∧
    s.logRoom false = true ∧ w.want.toNat ≤ (1 : BitVec 64).toNat ∧ (1 : BitVec 64).toNat < 2 := by decide +kernel

theorem witness_arc :
    let w : ArcWait := { origin := 0, tag := 6, want := 1, seen := none }
    let s : State := { up with arcReq := some 1, arcWaits := [w, { w with tag := 7 }], longOps := [longOf opFwActivate] }
    s.mgmtRuns = true ∧ s.arcReq = some 1 ∧ s.arcWaits = w :: [{ w with tag := 7 }] ∧ s.logRoom false = true ∧
    s.longOp? w.origin w.tag = some (longOf opFwActivate) ∧ ({ s with log := logOf 4080 } : State).logRoom false = false ∧
    ({ up with arcReq := some 1 } : State).arcWaits = [] := by decide +kernel

/-! ### The register window -/

theorem witness_ring_writes : up.mgmtRuns = true ∧ up.cfgLock = false ∧ ({ up with cfgLock := true } : State).cfgLock = true ∧
    (0x00100000 : Word).toNat = 2 ^ 20 ∧ (64 : Word).toNat = 2 ^ 6 ∧ (63 : Word).toNat ≠ 0 ∧ (0 : Word).toNat = 0 ∧
    1 ≤ up.logAvail ∧ up.evq.baseLo ≠ (0x1000 : Word) &&& 0xFFFFF000 ∧ up.evq.size = (0 : Word).toNat ∧
    up.evq.size ≠ (64 : Word).toNat := by decide +kernel

/-- Band 7 is halted, and nothing waits in any band: RESUME by its own row or by bit 9 of NAN_TRAP_CTL. -/
theorem witness_resume :
    let s : State := { up with
      trap := { up.trap with halted := true }, bands := up.bands.setIfInBounds 7 { bandUp with halted := true } }
    s.mgmtRuns = true ∧ (s.band 7).halted = true ∧ (∀ b : Fin 8, (s.band b.val).fabHeld = []) ∧
    (∀ i : Fin 88, (s.tile i.val).rows = [] ∧ (s.tile i.val).queue = [] ∧ (s.tile i.val).blocks = []) := by
  decide +kernel

theorem witness_ring_size_wrong : ∀ k, 6 ≤ k → k ≤ 20 → (63 : Word).toNat ≠ 2 ^ k := by
  intro k h _
  have := Nat.pow_le_pow_right (n := 2) (by decide) h
  simp only [show (63 : Word).toNat = 63 from rfl]
  omega

/-- Both rings hold one record, at index 63. -/
def ringsState : State :=
  { up with
    evq := { RingRegs.reset with size := 64, head := 63, tail := 0 }
    logm := { RingRegs.reset with size := 64, head := 63, tail := 0 }
    log := { logOf 1 with entries := (logOf 1).entries.map (fun e => (e.1, .at 63)) } }

theorem witness_head_write :
    (0 < 64 ∧ (0 + 64 - ringsState.evq.head) % 64 ≤ (ringsState.evq.tail + 64 - ringsState.evq.head) % 64) ∧
    ¬ (62 < 64 ∧ (62 + 64 - ringsState.evq.head) % 64 ≤ (ringsState.evq.tail + 64 - ringsState.evq.head) % 64) := by decide

theorem witness_tel : up.tel.busy = false ∧ ({ up with tel := { up.tel with busy := true, next := 87 } } : State).tel.busy = true ∧
    (up.tile 87).power = .off ∧ (up.tile 86).power ≠ .off := by decide +kernel

theorem witness_window : up.mgmtRuns = true ∧ (up.mailbox 0).state = .idle ∧ ((ask 0 opGetInfo [0] up).mailbox 0).state ≠ .idle := by
  decide +kernel

/-! ### Beats and row passes -/

def demoBeat : AccBeat where
  data := 5
  first := true
  last := true
  nel := 1024
  poison := false
  sid := 0
  row := 4
  pass := 1
  col0 := 0
  len := 0
  scale := 0

/-- Row 4 is open on tile 0, its row pass with 1,020 elements of 1,024 taken. -/
def beatState (o : OpenPass) (q : List QEntry) : State :=
  { open1 with
    tiles := open1.tiles.setIfInBounds 0 { tileUp 0 with openPasses := [o], queue := q }
    streams := [{ demoStream with rows := [rowOf demoChain [] [] []] }] }

def demoOpen : OpenPass where
  sid := 0
  row := 4
  pass := 1
  stray := false
  isOpen := true
  count := 1020
  col0 := 0
  len := 1024

theorem head_of_empty {y : List QEntry} (h : y = []) : ∀ q rest, y = q :: rest → q.isBeat = true := by
  intro q rest e
  exact absurd (h.symm.trans e) (by simp)

/-- A first beat, of a pass that the chain has or has not, and a stray one. -/
theorem witness_acc_beat :
    open1.portRuns 0 = true ∧ (open1.tile 0).free ≠ 0 ∧ (open1.tile 0).queue = [] ∧
    open1.maySend 0 demoBeat = some demoStream ∧ ((open1.tile 0).openPass 0).isOpen = false ∧ demoBeat.first = true ∧
    open1.maySend 0 { demoBeat with first := false } = some demoStream ∧
    open1.chainFor demoStream 4 = some demoChain ∧ ({ demoBeat with pass := 0 } : AccBeat).pass = 0 ∧
    demoChain.npass < ({ demoBeat with pass := 2 } : AccBeat).pass.toNat ∧
    ¬ (demoBeat.pass = 0 ∨ demoChain.npass < demoBeat.pass.toNat ∨ (demoStream.desc.held = true ∧ demoBeat.pass ≠ 1)) := by
  decide +kernel

/-- A beat of an open row pass, at the limits of R289: it fits; it is short; it has too many elements; it is another row's. -/
theorem witness_acc_goes_on :
    let s := beatState demoOpen []
    let x := { demoStream with rows := [rowOf demoChain [] [] []] }
    s.portRuns 0 = true ∧ (s.tile 0).free ≠ 0 ∧ (s.tile 0).queue = [] ∧
    s.maySend 0 { demoBeat with first := false } = some x ∧ ((s.tile 0).openPass 0).isOpen = true ∧
    s.chainFor x ((s.tile 0).openPass 0).row = some demoChain ∧
    min (x.desc.shr.getD 0 0 - demoOpen.count) (demoOpen.len - (demoOpen.col0 + demoOpen.count)) = 4 ∧
    4 < demoChain.beatElems 1 ∧ demoChain.beatElems 1 < ({ demoBeat with nel := 4096 } : AccBeat).nel.toNat := by
  decide +kernel

/-- A first beat that finds a row pass open behind a beat of its own. -/
theorem witness_acc_reopens :
    let s := beatState demoOpen [{
      isBeat := true, sid := 0, row := 4, pass := 1, first := true, last := false, use := 1020, poisonElems := false
      poisonRow := false, col0 := 0, len := 1024, scale := 0, data := 0 }]
    let x := { demoStream with rows := [rowOf demoChain [] [] []] }
    s.maySend 0 demoBeat = some x ∧ ((s.tile 0).openPass 0).isOpen = true ∧ (s.tile 0).queue ≠ [] ∧
    (s.tile 0).queue.all (fun q => q.isBeat) = true ∧ s.chainFor x 4 = some demoChain := by decide +kernel

theorem witness_acc_stream : up.portRuns 0 = true ∧ (up.tile 0).free ≠ 0 ∧ up.maySend 0 demoBeat = none := by decide +kernel

def demoEntry (first last : Bool) : QEntry where
  isBeat := true
  sid := 0
  row := 4
  pass := 1
  first := first
  last := last
  use := 1
  poisonElems := false
  poisonRow := false
  col0 := 0
  len := 1024
  scale := 0
  data := 0x3C00

theorem witness_acc_overrun :
    let y := { tileUp 0 with queue := List.replicate 128 (demoEntry true true) }
    let s := { open1 with tiles := open1.tiles.setIfInBounds 0 y }
    let u := beatState demoOpen (List.replicate 128 (demoEntry true true))
    s.portRuns 0 = true ∧ (s.tile 0).free = 0 ∧ (s.tile 0).queue.head? = some (demoEntry true true) ∧
    (demoEntry true true).isBeat = true ∧ s.maySend 0 demoBeat = some demoStream ∧
    s.maySend 0 { demoBeat with sid := 1 } = none ∧ ((s.tile 0).openPass 0).isOpen = false ∧
    (u.tile 0).free = 0 ∧ ((u.tile 0).openPass 0).isOpen = true := by decide +kernel

/-- The row pass of pass 1 of row 4 in tile 0. -/
def demoPass : RowPass := RowPass.new demoChain [] demoStream.desc 0 4 1 0 1024 0 false true

def queueState (q : QEntry) (rows : List RowPass) (x : Stream) : State :=
  { open1 with tiles := open1.tiles.setIfInBounds 0 { tileUp 0 with queue := [q], rows := rows }, streams := [x] }

theorem witness_dequeue_begins :
    let s := queueState (demoEntry true false) [] demoStream
    s.tileRuns 0 = true ∧ (s.tile 0).queue = [demoEntry true false] ∧ s.stream? 0 = some demoStream ∧
    demoStream.runsIn 0 4 = true ∧
    (s.modTile 0 (fun y => { y with queue := [] })).mayBegin 0 demoStream (demoEntry true false) = true := by decide +kernel

theorem witness_dequeue_waits :
    let s := queueState (demoEntry true false) [demoPass] demoStream
    s.tileRuns 0 = true ∧ s.stream? 0 = some demoStream ∧ demoStream.runsIn 0 4 = true ∧
    (s.modTile 0 (fun y => { y with queue := [] })).mayBegin 0 demoStream (demoEntry true false) = false := by decide +kernel

theorem witness_dequeue_goes_on :
    let s := queueState (demoEntry false false) [demoPass] demoStream
    s.tileRuns 0 = true ∧ s.stream? 0 = some demoStream ∧ demoStream.runsIn 0 4 = true ∧ (s.tile 0).rows = [demoPass] ∧
    (demoPass.sid, demoPass.row, demoPass.pass) = (0, 4, 1) ∧ demoPass.opened = true ∧ demoPass.finished = false ∧
    (s.tile 0).blocks = [] := by decide +kernel

/-- A NaN meets the armed trap, with HALT set or not; one meets a trap that has latched its record, armed or not. -/
theorem witness_trap :
    let q : QEntry := { demoEntry false false with data := 0x7E00 }
    let s (arm valid halt : Bool) : State := { queueState q [demoPass] demoStream with
      trap := { open1.trap with arm := arm, valid := valid, halt := halt } }
    let seen := (demoPass.enter [] (q.elements demoPass.chain)).2.nans.filter (fun n => !(s true false true).trap.trig || n.created)
    (s true false true).tileRuns 0 = true ∧ (s true false true).stream? 0 = some demoStream ∧ demoStream.runsIn 0 4 = true ∧
    ((s true false true).tile 0).rows = [demoPass] ∧ q.isBeat = true ∧ seen ≠ [] ∧ (s true false true).trap.arm = true ∧
    (s true false true).trap.valid = false ∧ (s false true false).trap.valid = true ∧ (s true false false).trap.halt = false := by
  decide +kernel

/-- The stream serves its new rows in tile 10, and tile 0 still receives beats of it. -/
def forwardStream : Stream := { movedStream with desc := { movedStream.desc with tmask := 0x400 } }

theorem witness_dequeue_forwards :
    let s := queueState (demoEntry true false) [] forwardStream
    s.tileRuns 0 = true ∧ s.stream? 0 = some forwardStream ∧ forwardStream.runsIn 0 4 = false ∧
    forwardStream.migration = some { old := 0, new := 10 } ∧ (s.tile 10).free > 0 := by decide +kernel

def rowState (c : Chain) (rp : RowPass) (r : RowCtx) : State :=
  { open1 with
    chains := [(5, [c])]
    tiles := open1.tiles.setIfInBounds 0 { tileUp 0 with rows := [rp] }
    streams := [{ demoStream with rows := [r] }] }

/-- One pass on binary16 with a PSUM stage. -/
def psumChain : Chain := { parseChain 5 (chainBytes 1 1 0x21 4096 (stageBytes opPsum 1 0 0)) with ver := 1, sig := 8 }

theorem witness_psum_combine :
    let rp := { RowPass.new psumChain [] demoStream.desc 0 4 1 0 1024 0 false true with opened := false }
    let s := rowState psumChain rp (rowOf psumChain [] [] [])
    s.tileRuns 0 = true ∧ (s.tile 0).pass? 0 4 1 = some rp ∧ 0 ∉ rp.combined ∧ (psumChain.stage 0).op = opPsum ∧
    rp.next = 0 ∧ (rp.psums.find? (fun a => a.step == 0)).isSome = true := by decide +kernel

theorem witness_stat_combine :
    let rp := { demoPass with opened := false, finished := true }
    let s := rowState demoChain rp (rowOf demoChain [] [] [])
    s.tileRuns 0 = true ∧ (s.tile 0).pass? 0 4 1 = some rp ∧ 0 ∉ rp.combined ∧ (demoChain.stage 0).op = opStat ∧
    rp.writes = 0 ∧ (rp.accs.find? (fun a => a.step == 0)).isSome = true ∧
    s.levelRoom { demoStream with rows := [rowOf demoChain [] [] []] } (rowOf demoChain [] [] []) 0 = true := by decide +kernel

/-- The band's 256 merges are other rows' (R181). -/
theorem witness_stat_waits :
    let rp := { demoPass with opened := false, finished := true }
    let s := (rowState demoChain rp (rowOf demoChain [] [] [])).modBand 0 (fun x =>
      { x with merges := List.replicate 256 { demoMerge with row := 9 } })
    (demoChain.stage 0).op = opStat ∧ demoChain.mergeOf 0 = some (1, demoChain.stage 1) ∧ (demoChain.stage 1).mlay ≠ 0 ∧
    s.merge? 0 0 4 0 = none ∧ (rowOf demoChain [] [] []).final? 0 = none ∧
    256 ≤ (s.band 0).merges.length + s.mergesDue 0 := by decide +kernel

/-- The demonstration chain without its STAT_MERGE. -/
def statChain : Chain := { parseChain 5 (chainBytes 1 1 1 4096 (stageBytes opStat 1 1 1)) with ver := 1, sig := 7 }

theorem witness_band_record :
    let r := rowOf statChain [(0, 0, { rcd := demoRec, zeros := false })] [] []
    let s := rowState statChain demoPass r
    s.bandRuns 0 = true ∧ r.final? 0 = none ∧ s.merge? 0 0 4 0 = none ∧
    (partsOf (sortTiles r.tiles) 0 r.recs).length = r.tiles.length ∧
    bandRecord (partsOf (sortTiles r.tiles) 0 r.recs) = some (demoRec, []) ∧ statChain.mergeOf 0 = none := by decide +kernel

theorem witness_band_merge :
    let r := rowOf demoChain [(0, 0, { rcd := demoRec, zeros := false })] [] []
    let s := rowState demoChain demoPass r
    s.bandRuns 0 = true ∧ r.final? 0 = none ∧ s.merge? 0 0 4 0 = none ∧
    bandRecord (partsOf (sortTiles r.tiles) 0 r.recs) = some (demoRec, []) ∧
    demoChain.mergeOf 0 = some (1, demoChain.stage 1) ∧ (demoChain.stage 1).mlay ≠ 0 ∧
    (s.band 0).merges.length < 256 := by decide +kernel

theorem witness_band_psum :
    let r := rowOf psumChain [] [] [(0, 0, PsumAcc.start 0 0)]
    let parts := partsOf (sortTiles r.tiles) 0 r.psumParts
    (psumChain.stage 0).op = opPsum ∧ parts ≠ [] ∧ parts.length = r.tiles.length ∧
    (({ r with psumParts := parts.map (fun q => (0, q.1, q.2)) } : RowCtx).psumResult 0).isSome = true := by decide +kernel

/-- Pass 1: the maximum of the row; pass 2: APPLY of that maximum. -/
def applyChain : Chain :=
  { parseChain 5 (chainBytes 2 2 0x0101 4096 (stageBytes opStat 1 1 1 ++ stageBytes opApply 2 1 0)) with ver := 1, sig := 7 }

theorem witness_apply_start :
    let rp := RowPass.new applyChain [] demoStream.desc 0 4 2 0 1024 0 false true
    let wait := rowState applyChain rp (rowOf applyChain [] [] [])
    let ready := rowState applyChain rp (rowOf applyChain [] [{ step := 0, rcd := demoRec }] [])
    wait.tileRuns 0 = true ∧ (wait.tile 0).pass? 0 4 2 = some rp ∧ (ready.tile 0).pass? 0 4 2 = some rp ∧
    rp.next < rp.chain.passEnd rp.pass ∧ (rp.chain.stage rp.next).op = opApply ∧ rp.conflict = none ∧
    (rowOf applyChain [] [] []).final? (rp.chain.stage rp.next).astat = none ∧
    (rowOf applyChain [] [{ step := 0, rcd := demoRec }] []).final? (rp.chain.stage rp.next).astat = some demoRec := by
  decide +kernel

/-- The row's PSUM result is there, its part in tile 0 the lowest. -/
theorem witness_psum_result :
    let rp := { RowPass.new psumChain [] demoStream.desc 0 4 1 0 1024 0 false true with opened := false }
    let r := { rowOf psumChain [] [] [(0, 0, PsumAcc.start 0 0)] with psums := [(0, { code := 0, poison := false })] }
    let s := rowState psumChain rp r
    let wait := rowState psumChain rp (rowOf psumChain [] [] [])
    s.tileRuns 0 = true ∧ (s.tile 0).pass? 0 4 1 = some rp ∧ rp.next < rp.chain.passEnd rp.pass ∧
    (rp.chain.stage rp.next).op = opPsum ∧ r.psums.any (fun q => q.1 == rp.next) = true ∧ (r.psumSum rp.next).isSome = true ∧
    (wait.tile 0).pass? 0 4 1 = some rp ∧ (rowOf psumChain [] [] []).psums = [] := by decide +kernel

theorem witness_merge_waits : mergeState.merge? 0 0 4 0 = some demoMerge ∧ demoMerge.again = true ∧ demoMerge.asked = 0 ∧
    (mergeState.band 0).fabUp = true ∧ mergeState.bandRuns 0 = true ∧ mergeState.policy.mwait ≠ 0 ∧ demoMerge.began = true ∧
    demoMerge.waitReported = false := by decide +kernel

def demoWindow (phase : ListPhase) (waiting closing : Bool) : State × Block :=
  let w : Block := {
    sid := 0, pass := 1, index := 0, gather := true, stage := 1, opf := 1, size := 1, desc := demoStream.desc,
    rows := [], phase := phase, gbytes := [], want := 0, asked := 0, readBad := false, waiting := waiting,
    waitReported := false, count := 0, groups := [] }
  let w := if closing then { w with size := 0 } else w
  ({ open1 with tiles := open1.tiles.setIfInBounds 0 { tileUp 0 with blocks := [w] } }, w)

theorem witness_list_read :
    let x := demoWindow .collecting false true
    (x.1.tile 0).window? 0 1 (fun w => w.phase == .collecting && x.1.windowFull 0 w) = some x.2 ∧ x.1.tileRuns 0 = true ∧
    (up.tile 0).window? 0 1 (fun w => w.phase == .collecting && up.windowFull 0 w) = none ∧ up.tileRuns 10 = false := by
  decide +kernel

/-- The list of a window that has its rows is read while an earlier one waits for its list. -/
theorem witness_list_read_behind :
    let first := (demoWindow .waiting true false).2
    let w := { (demoWindow .collecting false true).2 with index := 1 }
    let s := { open1 with tiles := open1.tiles.setIfInBounds 0 { tileUp 0 with blocks := [first, w] } }
    (s.tile 0).window? 0 1 (fun w => w.phase == .collecting && s.windowFull 0 w) = some w ∧
    (s.tile 0).window? 0 1 (fun w => w.phase == .waiting) = some first ∧ first.index < w.index := by decide +kernel

theorem witness_list_waits :
    let x := demoWindow .waiting true false
    (x.1.tile 0).window? 0 1 (fun w => w.phase == .waiting) = some x.2 ∧ x.1.tileRuns 0 = true ∧ x.1.policy.mwait ≠ 0 ∧
    (x.1.tile 0).window? 0 1 (fun w => w.waiting && !w.waitReported) = some x.2 ∧
    (up.tile 0).window? 0 1 (fun w => w.phase == .waiting) = none ∧
    (up.tile 0).window? 0 1 (fun w => w.waiting && !w.waitReported) = none := by decide +kernel

/-! ### Ports -/

def demoOut (sid : Nat) : OpdBeat where
  data := 0
  first := true
  last := true
  nel := 1
  poison := false
  sid := BitVec.ofNat 14 sid
  row := 0
  pass := 1
  col0 := 0
  kind := 0
  aux := 0
  ends := []

theorem witness_opd_beat :
    let y := { tileUp 0 with egress := [demoOut 9, demoOut 4], opdCredits := 255, opdNext := 5 }
    let s := { up with tiles := up.tiles.setIfInBounds 0 y }
    s.tileRuns 0 = true ∧ (s.tile 0).opdCredits ≠ 0 ∧ (s.tile 0).nextSender = some 9 ∧
    splitFirst 9 (s.tile 0).egress = some (demoOut 9, [demoOut 4]) ∧ (up.tile 0).opdCredits = 0 ∧ up.tileRuns 0 = true := by
  decide +kernel

/-- Band 0 is halted: one beat of tile 0 stands in OPD_OUT's queue, and a response in its own. -/
theorem witness_opd_crossed :
    let a : XevRsp := { id := 0x11, n := 1, status := 1, poison := 0, data := 0, slot := none, places := [] }
    let y := { tileUp 0 with egress := [demoOut 9, demoOut 4], opdCredits := 255, xevBuf := [a], xevLeft := 1 }
    let s (n : Nat) : State := { up with
      tiles := up.tiles.setIfInBounds 0 y, bands := up.bands.setIfInBounds 0 { bandUp with halted := true, opdLeft := [n] } }
    (s 1).tileRuns 0 = false ∧ (s 1).portRuns 0 = true ∧ (s 1).opdLeft 0 = 1 ∧ (s 0).opdLeft 0 = 0 ∧
    ((s 1).tile 0).opdCredits ≠ 0 ∧ ((s 1).tile 0).egress ≠ [] ∧ ((s 1).tile 0).xevBuf = [a] ∧ ((s 1).tile 0).xevLeft ≠ 0 ∧
    (up.tile 0).xevLeft = 0 ∧
    up.portRuns 10 = false := by decide +kernel

theorem witness_credits : up.portRuns 0 = true ∧ up.fclkOut = true := by decide +kernel

def demoReq (owner : FabOwner) : FabReq := writeSlot owner 0x40 []

/-- A band with requests, and some outstanding. -/
def fabState (x : Band) : State := { open1 with bands := open1.bands.setIfInBounds 0 x }

def storeOwner : FabOwner := .store 0 0 4 1

theorem witness_fab_request :
    let s := fabState { bandUp with fabQueue := [demoReq storeOwner, demoReq .combine] }
    let lines := { bandUp with
      fabQueue := [readSlot storeOwner 0x40], fabOut := (List.range 64).map (fun k => (k, readSlot storeOwner 0x40)) }
    let held := { bandUp with away := true, fabQueue := [demoReq storeOwner, demoReq .combine] }
    s.fclkOut = true ∧ (s.band 0).fabQueue = demoReq storeOwner :: [demoReq .combine] ∧ (s.band 0).away = false ∧
    (demoReq storeOwner).op = .write ∧ (s.band 0).fabCredits ≠ 0 ∧ (s.band 0).fabOut = [] ∧ (up.band 0).fabQueue = [] ∧
    (let crossed := { held with fabLeft := 1 }
    crossed.away = true ∧ crossed.fabLeft ≠ 0 ∧ crossed.fabQueue = [] ++ demoReq storeOwner :: [demoReq .combine]) ∧
    (readSlot storeOwner 0x40).op = .read ∧ lines.fabOut.countP (fun o => o.2.op == .read) = 64 ∧
    ({ held with away := false, halted := true }).fabQueue = [demoReq storeOwner] ++ demoReq .combine :: [] ∧
    (let waits := { bandUp with
      halted := true, fabLeft := 1, fabQueue := [demoReq storeOwner]
      fabHeld := [{ tag := 5, req := demoReq storeOwner, ok := true, data := 0 }] }
    waits.fabLeft ≠ 0 ∧ waits.fabHeld.map (fun h => h.tag) = [5] ∧ (demoReq storeOwner).op ≠ .read ∧ waits.fabOut = []) ∧
    held.fabQueue = [demoReq storeOwner] ++ demoReq .combine :: [] ∧ storeOwner.vane = false ∧ FabOwner.combine.vane = true := by
  decide +kernel

/-- Whether the response to tag 0 finds that request. -/
def answersTo (s : State) (r : FabReq) : Bool :=
  s.fclkOut && (s.band 0).fabOut.find? (fun o => o.1 == (0 : BitVec 10).toNat) == some (0, r) && !(s.band 0).away &&
    !(s.band 0).halted

/-- Band 0 waits for a response to a request of each kind of owner. -/
theorem witness_fab_response :
    let s (o : FabOwner) : State := fabState { bandUp with fabOut := [(0, demoReq o), (1023, demoReq .combine)] }
    answersTo (s (.event false)) (demoReq (.event false)) = true ∧ answersTo (s (.event true)) (demoReq (.event true)) = true ∧
    answersTo (s (.logMirror 0 false)) (demoReq (.logMirror 0 false)) = true ∧
    answersTo (s (.logMirror 0 true)) (demoReq (.logMirror 0 true)) = true ∧
    answersTo (s storeOwner) (demoReq storeOwner) = true ∧ answersTo (s .combine) (demoReq .combine) = true ∧
    ((s .combine).band 0).fabOut.all (fun o => o.1 != (1 : BitVec 10).toNat) = true ∧
    (fabState { bandUp with away := true, fabOut := [(0, demoReq storeOwner)] }).fclkOut = true ∧
    (fabState { bandUp with halted := true, fabOut := [(0, demoReq storeOwner)] }).fclkOut = true ∧
    (demoReq storeOwner).owner.vane = false := by decide +kernel

/-- A response to a request of a merge, in the phases in which each request is out. -/
theorem witness_fab_merge :
    let m (p : MergePhase) (layout : Nat) : Merge :=
      { demoMerge with phase := p, layout := layout, asked := 1, again := false, began := false, waiting := false }
    let r (q : MergeReq) : FabReq := readSlot (.merge 0 4 0 q) 0x1040
    let s (p : MergePhase) (layout : Nat) (q : MergeReq) : State :=
      { fabState { bandUp with fabOut := [(0, r q)], merges := [m p layout] } with
        streams := [{ demoStream with rows := [rowOf demoChain [] [] []] }] }
    answersTo (s .readers 1 .readReaders) (r .readReaders) = true ∧
    (s .readers 1 .readReaders).merge? 0 0 4 0 = some (m .readers 1) ∧ (m .readers 1).need.toNat = leAt (toLe 64 0) 0 4 ∧
    (m .readers 1).need.toNat ≠ leAt (toLe 64 1) 0 4 ∧ (s .readers 2 .readReaders).merge? 0 0 4 0 = some (m .readers 2) ∧
    (s .writing 1 .writePart).merge? 0 0 4 0 = some (m .writing 1) ∧
    (s .writing 2 .arm).merge? 0 0 4 0 = some (m .writing 2) ∧
    (s .committing 2 .addCount).merge? 0 0 4 0 = some (m .committing 2) ∧
    (fabState { bandUp with fabOut := [(0, r .addReaders)] }).merge? 0 0 4 0 = none := by decide +kernel

/-- A response to a read of a GATHER list, whose window waits for two of them, or is gone. -/
theorem witness_fab_list :
    let x := demoWindow .header false false
    let w := { x.2 with asked := 2, want := 16, gbytes := List.replicate 16 0 }
    let r : FabReq := readSlot (.list 0 0 1 0 0) 0x1000
    let s := { fabState { bandUp with fabOut := [(0, r)] } with tiles := open1.tiles.setIfInBounds 0 { tileUp 0 with blocks := [w] } }
    answersTo s r = true ∧ (s.tile 0).blocks.find? (fun w => w.sid == 0 && w.pass == 1 && w.index == 0 && w.gather) = some w ∧
    2 ≤ w.asked ∧ (open1.tile 0).blocks = [] := by decide +kernel

def demoXev (func n : Nat) : XevReq where
  id := 0x11
  func := BitVec.ofNat 8 func
  ifmt := 0
  ofmt := 0
  n := BitVec.ofNat 7 n
  data := 0
  faults := []
  corrected := 0

theorem witness_xev_ready : up.xevReady 0 = true ∧ up.xevReady 10 = false ∧
    (fabState { bandUp with halted := true }).xevReady 0 = false := by decide +kernel

theorem witness_xev_fault :
    let f : XevFault := { kind := .residue, unit := 1, index := 7, elem := 63 }
    let r := { demoXev 1 64 with faults := [f] }
    up.xevStatus r = 0 ∧ r.faults = [f] ∧ f.elem < r.n.toNat ∧ r.faults.any (fun f => f.elem == 63) = true := by decide +kernel
theorem witness_xev_ok : up.xevStatus (demoXev 1 64) = 0 := by decide +kernel
theorem witness_xev_bad : (demoXev 1 65).n.toNat = 65 ∧ up.xevStatus (demoXev 1 65) = 2 ∧ up.xevStatus (demoXev 0 1) = 2 := by
  decide +kernel
theorem witness_xev_not_loaded : (demoXev 0x13 1).func.toNat = 0x10 + 3 ∧ (up.slots.get 3).state ≠ .loaded ∧
    up.xevStatus (demoXev 0x13 1) = 1 := by decide +kernel

theorem witness_xev_formats : opfOk 15 = false ∧ (fmtOf 0).isInt = false ∧ opfOk 0 = true ∧
    (List.range 32).any (fun o => opfOk o && (fmtOf o).isInt) = true := by decide +kernel

theorem witness_xev_narrow :
    let r := { demoXev 0x12 1 with ofmt := 3 }
    let s := { up with slots := slotsWith 2 { state := .loaded, first := 2, table := some { demoTable with narrow := false } } }
    r.func.toNat = 0x10 + 2 ∧ grantElems r.ofmt.toNat = 4 ∧ s.xevStatus r = 2 := by decide +kernel

theorem witness_xev_response :
    let a : XevRsp := { id := 0x11, n := 1, status := 1, poison := 0, data := 0, slot := none, places := [] }
    let s := { up with tiles := up.tiles.setIfInBounds 0 { tileUp 0 with xevBuf := [a] } }
    s.portRuns 0 = true ∧ s.tileRuns 0 = true ∧ (s.tile 0).xevBuf = [a] ∧ up.tileRuns 10 = false := by decide +kernel

/-- Both rings are configured, and the log holds an entry to mirror. -/
def reportState : State :=
  { up with
    evq := { RingRegs.reset with size := 64 }
    logm := { RingRegs.reset with size := 64 }
    log := logOf 1 }

theorem witness_rings : reportState.mgmtRuns = true ∧ reportState.paused = false ∧ reportState.evq.shut = false ∧
    reportState.arb.inFlight = false ∧ reportState.lowestBand = some 0 ∧
    (reportState.arb.next reportState.time).isSome = true ∧ up.evq.shut = true ∧ reportState.logm.shut = false ∧
    reportState.log.busy = false ∧ reportState.oldMirrorWrite = false ∧
    (firstUnsent reportState.log.entries).isSome = true ∧ up.logm.shut = true := by decide +kernel

/-- An event that arrives at `at_`. -/
def demoEvent (at_ : BitVec 64) : Event := { code := 0x20, src := 96, payload := 0, pair := none, arrival := at_ }

theorem witness_marks :
    let a : Arbiter := { reportState.arb with held := [demoEvent 1638500], mark := some 100 }
    let e : Arbiter := { reportState.arb with held := [demoEvent 1638499], mark := some 100 }
    let c : Arbiter := { reportState.arb with held := [demoEvent 99], mark := some 100 }
    16383 < (1638500 - 100) / 100 ∧ (1638499 - 100) / 100 = 16383 ∧
    (a.next 0).map (fun r => r.1.code) = some evTimeMark ∧ (e.next 0).map (fun r => r.1.tofs) = some 16383 ∧
    (c.next 0).map (fun r => r.1.code) = some evTimeMark := by decide +kernel

/-! ### Time, clocks and power -/

theorem witness_time : up.tclkOut = true ∧ up.mgmtRuns = true ∧ up.timeLost = false := by decide

/-- Counts of every band at 650 MHz, but for one band. -/
def counts (b : Nat) (v : BitVec 16) : Vector (BitVec 16) 8 := (Vector.replicate 8 650).setIfInBounds b v

/-- Every band's clocks stand at the floor or above, and no squall is in progress there, but for band `k`. -/
def healthyBut (s : State) (k : Nat) (cclk hclk : Vector (BitVec 16) 8) : Bool :=
  (List.finRange 8).all (fun b => b.val == k ||
    ((cclk.get b).toNat ≤ 1313 && 99 * pointMhz (s.band b.val).floor ≤ 100 * (cclk.get b).toNat &&
      (s.band b.val).floor ≤ (s.band b.val).cur && 1 ≤ (cclk.get b).toNat && 1 ≤ (hclk.get b).toNat &&
      !(s.band b.val).away && !(s.band b.val).squall && (s.band b.val).cclkTicks))

theorem witness_monitor : up.mgmtRuns = true ∧ up.tclkOut = true ∧ up.timeLost = false ∧
    healthyBut up 8 (counts 0 1313) (counts 0 1) = true := by decide +kernel

/-- One band's clock is too high, too low, at the floor again, absent, or back. -/
theorem witness_band_windows :
    let low := { up with bands := up.bands.setIfInBounds 7 { bandUp with sqCause := 2, sqMonitor := true } }
    let zero := { up with bands := up.bands.setIfInBounds 7 { bandUp with zeroWins := 1 } }
    let out := { up with bands := up.bands.setIfInBounds 7 { bandUp with present := false, zeroWins := 1 } }
    let gone := { bandUp with present := false, away := true, clocked := false, goodWins := 199 }
    let back := { up with bands := up.bands.setIfInBounds 7 gone }
    healthyBut up 7 (counts 7 1314) (counts 7 1) = true ∧ 1313 < ((counts 7 1314).get 7).toNat ∧
    up.judged 7 = true ∧ 100 * 643 < 99 * pointMhz (up.band 7).floor ∧ (up.band 7).squall = false ∧
    ((counts 7 643).get 7).toNat = 643 ∧ 99 * pointMhz (up.band 7).floor ≤ 100 * 644 ∧
    healthyBut low 7 (counts 7 644) (counts 7 1) = true ∧ (low.band 7).squall = true ∧ low.judged 7 = true ∧
    healthyBut zero 7 (counts 7 0) (counts 7 650) = true ∧ 1 ≤ (zero.band 7).zeroWins ∧ (zero.band 7).present = true ∧
    healthyBut out 7 (counts 7 0) (counts 7 650) = true ∧ 1 ≤ (out.band 7).zeroWins ∧ (out.band 7).clocked = true ∧
    (out.band 7).present = false ∧ (zero.band 7).clocked = true ∧ zero.readyDone = true ∧
    healthyBut back 7 (counts 7 650) (counts 7 1) = true ∧ (back.band 7).away = true ∧ (back.band 7).present = false ∧
    199 ≤ (back.band 7).goodWins ∧ pointMhz 0 ≤ 650 ∧ back.readyDone = true ∧ (back.band 7).fabUp = true ∧
    (back.tile 77).active = true ∧ bandOf 77 = 7 ∧ (back.band 7).fabHeld = [] ∧
    (∀ i : Fin 88, (back.tile i.val).rows = [] ∧ (back.tile i.val).queue = [] ∧ (back.tile i.val).blocks = []) := by decide +kernel

theorem witness_points : up.mgmtRuns = true ∧ (8 : BitVec 4).toNat ≤ 8 ∧ up.judged 0 = true ∧ State.reset.judged 0 = false ∧
    (1 : BitVec 4).toNat < (up.band 0).floor ∧ (up.band 0).squall = false ∧ (up.band 0).floor ≤ (2 : BitVec 4).toNat ∧
    up.logRoom false = true ∧ (1 : BitVec 4).toNat < (up.band 0).req ∧ (up.band 0).req ≤ (2 : BitVec 4).toNat ∧
    ({ up with log := logOf 4096 } : State).logAvail = 0 ∧ ({ up with log := logOf 4096 } : State).log.nextSeq ≠ 0xFFFFFFFF ∧
    ({ up with log := logOf 4080 } : State).logRoom false = false ∧
    ({ up with bands := up.bands.setIfInBounds 0 { bandUp with clkMode := 1 } }.band 0).clkMode = 1 := by decide +kernel

/-- The largest occupancy of the powered tiles asks for a higher point, or for a lower one. -/
theorem witness_choice :
    let u (n : Fin 1001) : Vector (Fin 1001) 11 := (Vector.replicate 11 0).setIfInBounds 3 n
    ({ up with handover := some (handing []) } : State).paused = true ∧ State.reset.mgmtRuns = false ∧
    ({ up with bands := up.bands.setIfInBounds 0 { bandUp with present := false } }.band 0).present = false ∧
    up.paused = false ∧ (up.band 0).present = true ∧ up.logRoom false = true ∧ (up.band 0).clkMode ≠ 1 ∧
    (up.tile 3).power = .ready ∧ (up.tile 10).power ≠ .ready ∧ ((u 1000).get 3).val = 1000 ∧
    (∀ i : Fin 11, ((u 1000).get i).val ≤ 1000) ∧ (up.band 0).uhi ≤ 1000 ∧ 0 < (up.band 0).uhi ∧ 0 < (up.band 0).cur ∧
    0 * pointMhz (up.band 0).cur ≤ (up.band 0).ulo * pointMhz ((up.band 0).cur - 1) := by decide +kernel

theorem witness_power_steps :
    let hold := { up with tiles := up.tiles.setIfInBounds 3 { tileUp 0 with power := .resetHold } }
    let check := { up with tiles := up.tiles.setIfInBounds 3 { tileUp 0 with power := .entryCheck } }
    (hold.tile 3).power = .resetHold ∧ (hold.band 0).cclkOut = true ∧ (hold.band 0).clocked = true ∧
    (check.tile 3).power = .entryCheck ∧ (check.band 0).svc = none ∧ hold.paused = false := by decide +kernel

/-- A TILE_RESTORE of tile 0 in a hand-over, with two steps done, or one, and with no hand-over. -/
theorem witness_restore_paused :
    let o (steps : Nat) : SvcOp := { svcOf .restore .power true with steps := steps }
    let s (steps : Nat) (h : Option Handover) : State := { svcState (o steps) with
      tiles := up.tiles.setIfInBounds 0 { tileUp 0 with power := .resetHold, active := false }
      longOps := [{ longOf opTileRestore with done := 1 }], handover := h }
    (s 2 (some (handing []))).paused = true ∧ (s 2 (some (handing []))).restoreSteps 0 = 2 ∧
    (s 1 (some (handing []))).restoreHeld 0 = true ∧ (s 1 (some (handing []))).restoreSteps 0 < 2 ∧
    (s 1 none).restoring 0 = some (o 1) ∧ (s 1 none).paused = false ∧
    (s 1 none).longOp? 0 6 = some { longOf opTileRestore with done := 1 } := by decide +kernel

theorem witness_power_lost : (open1.tile 0).pgReq = false ∧ (open1.tile 0).pgState = true ∧ (open1.band 0).svc = none ∧
    open1.streamsOn 0 = [demoStream] ∧ demoStream.closing = false ∧ demoStream.allTiles = [0] ∧
    (open1.tile 0).rows = [] ∧ (open1.tile 0).blocks = [] ∧ open1.streamsOn 1 = [] ∧ (up.tile 10).pgReq = true ∧
    (open1.streams.map (fun x => x.sid)).Nodup := by
  decide +kernel

/-! ### Testing, audits and the test port -/

theorem witness_drizzle :
    let y := { tileUp 0 with xevBuf := [{ id := 1, n := 1, status := 0, poison := 0, data := 0, slot := none, places := [7] }] }
    let s := { up with tiles := up.tiles.setIfInBounds 0 y }
    up.drizzles 0 (.pass 1 7 true) = true ∧ up.drizzles 0 (.corrected true false false) = true ∧
    up.drizzles 0 (.fault 5 0 0 1) = true ∧ up.drizzles 0 (.eccFault 2 0 0 1) = true ∧ up.drizzles 0 (.marginLow 0 0) = true ∧
    up.drizzles 10 (.marginLow 0 0) = false ∧ (s.tile 0).xevBuf.any (fun q => q.places.contains (7 : BitVec 16).toNat) = true ∧
    open1.holdsEntry 0 (.chain 5) = true ∧ open1.holdsEntry 0 (.stream 0) = true ∧ open1.tileRuns 0 = true := by
  decide +kernel

/-- A path monitor reads below the threshold in effect at the band's point, or at it. -/
theorem witness_margin_low :
    let cal : Calibration := { Calibration.reset with margins := [0, 0, 5, 0, 0, 0, 0, 0, 0] }
    let s := { up with tiles := up.tiles.setIfInBounds 0 { tileUp 0 with calUsed := cal } }
    s.drizzles 0 (.marginLow 7 4) = true ∧ (4 : Word).toNat < (s.tile 0).calUsed.margins.getD (s.band 0).cur 0 ∧
    (s.tile 0).calUsed.margins.getD (s.band 0).cur 0 ≤ (5 : Word).toNat := by decide +kernel

/-- The skid counter of tile 87 does not meet its queue. -/
theorem witness_books :
    let s := { up with tiles := up.tiles.setIfInBounds 87 { tileUp 87 with queue := List.replicate 3 (demoEntry true true) } }
    s.mgmtRuns = true ∧ s.paused = false ∧ s.readyDone = true ∧ s.unbalanced.map (fun x => (x.1, x.2.1)) = [(0, 87)] ∧
    ({ s with booksBad := [(0, 87, false)] } : State).booksBad.find? (fun z => z.1 == 0 && z.2.1 == 87) = some (0, 87, false) ∧
    s.booksBad.find? (fun z => z.1 == 0 && z.2.1 == 87) = none ∧ up.unbalanced = [] := by decide +kernel

/-- The test port with an instruction. -/
def tapOf (code : Byte) : State := { up with tap := { up.tap with ir := code } }

theorem witness_gates :
    (tapOf 0x10).tap.ir = 0x10 ∧ (tapOf 0x10).testGate (.tile 0) = false ∧ (tapOf 0x10).testGate (.band 7) = false ∧
    (tapOf 0x11).tap.ir = 0x11 ∧ (tapOf 0x11).testGate .management = false ∧ (tapOf 0x11).testGate (.tile 10) = true ∧
    (tapOf 0x11).tap.ir ≠ 0x10 ∧ State.reset.testGate (.band 0) = true ∧ up.inMap 0 = true ∧
    (up.tile 10).active = false ∧ (up.band 0).svc = none ∧ up.readyDone = true ∧ State.reset.readyDone = false ∧
    (tapOf 0x10).testGate (.tile 10) = true ∧ (up.tile 10).power = .off := by
  decide +kernel

/-- Every tile of a band is released and the band is out of the map, or one of them is neither gated nor retired. -/
theorem witness_band_gate :
    let out := { bandUp with present := false }
    let s (one : Bool) : State := { up with
      bands := up.bands.setIfInBounds 0 out
      tiles := Vector.ofFn (fun i : Fin 88 => { tileUp i.val with pgReq := i.val != 3 || one }) }
    (s true).readyDone = true ∧ ((s true).band 0).present = false ∧ (s true).testGate (.band 0) = true ∧
    (s false).testGate (.band 0) = false ∧ ((s false).tile 3).retired = false := by decide +kernel

theorem witness_tap :
    let s (p : TapPhase) (code : Byte) : State := { up with tap := { up.tap with phase := p, ir := code } }
    (s .captureDr 0x01).tap.phase = .captureDr ∧ (s .captureDr 0x01).tap.ir = 0x01 ∧ (s .captureDr 0xFE).tap.ir ≠ 0x11 ∧
    (s .shiftDr 0x01).tap.phase = .shiftDr := by decide +kernel

/-! ### Points of the arbiters, the hold ring and the start -/

def narrowExp : EvalKind := { func := 2, table := none, ofmt := 3, size := 4 }
def wideRecip : EvalKind := { func := 5, table := none, ofmt := 0, size := 1 }

/-- R131: a grant stops at the first lane of another kind, and at G lanes of its own; the pointer goes behind the last. -/
theorem test_lanes_granted :
    arbLanes [none, some narrowExp, some narrowExp, some wideRecip, some narrowExp] 0 = ([1, 2], 3) ∧
    arbLanes (List.replicate 16 (some narrowExp)) 14 = ([14, 15, 0, 1], 2) := by decide +kernel

/-- Six lanes, each with a narrow and then a wide request: grants of 4, 2 and six times 1. -/
theorem test_lanes_served : arbServe 12 (List.replicate 6 [narrowExp, wideRecip]) 14 = (8, 6) := by decide +kernel

/-- R211, R36: a later pass that begins in tile 1, while the first beat of the row's pass 1 waits in tile 0's queue, finds the
row's entry claimed in both. -/
theorem test_claim_before_first_leaves :
    let r : RowCtx := { rowOf demoChain [] [] [] with tiles := [0, 1], claimed := false }
    let s := { rowState demoChain demoPass r with tiles := open1.tiles.setIfInBounds 0 { tileUp 0 with queue := [demoEntry true true] } }
    let t := s.claimRow { demoPass with pass := 2 }
    ((t.tile 0).hold.map (fun h => h.row), (t.tile 1).hold.map (fun h => h.row)) = ([4], [4]) ∧
    (({ s with tiles := open1.tiles } : State).claimRow { demoPass with pass := 2 }).tiles = open1.tiles := by decide +kernel

/-- R181, R293: a first beat that finds no accumulator free waits for the row passes of every stream that hold some. -/
theorem test_accumulators_in_the_way :
    let other : RowPass := { demoPass with sid := 9, accs := List.replicate 64 (StatAcc.start 0) }
    let s := queueState (demoEntry true true) [other] demoStream
    (s.inTheWay 0 demoStream (demoEntry true true)).map (fun r => r.sid) = [9] ∧ s.headHeld 0 = some 0 := by decide +kernel

/-- R380: two kinds that tile 0 has latched cross with the CCLK of its band in the order of their detection, though TIME has
stepped back between them, and before a third that it detects then. -/
theorem test_release_takes_latched :
    let still : State := { up with bands := up.bands.setIfInBounds 0 { bandUp with cclkOut := false }, time := 900 }
    let two := ({ still.notice 0 evPoisonEcc 1 with time := 100 } : State).notice 0 evAccSeq 2
    let t := (two.release (.bandCompute 0)).notice 0 evAccTag 3
    two.arb.held = [] ∧ t.arb.held.map (fun e => e.code.toNat) = [evPoisonEcc, evAccSeq, evAccTag] := by decide +kernel

/-- R328: while READY waits behind mailbox 0, a band that loses its clock leaves the map. -/
theorem test_clock_lost_before_ready :
    let s : State := { up with bootPhase := .ready, readyDone := false }
    (s.band 0).present = true ∧ ((s.loseBand 0).band 0).present = false := by decide +kernel

/-- R314: the cap before Glomen runs and after. -/
theorem witness_glomen :
    let s : State := { up with bootPhase := .stopped, readyDone := false }
    s.mgmtRuns = true ∧ s.glomenUp = false ∧ up.glomenUp = true ∧ up.mgmtRuns = true ∧ up.taps = [] := by decide +kernel

/-- R411: a retired tile that a TILE_RESTORE has in hand. -/
theorem test_gate_closed_in_restore :
    let s : State := { retiredState with
      tiles := retiredState.tiles.setIfInBounds 3 { tileUp 10 with active := false, retired := true, pgReq := false } }
    let busy := s.setSvc 0 (some { svcOf .restore .power false with cur := 3 })
    s.readyDone = true ∧ s.tileGate 3 = true ∧ busy.tileGate 3 = false := by decide +kernel

/-! ### Records and number formats -/

/-- Two records of one row, one of each of two streams, whose fields outside their KIND differ; the third is alike with
the first but for STREAM and its maximum. -/
theorem witness_agree :
    let b : Rec := { demoRec with stream := 3, maxkey := 9, e := 4 }
    let c : Rec := { demoRec with stream := 3, maxkey := 9 }
    List.Perm [demoRec, b] [b, demoRec] ∧ List.Perm [demoRec, c] [c, demoRec] ∧
    kMax demoRec.kind.toNat = true ∧ kSum demoRec.kind.toNat = false ∧ kSumsq demoRec.kind.toNat = false ∧
    b.kind = demoRec.kind ∧ b.row = demoRec.row ∧ demoRec.flags.toNat < 16 ∧ c.e = demoRec.e ∧ b.e ≠ demoRec.e :=
  ⟨List.Perm.swap _ _ _, List.Perm.swap _ _ _, by decide⟩

theorem witness_format : 0x7BFF < 2 ^ Fmt.b16.width ∧ (decode .b16 0x7BFF).isNan = false := by decide +kernel

/-- Two values, a negative zero and a NaN, in two orders, with a sum term that does not exceed its clamp. -/
theorem witness_accumulations :
    let x : Val := .fin false 3 1 (-2)
    List.Perm [x, .nan false 1] [.nan false 1, x] ∧ (sumTerm 0 x).t = 3 * 2 ^ 36 ∧ kMax 3 = true ∧ kSum 3 = true ∧
    x.isNan = false ∧ x.isInf = false ∧ (0 : Nat) < 1 :=
  ⟨List.Perm.swap _ _ _, by decide +kernel⟩

/-- A CONVERT stage with an output scale: SE8 for 1, the binary16 fine scale for 2. -/
def scaleEnv (scout : Nat) : ConvEnv where
  st := {
    op := opConvert, pass := 1, opfD := 4, sa := 0, sb := 0, sc := 0, srcstg := 0, resv := false, param := scout * 2 ^ 14
    k0 := 0xFFFF, k1 := 0xFFFF, k2 := 0xFFFF, k3 := 0xFFFF }
  idx := 0
  cs := []
  zc := true
  scale := 0
  row := 0
  seed := 0
  dkey := 0

def heldOf (codes : List Nat) : List (Nat × HeldElem) :=
  codes.zipIdx.map (fun p => (p.2, { code := p.1, poison := false, mark := 0 }))

theorem witness_row_scale :
    (scaleEnv 1).st.holdf = .b32 ∧ (scaleEnv 1).st.outl = 0 ∧ (scaleEnv 1).st.k3 = 0xFFFF ∧ (scaleEnv 2).st.scout = 2 ∧
    (decode .b32 0x7FC00000).isNan = true ∧ (decode .b32 0x80000000).isZero = true ∧
    (convRow (scaleEnv 1) (heldOf [0x7FC00000])).scale = 255 ∧
    (convRow (scaleEnv 1) (heldOf [0x7FC00000, 0x80000000])).scale = 127 ∧
    0 < (convRow (scaleEnv 1) (heldOf [0x3F800000, 0x7FC00000])).scale ∧
    (convRow (scaleEnv 1) (heldOf [0x3F800000, 0x7FC00000])).scale < 254 ∧
    1 < (convRow (scaleEnv 2) (heldOf [0x3F800000, 0])).scale ∧
    (convRow (scaleEnv 2) (heldOf [0x3F800000, 0])).scale < 0x7BFF := by decide +kernel

/-- A FIX step of map 3 with the negative infinity as X, and a step that adds a NaN to 1. -/
theorem witness_special :
    let r : StepRegs := { w := [0x7FC00001, 0x3F800000], p := [], x := 0xFF800000 }
    bits (0x0D * 2 ^ 27 + 3) 31 27 = 0x0D ∧ bits (0x0D * 2 ^ 27 + 3) 6 0 = 3 ∧ decode .b32 r.x = .inf true ∧
    stepResult r (0x0D * 2 ^ 27 + 3) = 0x80000000 ∧
    bits (0x02 * 2 ^ 27 + 2 ^ 12) 31 27 = 0x02 ∧ (decode .b32 (r.read 0)).isNan = true ∧
    stepResult r (0x02 * 2 ^ 27 + 2 ^ 12) = 0x7FC00001 ∧ (0 : Nat) < 1 ∧ 2 ^ 26 - 1 < 2 ^ 26 ∧ Fmt.fm8.isLong = false ∧
    Fmt.fm8 ≠ .fm16 ∧ Fmt.fm8 ≠ .xf ∧ (reround .b32 (.fin true 1 1 0)).isZero = false ∧
    (reround .b32 (.fin true 1 1 (-200))).isZero = true := by decide +kernel

end Sys2Proof.Tests
end

section
/-!
PROOFS. Every step goes on, takes its command from the queue, and keeps the host's registers legal (R3, R398, R399).
-/

namespace Sys2Proof.Machine

/-- The sizes that a commit takes are those of R398. -/
theorem State.sizeOk_iff (n : Nat) : State.sizeOk n = true ↔ n = 0 ∨ ∃ k, 6 ≤ k ∧ k ≤ 20 ∧ n = 2 ^ k := by
  constructor
  · intro h
    simp only [State.sizeOk, isPow2, Bool.or_eq_true, Bool.and_eq_true, beq_iff_eq, decide_eq_true_eq] at h
    refine h.imp_right fun ⟨⟨⟨hpos, hand⟩, hmin⟩, hmax⟩ => ?_
    obtain ⟨k, rfl⟩ := (Nat.and_sub_one_eq_zero_iff_isPowerOfTwo (by omega)).1 hand
    exact ⟨k, (Nat.pow_le_pow_iff_right (a := 2) (n := 6) (by decide)).1 hmin,
      (Nat.pow_le_pow_iff_right (by decide)).1 hmax, rfl⟩
  · rintro (rfl | ⟨k, hmin, hmax, rfl⟩)
    · rfl
    · have hand := (Nat.and_sub_one_eq_zero_iff_isPowerOfTwo (n := 2 ^ k) (by positivity)).2 ⟨k, rfl⟩
      have h6 : 64 ≤ 2 ^ k := Nat.pow_le_pow_right (n := 2) (i := 6) (by decide) hmin
      have h20 : 2 ^ k ≤ 2 ^ 20 := Nat.pow_le_pow_right (by decide) hmax
      simp only [State.sizeOk, isPow2, Bool.or_eq_true, Bool.and_eq_true, beq_iff_eq, decide_eq_true_eq]
      exact .inr ⟨⟨⟨by omega, hand⟩, h6⟩, h20⟩

end Sys2Proof.Machine

namespace Sys2Proof.Safety

open Sys2Proof.Machine

/-! ### The legal form of a ring -/

/-- BASE_LO without its reserved bits is a multiple of 4,096. -/
theorem baseLo_aligned {v : Word} (h : v &&& 0x00000FFF = 0) : v.toNat % 4096 = 0 := by
  have := congrArg BitVec.toNat h
  rwa [BitVec.toNat_and, show (0x00000FFF : BitVec 32).toNat = 2 ^ 12 - 1 from rfl, Nat.and_two_pow_sub_one_eq_mod] at this

theorem commit_base_aligned {x : RingRegs} (h : x.baseLo &&& 0x00000FFF = 0) : x.commit.base % 4096 = 0 := by
  have := baseLo_aligned h
  simp only [RingRegs.commit]
  omega

theorem commit_base_lt (x : RingRegs) : x.commit.base < 2 ^ 52 := by
  have : bits x.baseHi.toNat 19 0 < 2 ^ 20 := Nat.mod_lt _ (by decide)
  simp only [RingRegs.commit]
  omega

/-- A base that is aligned and inside the 52 bits is legal. -/
theorem RingLegal.rebase {x : RingRegs} (h : RingLegal x) (b : Nat) (ha : b % 4096 = 0) (hb : b < 2 ^ 52) :
    RingLegal { x with base := b } :=
  have ⟨hlo, hhi, _, _, hsize, hidx⟩ := h
  ⟨hlo, hhi, ha, hb, hsize, hidx⟩

theorem RingLegal.commit {x : RingRegs} (h : RingLegal x) : RingLegal x.commit := by
  have hlo : x.baseLo &&& 0x00000FFF = 0 := h.1
  rw [show x.commit = { x with base := x.commit.base } from rfl]
  exact h.rebase _ (commit_base_aligned hlo) (commit_base_lt x)

/-- A BASE write drops the reserved bits. -/
theorem RingLegal.writeBase {x : RingRegs} (h : RingLegal x) (hi : Bool) (v : Word) :
    RingLegal (if hi then { x with baseHi := v &&& 0x000FFFFF } else { x with baseLo := v &&& 0xFFFFF000 }) := by
  obtain ⟨hlo, hhi, hrest⟩ := h
  have hlow : v &&& 0xFFFFF000 &&& 0x00000FFF = 0 := by rw [BitVec.and_assoc]; simp
  have hhigh : v &&& 0x000FFFFF &&& 0xFFF00000 = 0 := by rw [BitVec.and_assoc]; simp
  cases hi
  · exact ⟨hlow, hhi, hrest⟩
  · exact ⟨hlo, hhigh, hrest⟩

/-- A commit starts the ring empty. -/
theorem RingLegal.resize {x : RingRegs} (h : RingLegal x) (n : Nat) (hn : State.sizeOk n = true) :
    RingLegal { x with size := n, head := 0, tail := 0 } := by
  obtain ⟨hlo, hhi, hbase, hmax, -, -⟩ := h
  refine ⟨hlo, hhi, hbase, hmax, (State.sizeOk_iff n).1 hn, ?_⟩
  split
  · exact ⟨rfl, rfl⟩
  · exact ⟨Nat.pos_of_ne_zero ‹_›, Nat.pos_of_ne_zero ‹_›⟩

/-- A HEAD write that the check lets through stays inside the ring. -/
theorem RingLegal.moveHead {x : RingRegs} (h : RingLegal x) (v : Nat) (hv : State.RingRegs.headOk x v = true) :
    RingLegal { x with head := v } := by
  obtain ⟨hlo, hhi, hbase, hmax, hsize, hidx⟩ := h
  refine ⟨hlo, hhi, hbase, hmax, hsize, ?_⟩
  unfold State.RingRegs.headOk at hv
  by_cases hz : x.size = 0
  · simp_all
  · simp_all

/-- A record moves TAIL on inside the ring. -/
theorem RingLegal.moveTail {x : RingRegs} (h : RingLegal x) : RingLegal { x with tail := (x.tail + 1) % max x.size 1 } := by
  obtain ⟨hlo, hhi, hbase, hmax, hsize, hidx⟩ := h
  refine ⟨hlo, hhi, hbase, hmax, hsize, ?_⟩
  by_cases hz : x.size = 0
  · simp_all
  · have : max x.size 1 = x.size := by omega
    simp_all [Nat.mod_lt, Nat.pos_of_ne_zero]

theorem RingLegal.reset : RingLegal RingRegs.reset := by
  simp [RingLegal, RingRegs.reset]

end Sys2Proof.Safety

namespace Sys2Proof.Machine

open Sys2Proof.Safety

/-! ### What every command keeps -/

/-- From `s` to `t` no command enters or leaves the queue, and registers that were legal are legal. -/
def KeepsQueueAndRegs (s t : State) : Prop := t.pending = s.pending ∧ (RegsLegal s → RegsLegal t)

theorem KeepsQueueAndRegs.refl (s : State) : KeepsQueueAndRegs s s := ⟨rfl, id⟩

theorem KeepsQueueAndRegs.trans {s t u : State} (h : KeepsQueueAndRegs s t) (g : KeepsQueueAndRegs t u) :
    KeepsQueueAndRegs s u := ⟨g.1.trans h.1, g.2 ∘ h.2⟩

/-- What leaves the registers of `Kept` leaves the queue and the host's registers. -/
theorem KeepsQueueAndRegs.of_kept {s t : State} (h : t.kept = s.kept) : KeepsQueueAndRegs s t := by
  have hq : t.pending = s.pending := congrArg Kept.pending h
  have he : t.evq = s.evq := congrArg Kept.evq h
  have hl : t.logm = s.logm := congrArg Kept.logm h
  have hi : t.intEnable = s.intEnable := congrArg Kept.intEnable h
  exact ⟨hq, by rw [RegsLegal, RegsLegal, he, hl, hi]; exact id⟩

/-- An operation that keeps both, followed by one that leaves the registers of `Kept`. -/
theorem KeepsQueueAndRegs.then_kept {s t u : State} (h : KeepsQueueAndRegs s t) (g : u.kept = t.kept) :
    KeepsQueueAndRegs s u := h.trans (.of_kept g)

/-- A change of one ring that keeps its legal form. -/
theorem KeepsQueueAndRegs.setRing (s : State) (r : Ring) (y : RingRegs) (h : RingLegal (s.ringRegs r) → RingLegal y) :
    KeepsQueueAndRegs s (s.setRing r y) := by
  cases r
  · exact ⟨rfl, fun ⟨he, hl, hi⟩ => ⟨h he, hl, hi⟩⟩
  · exact ⟨rfl, fun ⟨he, hl, hi⟩ => ⟨he, h hl, hi⟩⟩

theorem KeepsQueueAndRegs.ctlWrite (s : State) (f : State → State) (h : KeepsQueueAndRegs s (f s)) :
    KeepsQueueAndRegs s (s.ctlWrite f) := by
  unfold State.ctlWrite
  split
  · exact h.then_kept (State.ctlDone_kept _ _)
  · exact .refl s

/-! ### The register window -/

theorem State.writeBase_keeps (s : State) (r : Ring) (hi : Bool) (v : Word) :
    KeepsQueueAndRegs s (s.writeBase r hi v) := by
  unfold State.writeBase
  split
  · exact .refl s
  · refine .then_kept (.setRing s r _ fun h => ?_) (State.logConfig_kept _ _ _ _)
    have := h.writeBase hi v
    cases hi <;> exact this

theorem State.writeSize_keeps (s : State) (r : Ring) (v : Word) : KeepsQueueAndRegs s (s.writeSize r v) := by
  unfold State.writeSize
  dsimp only
  split
  · exact .refl s
  split
  · exact .setRing s r _ id
  · have hsize : State.sizeOk v.toNat = true := by simp_all
    let y : RingRegs := { s.ringRegs r with size := v.toNat, head := 0, tail := 0 }
    have hring : KeepsQueueAndRegs s (s.setRing r (if s.ringBusy r then y else y.commit)) := .setRing s r _ fun h => by
      split
      · exact h.resize _ hsize
      · exact (h.resize _ hsize).commit
    refine hring.then_kept ?_
    rw [State.logConfig_kept]
    cases r
    · exact State.markFull_kept _
    · rfl

theorem State.writeHead_keeps (s : State) (r : Ring) (v : Word) : KeepsQueueAndRegs s (s.writeHead r v) := by
  unfold State.writeHead
  dsimp only
  split
  · exact .setRing s r _ id
  · have hok : State.RingRegs.headOk (s.ringRegs r) (bits v.toNat 19 0) = true := by simp_all
    refine .then_kept (.setRing s r _ fun h => h.moveHead _ hok) ?_
    cases r <;> rfl

theorem State.lock_keeps (s : State) (v : Word) : KeepsQueueAndRegs s (s.lock v) := by
  unfold State.lock
  split
  · exact ⟨rfl, id⟩
  · exact .refl s

theorem State.write_keeps (s : State) (off : Nat) (v : Word) : KeepsQueueAndRegs s (s.write off v) := by
  have henable : KeepsQueueAndRegs s { s with intEnable := v &&& State.intMask } := by
    refine ⟨rfl, fun ⟨he, hl, _⟩ => ⟨he, hl, ?_⟩⟩
    show v &&& State.intMask &&& 0xFFFFC0F0 = 0
    rw [BitVec.and_assoc]
    simp [State.intMask]
  have hclear (r : Ring) : KeepsQueueAndRegs s (s.setRing r (State.clearRing (s.ringRegs r) v)) := .setRing s r _ id
  unfold State.write
  split
  · exact .of_kept (State.mailboxWrite_kept _ _ _ _)
  split
  case h_2 => exact henable
  case h_4 | h_9 => exact State.writeBase_keeps s _ _ v
  case h_5 | h_10 => exact State.writeBase_keeps s _ _ v
  case h_6 | h_11 => exact State.writeSize_keeps s _ v
  case h_7 | h_12 => exact State.writeHead_keeps s _ v
  case h_8 => exact hclear .event
  case h_13 => exact hclear .logMirror
  case h_14 => exact State.lock_keeps s v
  case h_15 => exact .of_kept (State.trapCtl_kept _ _)
  case h_17 => exact .of_kept (State.snap_kept _ _)
  all_goals exact .refl s

/-! ### Responses to the records of the rings (R383, R389) -/

theorem State.eventDone_keeps (s : State) (old ok : Bool) : KeepsQueueAndRegs s (s.eventDone old ok) := by
  unfold State.eventDone
  dsimp only
  split
  · exact .setRing _ .event _ RingLegal.commit
  split
  · refine .then_kept (.setRing _ .event _ RingLegal.moveTail) ?_
    rw [State.markFull_kept, State.setInt_kept]
    rfl
  · exact ⟨rfl, id⟩

theorem State.mirrorDone_keeps (s : State) (seq : Word) (old ok : Bool) : KeepsQueueAndRegs s (s.mirrorDone seq old ok) := by
  unfold State.mirrorDone
  dsimp only
  split
  · exact .setRing s .logMirror _ RingLegal.commit
  split
  · exact .setRing s .logMirror _ RingLegal.moveTail
  · exact ⟨rfl, id⟩

theorem State.fabDone_keeps (s : State) (b : Nat) (r : FabReq) (ok : Bool) (data : BitVec 1024) :
    KeepsQueueAndRegs s (s.fabDone b r ok data) := by
  unfold State.fabDone
  split
  · exact State.eventDone_keeps s _ ok
  · exact State.mirrorDone_keeps s _ _ ok
  all_goals exact .of_kept (State.bandDone_kept _ _ _ _ _)

theorem State.fabResponse_keeps (s : State) (b tag status : Nat) (data : BitVec 1024) :
    KeepsQueueAndRegs s (s.fabResponse b tag status data) := by
  unfold State.fabResponse
  dsimp only
  split
  · exact .of_kept (State.fabFinding_kept _ _ _ _ _ _ _ _)
  · have hfinding (u : State) (b code sid row addr op st : Nat) (c : Prop) [Decidable c] :
        (if c then u else u.fabFinding b code sid row addr op st).kept = u.kept := by
      split
      · rfl
      · exact State.fabFinding_kept _ _ _ _ _ _ _ _
    split
    · refine .of_kept ?_
      rw [State.modBand_kept, hfinding, State.setBand_kept]
    · refine .trans (.of_kept ?_) (State.fabDone_keeps _ _ _ _ _)
      rw [hfinding, State.setBand_kept]

/-! ### Reset, start-up and the test port -/

theorem State.por_keeps (s : State) (level : Bool) : KeepsQueueAndRegs s (s.por level) :=
  ⟨rfl, fun _ => ⟨.reset, .reset, by simp [State.por, State.porWith]⟩⟩

theorem State.release_keeps (s : State) (d : Domain) : KeepsQueueAndRegs s (s.release d) := by
  cases d <;> (unfold State.release; dsimp only; split)
  case bandCompute.isTrue => exact .of_kept ((State.tapsCross_kept _ _ _).trans (State.modBand_kept _ _ _))
  case hostMatrix.isTrue => exact .of_kept (State.modBand_kept _ _ _)
  all_goals exact ⟨rfl, id⟩

theorem State.stubStart_keeps (s : State) (h : BitVec 384) (valid : Bool) (base : BitVec 52) :
    KeepsQueueAndRegs s (s.stubStart h valid base) := by
  unfold State.stubStart
  dsimp only
  split
  · split <;> exact ⟨rfl, id⟩
  · exact .refl s

theorem State.testAccess_keeps (s : State) (op : TestOp) : KeepsQueueAndRegs s (s.testAccess op) := by
  have hgated (u : TestUnit) (f : State → State) (h : KeepsQueueAndRegs s (f s)) : KeepsQueueAndRegs s (s.gated u f) := by
    unfold State.gated
    split
    · exact h
    · exact .of_kept (State.block_kept _ _)
  unfold State.testAccess
  cases op
  case loadIr | clock => exact ⟨rfl, id⟩
  case wrapper =>
    dsimp only
    split
    · split
      · exact hgated _ _ ⟨rfl, id⟩
      · exact ⟨rfl, id⟩
    · exact .refl s
  case repairWrite =>
    dsimp only
    split
    · exact hgated _ _ (.of_kept (State.modTile_kept _ _ _))
    · exact .refl s
  case scan | bistWrite =>
    dsimp only
    split
    · exact hgated _ _ (.refl s)
    · exact .refl s
  case readInstrument =>
    dsimp only
    split <;> exact ⟨rfl, id⟩

/-! ### Every command -/

/-- No command stops the block (R3). -/
theorem exec_goesOn (c : Instr) (s : State) : GoesOn (exec c s) := by
  cases c <;> exact ⟨_, rfl⟩

/-- A command leaves the queue alone and keeps the registers legal. -/
theorem exec_keeps (c : Instr) (s t : State) (h : exec c s = .next t) : KeepsQueueAndRegs s t := by
  by_cases hc : Instr.writesKept c = false
  · exact .of_kept (exec_kept c s t h hc)
  cases c
  case porN level =>
    obtain rfl : (if level == s.porN then s else s.por level) = t := Host.Outcome.next.inj h
    split
    · exact .refl s
    · exact State.por_keeps s level
  case domainResetRelease d => exact Host.Outcome.next.inj h ▸ State.release_keeps s d
  case romStubStart k v b => exact Host.Outcome.next.inj h ▸ State.stubStart_keeps s k v b
  case ringBaseWrite r hi v => exact Host.Outcome.next.inj h ▸ .ctlWrite s _ (State.writeBase_keeps s r hi v)
  case ringSizeWrite r v => exact Host.Outcome.next.inj h ▸ .ctlWrite s _ (State.writeSize_keeps s r v)
  case ringHeadWrite r v => exact Host.Outcome.next.inj h ▸ .ctlWrite s _ (State.writeHead_keeps s r v)
  case cfgLockWrite v => exact Host.Outcome.next.inj h ▸ .ctlWrite s _ (State.lock_keeps s v)
  case registerWrite a v => exact Host.Outcome.next.inj h ▸ .ctlWrite s _ (State.write_keeps s _ v)
  case fabResponse b tag status data =>
    obtain rfl : (if s.fabRuns b.val then s.fabResponse b.val tag.toNat status.toNat data else s) = t :=
      Host.Outcome.next.inj h
    split
    · exact State.fabResponse_keeps s _ _ _ data
    · exact .refl s
  case testAccess op => exact Host.Outcome.next.inj h ▸ State.testAccess_keeps s op
  case trstN => exact Host.Outcome.next.inj h ▸ ⟨rfl, id⟩
  all_goals exact absurd rfl hc

/-! ### Every step -/

theorem step_tick {s : State} (h : s.pending = []) : step s = .next (tick s) := by
  unfold step
  rw [h]

theorem step_command {s : State} {c : Instr} {rest : List Instr} (h : s.pending = c :: rest) :
    step s = exec c { s with pending := rest } := by
  unfold step
  rw [h]

/-- Settles O1: every arm of `exec` and the tick have a next state. -/
theorem stepRunsFrontCommand : Obligations.StepRunsFrontCommand := by
  refine ⟨fun c rest s => step_command rfl, fun s => ?_⟩
  cases hq : s.pending with
  | nil => exact ⟨_, step_tick hq⟩
  | cons c rest => exact step_command hq ▸ exec_goesOn c _

/-- Settles O2: the command runs on the rest of the queue and leaves it (`exec_keeps`). -/
theorem queueOnlyLosesItsFront : Obligations.QueueOnlyLosesItsFront := by
  intro c rest s t hq h
  rw [step_command hq] at h
  exact (exec_keeps c _ t h).1

/-- Settles O4: a command keeps the registers legal (`exec_keeps`), and a tick does not touch them. -/
theorem everyStepKeepsRegistersLegal : Obligations.EveryStepKeepsRegistersLegal := by
  intro s t hs h
  cases hq : s.pending with
  | nil =>
    rw [step_tick hq] at h
    exact Host.Outcome.next.inj h ▸ (KeepsQueueAndRegs.of_kept (tick_kept s)).2 hs
  | cons c rest =>
    rw [step_command hq] at h
    exact (exec_keeps c _ t h).2 hs

/-- Settles O6: every register is 0 and every slot FREE. -/
theorem registersLegalAtReset : Obligations.RegistersLegalAtReset := by
  refine ⟨⟨.reset, .reset, rfl⟩, fun i hi => absurd ?_ hi, fun l hl => absurd hl List.not_mem_nil, List.nodup_nil⟩
  simp [State.reset, State.porWith, Vector.get_eq_getElem]

end Sys2Proof.Machine
end

section
/-!
PROOFS. How a command that is malformed, or that a hand-over, a busy block or its origin turns away, is answered (R18,
R333, R334, R338, R350, R391).
-/

namespace Sys2Proof.Machine

open Sys2Proof.Safety

/-! ### Malformed commands (R333, Table 14.2) -/

/-- The first offending word is one of those that have a mask. -/
theorem firstReserved_bounds {ms ws : List Nat} {i k : Nat} (h : firstReserved ms ws i = some k) :
    i ≤ k ∧ k < i + ms.length := by
  induction ms generalizing ws i with
  | nil => simp [firstReserved] at h
  | cons m ms ih =>
    cases ws with
    | nil => simp [firstReserved] at h
    | cons w ws =>
      rw [firstReserved] at h
      split at h
      · have := ih h
        rw [List.length_cons]
        omega
      · cases h
        rw [List.length_cons]
        omega

/-- What each malformed status says of a command, and the word that the answer names. -/
theorem Cmd.malformed_some {c : Cmd} {st w : Nat} (h : c.malformed = some (st, w)) :
    st = 0x0301 ∧ w = 0 ∧ argMasks c.op (c.arg 1) = none ∨
      st = 0x0302 ∧ w = c.len ∨ st = 0x0303 ∧ 1 ≤ w ∧ (w < c.len ∨ w = 1) ∨ st = 0x0304 ∧ w = 0 ∧ c.tag = 0xFFFF := by
  unfold Cmd.malformed at h
  split at h
  case h_1 hmasks =>
    cases h
    exact .inl ⟨rfl, rfl, hmasks⟩
  case h_2 ms hmasks =>
    split at h
    · cases h
      exact .inr (.inl ⟨rfl, rfl⟩)
    · have hlen : c.len = ms.length + 1 := by simp_all
      split at h
      case h_1 i hi =>
        cases h
        have := firstReserved_bounds hi
        exact .inr (.inr (.inl ⟨rfl, by omega, .inl (by omega)⟩))
      case h_2 =>
        split at h
        · cases h
          exact .inr (.inr (.inl ⟨rfl, by omega, .inr rfl⟩))
        · split at h
          · cases h
            exact .inr (.inr (.inr ⟨rfl, rfl, by simp_all⟩))
          · cases h

theorem State.cmd_len (s : State) (m : Nat) : (s.cmd m).len = (s.mailbox m).len.toNat + 1 := rfl

/-! ### Answers -/

/-- Everything that an answer changes, the mailbox and its doorbell apart. -/
theorem State.answer_eq (s : State) (c : Cmd) (st : Nat) (ws : List Nat) :
    s.answer c st ws = { s with
      mbx := (s.answer c st ws).mbx, bells := (s.answer c st ws).bells, commandsTaken := satInc s.commandsTaken
      handover := handoverAfter s c.m, intStatus := intAnswered s c.m } := by
  have hx : (s.takeBell c.m).mailbox c.m = s.mailbox c.m := rfl
  unfold State.answer State.respond intAnswered
  dsimp only
  rw [hx]
  cases hv : (s.mailbox c.m).valid <;> rfl

/-- Settles O13: the four malformed outcomes (`Cmd.malformed_some`), and what an answer changes (`State.answer_eq`). -/
theorem malformedCommandChangesOnlyItsMailbox : Obligations.MalformedCommandChangesOnlyItsMailbox := by
  intro m st w s hruns hqueued hmal
  have hexec : exec (.commandMalformed m) s = .next (s.answer (s.cmd m.val) st [w]) := by
    simp [exec, execCommandMalformed, hmal, hruns, hqueued]
  refine ⟨?_, _, hexec, State.answer_answered s s m st [w] rfl rfl _ rfl rfl, State.answer_eq s _ st [w]⟩
  have hlen := s.cmd_len m.val
  have hlen16 := (s.mailbox m.val).len.isLt
  rcases Cmd.malformed_some hmal with h | ⟨hst, hw⟩ | ⟨hst, hw, hmax⟩ | h
  · exact .inl h
  · exact .inr (.inl ⟨hst, hw⟩)
  · exact .inr (.inr (.inl ⟨hst, hw, by omega⟩))
  · exact .inr (.inr (.inr h))

/-! ### Commands turned away (R334, R338, R350) -/

/-- Every mailbox row takes its command in one way (Table 14.5). -/
theorem exec_mailboxOp {c : Instr} {m : Fin 4} {op : Nat} {pick : Cmd → Bool} (h : mailboxOp c = some (m, op, pick)) :
    ∃ body, ∀ s : State, exec c s = .next (s.runCmd m.val op pick body) := by
  cases c <;> cases h <;> exact ⟨_, fun _ => rfl⟩

/-- What turns a command away, and that a read-only command is refused by no origin. -/
theorem State.guard_some {s : State} {c : Cmd} {r : Refuse} (h : s.guard c = some r) :
    r = { status := stHandover, words := [] } ∨ r = { status := stBusy, words := [] } ∨
      r = { status := stPermission, words := [] } ∧ readOnly c.op = false := by
  unfold State.guard at h
  extract_lets handing at h
  split at h
  · cases h
    exact .inl rfl
  split at h
  · cases h
    exact .inr (.inl rfl)
  split at h
  · cases h
    exact .inr (.inl rfl)
  split at h
  · rename_i hperm
    cases h
    refine .inr (.inr ⟨rfl, ?_⟩)
    cases hro : readOnly c.op
    · rfl
    · simp [State.permitted, hro] at hperm
  · cases h

/-- A status outside the family of refusals is answered and not logged. -/
theorem State.refuse_unlogged {s : State} {r : Refuse} (c : Cmd) (h : r.status / 256 ≠ 1) :
    s.refuse c r = s.answer c r.status r.words := by
  simp [State.refuse, h]

/-- The entry of a refusal (R18). -/
def State.refusalEntry (s : State) (c : Cmd) (status : Nat) : LogInfo where
  origin := c.m
  kind := kindOfOp c.op
  result := status
  tag := c.tag.toNat
  object := s.logObject c
  oldh := 0
  newh := 0

/-- `s` with one refusal more in its counter. -/
def State.countRefusal (s : State) : State := { s with refusals := satInc s.refusals }

/-- A changing command that its origin refuses is logged and answered so, or is LOG_FULL. -/
theorem State.refuse_permission (s : State) (c : Cmd) (hc : readOnly c.op = false) :
    s.refuse c { status := stPermission, words := [] } =
      if s.logRoom false then (s.countRefusal.logPut (s.refusalEntry c stPermission)).answer c stPermission []
      else s.countRefusal.answer c stLogFull [] := by
  have hroom : s.countRefusal.logRoom false = s.logRoom false := rfl
  have hunfolded : s.refuse c { status := stPermission, words := [] } =
      if readOnly c.op then s.countRefusal.answer c stPermission []
      else if !s.countRefusal.logRoom false then s.countRefusal.answer c stLogFull []
      else (s.countRefusal.logPut (s.refusalEntry c stPermission)).answer c stPermission [] := rfl
  rw [hunfolded, hc, hroom]
  cases s.logRoom false <;> rfl

theorem State.takes_op {s : State} {m op : Nat} (h : s.takes m op = true) : (s.cmd m).op = op := by
  simp only [State.takes, Bool.and_eq_true, beq_iff_eq] at h
  exact h.1.1.2

/-- What a refusal, a busy or a hand-over answer changes of the block. -/
theorem State.refuse_eq (s : State) (c : Cmd) (r : Refuse) :
    s.refuse c r = { s with
      mbx := (s.refuse c r).mbx, bells := (s.refuse c r).bells, commandsTaken := satInc s.commandsTaken
      handover := handoverAfter s c.m, intStatus := (s.refuse c r).intStatus, refusals := (s.refuse c r).refusals
      log := (s.refuse c r).log, taps := (s.refuse c r).taps, arb := (s.refuse c r).arb } := by
  have hcounters : (s.refuse c r).commandsTaken = satInc s.commandsTaken ∧ (s.refuse c r).handover = handoverAfter s c.m := by
    have hans (u : State) (st : Nat) (ws : List Nat) (ht : u.commandsTaken = s.commandsTaken) (hh : u.handover = s.handover) :
        (u.answer c st ws).commandsTaken = satInc s.commandsTaken ∧ (u.answer c st ws).handover = handoverAfter s c.m := by
      rw [State.answer_eq u c st ws, ht, handoverAfter, hh]
      exact ⟨rfl, rfl⟩
    unfold State.refuse
    dsimp only
    split
    · exact hans s _ _ rfl rfl
    split
    · exact hans _ _ _ rfl rfl
    split
    · exact hans _ _ _ rfl rfl
    · exact hans _ _ _ (State.logPut_commandsTaken _ _) (State.logPut_handover _ _)
  conv_lhs => rw [State.refuse_frame]
  rw [hcounters.1, hcounters.2]

/-- Settles O14: each of the three things that turn a command away (`State.guard_some`) answers or logs it in its way. -/
theorem turnedAwayCommandsAreAnsweredAndLogged : Obligations.TurnedAwayCommandsAreAnsweredAndLogged := by
  intro c m op pick r s hop htakes hpick hguard
  obtain ⟨body, hexec⟩ := exec_mailboxOp hop
  have hop' : (s.cmd m.val).op = op := State.takes_op htakes
  have hrefused : exec c s = .next (s.refuse (s.cmd m.val) r) := by
    rw [hexec, State.runCmd_refused s m op pick body r htakes hguard hpick]
  have hanswered (u : State) (st : Nat) (hm : u.mbx = s.mbx) (hb : u.bells = s.bells) :
      Answered s (u.answer (s.cmd m.val) st []) m st [] :=
    State.answer_answered s u m st [] hm hb _ rfl rfl
  have hunlogged (h : r.status / 256 ≠ 1) (hw : r.words = []) :
      Answered s (s.refuse (s.cmd m.val) r) m r.status [] ∧ (s.refuse (s.cmd m.val) r).log = s.log := by
    rw [State.refuse_unlogged _ h, hw]
    exact ⟨hanswered s _ rfl rfl, State.answer_log _ _ _ _⟩
  rcases State.guard_some hguard with rfl | rfl | ⟨rfl, hro⟩
  · exact ⟨_, hrefused, .inl rfl, fun _ => hunlogged (by decide) rfl, fun h => absurd h (by decide),
      fun h => absurd h (by decide), State.refuse_eq s _ _⟩
  · exact ⟨_, hrefused, .inr (.inl rfl), fun _ => hunlogged (by decide) rfl, fun h => absurd h (by decide),
      fun h => absurd h (by decide), State.refuse_eq s _ _⟩
  · refine ⟨_, hrefused, .inr (.inr rfl), fun h => absurd rfl h, fun _ hroom => ?_, fun _ hfull => ?_, State.refuse_eq s _ _⟩
    · rw [State.refuse_permission s _ hro, if_pos hroom]
      refine ⟨hanswered _ _ (State.logPut_mbx _ _) (State.logPut_bells _ _), ?_⟩
      obtain ⟨more, hmore⟩ := State.logPut_entries s.countRefusal (s.refusalEntry (s.cmd m.val) stPermission)
      refine ⟨more, ?_⟩
      rw [State.answer_log, hmore]
      simp [State.refusalEntry, entryAt, State.countRefusal, hop', State.cmd_m]
    · rw [State.refuse_permission s _ hro, if_neg (by simp [hfull])]
      exact ⟨hanswered _ _ rfl rfl, State.answer_log _ _ _ _⟩

end Sys2Proof.Machine
end

section
/-!
PROOFS. Writes of the register window by access code (R13, R15, R305, R329, R330, R377, R379, R396, R398, R399).
-/

namespace Sys2Proof.Machine

open Sys2Proof.Safety

/-- A word is not 0 when a bit of it is set. -/
theorem word_ne_zero_iff (x : Word) : (x != 0) = true ↔ ∃ k < 32, x.getLsbD k = true := by
  rw [bne_iff_ne, ← not_iff_not, not_not]
  push Not
  refine ⟨fun h k _ => by simp [h], fun h => BitVec.eq_of_getLsbD_eq fun k hk => ?_⟩
  simpa using h k hk

/-! ### RESUME where nothing waits (R379) -/

theorem Band.unhalted {x : Band} (h : x.halted = false) : { x with halted := false } = x := by
  rw [← h]

namespace State

variable (s : State)

theorem modBand_fixed (b : Nat) (f : Band → Band) (h : f (s.band b) = s.band b) : s.modBand b f = s := by
  have hbands : s.bands.setIfInBounds b (s.band b) = s.bands := by
    ext i hi
    rw [Vector.getElem_setIfInBounds]
    split
    · subst_vars
      simp [State.band, hi]
    · rfl
  unfold modBand setBand
  rw [h, hbands]

/-- A change of several bands is a change of the bands. -/
theorem foldl_modBand_frame (f : Band → Band) (l : List Nat) :
    l.foldl (fun s b => s.modBand b f) s = { s with bands := (l.foldl (fun s b => s.modBand b f) s).bands } := by
  induction l generalizing s with
  | nil => rfl
  | cons b l ih => exact ih _

/-- A change that is made once or several times reaches the bands of the list and no other. -/
theorem foldl_modBand_band (f : Band → Band) (hf : ∀ x, f (f x) = f x) (l : List Nat) (b : Nat) (hb : b < 8) :
    (l.foldl (fun s b => s.modBand b f) s).band b = if b ∈ l then f (s.band b) else s.band b := by
  induction l generalizing s with
  | nil => rfl
  | cons c l ih =>
    rw [List.foldl_cons, ih]
    by_cases hc : b = c
    · subst hc
      simp [hb, hf]
    · have hne : c ≠ b := fun h => hc h.symm
      rw [modBand_band_ne s c b f hne]
      simp [hc]

/-- The return of a stream changes streams, and reports. -/
theorem resume_frame (sid : Nat) :
    s.resume sid = { s with
      streams := (s.resume sid).streams, intStatus := (s.resume sid).intStatus, arb := (s.resume sid).arb
      taps := (s.resume sid).taps } := by
  unfold resume
  split
  · rfl
  split
  · dsimp only
    split
    · rw [notice_frame]
      rfl
    · rfl
  · rfl

theorem unsuspend_frame (sids : List Nat) (f : Causes → Causes) :
    s.unsuspend sids f = { s with
      streams := (s.unsuspend sids f).streams, intStatus := (s.unsuspend sids f).intStatus
      arb := (s.unsuspend sids f).arb, taps := (s.unsuspend sids f).taps } := by
  unfold unsuspend
  induction sids generalizing s with
  | nil => rfl
  | cons sid sids ih =>
    rw [List.foldl_cons, ih, resume_frame]
    rfl

/-- The streams of a band that a halt no longer holds go on. -/
def endHaltOf (s : State) (b : Nat) : State :=
  s.unsuspend ((s.streamsIn b).map (fun x => x.sid)) (fun c => { c with halt := false })

theorem foldl_endHaltOf_frame (l : List Nat) :
    l.foldl endHaltOf s = { s with
      streams := (l.foldl endHaltOf s).streams, intStatus := (l.foldl endHaltOf s).intStatus
      arb := (l.foldl endHaltOf s).arb, taps := (l.foldl endHaltOf s).taps } := by
  induction l generalizing s with
  | nil => rfl
  | cons b l ih =>
    rw [List.foldl_cons, ih, endHaltOf, unsuspend_frame]

/-- No response, beat, row pass or block waits in any band. -/
def NothingWaits (s : State) : Prop :=
  (∀ b, (s.band b).fabHeld = []) ∧ ∀ t, (s.tile t).rows = [] ∧ (s.tile t).queue = [] ∧ (s.tile t).blocks = []

/-- It is enough to look at the bands and tiles that there are. -/
theorem NothingWaits.of_units {s : State} (hb : ∀ b : Fin 8, (s.band b.val).fabHeld = [])
    (ht : ∀ i : Fin 88, (s.tile i.val).rows = [] ∧ (s.tile i.val).queue = [] ∧ (s.tile i.val).blocks = []) :
    NothingWaits s := by
  constructor
  · intro b
    by_cases h : b < 8
    · exact hb ⟨b, h⟩
    · simp [State.band, h, Band.resetWith]
  · intro t
    by_cases h : t < 88
    · exact ht ⟨t, h⟩
    · simp [State.tile, h, Tile.resetWith]

/-- A tile without row passes and blocks has nothing to do. -/
theorem settleTile_idle (t : Nat) (hr : (s.tile t).rows = []) (hb : (s.tile t).blocks = []) : s.settleTile t = s := by
  have hkeys : (s.tile t).keys = [] := by rw [Tile.keys, hr]; rfl
  unfold settleTile
  simp [hkeys, hb]

theorem drainMarks_idle (t n : Nat) (h : (s.tile t).queue = []) : s.drainMarks t n = s := by
  unfold drainMarks
  split
  · cases n with
    | zero => rfl
    | succ n => simp [takeMarks, h]
  · rfl

/-- A band in which nothing waits has nothing to catch up with. -/
theorem wakeBand_idle {s : State} (h : NothingWaits s) (b : Nat) : s.wakeBand b = s := by
  obtain ⟨hheld, htiles⟩ := h
  have htaken : s.modBand b (fun y => { y with fabHeld := [] }) = s :=
    s.modBand_fixed b _ (by rw [← hheld b])
  unfold wakeBand
  split
  · simp only [hheld, htaken, List.foldl_nil]
    refine List.foldl_fixed' (fun t => ?_) _
    obtain ⟨hrows, hqueue, hblocks⟩ := htiles t
    rw [drainMarks_idle s t 256 hqueue, settleTile_idle s t hrows hblocks]
  · rfl

/-- The bands that the trap has halted. -/
def haltedBands (s : State) : List Nat := (List.range 8).filter (fun b => (s.band b).halted)

/-- The halt is over in the bands and in the trap. -/
def unhalt (s : State) : State :=
  let u := s.haltedBands.foldl (fun s b => s.modBand b (fun x => { x with halted := false })) s
  { u with trap := { u.trap with halted := false } }

theorem unhalt_frame :
    s.unhalt = { s with bands := s.unhalt.bands, trap := { s.trap with halted := false } } := by
  unfold unhalt
  dsimp only
  rw [foldl_modBand_frame]

theorem unhalt_band (b : Nat) (hb : b < 8) : s.unhalt.band b = { s.band b with halted := false } := by
  have h := s.foldl_modBand_band (fun x => { x with halted := false }) (fun _ => rfl) s.haltedBands b hb
  refine (show s.unhalt.band b = _ from h).trans ?_
  split
  · rfl
  · refine (Band.unhalted ?_).symm
    simp_all [haltedBands]

theorem unhalt_nothingWaits {s : State} (h : NothingWaits s) : NothingWaits s.unhalt := by
  refine .of_units (fun b => ?_) (fun i => ?_)
  · rw [unhalt_band s b.val b.isLt]
    exact h.1 b.val
  · rw [unhalt_frame]
    exact h.2 i.val

/-- Where nothing waits RESUME ends the halt, and the streams return (R278). -/
theorem resumeHalt_idle {s : State} (h : NothingWaits s) : s.resumeHalt = s.haltedBands.foldl endHaltOf s.unhalt := by
  have hquiet : NothingWaits (s.haltedBands.foldl endHaltOf s.unhalt) := by
    rw [foldl_endHaltOf_frame]
    exact unhalt_nothingWaits h
  exact (List.foldl_fixed' (fun b => wakeBand_idle hquiet b) _)

theorem resumeHalt_trap {s : State} (h : NothingWaits s) : s.resumeHalt.trap = { s.trap with halted := false } := by
  rw [resumeHalt_idle h, foldl_endHaltOf_frame, unhalt_frame]

theorem resumeHalt_band {s : State} (h : NothingWaits s) (b : Nat) (hb : b < 8) :
    s.resumeHalt.band b = { s.band b with halted := false } := by
  rw [resumeHalt_idle h, foldl_endHaltOf_frame]
  exact unhalt_band s b hb

/-- ARM, HALT and TRIG are taken, and REARM clears the record. -/
def trapSet (s : State) (v : Word) : State :=
  { s with trap := { s.trap with
    arm := v.getLsbD 0, halt := v.getLsbD 1, trig := v.getLsbD 2
    record := if v.getLsbD 8 then 0 else s.trap.record
    count := if v.getLsbD 8 then 0 else s.trap.count
    valid := s.trap.valid && !v.getLsbD 8 } }

theorem trapCtl_eq (v : Word) : s.trapCtl v = if v.getLsbD 9 then (s.trapSet v).resumeHalt else s.trapSet v := by
  unfold trapCtl trapSet rearm
  cases v.getLsbD 8 <;> simp

/-! ### Interrupt lines (R305) -/

theorem masked_ne_zero_iff (a v m : Word) :
    (a &&& (v &&& intMask) &&& m != 0) = true ↔
      ∃ k < 32, (intMask &&& m).getLsbD k = true ∧ a.getLsbD k = true ∧ v.getLsbD k = true := by
  rw [word_ne_zero_iff]
  refine exists_congr fun k => and_congr_right fun _ => ?_
  simp only [BitVec.getLsbD_and, Bool.and_eq_true]
  tauto

/-- The enables of irq_mailbox are bits 3:0. -/
theorem irqMailbox_enabled (v : Word) :
    ({ s with intEnable := v &&& intMask } : State).irqMailbox = true ↔
      ∃ k, k < 4 ∧ s.intStatus.getLsbD k = true ∧ v.getLsbD k = true := by
  have hmask : ∀ k < 32, (intMask &&& 0x0000000F).getLsbD k = true ↔ k < 4 := by decide
  refine (masked_ne_zero_iff s.intStatus v 0x0000000F).trans (exists_congr fun k => ⟨?_, ?_⟩)
  · rintro ⟨hk, hm, hbits⟩
    exact ⟨(hmask k hk).1 hm, hbits⟩
  · rintro ⟨hk, hbits⟩
    exact ⟨by omega, (hmask k (by omega)).2 hk, hbits⟩

/-- The enables of irq_event are bits 13:8. -/
theorem irqEvent_enabled (v : Word) :
    ({ s with intEnable := v &&& intMask } : State).irqEvent = true ↔
      ∃ k, 8 ≤ k ∧ k < 14 ∧ s.intStatus.getLsbD k = true ∧ v.getLsbD k = true := by
  have hmask : ∀ k < 32, (intMask &&& 0x00003F00).getLsbD k = true ↔ 8 ≤ k ∧ k < 14 := by decide
  refine (masked_ne_zero_iff s.intStatus v 0x00003F00).trans (exists_congr fun k => ⟨?_, ?_⟩)
  · rintro ⟨hk, hm, hbits⟩
    obtain ⟨hlo, hhi⟩ := (hmask k hk).1 hm
    exact ⟨hlo, hhi, hbits⟩
  · rintro ⟨hlo, hhi, hbits⟩
    exact ⟨by omega, (hmask k (by omega)).2 ⟨hlo, hhi⟩, hbits⟩

/-! ### Writes by offset -/

/-- A register write has its effect and completes while the management domain runs. -/
theorem exec_registerWrite {s : State} (h : s.mgmtRuns = true) (a : BitVec 10) (v : Word) :
    exec (.registerWrite a v) s = .next ((s.write (4 * a.toNat) v).ctlDone 0) :=
  congrArg Host.Outcome.next (ctlWrite_out s _ h)

/-- Word `k` of the window of mailbox `m`. -/
theorem write_mailbox (m : Fin 4) (k : Nat) (hk : k < 0x40) (v : Word) :
    s.write (4 * (BitVec.ofNat 10 (0x80 + 0x40 * m.val + k)).toNat) v = s.mailboxWrite m (4 * k) v := by
  have hm := m.isLt
  have haddr : 4 * (BitVec.ofNat 10 (0x80 + 0x40 * m.val + k)).toNat = 0x200 + 0x100 * m.val + 4 * k := by
    rw [BitVec.toNat_ofNat]
    omega
  have hbox : Fin.ofNat 4 ((0x200 + 0x100 * m.val + 4 * k - 0x200) / 0x100) = m := by
    ext
    simp only [Fin.val_ofNat]
    omega
  have hoff : (0x200 + 0x100 * m.val + 4 * k) % 0x100 = 4 * k := by omega
  unfold write
  rw [haddr, if_pos (by simp; omega), hbox, hoff]

/-- Words of a mailbox's window that take no write. -/
theorem mailboxWrite_readOnly (m : Fin 4) (k : Nat) (hk : 0x12 ≤ k) (h : k ≠ 0x31) (v : Word) :
    s.mailboxWrite m (4 * k) v = s := by
  unfold mailboxWrite
  dsimp only
  rw [if_neg (by omega), if_neg (by simp; omega), if_neg (by simp; omega), if_neg (by simp; omega)]

/-- Outside the mailboxes, the offsets of Table 17.1 that take a write. -/
def writable : List Nat :=
  [0x40, 0x44, 0x48, 0x80, 0x84, 0x88, 0x8C, 0x90, 0xA0, 0xA4, 0xA8, 0xAC, 0xB0, 0xC0, 0x820, 0x900, 0x904]

/-- Every other write is ignored (R15). -/
theorem write_ignored (off : Nat) (v : Word) (hm : off < 0x200 ∨ 0x600 ≤ off) (h : off ∉ writable) : s.write off v = s := by
  unfold write
  rw [if_neg (by simp; omega)]
  split
  case h_18 => rfl
  all_goals exact absurd (by decide) h

/-- An IN word is taken in IDLE alone (R329). -/
theorem mailboxWrite_in (m : Fin 4) (i : Fin 16) (v : Word) :
    s.mailboxWrite m (4 * i.val) v = if (s.mailbox m.val).state = .idle then
      s.setMailbox m.val { s.mailbox m.val with inW := (s.mailbox m.val).inW.setIfInBounds i.val v } else s := by
  have hi := i.isLt
  have hword : 4 * i.val / 4 = i.val := by omega
  unfold mailboxWrite
  dsimp only
  rw [if_pos (by omega), hword]
  simp only [beq_iff_eq]

/-- LOST of a mailbox clears by 1. -/
theorem mailboxWrite_lost (m : Fin 4) (v : Word) :
    s.mailboxWrite m (4 * 0x11) v =
      if v.getLsbD 8 then s.setMailbox m.val { s.mailbox m.val with lost := false } else s := rfl

/-- The doorbell (R330). -/
theorem mailboxWrite_bell (m : Fin 4) (v : Word) :
    s.mailboxWrite m (4 * 0x10) v = if (s.mailbox m.val).state = .idle then
      { s.setMailbox m.val { s.mailbox m.val with state := .queued, len := BitVec.ofNat 4 v.toNat } with
        bells := s.bells ++ [m] }
      else s.setMailbox m.val { s.mailbox m.val with lost := true } := by
  show s.ring m v = _
  unfold ring
  simp only [beq_iff_eq]

/-- A change of one mailbox shows in that mailbox and in no other. -/
theorem setMailbox_shows (m : Fin 4) (x : Mailbox) :
    (s.setMailbox m.val x).mailbox m.val = x ∧
      (∀ k : Fin 4, k ≠ m → (s.setMailbox m.val x).mailbox k.val = s.mailbox k.val) ∧
      s.setMailbox m.val x = { s with mbx := (s.setMailbox m.val x).mbx } :=
  ⟨setMailbox_mailbox s _ x m.isLt, fun _ hk => setMailbox_mailbox_ne s _ _ x fun h => hk (Fin.ext h.symm), rfl⟩

end State

/-- Settles O40: one equation of `State.write` per access code, and RESUME where nothing waits (`State.resumeHalt_idle`). -/
theorem registerWritesFollowTheirAccessCodes : Obligations.RegisterWritesFollowTheirAccessCodes := by
  intro v s hruns ok nothingWaits
  have hwrite (a : BitVec 10) : exec (.registerWrite a v) s = .next (ok (s.write (4 * a.toNat) v)) :=
    State.exec_registerWrite hruns a v
  have hmailbox (m : Fin 4) (k a : Nat) (hk : k < 0x40) (ha : a = 0x80 + 0x40 * m.val + k) :
      exec (.registerWrite (BitVec.ofNat 10 a) v) s = .next (ok (s.mailboxWrite m (4 * k) v)) := by
    rw [hwrite, ha, State.write_mailbox s m k hk v]
  refine ⟨hwrite 0x010, hwrite 0x011, ⟨_, hwrite 0x011, rfl, s.irqMailbox_enabled v, s.irqEvent_enabled v⟩,
    hwrite 0x012, hwrite 0x024, hwrite 0x02C, hwrite 0x240, ?trap, ?ignored, ?lock, ?words, ?lost, ?bell⟩
  case trap =>
    have htrap : s.write (4 * (0x208 : BitVec 10).toNat) v = s.trapCtl v := rfl
    refine ⟨_, hwrite 0x208, rfl, rfl, ?_⟩
    rw [htrap, State.trapCtl_eq]
    cases h9 : v.getLsbD 9
    case false =>
      rw [if_neg (by decide)]
      exact ⟨fun _ => by simp [ok, State.trapSet], fun _ => rfl, fun h => absurd h (by decide)⟩
    case true =>
      rw [if_pos rfl]
      refine ⟨fun h => ?_, fun h => absurd h (by decide), fun _ hw b => ?_⟩
      · obtain ⟨hb, ht⟩ := h.resolve_left (by decide)
        have hw : (s.trapSet v).NothingWaits := .of_units hb ht
        exact (State.resumeHalt_trap hw).trans (by simp [State.trapSet])
      · have hw' : (s.trapSet v).NothingWaits := .of_units hw.1 hw.2
        exact congrArg Band.halted (State.resumeHalt_band hw' b.val b.isLt)
  case ignored =>
    intro a ha
    rw [hwrite]
    rcases ha with h | h | h | h | h | ⟨m, k, hlo, hhi, hack, hak⟩ | h | h | h
    case inr.inr.inr.inr.inr.inl =>
      have haddr : a = BitVec.ofNat 10 (0x80 + 0x40 * m.val + k) := by
        rw [← hak, BitVec.ofNat_toNat, BitVec.setWidth_eq]
      rw [haddr, State.write_mailbox s m k hhi v, State.mailboxWrite_readOnly s m k hlo hack v]
    all_goals
      rw [State.write_ignored s (4 * a.toNat) v (by omega)]
      simp only [State.writable, List.mem_cons, List.not_mem_nil, or_false]
      omega
  case lock =>
    refine congrArg Host.Outcome.next ((State.ctlWrite_out s _ hruns).trans (congrArg ok ?_))
    unfold State.lock
    cases v.getLsbD 0 <;> simp
  case words =>
    intro m i
    refine ⟨_, hmailbox m i.val _ (by omega) rfl, ?_⟩
    rw [State.mailboxWrite_in]
    split
    · obtain ⟨hsame, hother, hframe⟩ := s.setMailbox_shows m
        { s.mailbox m.val with inW := (s.mailbox m.val).inW.setIfInBounds i.val v }
      exact ⟨hsame, hother, congrArg ok hframe⟩
    · exact ⟨rfl, fun _ _ => rfl, rfl⟩
  case lost =>
    intro m
    refine ⟨_, hmailbox m 0x11 _ (by decide) (by omega), ?_⟩
    rw [State.mailboxWrite_lost]
    cases v.getLsbD 8
    case false => exact ⟨by simp [ok, State.mailbox], fun _ _ => rfl, rfl⟩
    case true =>
      obtain ⟨hsame, hother, hframe⟩ := s.setMailbox_shows m { s.mailbox m.val with lost := false }
      exact ⟨hsame.trans (by simp), hother, congrArg ok hframe⟩
  case bell =>
    intro m
    refine ⟨_, hmailbox m 0x10 _ (by decide) (by omega), ?_⟩
    rw [State.mailboxWrite_bell]
    split
    · obtain ⟨hsame, hother, hframe⟩ := s.setMailbox_shows m
        { s.mailbox m.val with state := .queued, len := BitVec.ofNat 4 v.toNat }
      exact ⟨⟨hsame, rfl⟩, hother, rfl⟩
    · obtain ⟨hsame, hother, hframe⟩ := s.setMailbox_shows m { s.mailbox m.val with lost := true }
      exact ⟨⟨hsame, rfl⟩, hother, rfl⟩

end Sys2Proof.Machine
end

section
/-!
PROOFS. What a report counts, what the log leaves uncounted, and how a long operation ends (R343, R385, R388).
-/

namespace Sys2Proof.Machine

/-! ### Counts of the taps (R385) -/

/-- A tap is the one of a source and a kind. -/
def Tap.of (src code : Nat) (t : Tap) : Bool := t.src == src && t.code == code

theorem Tap.of_iff (src code : Nat) (t : Tap) : t.of src code = true ↔ t.src = src ∧ t.code = code := by
  simp [Tap.of]

theorem Tap.of_eq_false (src code : Nat) (t : Tap) : t.of src code = false ↔ ¬(t.src = src ∧ t.code = code) := by
  rw [← Tap.of_iff, Bool.not_eq_true]

theorem find_putTap (x : Tap) (ts : List Tap) (src code : Nat) :
    (putTap x ts).find? (Tap.of src code) = if x.of src code then some x else ts.find? (Tap.of src code) := by
  induction ts with
  | nil => cases h : x.of src code <;> simp [putTap, h]
  | cons y ys ih =>
    rw [putTap]
    split
    case isTrue h =>
      have hsame : y.of src code = x.of src code := by
        simp only [Bool.and_eq_true, beq_iff_eq] at h
        simp [Tap.of, h]
      cases hx : x.of src code <;> simp [hsame, hx]
    case isFalse h =>
      cases hy : y.of src code
      · simpa [hy] using ih
      · have hx : x.of src code = false := by
          rw [Tap.of_iff] at hy
          rw [Tap.of_eq_false]
          rintro ⟨hs, hc⟩
          exact h (by simp [hy, hs, hc])
        simp [hy, hx]

theorem find_latchTap (x : Tap) (ts : List Tap) (src code : Nat) :
    (latchTap x ts).find? (Tap.of src code) = if x.of src code then some x else ts.find? (Tap.of src code) := by
  have hfilter : latchTap x ts = ts.filter (fun y => !y.of x.src x.code) ++ [x] := rfl
  rw [hfilter, List.find?_append]
  cases hx : x.of src code
  case true =>
    obtain ⟨rfl, rfl⟩ := (Tap.of_iff _ _ _).1 hx
    have hnone : (ts.filter (fun y => !y.of x.src x.code)).find? (Tap.of x.src x.code) = none := by
      rw [List.find?_eq_none]
      intro y hy
      simpa using (List.mem_filter.1 hy).2
    simp [hnone, hx]
  case false =>
    have hkept : (ts.filter (fun y => !y.of x.src x.code)).find? (Tap.of src code) = ts.find? (Tap.of src code) := by
      rw [List.find?_filter]
      congr 1
      funext y
      cases hy : y.of src code
      · simp
      · have hne : y.of x.src x.code = false := by
          rw [Tap.of_iff] at hy
          rw [Tap.of_eq_false] at hx ⊢
          rintro ⟨hs, hc⟩
          exact hx ⟨hs ▸ hy.1, hc ▸ hy.2⟩
        simp [hne]
    simp [hkept, hx]

namespace State

variable (s : State)

theorem tapOf_of (src code : Nat) : (s.tapOf src code).of src code = true := by
  unfold tapOf
  cases h : s.taps.find? (fun t => t.src == src && t.code == code) with
  | none => simp [Tap.of]
  | some x => exact List.find?_some h

/-- Where a tap is put back with a new count, that count is read, and every other as before. -/
theorem kindCount_of_find {s t : State} (x : Tap)
    (h : ∀ src code, t.taps.find? (Tap.of src code) = if x.of src code then some x else s.taps.find? (Tap.of src code))
    (src code : Nat) : t.kindCount src code = if x.of src code then x.count else s.kindCount src code := by
  have ht : t.kindCount src code =
      ((t.taps.find? (Tap.of src code)).getD { src := src, code := code, count := 0, latch := none }).count := rfl
  rw [ht, h]
  split <;> rfl

theorem holdEvent_taps (e : Event) : (s.holdEvent e).taps = s.taps := by rw [holdEvent_frame]

/-- A report puts its tap back with one event more, whatever becomes of the record. -/
theorem report2_taps (src code : Nat) (p : Nat → Nat) (q : Option Nat) :
    ∃ x : Tap, x.of src code = true ∧ x.count = satInc (s.kindCount src code) ∧
      ((s.report2 src code p q).taps = putTap x (s.takeTaps 4096).taps ∨
        (s.report2 src code p q).taps = latchTap x (s.takeTaps 4096).taps) := by
  let tap := (s.takeTaps 4096).tapOf src code
  let again (latch : Option Event) : Tap := { tap with count := satInc tap.count, latch := latch }
  have hof (latch : Option Event) : (again latch).of src code = true := (s.takeTaps 4096).tapOf_of src code
  have hcount (latch : Option Event) : (again latch).count = satInc (s.kindCount src code) :=
    congrArg satInc (s.takeTaps_kindCount 4096 src code)
  unfold report2
  dsimp only
  split
  · refine ⟨_, hof tap.latch, hcount tap.latch, .inl ?_⟩
    split
    · exact holdEvent_taps _ _
    · rfl
  split
  · exact ⟨_, hof tap.latch, hcount tap.latch, .inl rfl⟩
  split
  · exact ⟨_, hof tap.latch, hcount tap.latch, .inl (holdEvent_taps _ _)⟩
  · exact ⟨_, hof (some _), hcount (some _), .inr rfl⟩

/-- A report counts one event of its kind at its source, and no other. -/
theorem report2_kindCount (src code : Nat) (p : Nat → Nat) (q : Option Nat) (a c : Nat) :
    (s.report2 src code p q).kindCount a c =
      if a = src ∧ c = code then satInc (s.kindCount src code) else s.kindCount a c := by
  obtain ⟨x, hof, hcount, htaps⟩ := s.report2_taps src code p q
  obtain ⟨hsrc, hcode⟩ := (Tap.of_iff _ _ _).1 hof
  have hfind (src' code' : Nat) : (s.report2 src code p q).taps.find? (Tap.of src' code') =
      if x.of src' code' then some x else (s.takeTaps 4096).taps.find? (Tap.of src' code') := by
    rcases htaps with h | h
    · rw [h, find_putTap]
    · rw [h, find_latchTap]
  have hkey : x.of a c = true ↔ a = src ∧ c = code := by
    rw [Tap.of_iff, hsrc, hcode, eq_comm, eq_comm (a := code)]
  rw [kindCount_of_find x hfind, takeTaps_kindCount, hcount]
  simp only [hkey]

theorem report_kindCount (src code : Nat) (p : Nat → Nat) (a c : Nat) :
    (s.report src code p).kindCount a c = if a = src ∧ c = code then satInc (s.kindCount src code) else s.kindCount a c :=
  s.report2_kindCount src code p none a c

theorem notice_kindCount (src code p : Nat) (a c : Nat) :
    (s.notice src code p).kindCount a c = if a = src ∧ c = code then satInc (s.kindCount src code) else s.kindCount a c :=
  s.report_kindCount src code _ a c

/-! ### Counts and the change log (R388 to R391) -/

theorem logAppend_kindCount (i : LogInfo) (a c : Nat) : (s.logAppend i).kindCount a c = s.kindCount a c := by
  rw [logAppend_frame]
  rfl

theorem logDrop_kindCount (k x : Nat) (a c : Nat) (h : c ≠ evLogDropped) : (s.logDrop k x).kindCount a c = s.kindCount a c := by
  refine (report_kindCount s _ _ _ a c).trans ?_
  simp [h]

theorem logWrap_kindCount (a c : Nat) (h : c ≠ evLogDropped) : s.logWrap.kindCount a c = s.kindCount a c := by
  unfold logWrap
  dsimp only
  split
  · split
    · rw [logAppend_kindCount]
      rfl
    · rw [logDrop_kindCount _ _ _ a c h]
      rfl
  · rfl

/-- An entry counts no event but those of LOG_DROPPED. -/
theorem logPut_kindCount (i : LogInfo) (a c : Nat) (h : c ≠ evLogDropped) : (s.logPut i).kindCount a c = s.kindCount a c := by
  rw [logPut, logWrap_kindCount _ a c h, logAppend_kindCount]

theorem logHw_kindCount (k x m n : Nat) (a c : Nat) (h : c ≠ evLogDropped) :
    (s.logHw k x m n).kindCount a c = s.kindCount a c := by
  unfold logHw
  split
  · exact logPut_kindCount s _ a c h
  · rw [logWrap_kindCount _ a c h, logDrop_kindCount _ _ _ a c h]

theorem logGlomen_kindCount (k r x m n : Nat) (a c : Nat) (h : c ≠ evLogDropped) :
    (s.logGlomen k r x m n).kindCount a c = s.kindCount a c := by
  unfold logGlomen
  split
  · exact logPut_kindCount s _ a c h
  · rfl

/-! ### Long operations (R343) -/

/-- A change of long operations under their own keys finds the same ones. -/
theorem modLong_longOp (o : Nat) (g : BitVec 16) (f : LongOp → LongOp)
    (hf : ∀ x, (f x).origin = x.origin ∧ (f x).tag = x.tag) (o' : Nat) (g' : BitVec 16) :
    (s.modLong o g f).longOp? o' g' =
      (s.longOp? o' g').map (fun x => if x.origin == o && x.tag == g then f x else x) := by
  unfold longOp? modLong
  rw [List.find?_map]
  congr 2
  funext x
  have := hf x
  simp only [Function.comp]
  split <;> simp [this]

/-- The end of a long operation takes it from those in progress, and no other. -/
theorem finishLong_longOps (o : Nat) (g : BitVec 16) (r a b : Nat) :
    (s.finishLong o g r a b).longOps = s.longOps.filter (fun y => !(y.origin == o && y.tag == g)) := by
  unfold finishLong
  split
  case h_1 h =>
    refine (List.filter_eq_self.2 fun y hy => ?_).symm
    have := List.find?_eq_none.1 h y hy
    simpa only [Bool.not_eq_true', Bool.not_eq_true] using this
  case h_2 => simp

theorem finishLong_longOp_self (o : Nat) (g : BitVec 16) (r a b : Nat) : (s.finishLong o g r a b).longOp? o g = none := by
  unfold longOp?
  rw [finishLong_longOps, List.find?_eq_none]
  intro x hx
  simpa only [Bool.not_eq_true', Bool.not_eq_true] using (List.mem_filter.1 hx).2

/-- An operation that is over stays over as others end. -/
theorem finishLong_longOp_none {s : State} (o : Nat) (g : BitVec 16) (r a b : Nat) {o' : Nat} {g' : BitVec 16}
    (h : s.longOp? o' g' = none) : (s.finishLong o g r a b).longOp? o' g' = none := by
  unfold longOp? at h ⊢
  rw [finishLong_longOps, List.find?_eq_none] at *
  exact fun x hx => h x (List.mem_of_mem_filter hx)

/-- The completion notices are none of the findings. -/
theorem doneEvent_mem (op : Nat) :
    doneEvent op ∈ [evTableLoaded, evStreamClosed, evSelftestDone, evCalibrateDone, evTileRetired, evTileRestored,
      evFwStaged, evFwActivated] := by
  unfold doneEvent
  split <;> decide

/-- The end of a long operation counts its completion notice. -/
theorem finishLong_kindCount {s : State} (o : Nat) (g : BitVec 16) (r a b : Nat) {x : LongOp}
    (h : s.longOp? o g = some x) (src code : Nat) (hc : code ≠ evLogDropped) :
    (s.finishLong o g r a b).kindCount src code =
      if src = srcMgmt ∧ code = doneEvent x.opcode then satInc (s.kindCount srcMgmt (doneEvent x.opcode))
      else s.kindCount src code := by
  have hdone : doneEvent x.opcode ≠ evLogDropped := by
    intro heq
    have := heq ▸ doneEvent_mem x.opcode
    exact absurd this (by decide)
  unfold finishLong
  rw [h]
  dsimp only
  rw [notice_kindCount, logPut_kindCount _ _ _ _ hdone, logPut_kindCount _ _ _ _ hc]
  rfl

end State

end Sys2Proof.Machine
end

section
/-!
PROOFS. What goes on while images are exchanged (R349): closing streams and service operations leave the firmware, the
mailboxes and the counter requests alone.
-/

namespace Sys2Proof.Machine

/-- The firmware, the hand-over and the counter requests, with the mailboxes and the count of FIRMWARE_REVERT. -/
structure Firmware where
  fwVersion : Word
  slotB     : Bool
  keyArc    : BitVec 64
  arcReq    : Option (BitVec 64)
  imgA      : List Byte
  imgB      : List Byte
  staging   : Staging
  vaneRestarts : Nat
  handover  : Option Handover
  arcWaits  : List ArcWait
  mbx       : Vector Mailbox 4
  reverts   : Nat

namespace State

def firmware (s : State) : Firmware where
  fwVersion := s.fwVersion
  slotB := s.slotB
  keyArc := s.keyArc
  arcReq := s.arcReq
  imgA := s.imgA
  imgB := s.imgB
  staging := s.staging
  vaneRestarts := s.vaneRestarts
  handover := s.handover
  arcWaits := s.arcWaits
  mbx := s.mbx
  reverts := s.kindCount srcMgmt evFirmwareRevert

variable (s : State)

theorem foldl_firmware {α : Type} (f : State → α → State) (h : ∀ s a, (f s a).firmware = s.firmware) (l : List α) :
    (l.foldl f s).firmware = s.firmware := by
  induction l generalizing s with
  | nil => rfl
  | cons a l ih => exact (ih _).trans (h s a)

/-! ### Basic updates -/

@[simp] theorem modBand_firmware (b : Nat) (f : Band → Band) : (s.modBand b f).firmware = s.firmware := rfl
@[simp] theorem modTile_firmware (t : Nat) (f : Tile → Tile) : (s.modTile t f).firmware = s.firmware := rfl
@[simp] theorem modLong_firmware (o : Nat) (g : BitVec 16) (f : LongOp → LongOp) : (s.modLong o g f).firmware = s.firmware :=
  rfl
@[simp] theorem booked_firmware (f : State → State) : (s.booked f).firmware = (f s).firmware := rfl
theorem pruneChains_firmware : s.pruneChains.firmware = s.firmware := rfl
theorem drainSlots_firmware : s.drainSlots.firmware = s.firmware := rfl
@[simp] theorem prune_firmware : s.prune.firmware = s.firmware := by
  rw [prune, booked_firmware, drainSlots_firmware, pruneChains_firmware]
@[simp] theorem gate_firmware (t : Nat) : (s.gate t).firmware = s.firmware := by simp [gate]
@[simp] theorem powerUp_firmware (t : Nat) : (s.powerUp t).firmware = s.firmware := by simp [powerUp]
@[simp] theorem setActive_firmware (t : Nat) (on : Bool) : (s.setActive t on).firmware = s.firmware := by simp [setActive]
@[simp] theorem setSpare_firmware (b : Nat) (t : Option Nat) : (s.setSpare b t).firmware = s.firmware := by simp [setSpare]
@[simp] theorem setSvc_firmware (b : Nat) (o : Option SvcOp) : (s.setSvc b o).firmware = s.firmware := by simp [setSvc]

@[simp] theorem svcCount_firmware (o : SvcOp) : (s.svcCount o).firmware = s.firmware := by simp [svcCount]
@[simp] theorem svcRestore_firmware (b : Nat) (o : SvcOp) : (s.svcRestore b o).firmware = s.firmware := by
  simp [svcRestore]

/-! ### Reports, entries and the end of a long operation -/

@[simp] theorem takeTaps_firmware (n : Nat) : (s.takeTaps n).firmware = s.firmware := by
  unfold firmware
  rw [takeTaps_kindCount, takeTaps_frame]

theorem notice_firmware (src code p : Nat) (h : code ≠ evFirmwareRevert) :
    (s.notice src code p).firmware = s.firmware := by
  simp [firmware, notice_kindCount, h.symm]

@[simp] theorem logPut_firmware (i : LogInfo) : (s.logPut i).firmware = s.firmware := by
  simp [firmware, logPut_kindCount s i _ evFirmwareRevert (by decide)]

@[simp] theorem logHw_firmware (k x a b : Nat) : (s.logHw k x a b).firmware = s.firmware := by
  simp [firmware, logHw_kindCount s k x a b _ evFirmwareRevert (by decide)]

@[simp] theorem logGlomen_firmware (k r x a b : Nat) : (s.logGlomen k r x a b).firmware = s.firmware := by
  simp [firmware, logGlomen_kindCount s k r x a b _ evFirmwareRevert (by decide)]

theorem doneEvent_ne_revert (op : Nat) : doneEvent op ≠ evFirmwareRevert := by
  intro h
  exact absurd (h ▸ doneEvent_mem op) (by decide)

@[simp] theorem finishLong_firmware (o : Nat) (g : BitVec 16) (r a b : Nat) : (s.finishLong o g r a b).firmware = s.firmware := by
  unfold finishLong
  split
  · rfl
  · dsimp only
    rw [notice_firmware _ _ _ _ (doneEvent_ne_revert _), logPut_firmware]
    rfl

/-! ### The service map (R328) -/

@[simp] theorem refreshBand_firmware (b : Nat) : (s.refreshBand b).firmware = s.firmware := by
  unfold refreshBand
  split <;> rfl

@[simp] theorem refreshService_firmware : s.refreshService.firmware = s.firmware := by
  unfold refreshService
  split
  · split <;> rfl
  · rfl

theorem changeMap_firmware (b : Nat) (f : State → State) (h : ∀ s, (f s).firmware = s.firmware) :
    (s.changeMap b f).firmware = s.firmware := by
  have hmap : (((f s).refreshBand b).refreshService).firmware = s.firmware := by
    rw [refreshService_firmware, refreshBand_firmware, h]
  unfold changeMap reportMap
  dsimp only
  split
  · exact hmap
  · rw [notice_firmware _ _ _ _ (by decide), logHw_firmware, hmap]

/-! ### Service operations (R357 to R370) -/

@[simp] theorem svcEnd_firmware (b : Nat) : (s.svcEnd b).firmware = s.firmware := by
  unfold svcEnd
  split
  · rfl
  · dsimp only
    split <;> simp

@[simp] theorem svcStop_firmware (b : Nat) : (s.svcStop b).firmware = s.firmware := by
  unfold svcStop
  split
  · rfl
  · split <;> simp

@[simp] theorem svcFail_firmware (b : Nat) : (s.svcFail b).firmware = s.firmware := by
  unfold svcFail
  split <;> simp

@[simp] theorem svcBegin_firmware (b : Nat) (o : SvcOp) (t : Nat) : (s.svcBegin b o t).firmware = s.firmware := by
  have hout : (s.changeMap b (fun s => s.setActive t false)).firmware = s.firmware :=
    s.changeMap_firmware b _ fun _ => rfl
  have hspare : (s.changeMap b (fun s => s.setSpare b none)).firmware = s.firmware :=
    s.changeMap_firmware b _ fun _ => rfl
  unfold svcBegin
  extract_lets always s1
  have h1 : s1.firmware = s.firmware := by
    subst s1
    split
    · exact hspare
    · rfl
  split
  · split
    · simp [hout]
    · split <;> simp [h1]
  · split <;> simp

@[simp] theorem svcNext_firmware (b : Nat) : (s.svcNext b).firmware = s.firmware := by
  unfold svcNext
  split
  · rfl
  · dsimp only
    split <;> simp

@[simp] theorem svcRetire_firmware (b : Nat) (o : SvcOp) : (s.svcRetire b o).firmware = s.firmware := by
  simp [svcRetire]

@[simp] theorem svcGate_firmware (b : Nat) (o : SvcOp) : (s.svcGate b o).firmware = s.firmware := by
  unfold svcGate
  split
  · simp
  · extract_lets has failed s1 s2 s3
    have h2 : s2.firmware = s.firmware := 
      (modTile_firmware _ _ _).trans (s.changeMap_firmware b _ fun _ => by simp)
    split
    · simp [s3, h2]
    · dsimp only
      split <;> simp [h2]
    · split <;> simp [h2]

@[simp] theorem restoreGoOn_firmware (t : Nat) : (s.restoreGoOn t).firmware = s.firmware := by
  unfold restoreGoOn
  dsimp only
  split
  · simp
  · split <;> simp

@[simp] theorem svcSettle_firmware (b : Nat) : (s.svcSettle b).firmware = s.firmware := by
  unfold svcSettle
  split
  · rfl
  · extract_lets left s1
    have h : s1.firmware = s.firmware := by
      subst s1
      split <;> simp
    split
    case h_5 => exact h
    all_goals split <;> simp [h]

/-! ### READY of a hand-over (R349) -/

@[simp] theorem finishClose_firmware (sid : Nat) : (s.finishClose sid).firmware = s.firmware := by
  unfold finishClose
  split
  · rfl
  · split
    · dsimp only
      split
      · rw [svcSettle_firmware, prune_firmware]
        rfl
      · rw [svcSettle_firmware, prune_firmware, finishLong_firmware, modLong_firmware]
        rfl
    · rfl

@[simp] theorem afterReady_firmware : s.afterReady.firmware = s.firmware := by
  unfold afterReady
  dsimp only
  rw [foldl_firmware _ _ svcSettle_firmware, foldl_firmware _ _ finishClose_firmware, takeTaps_firmware]

end State

end Sys2Proof.Machine
end

section
/-!
PROOFS. The end of a hand-over: the images are exchanged or not, READY is written, and the counter requests take their
turns (R8, R347, R349, R351).
-/

namespace Sys2Proof.Machine

namespace State

variable (s : State)

/-! ### The end of an FW_ACTIVATE -/

@[simp] theorem endActivate_firmware (o : Nat) (g : BitVec 16) (r d v : Nat) :
    (s.endActivate o g r d v).firmware = s.firmware := by
  simp [endActivate]

theorem endActivate_longOp_self (o : Nat) (g : BitVec 16) (r d v : Nat) : (s.endActivate o g r d v).longOp? o g = none :=
  finishLong_longOp_self _ _ _ _ _ _

theorem endActivate_longOp_none {s : State} (o : Nat) (g : BitVec 16) (r d v : Nat) {o' : Nat} {g' : BitVec 16}
    (h : s.longOp? o' g' = none) : (s.endActivate o g r d v).longOp? o' g' = none := by
  refine finishLong_longOp_none _ _ _ _ _ ?_
  rw [s.modLong_longOp o g (fun l => { l with done := d }) fun _ => ⟨rfl, rfl⟩, h]
  rfl

/-- An FW_ACTIVATE ends with FW_ACTIVATED. -/
theorem endActivate_activated {s : State} {o : Nat} {g : BitVec 16} (r d v : Nat) {x : LongOp} (h : s.longOp? o g = some x)
    (hx : x.opcode = opFwActivate) :
    (s.endActivate o g r d v).kindCount srcMgmt evFwActivated = satInc (s.kindCount srcMgmt evFwActivated) := by
  obtain ⟨y, hy, hop⟩ : ∃ y, (s.modLong o g (fun l => { l with done := d })).longOp? o g = some y ∧
      y.opcode = opFwActivate := by
    rw [s.modLong_longOp o g (fun l => { l with done := d }) fun _ => ⟨rfl, rfl⟩, h]
    refine ⟨_, rfl, ?_⟩
    dsimp only
    split <;> exact hx
  have hdone : doneEvent y.opcode = evFwActivated := by
    rw [hop]
    rfl
  rw [endActivate, finishLong_kindCount _ _ _ _ _ hy _ _ (by decide), hdone]
  rfl

/-! ### The counter requests in their turns (R347) -/

theorem endMet_firmware (ws : List ArcWait) :
    (s.endMet ws).firmware = { s.firmware with arcWaits := (s.endMet ws).arcWaits } := by
  induction ws generalizing s with
  | nil => rfl
  | cons w ws ih =>
    rw [endMet]
    split
    · rw [ih, endActivate_firmware]
      rfl
    · rfl

theorem endMet_longOp_none {s : State} (ws : List ArcWait) {o : Nat} {g : BitVec 16} (h : s.longOp? o g = none) :
    (s.endMet ws).longOp? o g = none := by
  induction ws generalizing s with
  | nil => exact h
  | cons w ws ih =>
    rw [endMet]
    split
    · exact ih (endActivate_longOp_none w.origin w.tag _ _ _ (s := { s with arcWaits := ws }) h)
    · exact h

/-- The FW_ACTIVATEs of `met` have ended without a request: the counter has reached the ARC of each. -/
def EndedMet (s t : State) (met : List ArcWait) : Prop :=
  ∀ v ∈ met, v.seen = none ∧ v.want.toNat ≤ s.keyArc.toNat ∧ t.longOp? v.origin v.tag = none

/-- The FW_ACTIVATE that waits longest needs a request. -/
def HeadUnmet (s : State) (ws : List ArcWait) : Prop := ∀ v ∈ ws.head?, v.seen ≠ none ∨ s.keyArc.toNat < v.want.toNat

/-- Those that the counter has met leave the front of the line. -/
theorem endMet_split (ws : List ArcWait) (hw : s.arcWaits = ws) :
    ∃ met, ws = met ++ (s.endMet ws).arcWaits ∧ EndedMet s (s.endMet ws) met ∧ HeadUnmet s (s.endMet ws).arcWaits ∧
      (met = [] → s.endMet ws = s) := by
  induction ws generalizing s with
  | nil =>
    refine ⟨[], ?_, ?_, ?_, fun _ => rfl⟩ <;> simp [endMet, EndedMet, HeadUnmet, hw]
  | cons w ws ih =>
    rw [endMet]
    split
    case isTrue h =>
      simp only [Bool.and_eq_true, Option.isNone_iff_eq_none, decide_eq_true_eq] at h
      obtain ⟨hseen, hwant⟩ := h
      have hfirm : (({ s with arcWaits := ws }).endActivate w.origin w.tag stOk 4 (s.activateOld w.origin w.tag)).firmware =
          { s.firmware with arcWaits := ws } := endActivate_firmware _ _ _ _ _ _
      have hself := ({ s with arcWaits := ws } : State).endActivate_longOp_self w.origin w.tag stOk 4
        (s.activateOld w.origin w.tag)
      generalize State.endActivate { s with arcWaits := ws } w.origin w.tag stOk 4 (s.activateOld w.origin w.tag) = u
        at hfirm hself ⊢
      have hkey : u.keyArc = s.keyArc := congrArg Firmware.keyArc hfirm
      obtain ⟨met, hsplit, hmet, hhead, -⟩ := ih u (congrArg Firmware.arcWaits hfirm)
      refine ⟨w :: met, congrArg (w :: ·) hsplit, ?_, ?_, fun h => absurd h (List.cons_ne_nil _ _)⟩
      · intro v hv
        rcases List.mem_cons.1 hv with rfl | hv
        · exact ⟨hseen, hwant, endMet_longOp_none ws hself⟩
        · rw [← hkey]
          exact hmet v hv
      · intro v hv
        rw [← hkey]
        exact hhead v hv
    case isFalse h =>
      refine ⟨[], hw.symm, by simp [EndedMet], fun v hv => ?_, fun _ => rfl⟩
      rw [hw, List.head?_cons, Option.mem_some_iff] at hv
      subst hv
      by_contra hv
      exact h (by simp_all)

/-- The request that the line of FW_ACTIVATEs needs next. -/
def nextRequest : List ArcWait → Option (BitVec 64)
  | [] => none
  | v :: _ => if v.seen = none then some v.want else none

/-- While a request is out no other goes out. -/
theorem askArc_out {s : State} (h : s.arcReq ≠ none) : s.askArc = s := by
  unfold askArc
  rw [if_pos (by rwa [Option.isSome_iff_ne_none])]

/-- Where none is out the FW_ACTIVATEs that need none end, and the next of the others asks. -/
theorem askArc_none {s : State} (h : s.arcReq = none) :
    s.askArc = { s.endMet s.arcWaits with arcReq := nextRequest (s.endMet s.arcWaits).arcWaits } := by
  have hreq : (s.endMet s.arcWaits).arcReq = none := (congrArg Firmware.arcReq (s.endMet_firmware s.arcWaits)).trans h
  unfold askArc
  rw [h, if_neg (by decide)]
  dsimp only
  generalize s.endMet s.arcWaits = u at hreq ⊢
  have hquiet : ({ u with arcReq := none } : State) = u := by rw [← hreq]
  split
  case h_1 v vs hw =>
    cases hseen : v.seen with
    | none =>
      have hnext : nextRequest u.arcWaits = some v.want := by rw [hw, nextRequest, if_pos hseen]
      rw [hnext]
      rfl
    | some arc =>
      have hnext : nextRequest u.arcWaits = none := by rw [hw, nextRequest, if_neg (by simp [hseen])]
      rw [hnext, hquiet]
      rfl
  case h_2 hw =>
    have hnext : nextRequest u.arcWaits = none := by rw [hw, nextRequest]
    rw [hnext, hquiet]

theorem askArc_firmware :
    s.askArc.firmware = { s.firmware with arcWaits := s.askArc.arcWaits, arcReq := s.askArc.arcReq } := by
  by_cases h : s.arcReq = none
  · have hmet := s.endMet_firmware s.arcWaits
    rw [askArc_none h]
    exact congrArg (fun x : Firmware => { x with arcReq := nextRequest (s.endMet s.arcWaits).arcWaits }) hmet
  · rw [askArc_out h]
    rfl

theorem askArc_longOp_none {s : State} {o : Nat} {g : BitVec 16} (h : s.longOp? o g = none) : s.askArc.longOp? o g = none := by
  by_cases hreq : s.arcReq = none
  · rw [askArc_none hreq]
    exact endMet_longOp_none _ h
  · rwa [askArc_out hreq]

/-- The FW_ACTIVATE of a hand-over as it waits for the counter. -/
def waitOf (h : Handover) (want : Nat) : ArcWait :=
  { origin := h.origin, tag := h.tag, want := BitVec.ofNat 64 want, seen := none }

theorem awaitArc_eq (h : Handover) (want : Nat) :
    s.awaitArc h want = ({ s with handover := none, arcWaits := s.arcWaits ++ [waitOf h want] } : State).askArc := rfl

theorem awaitArc_firmware (h : Handover) (want : Nat) :
    (s.awaitArc h want).firmware = { s.firmware with
      handover := none, arcWaits := (s.awaitArc h want).arcWaits, arcReq := (s.awaitArc h want).arcReq } := by
  rw [awaitArc_eq, askArc_firmware]
  rfl

/-- The FW_ACTIVATE of a hand-over waits behind those before it, of which those that the counter has met end first where
no request is out; its own request goes out at once where nothing else waits. -/
theorem awaitArc_waits (h : Handover) (want : Nat) (hwant : s.keyArc.toNat < want) (hmax : want < 2 ^ 64) :
    ∃ met left, s.arcWaits = met ++ left ∧ (s.awaitArc h want).arcWaits = left ++ [waitOf h want] ∧
      (met ≠ [] → s.arcReq = none) ∧ EndedMet s (s.awaitArc h want) met ∧
      (s.arcWaits = [] → s.arcReq = none → (s.awaitArc h want).arcReq = some (waitOf h want).want) ∧
      ∀ out, s.arcReq = some out → (s.awaitArc h want).arcReq = some out := by
  rw [awaitArc_eq]
  by_cases hreq : s.arcReq = none
  case neg =>
    rw [askArc_out (s := { s with handover := none, arcWaits := s.arcWaits ++ [waitOf h want] }) hreq]
    exact ⟨[], s.arcWaits, rfl, rfl, fun h => absurd rfl h, by simp [EndedMet], fun _ h => absurd h hreq, fun _ h => h⟩
  case pos =>
    obtain ⟨met, hsplit, hmet, -, -⟩ :=
      endMet_split { s with handover := none, arcWaits := s.arcWaits ++ [waitOf h want] } _ rfl
    rw [askArc_none (s := { s with handover := none, arcWaits := s.arcWaits ++ [waitOf h want] }) hreq]
    generalize State.endMet { s with handover := none, arcWaits := s.arcWaits ++ [waitOf h want] }
      (s.arcWaits ++ [waitOf h want]) = u at hsplit hmet ⊢
    rcases List.eq_nil_or_concat u.arcWaits with hnil | ⟨left, v, hleft⟩
    · -- The counter falls short of the ARC that the hand-over asks for.
      have hlast : waitOf h want ∈ met := by
        rw [hnil, List.append_nil] at hsplit
        exact hsplit ▸ List.mem_append_right _ (List.mem_singleton_self _)
      have hreached : (BitVec.ofNat 64 want).toNat ≤ s.keyArc.toNat := (hmet _ hlast).2.1
      rw [BitVec.toNat_ofNat, Nat.mod_eq_of_lt hmax] at hreached
      omega
    · rw [hleft, List.concat_eq_append, ← List.append_assoc] at hsplit
      obtain ⟨hfront, hv⟩ := List.append_inj' hsplit rfl
      rw [List.concat_eq_append, ← hv] at hleft
      refine ⟨met, left, hfront, hleft, fun _ => hreq, hmet, fun hempty _ => ?_, fun _ h => absurd (hreq.symm.trans h) (by simp)⟩
      have hnone : left = [] := (List.append_eq_nil_iff.1 (hfront.symm.trans hempty)).2
      show nextRequest u.arcWaits = _
      rw [hleft, hnone]
      rfl

/-! ### The host's answer to a counter request -/

/-- The counter has been read again, and its use logged. -/
def counterRead (s : State) (arc : BitVec 64) (rest : List ArcWait) : State :=
  { s.glomenChange kKeyUse 1 (bits s.keyArc.toNat 31 0) (bits arc.toNat 31 0) (fun s => { s with keyArc := arc }) with
    arcWaits := rest }

theorem counterRead_firmware {s : State} (h : s.logRoom false = true) (arc : BitVec 64) (rest : List ArcWait) :
    (s.counterRead arc rest).firmware = { s.firmware with keyArc := arc, arcWaits := rest } := by
  have hlog := logGlomen_firmware { s with keyArc := arc } kKeyUse 0 1 (bits s.keyArc.toNat 31 0) (bits arc.toNat 31 0)
  rw [counterRead, glomenChange_room _ _ _ _ _ _ h]
  exact congrArg (fun x : Firmware => { x with arcWaits := rest }) hlog

theorem counterRead_longOp {s : State} (h : s.logRoom false = true) (arc : BitVec 64) (rest : List ArcWait) (o : Nat)
    (g : BitVec 16) : (s.counterRead arc rest).longOp? o g = s.longOp? o g := by
  rw [counterRead, glomenChange_room _ _ _ _ _ _ h]
  simp [longOp?]

theorem counterRead_kindCount {s : State} (h : s.logRoom false = true) (arc : BitVec 64) (rest : List ArcWait)
    (src code : Nat) (hc : code ≠ evLogDropped) : (s.counterRead arc rest).kindCount src code = s.kindCount src code := by
  rw [counterRead, glomenChange_room _ _ _ _ _ _ h]
  exact logGlomen_kindCount { s with keyArc := arc } _ _ _ _ _ src code hc

/-- With room in the log the FW_ACTIVATE that waited longest ends, and the next request goes out. -/
theorem settleArc_room {s : State} {w : ArcWait} {rest : List ArcWait} {arc : BitVec 64} (hw : s.arcWaits = w :: rest)
    (hseen : w.seen = some arc) (h : s.logRoom false = true) :
    ∃ r v, s.settleArc = ((s.counterRead arc rest).endActivate w.origin w.tag r 4 v).askArc := by
  unfold settleArc
  rw [hw]
  dsimp only
  rw [hseen]
  dsimp only
  rw [if_pos h]
  exact ⟨_, _, rfl⟩

/-- Without room it waits. -/
theorem settleArc_full {s : State} (h : s.logRoom false = false) : s.settleArc = s := by
  unfold settleArc
  split
  · split
    · rw [if_neg (by simp [h])]
    · rfl
  · rfl

/-! ### READY (R332, R349) -/

/-- READY stands in mailbox 0, with a firmware version. -/
def ReadyIn (x : Mailbox) (version : Word) : Prop := x.valid = true ∧ x.outW.get 0 = 0xFFFF0000 ∧ x.outW.get 1 = version

theorem writeReady_firmware : s.writeReady.firmware = { s.firmware with mbx := s.writeReady.mbx } := by
  unfold writeReady
  dsimp only
  split <;> rfl

/-- READY is written at once where mailbox 0 holds no response. -/
theorem writeReady_ready {s : State} (h : (s.mailbox 0).valid = false) : ReadyIn (s.writeReady.mailbox 0) s.fwVersion := by
  unfold writeReady
  dsimp only
  rw [h, if_neg (by decide)]
  simp [writeOut, ReadyIn, overlay, Vector.get_eq_getElem]

/-- READY is written, and what the hand-over had paused goes on. -/
def readyGiven (s : State) : State := s.writeReady.afterReady

theorem readyGiven_firmware : s.readyGiven.firmware = { s.firmware with mbx := s.writeReady.mbx } := by
  rw [readyGiven, afterReady_firmware, writeReady_firmware]

/-! ### The exchange of images, and its failure -/

/-- The incoming image runs. -/
def takeOver (s : State) (h : Handover) (arc : BitVec 64) : State :=
  ({ s with
    slotB := !s.slotB
    staging := .empty
    fwVersion := BitVec.ofNat 32 (imgFwver s.stagingImg)
    keyArc := arc
    vaneRestarts := satInc s.vaneRestarts
    handover := some { h with paused := false } } : State).modLong h.origin h.tag (fun l => { l with done := 3 })

theorem handoverReady_eq {s : State} {h : Handover} {arc : BitVec 64} (hh : s.handover = some h)
    (hover : s.stepOneOver h = true) (harc : arc.toNat ≤ imgArc s.stagingImg) :
    s.handoverReady arc =
      if h.arcup && imgArc s.stagingImg > arc.toNat then (s.takeOver h arc).readyGiven.awaitArc h (imgArc s.stagingImg)
      else (s.takeOver h arc).readyGiven.endHandover h stOk 4 s.fwVersion.toNat := by
  unfold handoverReady
  rw [hh]
  dsimp only
  rw [if_neg (by simp [hover, harc])]
  rfl

/-- The outgoing image goes on, with FIRMWARE_REVERT. -/
def revert (s : State) (h : Handover) (result : Nat) : State :=
  ({ s with vaneRestarts := satInc (satInc s.vaneRestarts), handover := some { h with paused := false } } : State).notice
    srcMgmt evFirmwareRevert (layoutC h.origin h.tag.toNat opFwActivate result 2 (imgFwver s.stagingImg))

theorem handoverReverts_eq {s : State} {h : Handover} (cause : RevertCause) (hh : s.handover = some h)
    (hover : s.stepOneOver h = true) :
    ∃ result old, s.handoverReverts cause = (s.revert h result).readyGiven.endHandover h result 2 old := by
  unfold handoverReverts
  rw [hh]
  dsimp only
  rw [if_neg (by simp [hover])]
  exact ⟨_, _, rfl⟩

theorem revert_firmware (h : Handover) (result : Nat) :
    (s.revert h result).firmware = { s.firmware with
      vaneRestarts := satInc (satInc s.vaneRestarts), handover := some { h with paused := false }
      reverts := satInc s.firmware.reverts } := by
  simp [revert, firmware, notice_kindCount]
  rfl

theorem endHandover_firmware (h : Handover) (r d v : Nat) :
    (s.endHandover h r d v).firmware = { s.firmware with handover := none } := by
  rw [endHandover, endActivate_firmware]
  rfl

theorem endHandover_longOp (h : Handover) (r d v : Nat) : (s.endHandover h r d v).longOp? h.origin h.tag = none :=
  endActivate_longOp_self _ _ _ _ _ _

end State

/-- A little-endian number stays below 256 to the power of its length. -/
theorem leNat_lt (bs : List Byte) : leNat bs < 256 ^ bs.length := by
  induction bs with
  | nil => decide
  | cons b bs ih =>
    have hb := b.isLt
    have hcons : leNat (b :: bs) = b.toNat + 256 * leNat bs := rfl
    rw [hcons, List.length_cons, pow_succ]
    omega

/-- An ARC has eight octets (Table 14.11). -/
theorem imgArc_lt (img : List Byte) : imgArc img < 2 ^ 64 :=
  calc imgArc img < 256 ^ (slice img 8 8).length := leNat_lt _
    _ ≤ 256 ^ 8 := Nat.pow_le_pow_right (by decide) (List.length_take_le _ _)
    _ = 2 ^ 64 := by decide

namespace State

/-- A read of management SRAM lies behind the hand-over state (Table 14.12). -/
theorem exec_handoverReady {s : State} (hruns : s.mgmtRuns = true) (arc : BitVec 64) {h : Handover}
    (hh : s.handover = some h) (hover : s.stepOneOver h = true) :
    exec (.handoverReady arc) s = .next (s.sramUse.handoverReady arc) := by
  simp [exec, execHandoverReady, hruns, hh, hover]

theorem exec_handoverTimeout {s : State} (hruns : s.mgmtRuns = true) (cause : RevertCause) {h : Handover}
    (hh : s.handover = some h) (hover : s.stepOneOver h = true) :
    exec (.handoverTimeout cause) s = .next (s.sramUse.handoverReverts cause) := by
  simp [exec, execHandoverTimeout, hruns, hh, hover]

/-- READY of a hand-over that is over: it stands in mailbox 0 with the version in force. -/
theorem ready_of_firmware {s t : State} (hmbx : t.mbx = s.writeReady.mbx) (hversion : t.fwVersion = s.fwVersion)
    (h : (s.mailbox 0).valid = false) : ReadyIn (t.mailbox 0) t.fwVersion := by
  rw [mailbox, hmbx, hversion]
  exact writeReady_ready h

/-- What stands once the incoming image has given READY, whatever becomes of the counter request. -/
theorem switched_of_firmware {s t : State} (h : Handover) (arc : BitVec 64)
    (ht : t.firmware = { (s.takeOver h arc).readyGiven.firmware with
      handover := none, arcWaits := t.arcWaits, arcReq := t.arcReq }) :
    t.slotB = !s.slotB ∧ t.running = s.stagingImg ∧ t.fwVersion = BitVec.ofNat 32 (imgFwver s.stagingImg) ∧
      t.staging = .empty ∧ t.paused = false ∧ t.vaneRestarts = satInc s.vaneRestarts ∧
      ((s.mailbox 0).valid = false → ReadyIn (t.mailbox 0) t.fwVersion) ∧ t.handover = none := by
  rw [readyGiven_firmware] at ht
  have hslot : t.slotB = !s.slotB := congrArg Firmware.slotB ht
  have hA : t.imgA = s.imgA := congrArg Firmware.imgA ht
  have hB : t.imgB = s.imgB := congrArg Firmware.imgB ht
  have hversion : t.fwVersion = BitVec.ofNat 32 (imgFwver s.stagingImg) := congrArg Firmware.fwVersion ht
  have hnone : t.handover = none := congrArg Firmware.handover ht
  refine ⟨hslot, ?_, hversion, congrArg Firmware.staging ht, by rw [paused, hnone], congrArg Firmware.vaneRestarts ht,
    fun hv => ?_, hnone⟩
  · rw [running, stagingImg, hslot, hA, hB]
    cases s.slotB <;> rfl
  · exact ready_of_firmware (s := s.takeOver h arc) (congrArg Firmware.mbx ht) hversion hv

/-- READY of an image that asks for a raise of the counter: the FW_ACTIVATE waits for it (R347). -/
theorem handoverReady_asks {s : State} {h : Handover} {arc : BitVec 64} (hh : s.handover = some h)
    (hover : s.stepOneOver h = true) (hask : h.arcup = true) (harc : arc.toNat < imgArc s.stagingImg) :
    let t := s.handoverReady arc
    t.firmware = { (s.takeOver h arc).readyGiven.firmware with
      handover := none, arcWaits := t.arcWaits, arcReq := t.arcReq } ∧
    (∃ w met left, s.arcWaits = met ++ left ∧ t.arcWaits = left ++ [w] ∧ (met ≠ [] → s.arcReq = none) ∧
      (∀ v ∈ met, v.seen = none ∧ v.want.toNat ≤ arc.toNat ∧ t.longOp? v.origin v.tag = none) ∧ w.origin = h.origin ∧
      w.tag = h.tag ∧ w.seen = none ∧ w.want = BitVec.ofNat 64 (imgArc s.stagingImg) ∧
      (s.arcWaits = [] → s.arcReq = none → t.arcReq = some w.want)) ∧
    ∀ want, s.arcReq = some want → t.arcReq = some want := by
  rw [handoverReady_eq hh hover (Nat.le_of_lt harc), if_pos (by simp [hask, harc])]
  have hready : (s.takeOver h arc).readyGiven.firmware =
      { (s.takeOver h arc).firmware with mbx := (s.takeOver h arc).writeReady.mbx } := readyGiven_firmware _
  generalize (s.takeOver h arc).readyGiven = r at hready ⊢
  have hkey : r.keyArc = arc := congrArg Firmware.keyArc hready
  have hwaits : r.arcWaits = s.arcWaits := congrArg Firmware.arcWaits hready
  have hreq : r.arcReq = s.arcReq := congrArg Firmware.arcReq hready
  obtain ⟨met, left, hsplit, hleft, hout, hmet, hfirst, hkeep⟩ :=
    awaitArc_waits r h (imgArc s.stagingImg) (by rwa [hkey]) (imgArc_lt _)
  rw [hwaits] at hsplit hfirst
  rw [hreq] at hout hfirst hkeep
  rw [EndedMet, hkey] at hmet
  exact ⟨awaitArc_firmware _ _ _, ⟨_, met, left, hsplit, hleft, hout, hmet, rfl, rfl, rfl, rfl, hfirst⟩, hkeep⟩

/-- READY of an image that asks for none ends the FW_ACTIVATE. -/
theorem handoverReady_ends {s : State} {h : Handover} {arc : BitVec 64} (hh : s.handover = some h)
    (hover : s.stepOneOver h = true) (harc : arc.toNat ≤ imgArc s.stagingImg)
    (hask : ¬(h.arcup = true ∧ arc.toNat < imgArc s.stagingImg)) :
    let t := s.handoverReady arc
    t.firmware = { (s.takeOver h arc).readyGiven.firmware with
      handover := none, arcWaits := t.arcWaits, arcReq := t.arcReq } ∧
    t.arcReq = s.arcReq ∧ t.arcWaits = s.arcWaits ∧ t.longOp? h.origin h.tag = none := by
  rw [handoverReady_eq hh hover harc, if_neg (by simpa using hask)]
  have hready : (s.takeOver h arc).readyGiven.firmware =
      { (s.takeOver h arc).firmware with mbx := (s.takeOver h arc).writeReady.mbx } := readyGiven_firmware _
  generalize (s.takeOver h arc).readyGiven = r at hready ⊢
  have hend := endHandover_firmware r h stOk 4 s.fwVersion.toNat
  have hlong := endHandover_longOp r h stOk 4 s.fwVersion.toNat
  generalize r.endHandover h stOk 4 s.fwVersion.toNat = t at hend hlong ⊢
  have hwaits : t.arcWaits = r.arcWaits := congrArg Firmware.arcWaits hend
  have hreq : t.arcReq = r.arcReq := congrArg Firmware.arcReq hend
  refine ⟨?_, hreq.trans (congrArg Firmware.arcReq hready), hwaits.trans (congrArg Firmware.arcWaits hready), hlong⟩
  rw [hend, hwaits, hreq]
  rfl

/-- A hand-over that fails leaves the outgoing image (R351). -/
theorem handoverReverts_keeps {s : State} {h : Handover} (cause : RevertCause) (hh : s.handover = some h)
    (hover : s.stepOneOver h = true) :
    let t := s.handoverReverts cause
    t.slotB = s.slotB ∧ t.running = s.running ∧ t.fwVersion = s.fwVersion ∧ t.handover = none ∧ t.arcReq = s.arcReq ∧
      t.arcWaits = s.arcWaits ∧ t.longOp? h.origin h.tag = none ∧ t.vaneRestarts = satInc (satInc s.vaneRestarts) ∧
      ((s.mailbox 0).valid = false → ReadyIn (t.mailbox 0) s.fwVersion) ∧
      t.kindCount srcMgmt evFirmwareRevert = satInc (s.kindCount srcMgmt evFirmwareRevert) := by
  obtain ⟨result, old, heq⟩ := handoverReverts_eq cause hh hover
  rw [heq]
  have ht := endHandover_firmware (s.revert h result).readyGiven h result 2 old
  have hlong := endHandover_longOp (s.revert h result).readyGiven h result 2 old
  rw [readyGiven_firmware, revert_firmware] at ht
  generalize (s.revert h result).readyGiven.endHandover h result 2 old = t at ht hlong ⊢
  have hslot : t.slotB = s.slotB := congrArg Firmware.slotB ht
  have hA : t.imgA = s.imgA := congrArg Firmware.imgA ht
  have hB : t.imgB = s.imgB := congrArg Firmware.imgB ht
  have hversion : t.fwVersion = s.fwVersion := congrArg Firmware.fwVersion ht
  refine ⟨hslot, by rw [running, running, hslot, hA, hB], hversion, congrArg Firmware.handover ht,
    congrArg Firmware.arcReq ht, congrArg Firmware.arcWaits ht, hlong, congrArg Firmware.vaneRestarts ht, fun hv => ?_,
    congrArg Firmware.reverts ht⟩
  have hrevert := s.revert_firmware h result
  have hsame : (s.revert h result).fwVersion = s.fwVersion := congrArg Firmware.fwVersion hrevert
  have hbox : ((s.revert h result).mailbox 0).valid = false := by
    rwa [mailbox, show (s.revert h result).mbx = s.mbx from congrArg Firmware.mbx hrevert]
  rw [← hversion]
  exact ready_of_firmware (s := s.revert h result) (congrArg Firmware.mbx ht) (hversion.trans hsame.symm) hbox

/-- The host's answer with room in the log: the FW_ACTIVATE that waited longest ends, and those behind it whose ARC the
counter has met; the next asks (R347). -/
theorem arcDone_room {s : State} {want : BitVec 64} {w : ArcWait} {rest : List ArcWait} (arc : BitVec 64)
    (hreq : s.arcReq = some want) (hw : s.arcWaits = w :: rest) (hroom : s.logRoom false = true) :
    let t := s.arcDone arc
    ∃ met, rest = met ++ t.arcWaits ∧
      (∀ v ∈ met, v.seen = none ∧ v.want.toNat ≤ arc.toNat ∧ t.longOp? v.origin v.tag = none) ∧
      (∀ v ∈ t.arcWaits.head?, v.seen ≠ none ∨ arc.toNat < v.want.toNat) ∧ t.arcReq = nextRequest t.arcWaits ∧
      t.keyArc = arc ∧ t.longOp? w.origin w.tag = none ∧ t.handover = s.handover ∧
      (∀ o, met = [] → s.longOp? w.origin w.tag = some o → o.opcode = opFwActivate →
        t.kindCount srcMgmt evFwActivated = satInc (s.kindCount srcMgmt evFwActivated)) ∧
      t.fwVersion = s.fwVersion ∧ t.slotB = s.slotB := by
  let s0 : State := { s with arcReq := none, arcWaits := { w with seen := some arc } :: rest }
  have hdone : s.arcDone arc = s0.settleArc := by rw [arcDone, hreq, hw]
  obtain ⟨r, v, hsettle⟩ := settleArc_room (s := s0) (w := { w with seen := some arc }) rfl rfl hroom
  have hread := counterRead_firmware (s := s0) hroom arc rest
  have hself := endActivate_longOp_self (s0.counterRead arc rest) w.origin w.tag r 4 v
  have hfirm := (endActivate_firmware (s0.counterRead arc rest) w.origin w.tag r 4 v).trans hread
  have hcount (o : LongOp) (ho : s.longOp? w.origin w.tag = some o) (hop : o.opcode = opFwActivate) :
      ((s0.counterRead arc rest).endActivate w.origin w.tag r 4 v).kindCount srcMgmt evFwActivated =
        satInc (s.kindCount srcMgmt evFwActivated) := by
    rw [endActivate_activated r 4 v ((counterRead_longOp (s := s0) hroom arc rest _ _).trans ho) hop,
      counterRead_kindCount (s := s0) hroom arc rest _ _ (by decide)]
    rfl
  rw [hdone, hsettle]
  dsimp only
  generalize (s0.counterRead arc rest).endActivate w.origin w.tag r 4 v = u at hself hfirm hcount ⊢
  have hnone : u.arcReq = none := congrArg Firmware.arcReq hfirm
  have hrest : u.arcWaits = rest := congrArg Firmware.arcWaits hfirm
  have hkey : u.keyArc = arc := congrArg Firmware.keyArc hfirm
  have ht := (askArc_firmware u).trans (congrArg (fun x : Firmware =>
    { x with arcWaits := u.askArc.arcWaits, arcReq := u.askArc.arcReq }) hfirm)
  obtain ⟨met, hsplit, hmet, hhead, hnil⟩ := endMet_split u rest hrest
  rw [EndedMet, hkey] at hmet
  rw [HeadUnmet, hkey] at hhead
  have hask := askArc_none hnone
  rw [hrest] at hask
  refine ⟨met, by rw [hask]; exact hsplit, by rw [hask]; exact hmet, by rw [hask]; exact hhead, by rw [hask],
    congrArg Firmware.keyArc ht, askArc_longOp_none hself, congrArg Firmware.handover ht, fun o hm ho hop => ?_,
    congrArg Firmware.fwVersion ht, congrArg Firmware.slotB ht⟩
  rw [hask, hnil hm]
  exact hcount o ho hop

end State

/-- Settles O35: the two ends of a hand-over (`handoverReady_asks`, `handoverReady_ends`, `handoverReverts_keeps`) and the
host's answer to a counter request (`arcDone_room`, `settleArc_full`). The read of management SRAM that comes first touches
nothing that they speak of. -/
theorem handoverSwitchesOrReverts : Obligations.HandoverSwitchesOrReverts := by
  refine ⟨fun h s hruns hh hpaused hprior hloads => ?_, fun arc want s hruns hreq =>
    ⟨fun hempty => ?_, fun w rest hw => ⟨fun hfull => ?_, fun hroom => ?_⟩⟩⟩
  · have hover : s.stepOneOver h = true := by simp [State.stepOneOver, hpaused, hprior, hloads]
    refine ⟨fun arc harc => ⟨_, State.exec_handoverReady hruns arc hh hover, ?_⟩,
      fun cause => ⟨_, State.exec_handoverTimeout hruns cause hh hover, ?_⟩⟩
    · rw [State.sramUse_frame]
      generalize s.sramUse.mgmtCorrected = corrected, s.sramUse.fatal = fatal
      let u : State := { s with mgmtCorrected := corrected, fatal := fatal, fresh := s.fresh + 1 }
      by_cases hask : h.arcup = true ∧ arc.toNat < imgArc s.stagingImg
      · rw [if_pos hask]
        obtain ⟨hfirm, hasks⟩ := State.handoverReady_asks (s := u) hh hover hask.1 hask.2
        obtain ⟨h1, h2, h3, h4, h5, h6, h7, h8⟩ := State.switched_of_firmware h arc hfirm
        exact ⟨h1, h2, h3, h4, h5, h6, h7, h8, hasks⟩
      · rw [if_neg hask]
        obtain ⟨hfirm, hends⟩ := State.handoverReady_ends (s := u) hh hover harc hask
        obtain ⟨h1, h2, h3, h4, h5, h6, h7, h8⟩ := State.switched_of_firmware h arc hfirm
        exact ⟨h1, h2, h3, h4, h5, h6, h7, h8, hends⟩
    · rw [State.sramUse_frame]
      exact State.handoverReverts_keeps (s := { s with
        mgmtCorrected := s.sramUse.mgmtCorrected, fatal := s.sramUse.fatal, fresh := s.fresh + 1 }) cause hh hover
  · simp [exec, execArcReqDone, hruns, State.arcDone, hreq, hempty]
  · have hdone : s.arcDone arc =
        ({ s with arcReq := none, arcWaits := { w with seen := some arc } :: rest } : State).settleArc := by
      rw [State.arcDone, hreq, hw]
    have hexec : exec (.arcReqDone arc) s = .next (s.arcDone arc) := by simp [exec, execArcReqDone, hruns]
    have hsettled := State.settleArc_full
      (s := { s with arcReq := none, arcWaits := { w with seen := some arc } :: rest }) hfull
    rw [hexec, hdone, hsettled]
  · have hexec : exec (.arcReqDone arc) s = .next (s.arcDone arc) := by simp [exec, execArcReqDone, hruns]
    obtain ⟨met, hrest, hmet, hhead, hnext, hothers⟩ := State.arcDone_room arc hreq hw hroom
    exact ⟨_, met, hexec, hrest, hmet, hhead, hnext, hothers⟩

end Sys2Proof.Machine
end

section
/-!
PROOFS. How the self-test forms the map and reports READY (Table 13.7 steps 6 to 8, R28, R326, R332).
-/

namespace Sys2Proof.Machine

/-- What start-up reports and forms: the tiles, which bands are in the map with which spare, the service state, the
firmware version and the mailboxes. -/
structure Formed where
  tiles     : Vector Tile 88
  roles     : Nat → Bool × Option (Fin 11)
  fwVersion : Word
  service   : Service
  cause     : Cause
  bootPhase : BootPhase
  readyDone : Bool
  mbx       : Vector Mailbox 4

namespace State

def formed (s : State) : Formed where
  tiles := s.tiles
  roles := fun b => ((s.band b).present, (s.band b).spare)
  fwVersion := s.fwVersion
  service := s.service
  cause := s.cause
  bootPhase := s.bootPhase
  readyDone := s.readyDone
  mbx := s.mbx

variable (s : State)

/-! ### Basic updates -/

theorem band_modBand (b c : Nat) (f : Band → Band) :
    (s.modBand b f).band c = if b = c ∧ c < 8 then f (s.band c) else s.band c := by
  by_cases hbc : b = c
  · subst hbc
    by_cases hb : b < 8
    · simp [hb]
    · simp [hb, modBand, setBand, band]
  · simp [hbc, modBand_band_ne _ _ _ _ hbc]

/-- A band's other registers are no part of what is formed. -/
theorem modBand_formed (b : Nat) (f : Band → Band) (h : ∀ x, (f x).present = x.present ∧ (f x).spare = x.spare) :
    (s.modBand b f).formed = s.formed := by
  have hroles : (s.modBand b f).formed.roles = s.formed.roles := by
    funext c
    simp only [formed, band_modBand]
    split <;> simp [h]
  exact congrArg (fun r => { s.formed with roles := r }) hroles

@[simp] theorem modStream_formed (n : Nat) (f : Stream → Stream) : (s.modStream n f).formed = s.formed := rfl

theorem foldl_formed {α : Type} (f : State → α → State) (h : ∀ s a, (f s a).formed = s.formed) (l : List α) :
    (l.foldl f s).formed = s.formed := by
  induction l generalizing s with
  | nil => rfl
  | cons a l ih => exact (ih _).trans (h s a)

@[simp] theorem notice_formed (src code p : Nat) : (s.notice src code p).formed = s.formed := by simp [formed]

@[simp] theorem logHw_formed (k x a b : Nat) : (s.logHw k x a b).formed = s.formed := by
  simp [formed, State.band]

@[simp] theorem logGlomen_formed (k r x a b : Nat) : (s.logGlomen k r x a b).formed = s.formed := by
  simp [formed, State.band]

theorem glomenChange_formed (k a b c : Nat) (f : State → State) (h : ∀ s, (f s).formed = s.formed) :
    (s.glomenChange k a b c f).formed = s.formed := by
  unfold glomenChange
  split
  · rw [logGlomen_formed, h]
  · rfl

/-! ### Squalls, requests, floors and declared figures -/

@[simp] theorem suspend_formed (sid : Nat) (f : Causes → Causes) : (s.suspend sid f).formed = s.formed := rfl

@[simp] theorem beginSquall_formed (b cause mhz : Nat) : (s.beginSquall b cause mhz).formed = s.formed := by
  unfold beginSquall
  split
  · rfl
  · dsimp only
    rw [notice_formed, foldl_formed _ _ fun s (y : Stream) => suspend_formed s y.sid _]
    exact s.modBand_formed b _ fun _ => ⟨rfl, rfl⟩

@[simp] theorem pointSquall_formed (b : Nat) : (s.pointSquall b).formed = s.formed := by
  have hlow (low : Bool) : (s.modBand b (fun y => { y with sqThrottle := low })).formed = s.formed :=
    s.modBand_formed b _ fun _ => ⟨rfl, rfl⟩
  unfold pointSquall
  split
  · dsimp only
    split
    · rw [beginSquall_formed, hlow]
    · exact hlow _
  · rfl

@[simp] theorem setRequest_formed (b p : Nat) : (s.setRequest b p).formed = s.formed := by
  have hmake (s : State) : (s.modBand b (fun x => { x with req := p })).formed = s.formed :=
    s.modBand_formed b _ fun _ => ⟨rfl, rfl⟩
  unfold setRequest
  dsimp only
  split
  · rfl
  split
  · exact s.glomenChange_formed _ _ _ _ _ hmake
  split
  · rw [logHw_formed, hmake]
  · rfl

@[simp] theorem followFloor_formed (b : Nat) : (s.followFloor b).formed = s.formed := by
  rw [followFloor, pointSquall_formed, setRequest_formed]

@[simp] theorem installFloor_formed (b p : Nat) : (s.installFloor b p).formed = s.formed := by
  rw [installFloor, followFloor_formed]
  refine s.glomenChange_formed _ _ _ _ _ fun s => ?_
  exact s.modBand_formed b (fun x => { x with floor := p }) fun _ => ⟨rfl, rfl⟩

theorem installPolicy_formed (item scope v : Nat) (h : ∀ s : State, (s.putPolicy item scope v).formed = s.formed) :
    (s.installPolicy item scope v).formed = s.formed :=
  s.glomenChange_formed _ _ _ _ _ h

/-- The declared figures are D_STOP, L_FAB, FCLK and the floors: none is a part of the map. -/
@[simp] theorem installDecl_formed (d : List Byte) : (s.installDecl d).formed = s.formed := by
  unfold installDecl
  have hstop (s : State) (b v : Nat) : (s.installPolicy 0x07 b v).formed = s.formed :=
    s.installPolicy_formed _ _ _ fun s => s.modBand_formed b (fun x => { x with dStop := v }) fun _ => ⟨rfl, rfl⟩
  split
  · dsimp only
    rw [foldl_formed _ _ fun s b => installFloor_formed s b _, installPolicy_formed _ _ _ _ fun _ => rfl,
      installPolicy_formed _ _ _ _ fun _ => rfl, foldl_formed _ _ fun s b => hstop s b _]
  · exact logGlomen_formed _ _ _ _ _ _

/-! ### READY of start-up -/

/-- READY of start-up has its eleven words (R332). -/
theorem writeReady_length {s : State} (h : (s.mailbox 0).valid = false) : (s.writeReady.mailbox 0).outLen = 10 := by
  unfold writeReady
  dsimp only
  rw [h, if_neg (by decide)]
  simp [writeOut, mapWords]

theorem refreshService_service (h : s.readyDone = true) :
    (s.refreshService.service = .service ∨ s.refreshService.service = .noService ∧ s.refreshService.cause = .noSet) ∧
      (s.refreshService.service = .service ↔ ∃ b : Fin 8, (s.band b.val).present = true) := by
  have hany : (List.range 8).any (fun b => (s.band b).present) = true ↔ ∃ b : Fin 8, (s.band b.val).present = true := by
    simp [List.any_eq_true, Fin.exists_iff]
  rw [← hany]
  unfold refreshService
  rw [if_pos h]
  split <;> simp_all

@[simp] theorem refreshService_formed : s.refreshService.formed =
    { s.formed with service := s.refreshService.service, cause := s.refreshService.cause } := by
  unfold refreshService
  split
  · split <;> rfl
  · rfl

@[simp] theorem writeReady_formed : s.writeReady.formed = { s.formed with mbx := s.writeReady.mbx } := by
  unfold writeReady
  dsimp only
  split <;> rfl

/-- The block once the declaration is installed: service is about to begin. -/
def declared (s : State) : State := { s.installDecl s.declaration with readyDone := true, bootPhase := .finished }

theorem declared_formed : s.declared.formed = { s.formed with readyDone := true, bootPhase := .finished } :=
  congrArg (fun x : Formed => { x with readyDone := true, bootPhase := .finished }) (s.installDecl_formed s.declaration)

theorem startService_formed : s.startService.formed = { s.formed with
    readyDone := true, bootPhase := .finished, service := s.declared.refreshService.service
    cause := s.declared.refreshService.cause, mbx := s.declared.refreshService.writeReady.mbx } := by
  have hstart : s.startService.formed = s.declared.refreshService.writeReady.formed :=
    foldl_formed _ _ pointSquall_formed _
  rw [hstart, writeReady_formed, refreshService_formed, declared_formed]

/-- With mailbox 0 free, READY stands in it after step 8 of Table 13.7. -/
theorem startService_ready {s : State} (hv : (s.mailbox 0).valid = false) :
    ReadyIn (s.startService.mailbox 0) s.fwVersion ∧ (s.startService.mailbox 0).outLen = 10 := by
  have hserving : s.declared.refreshService.formed = { s.formed with
      readyDone := true, bootPhase := .finished, service := s.declared.refreshService.service
      cause := s.declared.refreshService.cause } := by rw [refreshService_formed, declared_formed]
  have hmbx : s.declared.refreshService.mbx = s.mbx := congrArg Formed.mbx hserving
  have hversion : s.declared.refreshService.fwVersion = s.fwVersion := congrArg Formed.fwVersion hserving
  have hfree : (s.declared.refreshService.mailbox 0).valid = false := by rwa [mailbox, hmbx]
  have hwritten : s.startService.mbx = s.declared.refreshService.writeReady.mbx :=
    congrArg Formed.mbx s.startService_formed
  have hbox : s.startService.mailbox 0 = s.declared.refreshService.writeReady.mailbox 0 := by
    rw [mailbox, hwritten]
    rfl
  rw [hbox, ← hversion]
  exact ⟨writeReady_ready hfree, writeReady_length hfree⟩

/-- Service begins where a band is in the map, else there is no set to serve. -/
theorem startService_service :
    (s.startService.service = .service ∨ s.startService.service = .noService ∧ s.startService.cause = .noSet) ∧
      (s.startService.service = .service ↔ ∃ b : Fin 8, (s.band b.val).present = true) := by
  have hservice : s.startService.service = s.declared.refreshService.service :=
    congrArg Formed.service s.startService_formed
  have hcause : s.startService.cause = s.declared.refreshService.cause := congrArg Formed.cause s.startService_formed
  have hpresent (b : Nat) : (s.declared.band b).present = (s.band b).present :=
    congrArg (fun x : Formed => (x.roles b).1) s.declared_formed
  have hserves := s.declared.refreshService_service rfl
  rw [hservice, hcause]
  simpa only [hpresent] using hserves

/-! ### Folds of which each step touches one unit -/

/-- Where each step touches what is seen of its own unit alone, the fold does to a unit what its one step does. -/
theorem foldl_view {α : Type} (view : Nat → State → α) (f : State → Nat → State)
    (hother : ∀ s i j, i ≠ j → view j (f s i) = view j s) (l : List Nat) (hl : l.Nodup) (j : Nat) (hj : j ∈ l) :
    ∃ u, view j u = view j s ∧ view j (l.foldl f s) = view j (f u j) := by
  have hskip (l : List Nat) (s : State) (h : j ∉ l) : view j (l.foldl f s) = view j s := by
    induction l generalizing s with
    | nil => rfl
    | cons i l ih =>
      obtain ⟨hi, hl⟩ := List.ne_and_not_mem_of_not_mem_cons h
      exact (ih _ hl).trans (hother _ _ _ hi.symm)
  induction l generalizing s with
  | nil => cases hj
  | cons i l ih =>
    obtain ⟨hi, hl⟩ := List.nodup_cons.1 hl
    rcases List.mem_cons.1 hj with rfl | hmem
    · exact ⟨s, rfl, hskip l _ hi⟩
    · have hne : i ≠ j := fun h => hi (h ▸ hmem)
      obtain ⟨u, hu, hf⟩ := ih (f s i) hl hmem
      exact ⟨u, hu.trans (hother _ _ _ hne), hf⟩

/-! ### The tiles of a band -/

theorem mem_bandTiles {b i : Nat} : i ∈ bandTiles b ↔ 11 * b ≤ i ∧ i < 11 * b + 11 := by
  simp only [bandTiles, List.mem_map, List.mem_range]
  exact ⟨fun ⟨k, hk, h⟩ => by omega, fun h => ⟨i - 11 * b, by omega, by omega⟩⟩

theorem bandTiles_nodup (b : Nat) : (bandTiles b).Nodup :=
  (List.nodup_range).map fun i j h => by simpa using h

theorem mem_firstTen {b i : Nat} : i ∈ (bandTiles b).take 10 ↔ i ∈ bandTiles b ∧ i ≠ 11 * b + 10 := by
  have hten : (bandTiles b).take 10 = (List.range 10).map (fun i => 11 * b + i) := by
    rw [bandTiles, ← List.map_take]
    rfl
  rw [hten, mem_bandTiles, List.mem_map]
  simp only [List.mem_range]
  exact ⟨fun ⟨k, hk, h⟩ => by omega, fun h => ⟨i - 11 * b, by omega, by omega⟩⟩

/-! ### What a band starts with (R28, R326) -/

/-- Tiles of a band that its fuses mark. -/
def marked (s : State) (b : Nat) : Nat := (bandTiles b).countP (fun i => fuseBad (s.tile i))

theorem testFails_congr {s u : State} (r : PostReport) {i : Nat} (h : u.tile i = s.tile i) :
    u.testFails r i = s.testFails r i := by
  rw [testFails, testFails, h]

/-- What a band starts with depends on its own tiles. -/
theorem formBand_congr {s u : State} (r : PostReport) {b : Nat} (h : ∀ i ∈ bandTiles b, u.tile i = s.tile i) :
    u.formBand r b = s.formBand r b := by
  have hfails (i : Nat) (hi : i ∈ bandTiles b) : u.testFails r i = s.testFails r i := testFails_congr r (h i hi)
  have hbad : (bandTiles b).filter (fun i => fuseBad (u.tile i)) = (bandTiles b).filter (fun i => fuseBad (s.tile i)) :=
    List.filter_congr fun i hi => by rw [h i hi]
  have hfail : ((bandTiles b).take 10).filter (u.testFails r) = ((bandTiles b).take 10).filter (s.testFails r) :=
    List.filter_congr fun i hi => hfails i (List.mem_of_mem_take hi)
  have hgood : ((bandTiles b).take 10).filter (fun i => !u.testFails r i) =
      ((bandTiles b).take 10).filter (fun i => !s.testFails r i) :=
    List.filter_congr fun i hi => by rw [hfails i (List.mem_of_mem_take hi)]
  have hone (x : Nat) : (bandTiles b).filter (fun i => i != x && !u.testFails r i) =
      (bandTiles b).filter (fun i => i != x && !s.testFails r i) :=
    List.filter_congr fun i hi => by rw [hfails i hi]
  have hspare : u.testFails r (11 * b + 10) = s.testFails r (11 * b + 10) :=
    hfails _ (mem_bandTiles.2 (by omega))
  unfold formBand
  dsimp only
  simp only [hbad, hfail, hgood, hspare, hone]

/-- With no marked tile: the first ten that pass, and the spare where one of them fails and it passes. -/
theorem formBand_unmarked {s : State} {r : PostReport} {b : Nat} (h : s.marked b = 0) :
    let good := ((bandTiles b).take 10).filter (fun i => !s.testFails r i)
    let whole := ((bandTiles b).take 10).all (fun i => !s.testFails r i)
    s.formBand r b = if s.testFails r (11 * b + 10) then (good, none)
      else if whole then (good, some (11 * b + 10)) else (good ++ [11 * b + 10], none) := by
  have hnil : (bandTiles b).filter (fun i => fuseBad (s.tile i)) = [] := by
    rw [← List.length_eq_zero_iff, ← List.countP_eq_length_filter]
    exact h
  have hwhole : (((bandTiles b).take 10).filter (s.testFails r)).isEmpty =
      ((bandTiles b).take 10).all (fun i => !s.testFails r i) := by
    rw [Bool.eq_iff_iff, List.isEmpty_iff, List.filter_eq_nil_iff, List.all_eq_true]
    simp
  dsimp only
  rw [formBand, hnil, ← hwhole]

/-- With one marked tile: every other that passes, and no spare. -/
theorem formBand_oneMarked {s : State} {r : PostReport} {b : Nat} (h : s.marked b = 1) :
    s.formBand r b =
      ((bandTiles b).filter (fun i => !fuseBad (s.tile i) && !s.testFails r i), none) := by
  obtain ⟨x, hx⟩ : ∃ x, (bandTiles b).filter (fun i => fuseBad (s.tile i)) = [x] := by
    rw [← List.length_eq_one_iff, ← List.countP_eq_length_filter]
    exact h
  have hbad (i : Nat) (hi : i ∈ bandTiles b) : (i != x) = !fuseBad (s.tile i) := by
    have hmem : i ∈ (bandTiles b).filter (fun i => fuseBad (s.tile i)) ↔ i = x := by rw [hx, List.mem_singleton]
    rw [List.mem_filter] at hmem
    by_cases hix : i = x
    · have := (hmem.2 hix).2
      simp [hix] at this ⊢
      exact this
    · have : fuseBad (s.tile i) = false := by
        rw [← Bool.not_eq_true]
        exact fun hb => hix (hmem.1 ⟨hi, hb⟩)
      simp [hix, this]
  rw [formBand, hx]
  dsimp only
  rw [List.filter_congr fun i hi => by rw [hbad i hi]]

theorem formBand_moreMarked {s : State} {r : PostReport} {b : Nat} (h : 2 ≤ s.marked b) : s.formBand r b = ([], none) := by
  have hlen : 2 ≤ ((bandTiles b).filter (fun i => fuseBad (s.tile i))).length := by
    rw [← List.countP_eq_length_filter]
    exact h
  unfold formBand
  dsimp only
  match hf : (bandTiles b).filter (fun i => fuseBad (s.tile i)) with
  | [] => simp [hf] at hlen
  | [x] => simp [hf] at hlen
  | x :: y :: l => rfl

/-- No tile of a band without marks is marked. -/
theorem fuseBad_of_unmarked {s : State} {b : Nat} (h : s.marked b = 0) {i : Nat} (hi : i ∈ bandTiles b) :
    fuseBad (s.tile i) = false := by
  have := List.countP_eq_zero.1 h i hi
  simpa using this

/-- An active tile is neither marked nor failed. -/
theorem formBand_passes {s : State} {r : PostReport} {b i : Nat} (h : i ∈ (s.formBand r b).1) :
    i ∈ bandTiles b ∧ fuseBad (s.tile i) = false ∧ s.testFails r i = false := by
  rcases Nat.lt_trichotomy (s.marked b) 1 with hm | hm | hm
  · have hm : s.marked b = 0 := by omega
    have hten : i ∈ ((bandTiles b).take 10).filter (fun i => !s.testFails r i) →
        i ∈ bandTiles b ∧ s.testFails r i = false := by
      rw [List.mem_filter]
      exact fun ⟨hi, hf⟩ => ⟨List.mem_of_mem_take hi, by simpa using hf⟩
    have hin : i ∈ bandTiles b ∧ s.testFails r i = false := by
      rw [formBand_unmarked hm] at h
      split at h
      · exact hten h
      split at h
      · exact hten h
      · rename_i hspare _
        rcases List.mem_append.1 h with h | h
        · exact hten h
        · rw [List.mem_singleton.1 h]
          exact ⟨mem_bandTiles.2 (by omega), by simpa using hspare⟩
    exact ⟨hin.1, fuseBad_of_unmarked hm hin.1, hin.2⟩
  · rw [formBand_oneMarked hm] at h
    simpa using h
  · rw [formBand_moreMarked hm] at h
    cases h

/-- A tile of the first ten that is neither marked nor failed is active, unless two are marked. -/
theorem formBand_takes {s : State} {r : PostReport} {b i : Nat} (hm : s.marked b ≤ 1) (hi : i ∈ bandTiles b)
    (hbad : fuseBad (s.tile i) = false) (hfails : s.testFails r i = false) (hspare : i ≠ 11 * b + 10) :
    i ∈ (s.formBand r b).1 := by
  rcases Nat.le_one_iff_eq_zero_or_eq_one.1 hm with hm | hm
  · have hgood : i ∈ ((bandTiles b).take 10).filter (fun i => !s.testFails r i) :=
      List.mem_filter.2 ⟨mem_firstTen.2 ⟨hi, hspare⟩, by simp [hfails]⟩
    rw [formBand_unmarked hm]
    split
    · exact hgood
    split
    · exact hgood
    · exact List.mem_append_left _ hgood
  · rw [formBand_oneMarked hm]
    exact List.mem_filter.2 ⟨hi, by simp [hbad, hfails]⟩

/-- The spare of a band with no mark steps in where one of the first ten fails. -/
theorem formBand_spare {s : State} {r : PostReport} {b : Nat} (hm : s.marked b = 0)
    (hfails : s.testFails r (11 * b + 10) = false) :
    let whole := ((bandTiles b).take 10).all (fun i => !s.testFails r i)
    (11 * b + 10 ∈ (s.formBand r b).1 ↔ whole = false) ∧ (s.formBand r b).2 = if whole then some (11 * b + 10) else none := by
  dsimp only
  rw [formBand_unmarked hm]
  rw [hfails, if_neg (by decide)]
  split
  · have hnot : 11 * b + 10 ∉ ((bandTiles b).take 10).filter (fun i => !s.testFails r i) :=
      fun h => (mem_firstTen.1 (List.mem_of_mem_filter h)).2 rfl
    simp_all
  · simp_all

/-- A band with at most one mark starts with a tile where one passes. -/
theorem formBand_nonempty {s : State} {r : PostReport} {b : Nat} (hm : s.marked b ≤ 1) :
    (s.formBand r b).1 ≠ [] ↔ ∃ i ∈ bandTiles b, fuseBad (s.tile i) = false ∧ s.testFails r i = false := by
  constructor
  · intro h
    obtain ⟨i, hi⟩ := List.exists_mem_of_ne_nil _ h
    exact ⟨i, formBand_passes hi⟩
  · rintro ⟨i, hi, hbad, hfails⟩
    suffices h : ∃ j, j ∈ (s.formBand r b).1 from fun hnil => by simp [hnil] at h
    by_cases hspare : i = 11 * b + 10
    case neg => exact ⟨i, formBand_takes hm hi hbad hfails hspare⟩
    subst hspare
    rcases Nat.le_one_iff_eq_zero_or_eq_one.1 hm with hm | hm
    · by_cases hw : ((bandTiles b).take 10).all (fun i => !s.testFails r i) = true
      · have hfirst : 11 * b ∈ bandTiles b := mem_bandTiles.2 (by omega)
        have hne : 11 * b ≠ 11 * b + 10 := by omega
        have hpass : s.testFails r (11 * b) = false := by
          simpa using List.all_eq_true.1 hw _ (mem_firstTen.2 ⟨hfirst, hne⟩)
        exact ⟨_, formBand_takes (by omega) hfirst (fuseBad_of_unmarked hm hfirst) hpass hne⟩
      · exact ⟨_, (formBand_spare hm hfails).1.2 (by simpa using hw)⟩
    · exact ⟨_, by rw [formBand_oneMarked hm]; exact List.mem_filter.2 ⟨hi, by simp [hbad, hfails]⟩⟩

/-! ### The map of one band -/

/-- The clocks of a band come with the self-test, in domains that have left reset. -/
def postClocked (s : State) (r : PostReport) (b : Nat) : Bool :=
  r.clocked.getLsbD b && (s.band b).cclkOut && (s.band b).hclkOut

/-- The tiles and the spare with which a band enters the map: none without its clocks or its FAB port. -/
def mapForm (s : State) (r : PostReport) (b : Nat) : List Nat × Option Nat :=
  if s.postClocked r b && r.fabUp.getLsbD b then s.formBand r b else ([], none)

/-- What the map makes of one tile of a band whose active tiles are `act`. -/
def mapTile (r : PostReport) (up : Bool) (act : List Nat) (s : State) (i : Nat) : State :=
  let failed := fuseBad (s.tile i) || (up && s.testFails r i)
  let t := s.modTile i (fun y => { y with banksOff := postBanks y r i, failed := failed, lost := false, active := act.contains i })
  if act.contains i then t else t.gate i

theorem mapBand_eq (r : PostReport) (b : Nat) : s.mapBand r b =
    (((((bandTiles b).foldl (mapTile r (s.postClocked r b) (s.mapForm r b).1) s).modBand b (fun x => { x with
      clocked := s.postClocked r b, fabUp := r.fabUp.getLsbD b, away := x.away && !s.postClocked r b
      present := !(s.mapForm r b).1.isEmpty })).setSpare b (s.mapForm r b).2).tapsCross b (s.band b).cclkTicks) := rfl

@[simp] theorem booked_tile (f : State → State) (i : Nat) : (s.booked f).tile i = (f s).tile i := rfl
@[simp] theorem booked_band (f : State → State) (b : Nat) : (s.booked f).band b = (f s).band b := rfl

theorem gate_tile_ne {i j : Nat} (h : i ≠ j) : (s.gate i).tile j = s.tile j := by
  rw [gate, booked_tile, modTile_tile_ne _ _ _ _ h]

theorem gate_tile {i : Nat} (h : i < 88) :
    (s.gate i).tile i = { (s.tile i).cleared with pgReq := true, power := .off } := by
  rw [gate, booked_tile, modTile_tile _ _ _ h]

theorem mapTile_frame (r : PostReport) (up : Bool) (act : List Nat) (i : Nat) :
    mapTile r up act s i = { s with tiles := (mapTile r up act s i).tiles, books := (mapTile r up act s i).books } := by
  unfold mapTile
  dsimp only
  split <;> rfl

theorem mapTile_tile_ne (r : PostReport) (up : Bool) (act : List Nat) {i j : Nat} (h : i ≠ j) :
    (mapTile r up act s i).tile j = s.tile j := by
  unfold mapTile
  dsimp only
  split
  · exact modTile_tile_ne _ _ _ _ h
  · rw [gate_tile_ne _ h, modTile_tile_ne _ _ _ _ h]

/-- A tile in the map is active; one that is left out is gated. -/
theorem mapTile_tile (r : PostReport) (up : Bool) (act : List Nat) {i : Nat} (h : i < 88) :
    ((mapTile r up act s i).tile i).active = act.contains i ∧
      ((mapTile r up act s i).tile i).pgReq = (!act.contains i || (s.tile i).pgReq) := by
  unfold mapTile
  cases hin : act.contains i
  · rw [if_neg (by decide), gate_tile _ h, modTile_tile _ _ _ h]
    exact ⟨rfl, rfl⟩
  · rw [if_pos rfl, modTile_tile _ _ _ h]
    exact ⟨rfl, rfl⟩

theorem foldl_mapTile_frame (r : PostReport) (up : Bool) (act l : List Nat) :
    l.foldl (mapTile r up act) s =
      { s with tiles := (l.foldl (mapTile r up act) s).tiles, books := (l.foldl (mapTile r up act) s).books } := by
  induction l generalizing s with
  | nil => rfl
  | cons i l ih =>
    rw [List.foldl_cons, ih, mapTile_frame]

theorem foldl_mapTile_outside (r : PostReport) (up : Bool) (act l : List Nat) {j : Nat} (h : j ∉ l) :
    (l.foldl (mapTile r up act) s).tile j = s.tile j := by
  induction l generalizing s with
  | nil => rfl
  | cons i l ih =>
    obtain ⟨hi, hl⟩ := List.ne_and_not_mem_of_not_mem_cons h
    rw [List.foldl_cons, ih _ hl, mapTile_tile_ne _ _ _ _ hi.symm]

theorem tapsCross_frame (b : Nat) (ticked : Bool) : s.tapsCross b ticked = { s with
    intStatus := (s.tapsCross b ticked).intStatus, arb := (s.tapsCross b ticked).arb
    taps := (s.tapsCross b ticked).taps } := by
  unfold tapsCross
  split
  · exact takeTaps_frame _ _
  · rfl

theorem mapBand_frame (r : PostReport) (b : Nat) : s.mapBand r b = { s with
    tiles := (s.mapBand r b).tiles, books := (s.mapBand r b).books, bands := (s.mapBand r b).bands
    intStatus := (s.mapBand r b).intStatus, arb := (s.mapBand r b).arb, taps := (s.mapBand r b).taps } := by
  rw [mapBand_eq, tapsCross_frame, foldl_mapTile_frame]
  rfl

theorem tapsCross_band (b c : Nat) (ticked : Bool) : (s.tapsCross b ticked).band c = s.band c := by
  rw [tapsCross_frame]
  rfl

theorem tapsCross_tile (b i : Nat) (ticked : Bool) : (s.tapsCross b ticked).tile i = s.tile i := by
  rw [tapsCross_frame]
  rfl

theorem mapBand_band (r : PostReport) {b : Nat} (h : b < 8) : (s.mapBand r b).band b = { s.band b with
    clocked := s.postClocked r b, fabUp := r.fabUp.getLsbD b, away := (s.band b).away && !s.postClocked r b
    present := !(s.mapForm r b).1.isEmpty, spare := (s.mapForm r b).2.map (fun t => Fin.ofNat 11 (t % 11)) } := by
  rw [mapBand_eq, tapsCross_band, setSpare, modBand_band _ _ _ h, modBand_band _ _ _ h, foldl_mapTile_frame]
  rfl

theorem mapBand_band_ne (r : PostReport) {b c : Nat} (h : b ≠ c) : (s.mapBand r b).band c = s.band c := by
  rw [mapBand_eq, tapsCross_band, setSpare, modBand_band_ne _ _ _ _ h, modBand_band_ne _ _ _ _ h, foldl_mapTile_frame]
  rfl

theorem mapBand_tile (r : PostReport) (b i : Nat) : (s.mapBand r b).tile i =
    ((bandTiles b).foldl (mapTile r (s.postClocked r b) (s.mapForm r b).1) s).tile i := by
  rw [mapBand_eq, tapsCross_tile, setSpare, modBand_tile, modBand_tile]

/-- A tile of the band is active where the band starts with it, else gated. -/
theorem mapBand_role (r : PostReport) {b i : Nat} (hi : i ∈ bandTiles b) (h : i < 88) :
    ((s.mapBand r b).tile i).active = (s.mapForm r b).1.contains i ∧
      ((s.mapBand r b).tile i).pgReq = (!(s.mapForm r b).1.contains i || (s.tile i).pgReq) := by
  obtain ⟨u, hu, hf⟩ := foldl_view s (fun i s => s.tile i) (mapTile r (s.postClocked r b) (s.mapForm r b).1)
    (fun s i j hij => mapTile_tile_ne s _ _ _ hij) _ (bandTiles_nodup b) i hi
  have hu : u.tile i = s.tile i := hu
  have hf : (s.mapBand r b).tile i = (mapTile r (s.postClocked r b) (s.mapForm r b).1 u i).tile i :=
    (s.mapBand_tile r b i).trans hf
  rw [hf, ← hu]
  exact mapTile_tile u _ _ _ h

/-! ### The map of every band -/

/-- The bands of the map, formed one after the other. -/
@[irreducible] def mapped (s : State) (r : PostReport) : State := (List.range 8).foldl (fun s b => s.mapBand r b) s

theorem mapped_eq (r : PostReport) : s.mapped r = (List.range 8).foldl (fun s b => s.mapBand r b) s := by
  unfold mapped
  exact Eq.refl _

theorem mapped_frame (r : PostReport) : s.mapped r = { s with
    tiles := (s.mapped r).tiles, books := (s.mapped r).books, bands := (s.mapped r).bands
    intStatus := (s.mapped r).intStatus, arb := (s.mapped r).arb, taps := (s.mapped r).taps } := by
  rw [mapped_eq]
  generalize List.range 8 = l
  induction l generalizing s with
  | nil => rfl
  | cons b l ih => rw [List.foldl_cons, ih, mapBand_frame]

/-- What forms a band: its registers and its tiles. -/
def bandView (b : Nat) (s : State) : Band × (Fin 11 → Tile) := (s.band b, fun k => s.tile (11 * b + k.val))

theorem tile_of_bandView {s u : State} {b i : Nat} (h : bandView b u = bandView b s) (hi : i ∈ bandTiles b) :
    u.tile i = s.tile i := by
  obtain ⟨hlo, hhi⟩ := mem_bandTiles.1 hi
  have := congrArg (fun v => v.2 ⟨i - 11 * b, by omega⟩) h
  simpa [bandView, Nat.add_sub_cancel' hlo] using this

theorem mapForm_congr {s u : State} (r : PostReport) {b : Nat} (h : bandView b u = bandView b s) :
    u.mapForm r b = s.mapForm r b := by
  have hband : u.band b = s.band b := congrArg Prod.fst h
  rw [mapForm, mapForm, postClocked, postClocked, hband, formBand_congr r fun i hi => tile_of_bandView h hi]

theorem mapBand_view_ne (r : PostReport) {b c : Nat} (h : b ≠ c) : bandView c (s.mapBand r b) = bandView c s := by
  have htile (k : Fin 11) : (s.mapBand r b).tile (11 * c + k.val) = s.tile (11 * c + k.val) := by
    rw [mapBand_tile, foldl_mapTile_outside _ _ _ _ _ fun hk => by have := mem_bandTiles.1 hk; omega]
  simp only [bandView, mapBand_band_ne s r h, htile]

/-- A band of the map is in it with the form that it had before the others were formed. -/
theorem mapped_band (r : PostReport) (b : Fin 8) :
    ((s.mapped r).band b.val).present = !(s.mapForm r b.val).1.isEmpty ∧
      ((s.mapped r).band b.val).spare = (s.mapForm r b.val).2.map (fun t => Fin.ofNat 11 (t % 11)) ∧
      ∀ i ∈ bandTiles b.val, ((s.mapped r).tile i).active = (s.mapForm r b.val).1.contains i ∧
        ((s.mapped r).tile i).pgReq = (!(s.mapForm r b.val).1.contains i || (s.tile i).pgReq) := by
  obtain ⟨u, hu, hf⟩ := foldl_view s bandView (fun s b => s.mapBand r b)
    (fun s b c hbc => mapBand_view_ne s r hbc) _ List.nodup_range b.val (List.mem_range.2 b.isLt)
  rw [← mapped_eq] at hf
  have hform := mapForm_congr r hu
  have hband : (s.mapped r).band b.val = (u.mapBand r b.val).band b.val := congrArg Prod.fst hf
  rw [hband, mapBand_band u r b.isLt, hform]
  refine ⟨rfl, rfl, fun i hi => ?_⟩
  have hlt : i < 88 := by have := mem_bandTiles.1 hi; omega
  have htile : (s.mapped r).tile i = (u.mapBand r b.val).tile i := tile_of_bandView hf hi
  rw [htile, ← tile_of_bandView hu hi, ← hform]
  exact mapBand_role u r hi hlt

/-- Without its clocks and its FAB port a band starts with nothing. -/
theorem mapForm_up {s : State} {r : PostReport} {b : Nat} (h : (s.mapForm r b).1 ≠ []) :
    r.clocked.getLsbD b = true ∧ r.fabUp.getLsbD b = true ∧ (s.band b).cclkOut = true ∧ (s.band b).hclkOut = true := by
  unfold mapForm at h
  split at h
  case isTrue hup =>
    simp only [postClocked, Bool.and_eq_true] at hup
    obtain ⟨⟨⟨hclk, hc⟩, hh⟩, hfab⟩ := hup
    exact ⟨hclk, hfab, hc, hh⟩
  case isFalse => exact absurd rfl h

theorem mapForm_eq {s : State} {r : PostReport} {b : Nat} (hclk : r.clocked.getLsbD b = true)
    (hfab : r.fabUp.getLsbD b = true) (hc : (s.band b).cclkOut = true) (hh : (s.band b).hclkOut = true) :
    s.mapForm r b = s.formBand r b := by
  simp [mapForm, postClocked, hclk, hfab, hc, hh]

/-! ### The self-test -/

/-- The map as the self-test forms it; READY is still to come. -/
def postMap (s : State) (r : PostReport) : State := { s.booked (fun s => s.mapped r) with bootPhase := .ready }

theorem exec_selfTest {s : State} (r : PostReport) (hruns : s.mgmtRuns = true) (hphase : s.bootPhase = .selfTest) :
    exec (.powerOnSelfTestDone r) s = .next (s.postMap r).settleReady := by
  simp [exec, execPowerOnSelfTestDone, selfTested, hruns, hphase, postMap, ← mapped_eq]

theorem postMap_frame (r : PostReport) : s.postMap r = { s with
    bootPhase := .ready, tiles := (s.mapped r).tiles, books := (s.postMap r).books, bands := (s.mapped r).bands
    intStatus := (s.mapped r).intStatus, arb := (s.mapped r).arb, taps := (s.mapped r).taps } := by
  unfold postMap
  rw [booked_eq, mapped_frame]

/-- The map stands as it was formed, whether READY goes out or waits. -/
theorem postMap_settles (r : PostReport) :
    (s.postMap r).settleReady.formed.tiles = (s.mapped r).formed.tiles ∧
      (s.postMap r).settleReady.formed.roles = (s.mapped r).formed.roles := by
  unfold settleReady
  split
  · rw [startService_formed]
    exact ⟨rfl, rfl⟩
  · exact ⟨rfl, rfl⟩

end State

/-- Settles O12: the self-test forms each band's part of the map by itself (`mapped_band`) from what the band starts with
(`formBand_passes`, `formBand_takes`, `formBand_spare`, `formBand_nonempty`), and step 8 leaves it (`startService_formed`). -/
theorem selfTestFormsTheMapAndReportsReady : Obligations.SelfTestFormsTheMapAndReportsReady := by
  intro r s hruns hphase
  refine ⟨_, State.exec_selfTest r hruns hphase, ?_⟩
  obtain ⟨htiles, hroles⟩ := s.postMap_settles r
  have htile (i : Nat) : (s.postMap r).settleReady.tile i = (s.mapped r).tile i := by
    rw [State.tile, State.tile]
    exact congrArg (fun v : Vector Tile 88 => (v[i]?).getD _) htiles
  have hpresent (b : Fin 8) : ((s.postMap r).settleReady.band b.val).present = !(s.mapForm r b.val).1.isEmpty :=
    (congrArg (fun x => (x b.val).1) hroles).trans (s.mapped_band r b).1
  have hspare (b : Fin 8) : ((s.postMap r).settleReady.band b.val).spare =
      (s.mapForm r b.val).2.map (fun t => Fin.ofNat 11 (t % 11)) :=
    (congrArg (fun x => (x b.val).2) hroles).trans (s.mapped_band r b).2.1
  have hrole (b : Fin 8) := (s.mapped_band r b).2.2
  have hnil (b : Fin 8) : ((s.postMap r).settleReady.band b.val).present = true ↔ (s.mapForm r b.val).1 ≠ [] := by
    rw [hpresent]
    simp
  refine ⟨fun b hb => State.mapForm_up ((hnil b).1 hb), fun b hclk hfab hc hh => ?_, fun hv => ?_, fun hv => ?_⟩
  · have hform := State.mapForm_eq hclk hfab hc hh
    have hnil := hnil b
    have hspare := hspare b
    have hrole := hrole b
    rw [hform] at hnil hspare hrole
    have hout (i : Nat) (hi : i ∈ bandTiles b.val) (h : i ∉ (s.formBand r b.val).1) :
        ((s.postMap r).settleReady.tile i).active = false ∧ ((s.postMap r).settleReady.tile i).pgReq = true := by
      rw [htile, (hrole i hi).1, (hrole i hi).2]
      simp [h]
    have hmarked : (bandTiles b.val).countP (fun i => State.fuseBad (s.tile i)) = s.marked b.val := rfl
    dsimp only
    rw [hmarked]
    refine ⟨fun hm => ?_, fun hm => hnil.trans (State.formBand_nonempty hm), fun i hi hbad => hout i hi fun h => ?_,
      fun i hi hm hbad hfails hne => ?_, fun hm hfails => ?_⟩
    · rw [hpresent, hform, State.formBand_moreMarked hm]
      rfl
    · obtain ⟨-, hgood, hpass⟩ := State.formBand_passes h
      rcases hbad with hbad | hbad
      · rw [hgood] at hbad
        cases hbad
      · rw [hpass] at hbad
        cases hbad
    · have hin := State.formBand_takes hm hi hbad hfails hne
      rw [htile, (hrole i hi).1, (hrole i hi).2]
      simp [hin]
    · obtain ⟨hin, hsp⟩ := State.formBand_spare hm hfails
      have hi : 11 * b.val + 10 ∈ bandTiles b.val := State.mem_bandTiles.2 (by omega)
      have hten : Fin.ofNat 11 ((11 * b.val + 10) % 11) = 10 := by
        rw [Nat.mul_add_mod]
        rfl
      refine ⟨?_, ?_⟩
      · rw [htile, (hrole _ hi).1, Bool.eq_iff_iff]
        simpa using hin
      · rw [hspare, hsp]
        split
        · exact congrArg some hten
        · rfl
  · have hstart : (s.postMap r).settleReady = (s.postMap r).startService :=
      State.settleReady_due _ rfl (by rw [State.postMap_frame]; exact hv)
    have hversion : (s.postMap r).startService.fwVersion = (s.postMap r).fwVersion :=
      congrArg Formed.fwVersion (s.postMap r).startService_formed
    obtain ⟨hready, hlen⟩ := State.startService_ready (s := s.postMap r) (by rw [State.postMap_frame]; exact hv)
    obtain ⟨hvalid, hcode, hword⟩ := hready
    obtain ⟨hserves, hiff⟩ := (s.postMap r).startService_service
    have hsame (b : Fin 8) : ((s.postMap r).startService.band b.val).present = ((s.postMap r).band b.val).present :=
      congrArg (fun x : Formed => (x.roles b.val).1) (s.postMap r).startService_formed
    rw [hstart]
    simp only [hsame]
    exact ⟨congrArg Formed.readyDone (s.postMap r).startService_formed,
      congrArg Formed.bootPhase (s.postMap r).startService_formed, hserves, hiff, hvalid, hlen, hcode,
      hword.trans hversion.symm⟩
  · have hwaits : (s.postMap r).settleReady = s.postMap r :=
      State.settleReady_idle _ (.inr (by rw [State.postMap_frame]; exact hv))
    rw [hwaits, State.postMap_frame]
    exact ⟨rfl, rfl, rfl, rfl, rfl, rfl⟩

end Sys2Proof.Machine
end

section
/-!
PROOFS. The power of a tile (R320 to R322): its release, the steps of R321, the entry check and the loss of power.
-/

namespace Sys2Proof.Machine

/-- A tile that has taken its power. -/
def Tile.withPower (y : Tile) : Tile := { y with pgState := true }

/-- A tile but for its row passes. -/
def Tile.sansRows (y : Tile) : Tile := { y with rows := [] }

/-- A tile that has lost its power, in a band where no operation uses it. -/
def Tile.unpowered (y : Tile) : Tile :=
  { y.cleared with pgState := false, power := .off, active := false, lost := y.lost || y.active }

theorem Tile.unpowered_sansRows (y : Tile) : y.sansRows.unpowered = y.unpowered := rfl

/-- A stream some of whose rows a tile serves no longer; a row that no tile serves is gone. -/
def Stream.leave (i : Nat) (gone : RowCtx → Bool) (x : Stream) : Stream :=
  { x with rows := (x.rows.map (fun (r : RowCtx) =>
      if gone r then { r with tiles := r.tiles.filter (fun u => u != i) } else r)).filter (fun r => !r.tiles.isEmpty) }

/-- A suspended stream without power. -/
def Stream.dark (x : Stream) : Prop := x.suspended = true ∧ x.causes.noPower = true

namespace State

variable (s : State)

/-! ### A change of the map (R328) -/

theorem refreshBand_frame (b : Nat) : s.refreshBand b = { s with bands := (s.refreshBand b).bands } := by
  unfold refreshBand
  split <;> rfl

theorem refreshBand_svc (b c : Nat) : ((s.refreshBand b).band c).svc = (s.band c).svc := by
  unfold refreshBand
  split
  · rw [band_modBand]
    split <;> rfl
  · rfl

theorem refreshService_frame : s.refreshService =
    { s with service := s.refreshService.service, cause := s.refreshService.cause } := by
  unfold refreshService
  split
  · split <;> rfl
  · rfl

theorem reportMap_frame (b old : Nat) : s.reportMap b old = { s with
    intStatus := (s.reportMap b old).intStatus, log := (s.reportMap b old).log
    arb := (s.reportMap b old).arb, taps := (s.reportMap b old).taps } := by
  unfold reportMap
  rw [notice_frame, logHw_frame]

/-- A change of the map is the change itself, the band's place in the map, the service state and the report. -/
theorem changeMap_frame (b : Nat) (f : State → State) : s.changeMap b f = { f s with
    bands := (s.changeMap b f).bands, service := (s.changeMap b f).service, cause := (s.changeMap b f).cause
    intStatus := (s.changeMap b f).intStatus, log := (s.changeMap b f).log
    arb := (s.changeMap b f).arb, taps := (s.changeMap b f).taps } := by
  unfold changeMap
  dsimp only
  split
  · rw [refreshService_frame, refreshBand_frame]
  · rw [reportMap_frame, refreshService_frame, refreshBand_frame]

theorem changeMap_tile (b : Nat) (f : State → State) (k : Nat) : (s.changeMap b f).tile k = (f s).tile k := by
  rw [changeMap_frame]
  rfl

theorem changeMap_svc (b : Nat) (f : State → State) (c : Nat) :
    ((s.changeMap b f).band c).svc = ((f s).band c).svc := by
  have hmap : ((((f s).refreshBand b).refreshService).band c).svc = ((f s).band c).svc := by
    rw [refreshService_frame]
    exact refreshBand_svc _ _ _
  unfold changeMap
  dsimp only
  split
  · exact hmap
  · rw [reportMap_frame]
    exact hmap

theorem changeMap_kindCount (b : Nat) (f : State → State) (src code : Nat) (hd : code ≠ evLogDropped)
    (hm : code ≠ evServiceMap) : (s.changeMap b f).kindCount src code = (f s).kindCount src code := by
  have hmap : (((f s).refreshBand b).refreshService).kindCount src code = (f s).kindCount src code := by
    rw [refreshService_frame, refreshBand_frame]
    rfl
  unfold changeMap reportMap
  dsimp only
  split
  · exact hmap
  · rw [notice_kindCount, logHw_kindCount _ _ _ _ _ _ _ hd, hmap]
    simp [hm]

/-! ### The steps of a restore (R321, R349) -/

theorem restoreStep_frame (i : Nat) : s.restoreStep i =
    { s with bands := (s.restoreStep i).bands, longOps := (s.restoreStep i).longOps } := by
  unfold restoreStep
  split <;> rfl

theorem restoring_congr {s u : State} (i : Nat) (h : u.bands = s.bands) : u.restoring i = s.restoring i := by
  rw [restoring, restoring, band, band, h]

/-- A step of a restore counts once in its operation, and its DONE never falls (R282). -/
def RestoreCounts (s t : State) (i : Nat) (yes : Prop) : Prop :=
  (s.restoring i = none ∨ ¬ yes → t.longOps = s.longOps ∧ t.bands = s.bands) ∧
  (∀ o, s.restoring i = some o → yes →
    t.bands = (s.setSvc (bandOf i) (some { o with steps := o.steps + 1 })).bands ∧
    ∀ l, s.longOp? o.origin o.tag = some l →
      ∃ k, t.longOp? o.origin o.tag = some k ∧ k.done = max l.done (o.steps + 1))

theorem RestoreCounts.of_no {s t : State} {i : Nat} {yes : Prop} (hno : ¬ yes) (hl : t.longOps = s.longOps)
    (hb : t.bands = s.bands) : RestoreCounts s t i yes :=
  ⟨fun _ => ⟨hl, hb⟩, fun _ _ hyes => absurd hyes hno⟩

/-- A step that is taken from a state with the same bands and long operations counts. -/
theorem RestoreCounts.of_step {s u : State} {i : Nat} {yes : Prop} (hyes : yes) (hl : u.longOps = s.longOps)
    (hb : u.bands = s.bands) : RestoreCounts s (u.restoreStep i) i yes := by
  have hr := restoring_congr i hb
  refine ⟨fun hno => ?_, fun o ho _ => ?_⟩
  · have hnone : s.restoring i = none := hno.resolve_right (not_not_intro hyes)
    rw [restoreStep, hr, hnone]
    exact ⟨hl, hb⟩
  · rw [restoreStep, hr, ho]
    dsimp only
    refine ⟨?_, fun l hlong => ⟨{ l with done := max l.done (o.steps + 1) }, ?_, rfl⟩⟩
    · rw [modLong_bands, setSvc, setSvc, modBand, modBand, setBand, setBand, band, band, hb]
    · have hsame : (u.setSvc (bandOf i) (some { o with steps := o.steps + 1 })).longOp? o.origin o.tag = some l := by
        rw [← hlong]
        exact congrArg (List.find? _) hl
      rw [modLong_longOp _ o.origin o.tag (fun l => { l with done := max l.done (o.steps + 1) }) (fun _ => ⟨rfl, rfl⟩),
        hsame]
      exact congrArg some (if_pos (List.find?_some hlong))

@[simp] theorem modLong_band (o : Nat) (g : BitVec 16) (f : LongOp → LongOp) (b : Nat) :
    (s.modLong o g f).band b = s.band b := rfl

@[simp] theorem restoreStep_tile (i k : Nat) : (s.restoreStep i).tile k = s.tile k := by
  rw [restoreStep_frame]
  rfl

/-- The tile is in the same hands after a step of its restore. -/
theorem restoreHeld_restoreStep {i : Nat} (hi : bandOf i < 8) : (s.restoreStep i).restoreHeld i = s.restoreHeld i := by
  have hpaused : (s.restoreStep i).paused = s.paused := by rw [restoreStep_frame]; rfl
  have hsome : ((s.restoreStep i).restoring i).isSome = (s.restoring i).isSome := by
    cases ho : s.restoring i with
    | none => rw [restoreStep, ho]; exact congrArg Option.isSome ho
    | some o =>
      obtain ⟨-, hmine⟩ := Option.filter_eq_some_iff.1 ho
      have hsvc : ((s.restoreStep i).band (bandOf i)).svc = some { o with steps := o.steps + 1 } := by
        rw [restoreStep, ho]
        dsimp only
        rw [modLong_band, setSvc, modBand_band _ _ _ hi]
      rw [restoring, hsvc, Option.filter_some, if_pos hmine]
      rfl
  rw [restoreHeld, restoreHeld, hpaused, hsome]

theorem bandOf_lt (i : Fin 88) : bandOf i.val < 8 := by
  have := i.isLt
  unfold bandOf
  omega

/-- From `s` to `t` tile `i` becomes `z`, and no other tile changes. -/
def OnlyTile (s t : State) (i : Fin 88) (z : Tile) : Prop :=
  t.tile i.val = z ∧ ∀ k : Fin 88, k ≠ i → t.tile k.val = s.tile k.val

theorem OnlyTile.refl (i : Fin 88) : OnlyTile s s i (s.tile i.val) := ⟨rfl, fun _ _ => rfl⟩

theorem OnlyTile.modTile (i : Fin 88) (f : Tile → Tile) : OnlyTile s (s.modTile i.val f) i (f (s.tile i.val)) :=
  ⟨modTile_tile s _ _ i.isLt, fun _ hk => modTile_tile_ne s _ _ _ fun h => hk (Fin.ext h.symm)⟩

/-- What leaves the tiles leaves this. -/
theorem OnlyTile.congr {s t u : State} {i : Fin 88} {z : Tile} (h : OnlyTile s t i z) (hu : ∀ k, u.tile k = t.tile k) :
    OnlyTile s u i z :=
  ⟨(hu _).trans h.1, fun k hk => (hu _).trans (h.2 k hk)⟩

/-! ### Release and power (R320, R321) -/

theorem powerOff_spec (i : Fin 88) :
    s.powerOff i.val = { s with tiles := (s.powerOff i.val).tiles } ∧
      OnlyTile s (s.powerOff i.val) i (if (s.tile i.val).pgReq && (s.tile i.val).pgState then
        { s.tile i.val with pgState := false } else s.tile i.val) := by
  unfold powerOff
  dsimp only
  split
  · exact ⟨rfl, .modTile s i _⟩
  · exact ⟨rfl, .refl s i⟩

theorem modTile_modTile (i : Fin 88) (f g : Tile → Tile) :
    (s.modTile i.val f).modTile i.val g = s.modTile i.val (fun y => g (f y)) := by
  have hf : (s.modTile i.val f).tile i.val = f (s.tile i.val) := modTile_tile s _ _ i.isLt
  rw [modTile, hf]
  simp [modTile, setTile]

/-- A tile that has no power takes it; one that the block has asked for goes into reset, unless a hand-over holds its
restore. -/
theorem powered_eq (i : Fin 88) : s.powered i.val =
    if (s.tile i.val).pgState then s
    else if (s.tile i.val).pgReq then s.modTile i.val Tile.withPower
    else if s.restoreHeld i.val then (s.modTile i.val Tile.withPower).restoreStep i.val
    else (s.modTile i.val (fun y => { y.withPower with power := .resetHold })).restoreStep i.val := by
  have hreset : (s.modTile i.val Tile.withPower).modTile i.val (fun y => { y with power := .resetHold }) =
      s.modTile i.val (fun y => { y.withPower with power := .resetHold }) := modTile_modTile s i _ _
  rw [← hreset]
  rfl

theorem powered_spec (i : Fin 88) :
    let y := s.tile i.val
    s.powered i.val = { s with
      tiles := (s.powered i.val).tiles, bands := (s.powered i.val).bands, longOps := (s.powered i.val).longOps } ∧
    RestoreCounts s (s.powered i.val) i.val (y.pgState = false ∧ y.pgReq = false) ∧
    OnlyTile s (s.powered i.val) i (if y.pgState then y else if y.pgReq || s.restoreHeld i.val then { y with pgState := true }
      else { y with pgState := true, power := .resetHold }) := by
  have hstep (f : Tile → Tile) : OnlyTile s ((s.modTile i.val f).restoreStep i.val) i (f (s.tile i.val)) :=
    (OnlyTile.modTile s i f).congr fun _ => restoreStep_tile _ _ _
  have hframe (f : Tile → Tile) : (s.modTile i.val f).restoreStep i.val = { s with
      tiles := ((s.modTile i.val f).restoreStep i.val).tiles, bands := ((s.modTile i.val f).restoreStep i.val).bands
      longOps := ((s.modTile i.val f).restoreStep i.val).longOps } := by
    rw [restoreStep_frame]
    rfl
  dsimp only
  rw [powered_eq]
  by_cases hstate : (s.tile i.val).pgState = true
  · rw [if_pos hstate, if_pos hstate]
    exact ⟨rfl, .of_no (by simp [hstate]) rfl rfl, .refl s i⟩
  rw [if_neg hstate, if_neg hstate]
  by_cases hreq : (s.tile i.val).pgReq = true
  · rw [if_pos hreq, if_pos (by simp [hreq])]
    exact ⟨rfl, .of_no (by simp [hreq]) rfl rfl, .modTile s i Tile.withPower⟩
  rw [if_neg hreq]
  have hyes : (s.tile i.val).pgState = false ∧ (s.tile i.val).pgReq = false := ⟨by simpa using hstate, by simpa using hreq⟩
  by_cases hheld : s.restoreHeld i.val = true
  · rw [if_pos hheld, if_pos (by simp [hheld])]
    exact ⟨hframe _, .of_step hyes rfl rfl, hstep Tile.withPower⟩
  · rw [if_neg hheld, if_neg (by simp [hreq, hheld])]
    exact ⟨hframe _, .of_step hyes rfl rfl, hstep _⟩

/-! ### The reset of a tile (R321, R349) -/

/-- The end of a tile's reset reads management SRAM, counts as a step of its restore, and starts the entry check where no
hand-over holds that restore. -/
theorem holdExpired_spec (i : Fin 88) (h : s.holdEnds i.val = true) :
    let y := s.tile i.val
    let t := s.holdExpired i.val
    t = { s with
      tiles := t.tiles, bands := t.bands, longOps := t.longOps, fresh := s.fresh + 1, mgmtCorrected := t.mgmtCorrected
      fatal := t.fatal } ∧
    t.mgmtCorrected = (if Config.sramOutcome s.fresh = .corrected then satInc s.mgmtCorrected else s.mgmtCorrected) ∧
    t.fatal = (if Config.sramOutcome s.fresh = .uncorrectable then s.fatal ||| 4 else s.fatal) ∧
    RestoreCounts s t i.val True ∧
    OnlyTile s t i (if s.restoreHeld i.val then y else { y with power := .entryCheck }) := by
  have hread : s.sramUse.mgmtCorrected =
        (if Config.sramOutcome s.fresh = .corrected then satInc s.mgmtCorrected else s.mgmtCorrected) ∧
      s.sramUse.fatal = (if Config.sramOutcome s.fresh = .uncorrectable then s.fatal ||| 4 else s.fatal) := by
    unfold sramUse sramRead sramNext
    cases Config.sramOutcome s.fresh <;> exact ⟨rfl, rfl⟩
  let u : State := { s with
    mgmtCorrected := s.sramUse.mgmtCorrected, fatal := s.sramUse.fatal, fresh := s.fresh + 1 }
  have hu : s.sramUse = u := s.sramUse_frame
  have hheld : (u.restoreStep i.val).restoreHeld i.val = s.restoreHeld i.val :=
    restoreHeld_restoreStep u (bandOf_lt i)
  have hcounts : RestoreCounts s (u.restoreStep i.val) i.val True := .of_step trivial rfl rfl
  have honly : OnlyTile s (u.restoreStep i.val) i (s.tile i.val) := (OnlyTile.refl s i).congr fun _ => restoreStep_tile u _ _
  have hframe := u.restoreStep_frame i.val
  obtain ⟨hcor, hfatal⟩ := hread
  have hcor' : (u.restoreStep i.val).mgmtCorrected = _ := (congrArg State.mgmtCorrected hframe).trans hcor
  have hfatal' : (u.restoreStep i.val).fatal = _ := (congrArg State.fatal hframe).trans hfatal
  have hexpired : s.holdExpired i.val = if s.restoreHeld i.val then u.restoreStep i.val
      else (u.restoreStep i.val).modTile i.val (fun x => { x with power := .entryCheck }) := by
    rw [← hheld, ← hu, holdExpired, if_pos h]
  dsimp only
  rw [hexpired]
  split
  · exact ⟨by rw [restoreStep_frame], hcor', hfatal', hcounts, honly⟩
  · refine ⟨by rw [restoreStep_frame]; rfl, hcor', hfatal', hcounts, ?_⟩
    · obtain ⟨hmine, hothers⟩ := OnlyTile.modTile (u.restoreStep i.val) i (fun x => { x with power := .entryCheck })
      refine ⟨?_, fun k hk => (hothers k hk).trans (honly.2 k hk)⟩
      rw [hmine, honly.1]

/-! ### The entry check (R35, R321) -/

theorem powerBack_frame (i : Nat) : s.powerBack i = { s with
    streams := (s.powerBack i).streams, intStatus := (s.powerBack i).intStatus, arb := (s.powerBack i).arb
    taps := (s.powerBack i).taps } := by
  unfold powerBack
  exact unsuspend_frame s _ _

/-- A tile that passes its entry check joins the map as active, with the values of its last calibration (Table 15.5). -/
theorem joinMap_only (i : Fin 88) : OnlyTile s (s.joinMap i.val) i { s.tile i.val with
    power := .ready, active := true, lost := false, failed := false, calUsed := (s.tile i.val).calRecord } := by
  let joins (y : Tile) : Tile := { y with power := .ready, active := true, lost := false, failed := false }
  have htile (k : Nat) : (s.joinMap i.val).tile k = ((s.modTile i.val joins).enterService i.val).tile k := by
    rw [joinMap, powerBack_frame]
    exact changeMap_tile _ _ _ _
  have henter : (s.modTile i.val joins).enterService i.val =
      s.modTile i.val (fun y => { joins y with calUsed := y.calRecord }) := modTile_modTile s i _ _
  rw [henter] at htile
  exact (OnlyTile.modTile s i _).congr htile

/-- What the map does with a tile that fails its entry check in no operation: it is gated, and in no role. -/
def leaveFailed (i : Nat) (s : State) : State :=
  ((s.gate i).setActive i false).modTile i (fun x => { x with failed := true })

theorem leaveFailed_tiles (i : Fin 88) : (leaveFailed i.val s).tiles = (s.modTile i.val (fun y =>
    { y.cleared with power := .off, pgReq := true, active := false, failed := true })).tiles := by
  let gates (y : Tile) : Tile := { y.cleared with pgReq := true, power := .off }
  have h := congrArg State.tiles (modTile_modTile s i gates (fun y => { y with active := false, failed := true }))
  have h2 := congrArg State.tiles (modTile_modTile (s.modTile i.val gates) i (fun y => { y with active := false })
    (fun y => { y with failed := true }))
  exact h2.trans h

theorem leaveFailed_taps (i : Nat) : (leaveFailed i s).taps = s.taps := by
  rw [leaveFailed, modTile_taps, setActive, modTile_taps, gate, booked_taps, modTile_taps]

theorem kindCount_congr {s t : State} (h : t.taps = s.taps) (src code : Nat) : t.kindCount src code = s.kindCount src code := by
  rw [kindCount, kindCount, tapOf, tapOf, h]

/-- In a band without a service operation the tile was powered for the map. -/
theorem entryChecked_pass {s : State} {i : Nat} (h : (s.band (bandOf i)).svc = none) :
    s.entryChecked i true = s.joinMap i := by
  unfold entryChecked
  extract_lets b ready role old back
  have hrole : role = none := by simp only [role, b, h]
  have hold : old = false := by simp only [old, b, h]
  rw [hrole, hold]
  rfl

theorem entryChecked_fail {s : State} {i : Nat} (h : (s.band (bandOf i)).svc = none) :
    s.entryChecked i false = (s.testFail i 0 0).changeMap (bandOf i) (leaveFailed i) := by
  unfold entryChecked
  extract_lets b ready role old back
  have hrole : role = none := by simp only [role, b, h]
  rw [hrole]
  rfl

theorem entryChecked_fail_only {s : State} {i : Fin 88} (h : (s.band (bandOf i.val)).svc = none) :
    OnlyTile s (s.entryChecked i.val false) i { (s.tile i.val).cleared with
      power := .off, pgReq := true, active := false, failed := true } := by
  let fails (y : Tile) : Tile := { y.cleared with power := .off, pgReq := true, active := false, failed := true }
  have htest : (s.testFail i.val 0 0).tiles = s.tiles := by rw [testFail, report_tiles]
  rw [entryChecked_fail h]
  refine (OnlyTile.modTile s i fails).congr fun k => ?_
  rw [changeMap_tile, tile, leaveFailed_tiles, modTile, setTile, tile, htest]
  rfl

theorem entryChecked_fail_counts {s : State} {i : Nat} (h : (s.band (bandOf i)).svc = none) :
    (s.entryChecked i false).kindCount srcMgmt evTileTestFail = satInc (s.kindCount srcMgmt evTileTestFail) := by
  rw [entryChecked_fail h, changeMap_kindCount _ _ _ _ _ (by decide) (by decide), kindCount_congr (leaveFailed_taps _ _), testFail,
    report_kindCount]
  simp

theorem exec_entryCheck {s : State} {i : Fin 88} (hruns : s.mgmtRuns = true) (hp : (s.tile i.val).power = .entryCheck)
    (hc : s.cclkRuns (bandOf i.val) = true) (pass : Bool) :
    exec (.tileEntryCheckDone i pass) s = .next (s.entryChecked i.val pass) := by
  simp [exec, execTileEntryCheckDone, hruns, checkDone, hp, hc]

/-! ### What is only reported -/

/-- From `s` to `t` something has been reported, and nothing else has changed. -/
def Told (s t : State) : Prop := t = { s with intStatus := t.intStatus, arb := t.arb, taps := t.taps }

theorem Told.refl : Told s s := rfl

theorem Told.trans {s t u : State} (h : Told s t) (g : Told t u) : Told s u := by
  unfold Told at h g ⊢
  rw [g, h]

theorem Told.report (src code : Nat) (p : Nat → Nat) : Told s (s.report src code p) := report_frame s src code p

theorem Told.foldl {α : Type} (f : State → α → State) (h : ∀ s a, Told s (f s a)) (l : List α) : Told s (l.foldl f s) := by
  induction l generalizing s with
  | nil => exact .refl s
  | cons a l ih => exact (h s a).trans (ih _)

/-! ### Streams found by their ids -/

/-- A change of a stream under its own id finds the same streams. -/
theorem modStream_stream (sid n : Nat) (f : Stream → Stream) (hf : ∀ x, (f x).sid = x.sid) :
    (s.modStream sid f).stream? n = (s.stream? n).map (fun x => if x.sid == sid then f x else x) := by
  unfold stream? modStream
  rw [List.find?_map]
  congr 2
  funext x
  simp only [Function.comp]
  split <;> simp [hf]

theorem sid_of_stream {s : State} {n : Nat} {x : Stream} (h : s.stream? n = some x) : x.sid = n := by
  simpa using List.find?_some h

/-- Without a second stream of its id, a stream is the one that its id finds. -/
theorem stream_of_mem {s : State} (hids : (s.streams.map (fun x => x.sid)).Nodup) {x : Stream} (h : x ∈ s.streams) :
    s.stream? x.sid = some x := by
  unfold stream?
  generalize s.streams = l at hids h
  induction l with
  | nil => cases h
  | cons y l ih =>
    rw [List.map_cons, List.nodup_cons] at hids
    rcases List.mem_cons.1 h with rfl | hmem
    · simp
    · have hne : y.sid ≠ x.sid := fun heq => hids.1 (heq ▸ List.mem_map_of_mem hmem)
      rw [List.find?_cons_of_neg (by simpa using hne)]
      exact ih hids.2 hmem

/-! ### Power lost (R322, R374) -/

theorem Told.reportLoss (i : Nat) : Told s (s.reportLoss i) := by
  unfold State.reportLoss
  dsimp only
  split
  · exact .report s _ _ _
  · refine .foldl s _ (fun s x => ?_) _
    split
    · exact .report s _ _ _
    · exact .foldl s _ (fun s row => .report s _ _ _) _

/-- What the loss of tile `i` does to one stream with a context there. -/
def loseTile (i : Nat) (s : State) (y : Stream) : State :=
  if y.tiles.contains i then (s.loseRows i y.sid).suspend y.sid (fun c => { c with noPower := true })
  else s.loseRows i y.sid

theorem loseTile_frame (i : Nat) (y : Stream) : loseTile i s y = { s with
    tiles := (loseTile i s y).tiles, streams := (loseTile i s y).streams, books := (loseTile i s y).books } := by
  unfold loseTile
  split <;> rfl

theorem loseRows_streams (i sid : Nat) : (s.loseRows i sid).streams =
    (s.modStream sid (Stream.leave i (fun r => (s.heldRows i sid).contains r.row))).streams := rfl

theorem loseRows_stream (i sid n : Nat) {x : Stream} (h : s.stream? n = some x) :
    ∃ rows, (s.loseRows i sid).stream? n = some { x with rows := rows } := by
  have hleave := s.modStream_stream sid n (Stream.leave i (fun r => (s.heldRows i sid).contains r.row)) fun _ => rfl
  rw [stream?] at hleave
  rw [stream?, loseRows_streams, hleave, h, Option.map_some]
  split
  · exact ⟨_, rfl⟩
  · exact ⟨x.rows, rfl⟩

theorem loseTile_stream (i n : Nat) (y : Stream) {x : Stream} (h : s.stream? n = some x) :
    ∃ z, (loseTile i s y).stream? n = some z ∧ z.closing = x.closing ∧
      (x.dark ∨ y.sid = n ∧ i ∈ y.tiles → z.dark) := by
  obtain ⟨rows, hrows⟩ := s.loseRows_stream i y.sid n h
  have hsid := sid_of_stream h
  unfold loseTile
  split
  case isTrue hserves =>
    rw [suspend, modStream_stream _ _ _ _ fun x => by dsimp only; split <;> rfl, hrows, Option.map_some]
    by_cases hy : x.sid = y.sid
    · simp only [hy, beq_self_eq_true, if_true]
      refine ⟨_, rfl, ?_, fun _ => ?_⟩
      · split <;> rfl
      · constructor
        · split
          · assumption
          · rfl
        · rfl
    · simp only [beq_iff_eq, hy, if_false]
      refine ⟨_, rfl, rfl, fun hd => ?_⟩
      rcases hd with hd | ⟨hd, -⟩
      · exact hd
      · exact absurd (hsid.trans hd.symm) hy
  case isFalse hserves =>
    refine ⟨_, hrows, rfl, fun hd => ?_⟩
    rcases hd with hd | ⟨-, hd⟩
    · exact hd
    · exact absurd (List.contains_iff_mem.2 hd) hserves

/-- The streams of a lost tile that it serves are suspended; none closes. -/
theorem foldl_loseTile_stream (i n : Nat) (l : List Stream) {x : Stream} (h : s.stream? n = some x) :
    ∃ z, (l.foldl (loseTile i) s).stream? n = some z ∧ z.closing = x.closing ∧
      (x.dark ∨ (∃ y ∈ l, y.sid = n ∧ i ∈ y.tiles) → z.dark) := by
  induction l generalizing s x with
  | nil => exact ⟨x, h, rfl, fun hd => hd.resolve_right (by simp)⟩
  | cons y l ih =>
    obtain ⟨z, hz, hclose, hdark⟩ := s.loseTile_stream i n y h
    obtain ⟨w, hw, hclose', hdark'⟩ := ih _ hz
    refine ⟨w, hw, hclose'.trans hclose, fun hd => hdark' ?_⟩
    rcases hd with hd | ⟨v, hv, hd⟩
    · exact .inl (hdark (.inl hd))
    · rcases List.mem_cons.1 hv with rfl | hmem
      · exact .inl (hdark (.inr hd))
      · exact .inr ⟨v, hmem, hd⟩

theorem loseTile_tile (i k : Nat) (y : Stream) :
    ((loseTile i s y).tile k).sansRows = (s.tile k).sansRows ∧
      ((s.tile k).rows = [] → ((loseTile i s y).tile k).rows = []) := by
  have hrows : ((s.loseRows i y.sid).tile k).sansRows = (s.tile k).sansRows ∧
      ((s.tile k).rows = [] → ((s.loseRows i y.sid).tile k).rows = []) := by
    unfold loseRows
    dsimp only
    simp only [tile, leaveRows, booked_tiles, modStream_tiles, Vector.getElem?_map]
    cases s.tiles[k]? with
    | none => exact ⟨rfl, fun h => h⟩
    | some x => exact ⟨rfl, fun h => by simpa using h⟩
  unfold loseTile
  split
  · exact hrows
  · exact hrows

theorem foldl_loseTile_tile (i k : Nat) (l : List Stream) :
    ((l.foldl (loseTile i) s).tile k).sansRows = (s.tile k).sansRows ∧
      ((s.tile k).rows = [] → ((l.foldl (loseTile i) s).tile k).rows = []) := by
  induction l generalizing s with
  | nil => exact ⟨rfl, id⟩
  | cons y l ih =>
    obtain ⟨hsame, hrows⟩ := s.loseTile_tile i k y
    obtain ⟨hsame', hrows'⟩ := ih (loseTile i s y)
    exact ⟨hsame'.trans hsame, hrows' ∘ hrows⟩

theorem foldl_loseTile_frame (i : Nat) (l : List Stream) : l.foldl (loseTile i) s = { s with
    tiles := (l.foldl (loseTile i) s).tiles, streams := (l.foldl (loseTile i) s).streams
    books := (l.foldl (loseTile i) s).books } := by
  induction l generalizing s with
  | nil => rfl
  | cons y l ih => rw [List.foldl_cons, ih, loseTile_frame]

/-- A tile that has lost its power. -/
def goDark (i : Nat) (serves : Bool) (s : State) : State :=
  s.booked (fun s => s.modTile i (fun x =>
    { x.cleared with pgState := false, power := .off, active := false, lost := x.lost || x.active || serves }))

/-- What is left of a lost tile's streams, once they are told and suspended. -/
def lossTold (s : State) (i : Nat) : State := (s.streamsOn i).foldl (loseTile i) ((s.reportLoss i).setFatal fatalPower)

/-- The lost tile is out of the map. -/
def lossMapped (s : State) (i : Nat) : State :=
  (s.lossTold i).changeMap (bandOf i) (goDark i ((s.lossTold i).receiving i))

theorem powerLost_eq {s : State} {i : Nat} (hreq : (s.tile i).pgReq = false) (hstate : (s.tile i).pgState = true) :
    s.powerLost i = (((s.streamsOn i).foldl (fun s y => (s.settleTiles y.allTiles).finishClose y.sid)
      ((s.lossMapped i).restoreAnew i)).drainSlots).svcSettle (bandOf i) := by
  have hhas : ¬ (((s.tile i).pgReq || !(s.tile i).pgState) = true) := by simp [hreq, hstate]
  exact if_neg hhas

theorem settleTiles_idle (l : List Nat) (h : ∀ k ∈ l, (s.tile k).rows = [] ∧ (s.tile k).blocks = []) :
    s.settleTiles l = s := by
  induction l with
  | nil => rfl
  | cons k l ih =>
    obtain ⟨hrows, hblocks⟩ := h k List.mem_cons_self
    have hfirst := s.settleTile_idle k hrows hblocks
    rw [settleTiles, List.foldl_cons, hfirst]
    exact ih fun u hu => h u (List.mem_cons_of_mem _ hu)

theorem finishClose_open {s : State} {n : Nat} {x : Stream} (h : s.stream? n = some x) (hopen : x.closing = false) :
    s.finishClose n = s := by
  simp [finishClose, h, hopen]

theorem svcSettle_none {s : State} {b : Nat} (h : (s.band b).svc = none) : s.svcSettle b = s := by
  simp [svcSettle, h]

theorem restoreAnew_none {s : State} {i : Nat} (h : (s.band (bandOf i)).svc = none) : s.restoreAnew i = s := by
  simp [restoreAnew, restoring, h]

theorem receiving_none {s : State} {i : Nat} (h : (s.band (bandOf i)).svc = none) : s.receiving i = false := by
  simp [receiving, h]

theorem lossTold_frame (i : Nat) : s.lossTold i = { s with
    tiles := (s.lossTold i).tiles, streams := (s.lossTold i).streams, books := (s.lossTold i).books
    fatal := s.fatal ||| 0x00000001, intStatus := (s.reportLoss i).intStatus, arb := (s.reportLoss i).arb
    taps := (s.reportLoss i).taps } := by
  unfold lossTold
  rw [foldl_loseTile_frame]
  have htold : s.reportLoss i = _ := Told.reportLoss s i
  rw [htold]
  rfl

theorem lossTold_svc (i b : Nat) : ((s.lossTold i).band b).svc = (s.band b).svc := by
  rw [lossTold_frame]
  rfl

/-- Nothing but the rows that the tile held is touched before it leaves the map. -/
theorem lossTold_tile (i k : Nat) : ((s.lossTold i).tile k).sansRows = (s.tile k).sansRows ∧
    ((s.tile k).rows = [] → ((s.lossTold i).tile k).rows = []) := by
  have htile : ((s.reportLoss i).setFatal fatalPower).tile k = s.tile k := by
    have htold : s.reportLoss i = _ := Told.reportLoss s i
    rw [setFatal_tile, htold]
    rfl
  rw [← htile]
  exact foldl_loseTile_tile _ i k _

theorem lossTold_stream (i n : Nat) {x : Stream} (h : s.stream? n = some x) :
    ∃ z, (s.lossTold i).stream? n = some z ∧ z.closing = x.closing ∧
      ((∃ y ∈ s.streamsOn i, y.sid = n ∧ i ∈ y.tiles) → z.dark) := by
  have hstart : ((s.reportLoss i).setFatal fatalPower).stream? n = some x := by
    have htold : s.reportLoss i = _ := Told.reportLoss s i
    rw [htold]
    exact h
  obtain ⟨z, hz, hclose, hdark⟩ := foldl_loseTile_stream _ i n (s.streamsOn i) hstart
  exact ⟨z, hz, hclose, fun hd => hdark (.inr hd)⟩

theorem lossMapped_tile_ne {i k : Nat} (h : i ≠ k) : (s.lossMapped i).tile k = (s.lossTold i).tile k := by
  rw [lossMapped, changeMap_tile, goDark, booked_tile, modTile_tile_ne _ _ _ _ h]

theorem lossMapped_tile {s : State} {i : Fin 88} (hsvc : (s.band (bandOf i.val)).svc = none) :
    (s.lossMapped i.val).tile i.val = (s.tile i.val).unpowered := by
  have hsame := congrArg Tile.unpowered (s.lossTold_tile i.val i.val).1
  rw [Tile.unpowered_sansRows, Tile.unpowered_sansRows] at hsame
  have hserves : (s.lossTold i.val).receiving i.val = false := receiving_none ((s.lossTold_svc _ _).trans hsvc)
  rw [lossMapped, changeMap_tile, hserves, goDark, booked_tile, modTile_tile _ _ _ i.isLt]
  simp only [Bool.or_false]
  exact hsame

theorem lossMapped_streams (i : Nat) : (s.lossMapped i).streams = (s.lossTold i).streams := by
  rw [lossMapped, changeMap_frame]
  rfl

theorem lossMapped_svc (i b : Nat) : ((s.lossMapped i).band b).svc = (s.band b).svc := by
  rw [lossMapped, changeMap_svc]
  exact s.lossTold_svc i b

/-- Streams none of which closes, and which have nothing to go on with, stay as they are. -/
theorem settleStreams_idle (l : List Stream) (h : ∀ x ∈ l,
    (∀ k ∈ x.allTiles, (s.tile k).rows = [] ∧ (s.tile k).blocks = []) ∧ ∃ z, s.stream? x.sid = some z ∧ z.closing = false) :
    l.foldl (fun s y => (s.settleTiles y.allTiles).finishClose y.sid) s = s := by
  induction l with
  | nil => rfl
  | cons x l ih =>
    obtain ⟨hidle, z, hz, hopen⟩ := h x List.mem_cons_self
    rw [List.foldl_cons, settleTiles_idle s _ hidle, finishClose_open hz hopen]
    exact ih fun y hy => h y (List.mem_cons_of_mem _ hy)

/-- In a band without a service operation, of whose streams none closes or has rows under way, the loss of a tile's power is
told, takes the tile out of the map, and frees what nothing holds any more. -/
theorem powerLost_idle {s : State} {i : Fin 88} (hreq : (s.tile i.val).pgReq = false)
    (hstate : (s.tile i.val).pgState = true) (hsvc : (s.band (bandOf i.val)).svc = none)
    (hids : (s.streams.map (fun x => x.sid)).Nodup)
    (hidle : ∀ x ∈ s.streamsOn i.val, x.closing = false ∧ ∀ u ∈ x.allTiles, (s.tile u).rows = [] ∧ (s.tile u).blocks = []) :
    s.powerLost i.val = (s.lossMapped i.val).drainSlots := by
  have hnone : ((s.lossMapped i.val).band (bandOf i.val)).svc = none := (s.lossMapped_svc _ _).trans hsvc
  have hfold := settleStreams_idle (s.lossMapped i.val) (s.streamsOn i.val) fun x hx => by
    obtain ⟨hopen, htiles⟩ := hidle x hx
    constructor
    · intro k hk
      obtain ⟨hrows, hblocks⟩ := htiles k hk
      by_cases hik : i.val = k
      · subst hik
        rw [lossMapped_tile hsvc]
        exact ⟨rfl, rfl⟩
      · obtain ⟨hsame, hnil⟩ := s.lossTold_tile i.val k
        have hkept := congrArg Tile.blocks hsame
        rw [lossMapped_tile_ne s hik]
        exact ⟨hnil hrows, hkept.trans hblocks⟩
    · have hx := stream_of_mem hids (List.mem_of_mem_filter hx)
      obtain ⟨z, hz, hclose, -⟩ := s.lossTold_stream i.val x.sid hx
      refine ⟨z, ?_, hclose.trans hopen⟩
      rw [stream?, lossMapped_streams]
      exact hz
  rw [powerLost_eq hreq hstate, restoreAnew_none hnone, hfold]
  exact svcSettle_none hnone

/-- A tile that serves no stream is one finding of its loss. -/
theorem lossMapped_counts {s : State} {i : Nat} (h : s.streamsOn i = []) :
    (s.lossMapped i).kindCount srcMgmt evTilePowerLost = satInc (s.kindCount srcMgmt evTilePowerLost) := by
  have htold : (s.lossTold i).taps = (s.reportLoss i).taps := by rw [lossTold_frame]
  have hdark (serves : Bool) (u : State) : (goDark i serves u).taps = u.taps := by
    rw [goDark, booked_taps, modTile_taps]
  rw [lossMapped, changeMap_kindCount _ _ _ _ _ (by decide) (by decide), kindCount_congr (hdark _ _),
    kindCount_congr htold, reportLoss]
  dsimp only
  rw [h, List.isEmpty_nil, if_pos rfl, report_kindCount]
  simp

theorem drainSlots_frame : s.drainSlots = { s with slots := s.drainSlots.slots } := rfl

end State

/-- Settles O52, signal by signal: `powerOff_spec`, `powered_spec`, `holdExpired_spec`, `joinMap_only`,
`entryChecked_fail_only`, and `powerLost_idle` for the loss. -/
theorem tilePowerFollowsItsSteps : Obligations.TilePowerFollowsItsSteps := by
  intro i s hruns
  refine ⟨?_, ?_, fun hp hout hclk hstep => ?_, fun hpaused hsteps => ?_, fun hclk pass => ?_, fun hp hclk hsvc => ⟨?_, ?_⟩,
    fun hoff => ?_, fun hreq hstate hsvc hids hidle => ?_⟩
  · obtain ⟨hframe, honly⟩ := s.powerOff_spec i
    exact ⟨_, by simp [exec, execTilePowerOff, hruns], hframe, honly⟩
  · obtain ⟨hframe, hcounts, honly⟩ := s.powered_spec i
    exact ⟨_, by simp [exec, execTilePowered, hruns], hframe, hcounts, honly⟩
  · have hends : s.holdEnds i.val = true := by
      simp only [State.holdEnds, State.cclkRuns, hp, hout, hclk]
      rcases hstep with hstep | hstep
      · simp [hstep]
      · simp [hstep]
    obtain ⟨hframe, hcor, hfatal, hcounts, honly⟩ := s.holdExpired_spec i hends
    exact ⟨_, by simp [exec, execTileResetHoldExpiry, hruns], hframe, hcor, hfatal, hcounts, honly⟩
  · have hends : s.holdEnds i.val = false := by simp [State.holdEnds, hpaused, hsteps]
    simp [exec, execTileResetHoldExpiry, hruns, State.holdExpired, hends]
  · simp [exec, execTileEntryCheckDone, hruns, State.checkDone, hclk]
  · refine ⟨_, State.exec_entryCheck hruns hp hclk true, ?_⟩
    rw [State.entryChecked_pass hsvc]
    exact s.joinMap_only i
  · exact ⟨_, State.exec_entryCheck hruns hp hclk false, State.entryChecked_fail_only hsvc,
      State.entryChecked_fail_counts hsvc⟩
  · have hnot : ((s.tile i.val).pgReq || !(s.tile i.val).pgState) = true := by simpa using hoff
    simp [exec, execTilePowerLost, hruns, State.powerLost, hnot]
  · have hexec : exec (.tilePowerLost i) s = .next (s.lossMapped i.val).drainSlots := by
      rw [← State.powerLost_idle hreq hstate hsvc hids hidle]
      simp [exec, execTilePowerLost, hruns]
    refine ⟨_, hexec, ?_⟩
    rw [State.drainSlots_frame]
    refine ⟨State.lossMapped_tile hsvc, ?_, State.lossMapped_counts, fun x hx hserves => ?_⟩
    · have hfatal : (s.lossMapped i.val).fatal = (s.lossTold i.val).fatal := by
        rw [State.lossMapped, State.changeMap_frame]
        rfl
      rw [hfatal, State.lossTold_frame]
    · obtain ⟨z, hz, -, hdark⟩ := s.lossTold_stream i.val x.sid (State.stream_of_mem hids (List.mem_of_mem_filter hx))
      refine ⟨z, ?_, hdark ⟨x, hx, rfl, hserves⟩⟩
      rw [State.stream?, State.lossMapped_streams]
      exact hz

end Sys2Proof.Machine
end

section
/-!
PROOFS. The beats of ACC_IN (R288 to R292, R415, R417): what the port changes, and the cases of R417.
-/

namespace Sys2Proof.Machine

/-! ### The row passes that the port sees -/

theorem Tile.openPass_sid (y : Tile) (sid : Nat) : (y.openPass sid).sid = sid := by
  unfold Tile.openPass
  cases h : y.openPasses.find? (fun o => o.sid == sid) with
  | none => rfl
  | some o => simpa using List.find?_some h

@[simp] theorem Tile.setOpen_queue (y : Tile) (o : OpenPass) : (y.setOpen o).queue = y.queue := rfl

theorem Tile.setOpen_openPass (y : Tile) (o : OpenPass) (k : Nat) :
    (y.setOpen o).openPass k = if o.sid = k then o else y.openPass k := by
  unfold Tile.openPass Tile.setOpen
  dsimp only
  by_cases h : o.sid = k
  · simp [h]
  · have hkept : (y.openPasses.filter (fun p => p.sid != o.sid)).find? (fun p => p.sid == k) =
        y.openPasses.find? (fun p => p.sid == k) := by
      rw [List.find?_filter]
      congr 1
      funext p
      by_cases hp : p.sid = k
      · simp [hp, Ne.symm h]
      · simp [hp]
    simp [h, hkept]

namespace State

variable (s : State)

/-! ### What the books count -/

/-- What the tiles hold under a measure that the change keeps. -/
theorem modTile_map {α : Type} (g : Tile → α) (t : Nat) (f : Tile → Tile) (h : g (f (s.tile t)) = g (s.tile t)) :
    (s.modTile t f).tiles.map g = s.tiles.map g := by
  ext k hk
  rw [Vector.getElem_map, Vector.getElem_map]
  by_cases htk : t = k
  · subst htk
    have htile : s.tile t = s.tiles[t] := by simp [tile, hk]
    simpa [modTile, setTile, htile] using h
  · simp [modTile, setTile, htk]

theorem modTile_tile_map {α : Type} (g : Tile → α) (t : Nat) (f : Tile → Tile) (h : g (f (s.tile t)) = g (s.tile t)) (k : Nat) :
    g ((s.modTile t f).tile k) = g (s.tile k) := by
  by_cases htk : t = k
  · subst htk
    by_cases ht : t < 88
    · rw [modTile_tile s t f ht, h]
    · simp [modTile, setTile, tile, ht]
  · rw [modTile_tile_ne s t k f htk]

/-- A tile that keeps its beats, banks, row passes and XEV requests counts the same (R387). -/
theorem modTile_inUse (t : Nat) (f : Tile → Tile)
    (hbeats : (f (s.tile t)).queue.countP (fun q => q.isBeat) = (s.tile t).queue.countP (fun q => q.isBeat))
    (hunits : (f (s.tile t)).units = (s.tile t).units) (hrows : (f (s.tile t)).rows = (s.tile t).rows)
    (hxev : (f (s.tile t)).xevBuf = (s.tile t).xevBuf) : (s.modTile t f).inUse = s.inUse := by
  have hpass (k sid row pass : Nat) : ((s.modTile t f).tile k).pass? sid row pass = (s.tile k).pass? sid row pass := by
    rw [Tile.pass?, Tile.pass?, s.modTile_tile_map Tile.rows t f hrows k]
  have hrowPasses : (s.modTile t f).rowPassCount = s.rowPassCount := by
    funext sid r
    simp only [rowPassCount, hpass]
  have hcount (p : Chain → Bool) : (s.modTile t f).passesWith p = s.passesWith p := by
    rw [passesWith, passesWith, hrowPasses]
    rfl
  have hholds (i : Nat) : (s.modTile t f).xevHolds i = s.xevHolds i := by
    have hlist := congrArg Vector.toList (s.modTile_map Tile.xevBuf t f hxev)
    rw [Vector.toList_map, Vector.toList_map] at hlist
    rw [xevHolds, xevHolds, List.flatMap_def, List.flatMap_def, hlist]
  have hskid := congrArg Vector.toList (s.modTile_map (fun y => y.queue.countP (fun q => q.isBeat)) t f hbeats)
  rw [Vector.toList_map, Vector.toList_map] at hskid
  have htaken (k : Nat) : (s.modTile t f).unitsTaken k = s.unitsTaken k := by
    rw [unitsTaken, unitsTaken, s.modTile_tile_map Tile.units t f hunits k]
    rfl
  have hslot (i : Nat) : (s.modTile t f).slotRefs i = s.slotRefs i := by
    rw [slotRefs, slotRefs, hcount, hholds]
    rfl
  have hchain (id : Nat) : (s.modTile t f).chainRefs id = s.chainRefs id := by
    rw [chainRefs, chainRefs, hcount]
    rfl
  have hnamed : (s.modTile t f).chainsNamed = s.chainsNamed := rfl
  simp only [inUse, hskid, funext htaken, funext hslot, hnamed, hchain]
  rfl

/-! ### Steps of the port -/

theorem enqueue_tile {t : Nat} (ht : t < 88) (q : QEntry) :
    (s.enqueue t q).tile t = { s.tile t with queue := (s.tile t).queue ++ [q] } := by
  rw [enqueue, booked_tile, modTile_tile _ _ _ ht]

/-- A mark takes no place in the queue (R387). -/
theorem enqueue_mark (t : Nat) (q : QEntry) (h : q.isBeat = false) : (s.enqueue t q).books = s.books := by
  refine booked_books_of_inUse s _ (s.modTile_inUse t _ ?_ rfl rfl rfl)
  simp [h]

/-- From `s` to `t` the port of tile `i` has taken or turned away a beat of stream `sid`: the tile's queue and that stream's
row pass there, the stream's rows with the versions they read, the books and reports are all that changes. -/
structure PortStep (i : Fin 88) (sid : Nat) (s t : State) : Prop where
  frame : t = { s with tiles := t.tiles, streams := t.streams, chains := t.chains, slots := t.slots, books := t.books
                       taps := t.taps, arb := t.arb, intStatus := t.intStatus }
  others : ∀ k : Fin 88, k ≠ i → t.tile k.val = s.tile k.val
  mine : t.tile i.val = { s.tile i.val with queue := (t.tile i.val).queue, openPasses := (t.tile i.val).openPasses }
  passes : ∀ k, k ≠ sid → (t.tile i.val).openPass k = (s.tile i.val).openPass k

theorem PortStep.trans {i : Fin 88} {sid : Nat} {s t u : State} (h : PortStep i sid s t) (g : PortStep i sid t u) :
    PortStep i sid s u where
  frame := by
    have hf := h.frame
    have gf := g.frame
    rw [gf, hf]
  others k hk := (g.others k hk).trans (h.others k hk)
  mine := by
    have hm := h.mine
    have gm := g.mine
    rw [gm, hm]
  passes k hk := (g.passes k hk).trans (h.passes k hk)

theorem PortStep.of_told {i : Fin 88} {sid : Nat} {s t : State} (h : Told s t) : PortStep i sid s t := by
  have htile (k : Nat) : t.tile k = s.tile k := by
    rw [h]
    rfl
  exact ⟨by rw [h], fun k _ => htile k.val, by rw [htile], fun k _ => by rw [htile]⟩

theorem PortStep.finding (i : Fin 88) (sid code port n row : Nat) : PortStep i sid s (s.portFinding i.val code port n row) :=
  .of_told (.report s _ _ _)

theorem PortStep.enqueue (i : Fin 88) (sid : Nat) (q : QEntry) : PortStep i sid s (s.enqueue i.val q) where
  frame := rfl
  others k hk := by rw [State.enqueue, booked_tile, modTile_tile_ne s _ _ _ fun h => hk (Fin.ext h.symm)]
  mine := by rw [enqueue_tile s i.isLt]
  passes k _ := by rw [enqueue_tile s i.isLt]; rfl

theorem PortStep.setOpen (i : Fin 88) (o : OpenPass) : PortStep i o.sid s (s.modTile i.val (fun y => y.setOpen o)) where
  frame := rfl
  others k hk := modTile_tile_ne s _ _ _ fun h => hk (Fin.ext h.symm)
  mine := by
    rw [modTile_tile s _ _ i.isLt]
    rfl
  passes k hk := by rw [modTile_tile s _ _ i.isLt, Tile.setOpen_openPass, if_neg (Ne.symm hk)]

theorem prune_frame : s.prune = { s with chains := s.prune.chains, slots := s.prune.slots, books := s.prune.books } := rfl

theorem openRow_frame (x : Stream) (row : Nat) : s.openRow x row = { s with
    streams := (s.openRow x row).streams, chains := (s.openRow x row).chains, slots := (s.openRow x row).slots
    books := (s.openRow x row).books } := by
  unfold openRow
  split
  · rfl
  split
  · rfl
  · rw [prune_frame]
    rfl

theorem openRow_tile (x : Stream) (row k : Nat) : (s.openRow x row).tile k = s.tile k := by
  rw [openRow_frame]
  rfl

theorem PortStep.openRow (i : Fin 88) (sid : Nat) (x : Stream) (row : Nat) : PortStep i sid s (s.openRow x row) where
  frame := by rw [openRow_frame]
  others k _ := openRow_tile s x row k.val
  mine := by rw [openRow_tile]
  passes k _ := by rw [openRow_tile]

/-! ### What the steps of the port tell and leave -/

@[simp] theorem enqueue_kindCount (t : Nat) (q : QEntry) (src code : Nat) :
    (s.enqueue t q).kindCount src code = s.kindCount src code := kindCount_congr rfl src code

@[simp] theorem modTile_kindCount (t : Nat) (f : Tile → Tile) (src code : Nat) :
    (s.modTile t f).kindCount src code = s.kindCount src code := kindCount_congr rfl src code

@[simp] theorem openRow_kindCount (x : Stream) (row : Nat) (src code : Nat) :
    (s.openRow x row).kindCount src code = s.kindCount src code :=
  kindCount_congr (by rw [openRow_frame]) src code

theorem portFinding_kindCount (t code port sid row src k : Nat) : (s.portFinding t code port sid row).kindCount src k =
    if src = t ∧ k = code then satInc (s.kindCount t code) else s.kindCount src k :=
  report_kindCount s _ _ _ _ _

@[simp] theorem portFinding_tile (t code port sid row k : Nat) : (s.portFinding t code port sid row).tile k = s.tile k :=
  report_tile s _ _ _ k

theorem portFinding_told (t code port sid row : Nat) : Told s (s.portFinding t code port sid row) := .report s _ _ _

/-- The versions by which a row's beats are judged are those of the chains, the slots and the stream. -/
theorem chainFor_congr {s u : State} (hc : u.chains = s.chains) (hs : u.slots = s.slots) (x : Stream) (row : Nat) :
    u.chainFor x row = s.chainFor x row := by
  simp only [chainFor, rowVersion, chain?, versions, tablesNow, hc, hs]

/-! ### Cases 5 to 8 of R417 -/

/-- A beat of another row or pass, or with no or too many elements (cases 5 and 6). -/
abbrev alien (c : Chain) (o : OpenPass) (b : AccBeat) : Prop :=
  b.row.toNat ≠ o.row ∨ b.pass.toNat ≠ o.pass ∨ b.nel.toNat = 0 ∨ c.beatElems o.pass < b.nel.toNat

/-- A beat that is short before the last (case 7). -/
abbrev short (c : Chain) (o : OpenPass) (b : AccBeat) : Prop := b.nel.toNat < c.beatElems o.pass ∧ b.last = false

/-- The elements of a beat that keep the limits. -/
abbrev useOf (x : Stream) (c : Chain) (o : OpenPass) (b : AccBeat) : Nat :=
  if alien c o b then 0 else if short c o b then b.nel.toNat
  else min b.nel.toNat (min (x.desc.shr.getD (o.pass - 1) 0 - o.count) (o.len - (o.col0 + o.count)))

/-- A share that begins or ends inside a byte of a format of half bytes (R415). -/
abbrev splitsByte (x : Stream) (c : Chain) (o : OpenPass) (b : AccBeat) : Prop :=
  (if x.desc.held then c.passes.any c.halfBytes else c.halfBytes o.pass) = true ∧
    ((b.first = true ∧ o.col0 % 2 = 1) ∨
      (b.last = true ∧ (o.count + useOf x c o b) % 2 = 1 ∧ o.col0 + (o.count + useOf x c o b) ≠ o.len))

/-- What breaks R288, R289 or R415. -/
abbrev breaks (x : Stream) (c : Chain) (o : OpenPass) (b : AccBeat) (longLen : Prop) : Prop :=
  alien c o b ∨ short c o b ∨ useOf x c o b < b.nel.toNat ∨ longLen ∨ splitsByte x c o b

/-- A beat of an open row pass is taken with the elements that keep the limits; what breaks the rules is one finding. -/
theorem judgeBeat_eq (t : Nat) (x : Stream) (c : Chain) (o : OpenPass) (b : AccBeat) (longLen : Bool) :
    s.judgeBeat t x c o b longLen =
      (if breaks x c o b (longLen = true) then s.portFinding t evAccTag 0 o.sid o.row else s).takeBeat t o b (useOf x c o b)
        (decide (breaks x c o b (longLen = true))) := by
  unfold judgeBeat
  dsimp only
  by_cases halien : alien c o b
  · have hbreaks : breaks x c o b (longLen = true) := .inl halien
    have huse : useOf x c o b = 0 := if_pos halien
    rw [if_pos hbreaks, decide_eq_true hbreaks, huse]
    split
    · rfl
    case isFalse hkey =>
      rw [if_pos]
      simp only [alien, Bool.or_eq_true, bne_iff_ne, not_or, not_not] at halien hkey
      simpa [hkey] using halien
  have hkey : ¬ ((b.row.toNat != o.row || b.pass.toNat != o.pass) = true) := by
    intro h
    simp only [Bool.or_eq_true, bne_iff_ne] at h
    exact halien (h.elim .inl fun h => .inr (.inl h))
  have hnel : ¬ ((b.nel.toNat == 0 || decide (b.nel.toNat > c.beatElems o.pass)) = true) := by
    intro h
    simp only [Bool.or_eq_true, beq_iff_eq, decide_eq_true_eq] at h
    exact halien (.inr (.inr h))
  rw [if_neg hkey, if_neg hnel]
  by_cases hshort : short c o b
  · have hbreaks : breaks x c o b (longLen = true) := .inr (.inl hshort)
    have huse : useOf x c o b = b.nel.toNat := (if_neg halien).trans (if_pos hshort)
    rw [if_pos hbreaks, decide_eq_true hbreaks, huse, if_pos (by simpa [short] using hshort)]
  · have huse : useOf x c o b =
        min b.nel.toNat (min (x.desc.shr.getD (o.pass - 1) 0 - o.count) (o.len - (o.col0 + o.count))) :=
      (if_neg halien).trans (if_neg hshort)
    rw [if_neg (by simpa [short] using hshort), ← huse]
    have hbad : (decide (useOf x c o b < b.nel.toNat) || longLen ||
        ((if x.desc.held then c.passes.any c.halfBytes else c.halfBytes o.pass) &&
          ((b.first && o.col0 % 2 == 1) ||
            (b.last && (o.count + useOf x c o b) % 2 == 1 && o.col0 + (o.count + useOf x c o b) != o.len)))) =
        decide (breaks x c o b (longLen = true)) := by
      rw [Bool.eq_iff_iff]
      simp [breaks, halien, hshort, splitsByte, or_assoc, and_assoc]
    rw [hbad]
    simp only [decide_eq_true_eq]

/-- The entry that a beat makes in the queue. -/
abbrev beatEntry (o : OpenPass) (b : AccBeat) (use : Nat) (bad : Bool) : QEntry where
  isBeat := true
  sid := o.sid
  row := o.row
  pass := o.pass
  first := b.first
  last := b.last
  use := use
  poisonElems := b.poison
  poisonRow := bad || b.poison
  col0 := o.col0
  len := o.len
  scale := b.scale.toNat
  data := b.data

theorem enqueueOpen_tile (i : Fin 88) (q : QEntry) (o : OpenPass) :
    (((s.enqueue i.val q).modTile i.val (fun y => y.setOpen o)).tile i.val).queue = (s.tile i.val).queue ++ [q] ∧
      (((s.enqueue i.val q).modTile i.val (fun y => y.setOpen o)).tile i.val).openPass o.sid = o := by
  rw [modTile_tile _ _ _ i.isLt, enqueue_tile s i.isLt, Tile.setOpen_openPass]
  exact ⟨rfl, if_pos rfl⟩

theorem PortStep.enqueueOpen (i : Fin 88) (q : QEntry) (o : OpenPass) :
    PortStep i o.sid s ((s.enqueue i.val q).modTile i.val (fun y => y.setOpen o)) :=
  (PortStep.enqueue s i o.sid q).trans (.setOpen _ i o)

/-- The row pass as the port sees it after a beat. -/
abbrev afterBeat (o : OpenPass) (b : AccBeat) (use : Nat) : OpenPass :=
  { o with count := o.count + use, isOpen := !b.last }

theorem takeBeat_eq (t : Nat) (o : OpenPass) (b : AccBeat) (use : Nat) (bad : Bool) : s.takeBeat t o b use bad =
    (s.enqueue t (beatEntry o b use bad)).modTile t (fun y => y.setOpen (afterBeat o b use)) := rfl

theorem PortStep.takeBeat (i : Fin 88) (o : OpenPass) (b : AccBeat) (use : Nat) (bad : Bool) :
    PortStep i o.sid s (s.takeBeat i.val o b use bad) := PortStep.enqueueOpen s i _ (afterBeat o b use)

theorem takeBeat_tile (i : Fin 88) (o : OpenPass) (b : AccBeat) (use : Nat) (bad : Bool) :
    ((s.takeBeat i.val o b use bad).tile i.val).queue = (s.tile i.val).queue ++ [beatEntry o b use bad] ∧
      ((s.takeBeat i.val o b use bad).tile i.val).openPass o.sid = afterBeat o b use :=
  s.enqueueOpen_tile i _ (afterBeat o b use)

theorem takeBeat_kindCount (t : Nat) (o : OpenPass) (b : AccBeat) (use : Nat) (bad : Bool) (src code : Nat) :
    (s.takeBeat t o b use bad).kindCount src code = s.kindCount src code := by
  rw [takeBeat_eq, modTile_kindCount, enqueue_kindCount]

theorem takeBeat_rows (t : Nat) (o : OpenPass) (b : AccBeat) (use : Nat) (bad : Bool) :
    (s.takeBeat t o b use bad).streams = s.streams ∧ (s.takeBeat t o b use bad).chains = s.chains ∧
      (s.takeBeat t o b use bad).slots = s.slots := by
  simp [takeBeat_eq, enqueue]

/-- A beat of an open row pass, judged: what the port, the queue and the count of ACC_TAG findings hold afterwards. -/
structure Judged (i : Fin 88) (s t : State) (x : Stream) (c : Chain) (o : OpenPass) (b : AccBeat) (longLen : Prop) : Prop where
  port : PortStep i o.sid s t
  tagged : breaks x c o b longLen → t.kindCount i.val evAccTag = satInc (s.kindCount i.val evAccTag)
  untagged : ¬ breaks x c o b longLen → t.kindCount i.val evAccTag = s.kindCount i.val evAccTag
  untold : ∀ code, code ≠ evAccTag → t.kindCount i.val code = s.kindCount i.val code
  queue : ∃ bad, (bad = true ↔ breaks x c o b longLen) ∧
    (t.tile i.val).queue = (s.tile i.val).queue ++ [beatEntry o b (useOf x c o b) bad]
  passes : (t.tile i.val).openPass o.sid = { o with count := o.count + useOf x c o b, isOpen := !b.last }
  rows : t.streams = s.streams ∧ t.chains = s.chains ∧ t.slots = s.slots

theorem judgeBeat_judged (i : Fin 88) (x : Stream) (c : Chain) (o : OpenPass) (b : AccBeat) (longLen : Bool) :
    Judged i s (s.judgeBeat i.val x c o b longLen) x c o b (longLen = true) := by
  obtain ⟨u, hu, htold, htile, hcount⟩ : ∃ u,
      u = (if breaks x c o b (longLen = true) then s.portFinding i.val evAccTag 0 o.sid o.row else s) ∧ Told s u ∧
      u.tile i.val = s.tile i.val ∧ ∀ code, u.kindCount i.val code =
        if breaks x c o b (longLen = true) ∧ code = evAccTag then satInc (s.kindCount i.val evAccTag)
        else s.kindCount i.val code := by
    refine ⟨_, rfl, ?_⟩
    by_cases hbad : breaks x c o b (longLen = true)
    · rw [if_pos hbad]
      refine ⟨s.portFinding_told _ _ _ _ _, portFinding_tile s _ _ _ _ _ _, fun code => ?_⟩
      rw [portFinding_kindCount]
      simp only [hbad, true_and]
    · rw [if_neg hbad]
      refine ⟨.refl s, rfl, fun code => ?_⟩
      rw [if_neg fun h => hbad h.1]
  rw [judgeBeat_eq, ← hu]
  obtain ⟨hqueue, hpass⟩ := u.takeBeat_tile i o b (useOf x c o b) (decide (breaks x c o b (longLen = true)))
  rw [htile] at hqueue
  refine ⟨(PortStep.of_told htold).trans (.takeBeat u i _ _ _ _), fun hbad => ?_, fun hbad => ?_, fun code hcode => ?_,
    ⟨_, decide_eq_true_iff, hqueue⟩, hpass, ?_⟩
  · rw [takeBeat_kindCount, hcount, if_pos ⟨hbad, rfl⟩]
  · rw [takeBeat_kindCount, hcount, if_neg fun h => hbad h.1]
  · rw [takeBeat_kindCount, hcount, if_neg fun h => hcode h.2]
  · obtain ⟨hstreams, hchains, hslots⟩ :=
      u.takeBeat_rows i.val o b (useOf x c o b) (decide (breaks x c o b (longLen = true)))
    rw [hstreams, hchains, hslots, htold]
    exact ⟨rfl, rfl, rfl⟩

/-! ### The head of the queue -/

/-- A queue whose head is no mark. -/
def HeadIsBeat (l : List QEntry) : Prop := ∀ q rest, l = q :: rest → q.isBeat = true

theorem HeadIsBeat.append {l m : List QEntry} (h : HeadIsBeat l) (hm : l = [] → HeadIsBeat m) : HeadIsBeat (l ++ m) := by
  cases l with
  | nil => simpa using hm rfl
  | cons q l =>
    intro p rest heq
    rw [List.cons_append, List.cons.injEq] at heq
    exact heq.1 ▸ h q l rfl

theorem HeadIsBeat.single {q : QEntry} (h : q.isBeat = true) : HeadIsBeat [q] := by
  intro p rest heq
  rw [List.cons.injEq] at heq
  exact heq.1 ▸ h

/-- Marks take effect only at the head. -/
theorem drainMarks_beat {s : State} {t : Nat} (n : Nat) (h : HeadIsBeat (s.tile t).queue) : s.drainMarks t n = s := by
  unfold drainMarks
  split
  · cases n with
    | zero => rfl
    | succ n =>
      unfold takeMarks
      split
      case h_1 q rest heq => rw [if_pos (h q rest heq)]
      case h_2 => rfl
  · rfl

/-- A queue without a free entry holds beats. -/
theorem queue_ne_nil_of_full {y : Tile} (h : y.free = 0) : y.queue ≠ [] := by
  intro hnil
  simp [Tile.free, hnil] at h

/-! ### First beats and stray ones (cases 2 to 4 of R417) -/

/-- The row pass that a first beat finds open ends as POISON. -/
def endOpen (s : State) (t sid : Nat) : State :=
  if ((s.tile t).openPass sid).isOpen then s.enqueue t (((s.tile t).openPass sid).mark false true) else s

/-- The queue then. -/
abbrev endedQueue (y : Tile) (sid : Nat) : List QEntry :=
  if (y.openPass sid).isOpen then y.queue ++ [(y.openPass sid).mark false true] else y.queue

/-- Only marks have entered the queue, and what the books count has not changed. -/
structure Marked (i : Fin 88) (sid : Nat) (s t : State) : Prop where
  port : PortStep i sid s t
  streams : t.streams = s.streams
  chains : t.chains = s.chains
  slots : t.slots = s.slots
  books : t.books = s.books

theorem Marked.trans {i : Fin 88} {sid : Nat} {s t u : State} (h : Marked i sid s t) (g : Marked i sid t u) :
    Marked i sid s u :=
  ⟨h.port.trans g.port, g.streams.trans h.streams, g.chains.trans h.chains, g.slots.trans h.slots, g.books.trans h.books⟩

theorem Marked.refl (i : Fin 88) (sid : Nat) : Marked i sid s s := ⟨.of_told (.refl s), rfl, rfl, rfl, rfl⟩

theorem Marked.of_told {i : Fin 88} {sid : Nat} {s t : State} (h : Told s t) : Marked i sid s t :=
  ⟨.of_told h, by rw [h], by rw [h], by rw [h], by rw [h]⟩

theorem Marked.enqueue (i : Fin 88) (sid : Nat) (q : QEntry) (h : q.isBeat = false) : Marked i sid s (s.enqueue i.val q) :=
  ⟨.enqueue s i sid q, rfl, rfl, rfl, s.enqueue_mark i.val q h⟩

theorem Marked.setOpen (i : Fin 88) {sid : Nat} (o : OpenPass) (h : o.sid = sid) :
    Marked i sid s (s.modTile i.val (fun y => y.setOpen o)) :=
  ⟨h ▸ .setOpen s i o, rfl, rfl, rfl, rfl⟩

/-- What marks and reports alone have changed. -/
theorem Marked.frame {i : Fin 88} {sid : Nat} {s t : State} (h : Marked i sid s t) :
    t = { s with tiles := t.tiles, taps := t.taps, arb := t.arb, intStatus := t.intStatus } := by
  have hport := h.port.frame
  rw [h.streams, h.chains, h.slots, h.books] at hport
  exact hport

theorem endOpen_marked (i : Fin 88) (sid : Nat) : Marked i sid s (s.endOpen i.val sid) := by
  unfold endOpen
  split
  · exact .enqueue s i sid _ rfl
  · exact .refl s i sid

theorem endOpen_queue (i : Fin 88) (sid : Nat) : ((s.endOpen i.val sid).tile i.val).queue = endedQueue (s.tile i.val) sid := by
  unfold endOpen endedQueue
  split
  · rw [enqueue_tile s i.isLt]
  · rfl

@[simp] theorem endOpen_kindCount (t sid src code : Nat) : (s.endOpen t sid).kindCount src code = s.kindCount src code := by
  unfold endOpen
  split
  · exact enqueue_kindCount _ _ _ _ _
  · rfl

/-- A first beat that finds a row pass open: an ACC_SEQ finding, and that row pass ends (case 2). -/
def endOpenTold (s : State) (t sid row : Nat) : State :=
  if ((s.tile t).openPass sid).isOpen then
    ((s.portFinding t evAccSeq 0 sid row).enqueue t (((s.tile t).openPass sid).mark false true)).modTile t
      (fun y => y.setOpen { (s.tile t).openPass sid with isOpen := false })
  else s

theorem endOpenTold_marked (i : Fin 88) (sid row : Nat) : Marked i sid s (s.endOpenTold i.val sid row) := by
  unfold endOpenTold
  split
  · exact (Marked.of_told (s.portFinding_told _ _ _ _ _)).trans
      ((Marked.enqueue _ i sid _ rfl).trans (.setOpen _ i _ ((s.tile i.val).openPass_sid sid)))
  · exact .refl s i sid

theorem endOpenTold_queue (i : Fin 88) (sid row : Nat) :
    ((s.endOpenTold i.val sid row).tile i.val).queue = endedQueue (s.tile i.val) sid := by
  unfold endOpenTold endedQueue
  split
  · rw [modTile_tile _ _ _ i.isLt, Tile.setOpen_queue, enqueue_tile _ i.isLt, portFinding_tile]
  · rfl

theorem endOpenTold_kindCount (t sid row code : Nat) : (s.endOpenTold t sid row).kindCount t code =
    if ((s.tile t).openPass sid).isOpen = true ∧ code = evAccSeq then satInc (s.kindCount t evAccSeq) else s.kindCount t code := by
  unfold endOpenTold
  split
  case isTrue h =>
    rw [modTile_kindCount, enqueue_kindCount, portFinding_kindCount]
    simp only [h, true_and]
  case isFalse h => rw [if_neg fun hc => h hc.1]

/-- A pass that the chain does not have, or that the block runs by itself. -/
abbrev noPass (x : Stream) (c : Chain) (b : AccBeat) : Prop :=
  b.pass = 0 ∨ c.npass < b.pass.toNat ∨ (x.desc.held = true ∧ b.pass ≠ 1)

/-- The row pass that a first beat opens. -/
abbrev opens (x : Stream) (b : AccBeat) : OpenPass where
  sid := b.sid.toNat
  row := b.row.toNat
  pass := b.pass.toNat
  stray := false
  isOpen := true
  count := 0
  col0 := b.col0.toNat
  len := if x.desc.var then min b.len.toNat (x.desc.len.getD (b.pass.toNat - 1) 0) else x.desc.len.getD (b.pass.toNat - 1) 0

/-- No row pass: the beats are stray until the next first one. -/
abbrev strayPass (sid : Nat) : OpenPass where
  sid := sid
  row := 0
  pass := 0
  stray := true
  isOpen := false
  count := 0
  col0 := 0
  len := 0

theorem noPass_iff (x : Stream) (c : Chain) (b : AccBeat) :
    (b.pass.toNat == 0 || decide (b.pass.toNat > c.npass) || (x.desc.held && b.pass.toNat != 1)) = true ↔ noPass x c b := by
  have hzero : b.pass.toNat = 0 ↔ b.pass = 0 := by rw [← BitVec.toNat_inj]; rfl
  have hone : b.pass.toNat = 1 ↔ b.pass = 1 := by rw [← BitVec.toNat_inj]; rfl
  simp [noPass, hzero, hone, or_assoc]

theorem maySend_stream {s : State} {t : Nat} {b : AccBeat} {x : Stream} (h : s.maySend t b = some x) :
    s.stream? b.sid.toNat = some x := by
  unfold maySend at h
  split at h
  case h_1 y hy =>
    split at h
    · rw [hy, h]
    · cases h
  case h_2 => cases h

theorem maySend_congr {s u : State} (h : u.streams = s.streams) (t : Nat) (b : AccBeat) : u.maySend t b = s.maySend t b := by
  simp only [maySend, stream?, h]

theorem prune_stream (n : Nat) : s.prune.stream? n = s.stream? n := rfl

@[simp] theorem booked_stream (f : State → State) (n : Nat) : (s.booked f).stream? n = (f s).stream? n := rfl

/-- A row of a stream as it begins. -/
abbrev newRow (x : Stream) (row : Nat) (version : Chain × List (Option Table)) : RowCtx where
  row := row
  chain := version.1
  tables := version.2
  tiles := x.tiles
  claimed := false
  recs := []
  finals := []
  psumParts := []
  psums := []
  ended := []

/-- A row that has begun in the version that judges its beats (R23). -/
theorem openRow_row {s : State} {x : Stream} {c : Chain} {row : Nat} (hx : s.stream? x.sid = some x)
    (hc : s.chainFor x row = some c) :
    ∃ z r, (s.openRow x row).stream? x.sid = some z ∧ z.row? row = some r ∧ r.chain = c := by
  unfold chainFor at hc
  unfold openRow
  cases hrow : x.row? row with
  | some r =>
    rw [hrow] at hc
    exact ⟨x, r, by simpa using hx, hrow, by simpa using hc⟩
  | none =>
    rw [hrow] at hc
    obtain ⟨v, hv, rfl⟩ := Option.map_eq_some_iff.1 hc
    simp only [Option.isSome_none, Bool.false_eq_true, if_false, hv]
    rw [prune_stream, booked_stream, modStream_stream _ _ _ _ fun _ => by exact rfl, hx, Option.map_some,
      if_pos (beq_self_eq_true x.sid)]
    refine ⟨_, newRow x row v, rfl, ?_, rfl⟩
    have hnone : x.rows.find? (fun r => r.row == row) = none := hrow
    simp [Stream.row?, List.find?_append, hnone]

/-- A first beat of a pass that the chain does not have opens no row pass (case 3). -/
theorem judgeFirst_noPass {s : State} {i : Fin 88} {x : Stream} {c : Chain} {b : AccBeat} (hfirst : b.first = true)
    (hc : s.chainFor x b.row.toNat = some c) (hno : noPass x c b) : s.judgeFirst i.val x b =
      ((s.endOpenTold i.val b.sid.toNat b.row.toNat).portFinding i.val evAccTag 0 b.sid.toNat b.row.toNat).modTile i.val
        (fun y => y.setOpen (strayPass b.sid.toNat)) := by
  have hm := s.endOpenTold_marked i b.sid.toNat b.row.toNat
  have hc' := (chainFor_congr hm.chains hm.slots x b.row.toNat).trans hc
  unfold judgeFirst
  dsimp only
  rw [if_pos hfirst]
  unfold endOpenTold at hc' ⊢
  rw [hc']
  dsimp only
  rw [if_pos ((noPass_iff x c b).2 hno)]
  rfl

/-- A first beat opens its row pass, and its row, in the version that judges it. -/
theorem judgeFirst_opens {s : State} {i : Fin 88} {x : Stream} {c : Chain} {b : AccBeat} (hfirst : b.first = true)
    (hc : s.chainFor x b.row.toNat = some c) (hpass : ¬ noPass x c b) : s.judgeFirst i.val x b =
      ((s.endOpenTold i.val b.sid.toNat b.row.toNat).openRow x b.row.toNat).judgeBeat i.val x c (opens x b) b
        (x.desc.var && decide (b.len.toNat > x.desc.len.getD (b.pass.toNat - 1) 0)) := by
  have hm := s.endOpenTold_marked i b.sid.toNat b.row.toNat
  have hc' := (chainFor_congr hm.chains hm.slots x b.row.toNat).trans hc
  unfold judgeFirst
  dsimp only
  rw [if_pos hfirst]
  unfold endOpenTold at hc' ⊢
  rw [hc']
  dsimp only
  rw [if_neg fun h => hpass ((noPass_iff x c b).1 h)]

theorem judgeFirst_stray {s : State} {t : Nat} {x : Stream} {b : AccBeat} (hfirst : b.first = false)
    (ho : ((s.tile t).openPass b.sid.toNat).isOpen = false) :
    s.judgeFirst t x b = s.portFinding t evAccSeq 0 b.sid.toNat b.row.toNat := by
  simp [judgeFirst, hfirst, ho]

theorem judgeFirst_goesOn {s : State} {t : Nat} {x : Stream} {c : Chain} {b : AccBeat} (hfirst : b.first = false)
    (ho : ((s.tile t).openPass b.sid.toNat).isOpen = true)
    (hc : s.chainFor x ((s.tile t).openPass b.sid.toNat).row = some c) :
    s.judgeFirst t x b = s.judgeBeat t x c ((s.tile t).openPass b.sid.toNat) b false := by
  simp [judgeFirst, hfirst, ho, hc]

/-! ### A full queue (R292) -/

theorem overrun_noPass {s : State} {i : Fin 88} {x : Stream} {c : Chain} {b : AccBeat} (hfirst : b.first = true)
    (hc : s.chainFor x b.row.toNat = some c) (hno : noPass x c b) : s.overrun i.val x b =
      (s.endOpen i.val b.sid.toNat).modTile i.val (fun y => y.setOpen (strayPass b.sid.toNat)) := by
  have hm := s.endOpen_marked i b.sid.toNat
  have hc' := (chainFor_congr hm.chains hm.slots x b.row.toNat).trans hc
  unfold overrun
  dsimp only
  rw [if_pos hfirst]
  unfold endOpen at hc' ⊢
  rw [hc']
  dsimp only
  rw [if_pos ((noPass_iff x c b).2 hno)]
  rfl

theorem overrun_opens {s : State} {i : Fin 88} {x : Stream} {c : Chain} {b : AccBeat} (hfirst : b.first = true)
    (hc : s.chainFor x b.row.toNat = some c) (hpass : ¬ noPass x c b) : s.overrun i.val x b =
      (((s.endOpen i.val b.sid.toNat).openRow x b.row.toNat).enqueue i.val ((opens x b).mark true b.last)).modTile i.val
        (fun y => y.setOpen { opens x b with isOpen := !b.last }) := by
  have hm := s.endOpen_marked i b.sid.toNat
  have hc' := (chainFor_congr hm.chains hm.slots x b.row.toNat).trans hc
  unfold overrun
  dsimp only
  rw [if_pos hfirst]
  unfold endOpen at hc' ⊢
  rw [hc']
  dsimp only
  rw [if_neg fun h => hpass ((noPass_iff x c b).1 h)]
  rfl

theorem overrun_unjudged {s : State} {i : Fin 88} {x : Stream} {b : AccBeat} (hfirst : b.first = true)
    (hc : s.chainFor x b.row.toNat = none) : s.overrun i.val x b = s.endOpen i.val b.sid.toNat := by
  have hm := s.endOpen_marked i b.sid.toNat
  have hc' := (chainFor_congr hm.chains hm.slots x b.row.toNat).trans hc
  unfold overrun
  dsimp only
  rw [if_pos hfirst]
  unfold endOpen at hc' ⊢
  rw [hc']

theorem overrun_stray {s : State} {t : Nat} {x : Stream} {b : AccBeat} (hfirst : b.first = false)
    (ho : ((s.tile t).openPass b.sid.toNat).isOpen = false) : s.overrun t x b = s := by
  simp [overrun, hfirst, ho]

theorem overrun_goesOn {s : State} {t : Nat} {x : Stream} {b : AccBeat} (hfirst : b.first = false)
    (ho : ((s.tile t).openPass b.sid.toNat).isOpen = true) : s.overrun t x b =
      (s.enqueue t (((s.tile t).openPass b.sid.toNat).mark false b.last)).modTile t
        (fun y => y.setOpen { (s.tile t).openPass b.sid.toNat with isOpen := !b.last }) := by
  simp [overrun, hfirst, ho]

/-- A full queue takes marks alone, and no finding of R417 is raised. -/
structure TakesMarks (i : Fin 88) (sid : Nat) (s t : State) : Prop where
  port : PortStep i sid s t
  queue : ∃ marks, (t.tile i.val).queue = (s.tile i.val).queue ++ marks ∧ ∀ q ∈ marks, q.isBeat = false
  counts : ∀ src code, t.kindCount src code = s.kindCount src code

theorem TakesMarks.refl (i : Fin 88) (sid : Nat) : TakesMarks i sid s s :=
  ⟨.of_told (.refl s), ⟨[], by simp, by simp⟩, fun _ _ => rfl⟩

theorem TakesMarks.trans {i : Fin 88} {sid : Nat} {s t u : State} (h : TakesMarks i sid s t) (g : TakesMarks i sid t u) :
    TakesMarks i sid s u := by
  obtain ⟨m, hm, hmarks⟩ := h.queue
  obtain ⟨n, hn, gmarks⟩ := g.queue
  refine ⟨h.port.trans g.port, ⟨m ++ n, by rw [hn, hm, List.append_assoc], fun q hq => ?_⟩,
    fun src code => (g.counts src code).trans (h.counts src code)⟩
  exact (List.mem_append.1 hq).elim (hmarks q) (gmarks q)

theorem TakesMarks.enqueue (i : Fin 88) (sid : Nat) (q : QEntry) (h : q.isBeat = false) :
    TakesMarks i sid s (s.enqueue i.val q) :=
  ⟨.enqueue s i sid q, ⟨[q], by rw [enqueue_tile s i.isLt], by simpa using h⟩, fun _ _ => enqueue_kindCount _ _ _ _ _⟩

theorem TakesMarks.setOpen (i : Fin 88) {sid : Nat} (o : OpenPass) (h : o.sid = sid) :
    TakesMarks i sid s (s.modTile i.val (fun y => y.setOpen o)) :=
  ⟨h ▸ .setOpen s i o, ⟨[], by rw [modTile_tile _ _ _ i.isLt, Tile.setOpen_queue, List.append_nil], by simp⟩,
    fun _ _ => modTile_kindCount _ _ _ _ _⟩

theorem TakesMarks.openRow (i : Fin 88) (sid : Nat) (x : Stream) (row : Nat) : TakesMarks i sid s (s.openRow x row) :=
  ⟨.openRow s i sid x row, ⟨[], by rw [openRow_tile, List.append_nil], by simp⟩, fun _ _ => openRow_kindCount _ _ _ _ _⟩

theorem TakesMarks.endOpen (i : Fin 88) (sid : Nat) : TakesMarks i sid s (s.endOpen i.val sid) := by
  unfold State.endOpen
  split
  · exact .enqueue s i sid _ rfl
  · exact .refl s i sid

theorem overrun_takesMarks (i : Fin 88) (x : Stream) (b : AccBeat) :
    TakesMarks i b.sid.toNat s (s.overrun i.val x b) := by
  have hended := TakesMarks.endOpen s i b.sid.toNat
  cases hfirst : b.first with
  | true =>
    cases hc : s.chainFor x b.row.toNat with
    | none =>
      rw [overrun_unjudged hfirst hc]
      exact hended
    | some c =>
      by_cases hno : noPass x c b
      · rw [overrun_noPass hfirst hc hno]
        exact hended.trans (.setOpen _ i _ rfl)
      · rw [overrun_opens hfirst hc hno]
        exact hended.trans ((TakesMarks.openRow _ i _ x _).trans ((TakesMarks.enqueue _ i _ _ rfl).trans (.setOpen _ i _ rfl)))
  | false =>
    cases ho : ((s.tile i.val).openPass b.sid.toNat).isOpen with
    | true =>
      rw [overrun_goesOn hfirst ho]
      exact (TakesMarks.enqueue s i _ _ rfl).trans (.setOpen _ i _ ((s.tile i.val).openPass_sid _))
    | false =>
      rw [overrun_stray hfirst ho]
      exact .refl s i _

/-! ### The command -/

theorem exec_accBeat_free {s : State} {i : Fin 88} {b : AccBeat} {x : Stream} (hruns : s.portRuns i.val = true)
    (hfree : (s.tile i.val).free ≠ 0) (hmay : s.maySend i.val b = some x) {t : State}
    (ht : s.judgeFirst i.val x b = t) (hhead : HeadIsBeat (t.tile i.val).queue) : exec (.accBeat i b) s = .next t := by
  simp [exec, execAccBeat, hruns, hfree, hmay, ht, drainMarks_beat 256 hhead]

theorem exec_accBeat_noStream {s : State} {i : Fin 88} {b : AccBeat} (hruns : s.portRuns i.val = true)
    (hfree : (s.tile i.val).free ≠ 0) (hmay : s.maySend i.val b = none) :
    exec (.accBeat i b) s = .next (s.portFinding i.val evAccStream 0 b.sid.toNat b.row.toNat) := by
  simp [exec, execAccBeat, hruns, hfree, hmay]

/-- What an overrun leaves, its finding told. -/
def overran (s : State) (i : Fin 88) (b : AccBeat) : State :=
  let u := s.portFinding i.val evAccOverrun 0 b.sid.toNat b.row.toNat
  match s.maySend i.val b with
  | some x => u.overrun i.val x b
  | none => u

theorem overran_takesMarks (i : Fin 88) (b : AccBeat) : TakesMarks i b.sid.toNat
    (s.portFinding i.val evAccOverrun 0 b.sid.toNat b.row.toNat) (s.overran i b) := by
  unfold overran
  dsimp only
  split
  · exact overrun_takesMarks _ i _ b
  · exact .refl _ i _

theorem exec_accBeat_full {s : State} {i : Fin 88} {b : AccBeat} (hruns : s.portRuns i.val = true)
    (hfull : (s.tile i.val).free = 0) (hhead : HeadIsBeat (s.tile i.val).queue) :
    exec (.accBeat i b) s = .next (s.overran i b) := by
  have hmay : (s.portFinding i.val evAccOverrun 0 b.sid.toNat b.row.toNat).maySend i.val b = s.maySend i.val b :=
    maySend_congr (congrArg State.streams (s.portFinding_told i.val evAccOverrun 0 b.sid.toNat b.row.toNat)) _ _
  have hbeat : HeadIsBeat ((s.overran i b).tile i.val).queue := by
    obtain ⟨marks, hqueue, -⟩ := (s.overran_takesMarks i b).queue
    rw [hqueue, portFinding_tile]
    exact hhead.append fun hnil => absurd hnil (queue_ne_nil_of_full hfull)
  have hdrain := drainMarks_beat 256 hbeat
  unfold overran at hdrain ⊢
  cases hs : s.maySend i.val b with
  | none => simp [exec, execAccBeat, hruns, hfull, hmay, hs]
  | some x =>
    rw [hs] at hdrain
    simp [exec, execAccBeat, hruns, hfull, hmay, hs, hdrain]

/-- The queue behind a row pass that a first beat has ended. -/
theorem HeadIsBeat.ended {y : Tile} {sid : Nat} (h : HeadIsBeat y.queue)
    (hq : (y.openPass sid).isOpen = true → y.queue ≠ []) : HeadIsBeat (endedQueue y sid) := by
  unfold endedQueue
  split
  case isTrue ho => exact h.append fun hnil => absurd hnil (hq ho)
  case isFalse => exact h

/-- A beat judged in a state to which the port has come from `s`, as its statement has it. -/
theorem Judged.says {i : Fin 88} {sid : Nat} {s u t : State} {x : Stream} {c : Chain} {o : OpenPass} {b : AccBeat}
    {longLen : Prop} (hj : Judged i u t x c o b longLen) (hu : PortStep i sid s u) (hsid : o.sid = sid)
    (hcount : u.kindCount i.val evAccTag = s.kindCount i.val evAccTag) :
    (breaks x c o b longLen → t.kindCount i.val evAccTag = satInc (s.kindCount i.val evAccTag)) ∧
      (¬ breaks x c o b longLen → t.kindCount i.val evAccTag = s.kindCount i.val evAccTag) ∧
      (∃ poisonRow, (poisonRow = true ↔ breaks x c o b longLen ∨ b.poison = true) ∧
        (t.tile i.val).queue = (u.tile i.val).queue ++ [{ beatEntry o b (useOf x c o b) false with poisonRow := poisonRow }]) ∧
      (t.tile i.val).openPass sid = { o with count := o.count + useOf x c o b, isOpen := !b.last } ∧
      PortStep i sid s t := by
  obtain ⟨bad, hbad, hqueue⟩ := hj.queue
  refine ⟨fun h => by rw [hj.tagged h, hcount], fun h => by rw [hj.untagged h, hcount],
    ⟨bad || b.poison, by rw [Bool.or_eq_true, hbad], hqueue⟩, hsid ▸ hj.passes, hu.trans (hsid ▸ hj.port)⟩

/-- What becomes of a first beat of a pass that the chain does not have. -/
theorem noPass_spec {s : State} {i : Fin 88} {x : Stream} {c : Chain} {b : AccBeat} (hfirst : b.first = true)
    (hc : s.chainFor x b.row.toNat = some c) (hno : noPass x c b) :
    let t := s.judgeFirst i.val x b
    Marked i b.sid.toNat s t ∧ (t.tile i.val).queue = endedQueue (s.tile i.val) b.sid.toNat ∧
      (t.tile i.val).openPass b.sid.toNat = strayPass b.sid.toNat ∧
      t.kindCount i.val evAccTag = satInc (s.kindCount i.val evAccTag) ∧
      t.kindCount i.val evAccSeq = if ((s.tile i.val).openPass b.sid.toNat).isOpen then satInc (s.kindCount i.val evAccSeq)
        else s.kindCount i.val evAccSeq := by
  dsimp only
  rw [judgeFirst_noPass hfirst hc hno]
  have hended := s.endOpenTold_marked i b.sid.toNat b.row.toNat
  refine ⟨hended.trans ((Marked.of_told (portFinding_told _ _ _ _ _ _)).trans (.setOpen _ i _ rfl)), ?_, ?_, ?_, ?_⟩
  · rw [modTile_tile _ _ _ i.isLt, Tile.setOpen_queue, portFinding_tile, endOpenTold_queue]
  · rw [modTile_tile _ _ _ i.isLt, Tile.setOpen_openPass]
    exact if_pos rfl
  · rw [modTile_kindCount, portFinding_kindCount, if_pos ⟨rfl, rfl⟩, endOpenTold_kindCount, if_neg fun h => absurd h.2 (by decide)]
  · rw [modTile_kindCount, portFinding_kindCount, if_neg fun h => absurd h.2 (by decide), endOpenTold_kindCount]
    simp

/-- What becomes of a first beat that opens its row pass. -/
theorem opens_spec {s : State} {i : Fin 88} {x : Stream} {c : Chain} {b : AccBeat} (hfirst : b.first = true)
    (hx : s.stream? b.sid.toNat = some x) (hc : s.chainFor x b.row.toNat = some c) (hpass : ¬ noPass x c b) :
    ∃ u z r, PortStep i b.sid.toNat s u ∧ (u.tile i.val).queue = endedQueue (s.tile i.val) b.sid.toNat ∧
      (∀ code, u.kindCount i.val code = if ((s.tile i.val).openPass b.sid.toNat).isOpen = true ∧ code = evAccSeq then
        satInc (s.kindCount i.val evAccSeq) else s.kindCount i.val code) ∧
      u.stream? b.sid.toNat = some z ∧ z.row? b.row.toNat = some r ∧ r.chain = c ∧
      Judged i u (s.judgeFirst i.val x b) x c (opens x b) b
        (x.desc.var = true ∧ x.desc.len.getD (b.pass.toNat - 1) 0 < b.len.toNat) := by
  have hm := s.endOpenTold_marked i b.sid.toNat b.row.toNat
  have hsid : x.sid = b.sid.toNat := sid_of_stream hx
  have hxu : (s.endOpenTold i.val b.sid.toNat b.row.toNat).stream? x.sid = some x := by
    rw [stream?, hm.streams, hsid]
    exact hx
  obtain ⟨z, r, hz, hr, hrc⟩ := openRow_row hxu ((chainFor_congr hm.chains hm.slots x _).trans hc)
  have hj := ((s.endOpenTold i.val b.sid.toNat b.row.toNat).openRow x b.row.toNat).judgeBeat_judged i x c (opens x b) b
    (x.desc.var && decide (b.len.toNat > x.desc.len.getD (b.pass.toNat - 1) 0))
  simp only [Bool.and_eq_true, decide_eq_true_eq] at hj
  rw [hsid] at hz
  refine ⟨_, z, r, hm.port.trans (.openRow _ i _ x b.row.toNat), ?_, fun code => ?_, hz, hr, hrc, ?_⟩
  · rw [openRow_tile, endOpenTold_queue]
  · rw [openRow_kindCount, endOpenTold_kindCount]
  · rw [judgeFirst_opens hfirst hc hpass]
    exact hj

/-- What becomes of a first beat that finds no place. -/
theorem full_noPass_spec {s : State} {i : Fin 88} {x : Stream} {c : Chain} {b : AccBeat} (hfirst : b.first = true)
    (hc : s.chainFor x b.row.toNat = some c) (hno : noPass x c b) :
    ((s.overrun i.val x b).tile i.val).queue = endedQueue (s.tile i.val) b.sid.toNat ∧
      ((s.overrun i.val x b).tile i.val).openPass b.sid.toNat = strayPass b.sid.toNat := by
  rw [overrun_noPass hfirst hc hno, modTile_tile _ _ _ i.isLt, Tile.setOpen_queue, endOpen_queue, Tile.setOpen_openPass]
  exact ⟨rfl, if_pos rfl⟩

theorem full_opens_spec {s : State} {i : Fin 88} {x : Stream} {c : Chain} {b : AccBeat} (hfirst : b.first = true)
    (hc : s.chainFor x b.row.toNat = some c) (hpass : ¬ noPass x c b) :
    ((s.overrun i.val x b).tile i.val).queue =
        endedQueue (s.tile i.val) b.sid.toNat ++ [(opens x b).mark true b.last] ∧
      ((s.overrun i.val x b).tile i.val).openPass b.sid.toNat = { opens x b with isOpen := !b.last } := by
  obtain ⟨hqueue, hopen⟩ := ((s.endOpen i.val b.sid.toNat).openRow x b.row.toNat).enqueueOpen_tile i
    ((opens x b).mark true b.last) { opens x b with isOpen := !b.last }
  rw [openRow_tile, endOpen_queue] at hqueue
  rw [overrun_opens hfirst hc hpass]
  exact ⟨hqueue, hopen⟩

theorem full_goesOn_spec {s : State} {i : Fin 88} {x : Stream} {b : AccBeat} (hfirst : b.first = false)
    (ho : ((s.tile i.val).openPass b.sid.toNat).isOpen = true) :
    ((s.overrun i.val x b).tile i.val).queue =
        (s.tile i.val).queue ++ [((s.tile i.val).openPass b.sid.toNat).mark false b.last] ∧
      ((s.overrun i.val x b).tile i.val).openPass b.sid.toNat =
        { (s.tile i.val).openPass b.sid.toNat with isOpen := !b.last } := by
  obtain ⟨hqueue, hopen⟩ := s.enqueueOpen_tile i (((s.tile i.val).openPass b.sid.toNat).mark false b.last)
    { (s.tile i.val).openPass b.sid.toNat with isOpen := !b.last }
  rw [Tile.openPass_sid] at hopen
  rw [overrun_goesOn hfirst ho]
  exact ⟨hqueue, hopen⟩

theorem overran_some {s : State} {i : Fin 88} {b : AccBeat} {x : Stream} (h : s.maySend i.val b = some x) :
    s.overran i b = (s.portFinding i.val evAccOverrun 0 b.sid.toNat b.row.toNat).overrun i.val x b := by
  rw [overran, h]

theorem overran_none {s : State} {i : Fin 88} {b : AccBeat} (h : s.maySend i.val b = none) :
    s.overran i b = s.portFinding i.val evAccOverrun 0 b.sid.toNat b.row.toNat := by
  rw [overran, h]

end State

/-- Settles O41, case by case of R417 (`judgeFirst_stray`, `judgeFirst_goesOn`, `judgeFirst_noPass`, `judgeFirst_opens`), the
open row pass by `judgeBeat_judged`, and a full queue by `overran_takesMarks`. -/
theorem accBeatIsQueuedOrTurnedAway : Obligations.AccBeatIsQueuedOrTurnedAway := by
  intro i b s hruns y sid n was found others tells ends starts stray noPass' judged
  refine ⟨fun x c hfree hhead hmay => ?_, fun hfree hmay => ?_, fun hfull hhead => ?_⟩
  · have hx := State.maySend_stream hmay
    have hsid : x.sid = sid := State.sid_of_stream hx
    refine ⟨fun hfirst ho => ?_, fun hfirst ho hc => ?_, fun hfirst hq hc => ⟨fun hno => ?_, fun hpass => ?_⟩⟩
    · refine ⟨_, State.exec_accBeat_free hruns hfree hmay (State.judgeFirst_stray hfirst ho) ?_, ?_, ?_⟩
      · rw [State.portFinding_tile]
        exact hhead
      · refine (State.portFinding_kindCount s _ _ _ _ _ _ _).trans ?_
        simp
      · exact State.portFinding_told s _ _ _ _ _
    · have hj := s.judgeBeat_judged i x c was b false
      simp only [Bool.false_eq_true] at hj
      obtain ⟨_, _, hqueue⟩ := hj.queue
      obtain ⟨hyes, hno, hentry, hopen, hport⟩ := hj.says (.of_told (.refl s)) ((s.tile i.val).openPass_sid sid) rfl
      refine ⟨_, State.exec_accBeat_free hruns hfree hmay (State.judgeFirst_goesOn hfirst ho hc) ?_,
        ⟨hyes, hno, hentry, hopen, ⟨hport.others, hport.passes, hport.mine⟩, hport.frame⟩, hj.untold _ (by decide), hj.rows⟩
      rw [hqueue]
      exact State.HeadIsBeat.append hhead fun _ => .single rfl
    · obtain ⟨hmarked, hqueue, hopen, htag, hseq⟩ := State.noPass_spec (i := i) hfirst hc hno
      refine ⟨_, State.exec_accBeat_free hruns hfree hmay rfl ?_, htag, hseq, hqueue, hopen,
        ⟨hmarked.port.others, hmarked.port.passes, hmarked.port.mine⟩, hmarked.frame⟩
      rw [hqueue]
      exact State.HeadIsBeat.ended hhead hq
    · obtain ⟨u, z, r, hu, hq0, hcount, hz, hr, hrc, hj⟩ := State.opens_spec (i := i) hfirst hx hc hpass
      obtain ⟨_, _, hqueue⟩ := hj.queue
      have htag : u.kindCount i.val evAccTag = s.kindCount i.val evAccTag := by rw [hcount, if_neg fun h => absurd h.2 (by decide)]
      have hseq := hcount evAccSeq
      simp only [and_true] at hseq
      obtain ⟨hyes, hno, hentry, hopen, hport⟩ := hj.says hu rfl htag
      rw [hq0] at hentry hqueue
      refine ⟨_, z, r, State.exec_accBeat_free hruns hfree hmay rfl ?_,
        ⟨hyes, hno, hentry, hopen, ⟨hport.others, hport.passes, hport.mine⟩, hport.frame⟩,
        (hj.untold _ (by decide)).trans hseq, ?_, hr, hrc⟩
      · exact hqueue ▸ State.HeadIsBeat.append (State.HeadIsBeat.ended hhead hq) fun _ => .single rfl
      · rw [State.stream?, hj.rows.1]
        exact hz
  · refine ⟨_, State.exec_accBeat_noStream hruns hfree hmay, ?_, s.portFinding_told _ _ _ _ _⟩
    refine (State.portFinding_kindCount s _ _ _ _ _ _ _).trans ?_
    simp
  · obtain ⟨hport, ⟨marks, hqueue, hmarks⟩, hcounts⟩ := s.overran_takesMarks i b
    have htold := s.portFinding_told i.val evAccOverrun 0 b.sid.toNat b.row.toNat
    have htile := s.portFinding_tile i.val evAccOverrun 0 b.sid.toNat b.row.toNat i.val
    have hcount (code : Nat) := (hcounts i.val code).trans (s.portFinding_kindCount i.val evAccOverrun 0 sid b.row.toNat i.val code)
    have hall := (State.PortStep.of_told htold).trans hport
    refine ⟨_, State.exec_accBeat_full hruns hfull hhead, ?_, ?_, ?_, ?_, ⟨hall.others, hall.passes, hall.mine⟩,
      fun hmay => ?_, fun x hmay hfirst ho => ?_, fun x hmay hfirst ho => ?_, fun x c hmay hfirst hc => ?_, hall.frame⟩
    · exact (hcount _).trans (if_pos ⟨rfl, rfl⟩)
    · exact (hcount _).trans (if_neg fun h => absurd h.2 (by decide))
    · exact (hcount _).trans (if_neg fun h => absurd h.2 (by decide))
    · rw [hqueue, htile, List.filter_append, List.filter_eq_nil_iff (l := marks) |>.2 fun q hq => by simp [hmarks q hq], List.append_nil]
    · rw [State.overran_none hmay]
      exact htold
    · rw [State.overran_some hmay, State.overrun_stray hfirst (by rw [htile]; exact ho)]
      exact htold
    · have hspec := State.full_goesOn_spec (i := i) (x := x) hfirst (by rw [htile]; exact ho)
      rw [htile] at hspec
      rw [State.overran_some hmay]
      exact hspec
    · have hc' := (State.chainFor_congr (congrArg State.chains htold) (congrArg State.slots htold) x _).trans hc
      rw [State.overran_some hmay]
      refine ⟨fun hno => ?_, fun hpass => ?_⟩
      · have hspec := State.full_noPass_spec (i := i) hfirst hc' hno
        rw [htile] at hspec
        exact hspec
      · have hspec := State.full_opens_spec (i := i) hfirst hc' hpass
        rw [htile] at hspec
        exact hspec

end Sys2Proof.Machine
end

section
/-!
PROOFS. Parts and records on their way to level 2 (R31, R102, R180, R181, R193, R197).
-/

namespace Sys2Proof.Machine

/-! ### Row passes and rows found by their keys -/

theorem RowPass.key_of_pass {y : Tile} {sid row pass : Nat} {rp : RowPass} (h : y.pass? sid row pass = some rp) :
    rp.sid = sid ∧ rp.row = row ∧ rp.pass = pass := by
  have hkey := List.find?_some h
  simp only [Bool.and_eq_true, beq_iff_eq] at hkey
  exact ⟨hkey.1.1, hkey.1.2, hkey.2⟩

/-- A row pass put in the place of the one with its key is found there. -/
theorem Tile.modPass_pass {y : Tile} {sid row pass : Nat} {rp q : RowPass} (h : y.pass? sid row pass = some rp)
    (hq : q.sid = sid ∧ q.row = row ∧ q.pass = pass) :
    (y.modPass sid row pass (fun _ => q)).pass? sid row pass = some q := by
  obtain ⟨hs, hr, hp⟩ := RowPass.key_of_pass h
  obtain ⟨qs, qr, qp⟩ := hq
  unfold Tile.pass? at h ⊢
  unfold Tile.modPass
  have hkeep : (fun r : RowPass => r.sid == sid && r.row == row && r.pass == pass) ∘
      (fun r => if r.sid == sid && r.row == row && r.pass == pass then q else r) =
      (fun r => r.sid == sid && r.row == row && r.pass == pass) := by
    funext r
    simp only [Function.comp]
    split <;> simp_all
  rw [List.find?_map, hkeep, h, Option.map_some, if_pos (by simp [hs, hr, hp])]

theorem RowCtx.row_of_row {x : Stream} {row : Nat} {r : RowCtx} (h : x.row? row = some r) : r.row = row := by
  simpa using List.find?_some h

/-- A change of a row under its own number is found there. -/
theorem Stream.modRow_row {x : Stream} {row : Nat} {r : RowCtx} (h : x.row? row = some r) (f : RowCtx → RowCtx)
    (hf : ∀ c, (f c).row = c.row) : (x.modRow row f).row? row = some (f r) := by
  have hrow := RowCtx.row_of_row h
  unfold Stream.row? at h ⊢
  unfold Stream.modRow
  have hkeep : (fun c : RowCtx => c.row == row) ∘ (fun c => if c.row == row then f c else c) = (fun c => c.row == row) := by
    funext c
    simp only [Function.comp]
    split <;> simp [hf]
  rw [List.find?_map, hkeep, h, Option.map_some, if_pos (by simp [hrow])]

namespace State

variable (s : State)

/-- A changed row of a stream is found where the row was. -/
theorem modRow_found {sid row : Nat} {x : Stream} {r : RowCtx} (hx : s.stream? sid = some x) (hr : x.row? row = some r)
    (f : RowCtx → RowCtx) (hf : ∀ c, (f c).row = c.row) :
    ∃ y, (s.modStream sid (fun y => y.modRow row f)).stream? sid = some y ∧ y.row? row = some (f r) := by
  refine ⟨x.modRow row f, ?_, Stream.modRow_row hr f hf⟩
  rw [modStream_stream s sid sid (fun y => y.modRow row f) fun _ => rfl, hx, Option.map_some, if_pos (by simp [sid_of_stream hx])]

theorem putPass_pass {i : Fin 88} {sid row pass : Nat} {rp q : RowPass}
    (h : (s.tile i.val).pass? sid row pass = some rp) (hq : q.sid = sid ∧ q.row = row ∧ q.pass = pass) :
    ((s.putPass i.val q).tile i.val).pass? sid row pass = some q := by
  rw [putPass, modTile_tile _ _ _ i.isLt]
  obtain ⟨rfl, rfl, rfl⟩ := hq
  exact Tile.modPass_pass h ⟨rfl, rfl, rfl⟩

theorem putPass_tile_ne (i : Nat) (q : RowPass) (k : Nat) (hk : i ≠ k) : (s.putPass i q).tile k = s.tile k :=
  modTile_tile_ne _ _ _ _ hk

/-! ### TILE_RECORD_COMBINE -/

variable {s}
variable {i : Nat} {sid row step : Nat} {x : Stream} {r : RowCtx} {rp : RowPass}

theorem row_bind (hx : s.stream? sid = some x) (hr : x.row? row = some r) :
    (s.stream? sid).bind (fun x => (x.row? row).map (fun r => (x, r))) = some (x, r) := by
  rw [hx, Option.bind_some, hr, Option.map_some]

/-- A tile's part of a PSUM stage leaves for level 2. -/
theorem tileCombine_psum {a : PsumAcc} (hx : s.stream? sid = some x) (hr : x.row? row = some r)
    (hp : (s.tile i).pass? sid row (r.chain.stage step).pass = some rp) (hc : step ∉ rp.combined)
    (hop : (r.chain.stage step).op = opPsum) (hin : rp.opened = false) (hnext : rp.next = step)
    (ha : rp.psums.find? (fun a => a.step == step) = some a) :
    s.tileCombine i sid row step = (s.modStream sid (fun y => y.modRow row (fun c =>
      { c with psumParts := c.psumParts ++ [(step, i, a.closeGroup)] }))).putPass i
        { rp with combined := step :: rp.combined } := by
  unfold tileCombine
  rw [row_bind hx hr]
  dsimp only
  rw [hp]
  dsimp only
  rw [if_neg (by simpa using hc), if_neg (by rw [hop]; simp [opPsum, opStat]), if_pos (by simp [hop, hin, hnext]), ha]

/-- A tile's record of a STAT stage leaves for level 2. -/
theorem tileCombine_stat {a : StatAcc} (hx : s.stream? sid = some x) (hr : x.row? row = some r)
    (hp : (s.tile i).pass? sid row (r.chain.stage step).pass = some rp) (hc : step ∉ rp.combined)
    (hop : (r.chain.stage step).op = opStat) (hfin : rp.finished = true) (hw : rp.writes = 0)
    (hroom : s.levelRoom x r step = true) (ha : rp.accs.find? (fun a => a.step == step) = some a) :
    s.tileCombine i sid row step = ((s.modStream sid (fun y => y.modRow row (fun c =>
      { c with recs := c.recs ++ [(step, i, rp.tileRec a (rp.refOf r step))] }))).putPass i
        { rp with combined := step :: rp.combined }).settleTile i := by
  unfold tileCombine
  rw [row_bind hx hr]
  dsimp only
  rw [hp]
  dsimp only
  rw [if_neg (by simpa using hc), if_pos (by simp [hop, hfin, hw, hroom]), ha]

/-- A row's first record stays in its tile while level 2 has no place for its merge. -/
theorem tileCombine_waits (hx : s.stream? sid = some x) (hr : x.row? row = some r)
    (hop : (r.chain.stage step).op = opStat) (hroom : s.levelRoom x r step = false) : s.tileCombine i sid row step = s := by
  unfold tileCombine
  rw [row_bind hx hr]
  dsimp only
  cases (s.tile i).pass? sid row (r.chain.stage step).pass with
  | none => rfl
  | some rp =>
    dsimp only
    split
    · rfl
    · rw [if_neg (by simp [hroom]), if_neg (by rw [hop]; simp [opPsum, opStat])]

/-- Without a record, a merge or a final record of the row's, level 2 needs a place for one merge more (R181). -/
theorem levelRoom_full {k : Nat} {m : Stage} (hm : r.chain.mergeOf step = some (k, m)) (hlay : m.mlay ≠ 0)
    (hrecs : ∀ q ∈ r.recs, q.1 ≠ step) (hmerge : s.merge? (sidBand x.sid) x.sid r.row step = none)
    (hfinal : r.final? step = none)
    (hfull : 256 ≤ (s.band (sidBand x.sid)).merges.length + s.mergesDue (sidBand x.sid)) :
    s.levelRoom x r step = false := by
  unfold levelRoom
  rw [hm]
  dsimp only
  rw [hmerge, hfinal]
  have hany : r.recs.any (fun p => p.1 == step) = false := by simpa using fun a b c h => hrecs (a, b, c) h
  have hlt : ¬ (s.band (sidBand x.sid)).merges.length + s.mergesDue (sidBand x.sid) < 256 := by omega
  simp [hlay, hany, hlt]

/-! ### BAND_RECORD_COMBINE -/

theorem bandCombine_stat (hx : s.stream? sid = some x) (hr : x.row? row = some r)
    (hop : (r.chain.stage step).op = opStat) : s.bandCombine sid row step = s.combineStat x r step := by
  unfold bandCombine
  rw [hx]
  dsimp only
  rw [hr]
  dsimp only
  rw [if_pos (by simp [hop])]

theorem bandCombine_psum (hx : s.stream? sid = some x) (hr : x.row? row = some r)
    (hop : (r.chain.stage step).op = opPsum) : s.bandCombine sid row step = s.combinePsum x r step := by
  unfold bandCombine
  rw [hx]
  dsimp only
  rw [hr]
  dsimp only
  rw [if_neg (by rw [hop]; simp [opPsum, opStat]), if_pos (by simp [hop])]

/-- The records of all tiles agree: level 2 has the row's record. -/
theorem combineStat_agree {own : Rec} (hfinal : r.final? step = none)
    (hmerge : s.merge? (sidBand x.sid) x.sid r.row step = none) (hroom : s.mergeRoom x r step = true)
    (hall : (partsOf (sortTiles r.tiles) step r.recs).length = r.tiles.length)
    (hown : bandRecord (partsOf (sortTiles r.tiles) step r.recs) = some (own, [])) :
    s.combineStat x r step = (s.modStream x.sid (fun y => y.modRow r.row (fun c =>
      { c with recs := c.recs.filter (fun p => p.1 != step) }))).bandReady x r step own
        (s.rowLen x r (r.chain.stage step).pass) false := by
  unfold combineStat
  dsimp only
  rw [if_neg (by simp [hall, hfinal, hmerge, hroom]), hown]
  cases hparts : partsOf (sortTiles r.tiles) step r.recs with
  | nil => rw [hparts] at hown; simp [bandRecord] at hown
  | cons p ps => rfl

/-- The STAT_MERGE of a stage is the stage whose index the merge has. -/
theorem mergeOf_stage {c : Chain} {step k : Nat} {m : Stage} (h : c.mergeOf step = some (k, m)) : m = c.stage k := by
  unfold Chain.mergeOf at h
  obtain ⟨⟨st, n⟩, hfind, heq⟩ := Option.map_eq_some_iff.1 h
  obtain ⟨rfl, rfl⟩ := Prod.mk.inj heq
  have hmem := List.mem_zipIdx_iff_getElem?.1 (List.mem_of_find?_eq_some hfind)
  simp [Chain.stage, List.getD, hmem]

/-- The merge that a row's band record begins (R200). -/
def begunMerge (x : Stream) (r : RowCtx) (k step : Nat) (own : Rec) (total : Nat) : Merge :=
  let d := x.desc
  let lay := (r.chain.stage k).mlay
  let base := areaAddr r.chain d k r.row
  { sid := x.sid, row := r.row, step := step, layout := lay, base := base, parts := d.p, pidx := d.pidx
    need := BitVec.ofNat 32 (d.p * x.usedArea base), total := total, own := own
    phase := if lay == 2 && d.pidx != 0 then .arming else .readers
    got := [], asked := 0, again := false, began := false, waiting := false, waitReported := false
    partsSeen := 0, countSeen := 0 }

theorem putMerge_band {b : Nat} (hb : b < 8) (m : Merge) : (s.putMerge b m).band b = { s.band b with
    merges := (s.band b).merges.map (fun y => if y.sid == m.sid && y.row == m.row && y.step == m.step then m else y) } :=
  modBand_band _ _ _ hb

theorem askMerge_band {b : Nat} (hb : b < 8) (m : Merge) : (s.askMerge b m).band b = { s.band b with
    merges := (s.band b).merges.map (fun y => if y.sid == m.sid && y.row == m.row && y.step == m.step then
      { m with asked := m.reads.length, again := false } else y)
    fabQueue := (s.band b).fabQueue ++ m.reads } := by
  unfold askMerge queueFab
  rw [modBand_band _ _ _ hb, putMerge_band hb]

theorem askMerge_band_ne {b c : Nat} (hbc : b ≠ c) (m : Merge) : (s.askMerge b m).band c = s.band c := by
  unfold askMerge queueFab putMerge
  rw [modBand_band_ne _ _ _ _ hbc, modBand_band_ne _ _ _ _ hbc]

theorem askMerge_tiles (b : Nat) (m : Merge) : (s.askMerge b m).tiles = s.tiles := rfl

/-- A merge takes its place behind those under way and issues its first reads. -/
theorem startMerge_band {k : Nat} {own : Rec} {total : Nat} (hb : sidBand x.sid < 8)
    (hmerge : s.merge? (sidBand x.sid) x.sid r.row step = none) :
    let g := begunMerge x r k step own total
    (s.startMerge x r k step own total).band (sidBand x.sid) = { s.band (sidBand x.sid) with
      merges := (s.band (sidBand x.sid)).merges ++ [{ g with asked := g.reads.length, again := false }]
      fabQueue := (s.band (sidBand x.sid)).fabQueue ++ g.reads } := by
  intro g
  change (State.askMerge _ (sidBand x.sid) g).band (sidBand x.sid) = _
  rw [askMerge_band hb, modBand_band _ _ _ hb, modStream_band]
  dsimp only
  have hkept : (s.band (sidBand x.sid)).merges.map (fun y => if y.sid == g.sid && y.row == g.row && y.step == g.step then
      { g with asked := g.reads.length, again := false } else y) = (s.band (sidBand x.sid)).merges := by
    refine (List.map_congr_left fun y hy => if_neg ?_).trans (List.map_id _)
    exact List.find?_eq_none.1 hmerge y hy
  rw [List.map_append, hkept, List.map_cons, if_pos (by simp [g, begunMerge])]
  rfl

theorem startMerge_band_ne {k c : Nat} {own : Rec} {total : Nat} (hc : sidBand x.sid ≠ c) :
    (s.startMerge x r k step own total).band c = s.band c := by
  unfold startMerge
  rw [askMerge_band_ne hc, modBand_band_ne _ _ _ _ hc, modStream_band]

theorem startMerge_tiles (k : Nat) (own : Rec) (total : Nat) : (s.startMerge x r k step own total).tiles = s.tiles := by
  unfold startMerge
  rw [askMerge_tiles, modBand_tiles, modStream_tiles]

/-- The reads of a merge's phase do not depend on how many it has asked for. -/
theorem reads_asked (g : Merge) (n : Nat) : ({ g with asked := n, again := false } : Merge).reads = g.reads := by
  obtain ⟨⟩ := g
  rfl

/-- The parts of all tiles have come: level 2 has the row's result of a PSUM stage. -/
theorem combinePsum_result {w : Written} (hne : partsOf (sortTiles r.tiles) step r.psumParts ≠ [])
    (hall : (partsOf (sortTiles r.tiles) step r.psumParts).length = r.tiles.length) (hnew : ∀ q ∈ r.psums, q.1 ≠ step)
    (hw : ({ r with psumParts := (partsOf (sortTiles r.tiles) step r.psumParts).map (fun q => (step, q.1, q.2)) } :
      RowCtx).psumResult step = some w) :
    s.combinePsum x r step = s.modStream x.sid (fun y => y.modRow r.row (fun c =>
      { c with
        psumParts := (partsOf (sortTiles r.tiles) step r.psumParts).map (fun q => (step, q.1, q.2)) ++
          c.psumParts.filter (fun p => p.1 != step)
        psums := c.psums ++ [(step, w.elem)] })) := by
  have hany : r.psums.any (fun p => p.1 == step) = false := by simpa using fun a b h => hnew (a, b) h
  unfold combinePsum
  dsimp only
  rw [if_neg (by simp [hall, hne, hany]), hw]

/-- The sum of a row's parts at a stage, where those of the stage stand before the others. -/
theorem psumSum_parts (step : Nat) (parts : List (Nat × PsumAcc)) (c : RowCtx) (rest : List (Nat × Nat × PsumAcc))
    (hc : c.psumParts = parts.map (fun q => (step, q.1, q.2)) ++ rest.filter (fun p => p.1 != step)) :
    c.psumSum step = parts.head?.map (fun q =>
      (q.1, (parts.drop 1).foldl (fun a q => PsumAcc.combine (c.chain.stage step).pmode a q.2) q.2)) := by
  have hmine : c.psumParts.filter (fun p => p.1 == step) = parts.map (fun q => (step, q.1, q.2)) := by
    rw [hc, List.filter_append, List.filter_filter, List.filter_eq_self.2 (by rintro _ h; obtain ⟨q, -, rfl⟩ := List.mem_map.1 h; simp),
      List.filter_eq_nil_iff.2 (by simp),
      List.append_nil]
  unfold RowCtx.psumSum
  rw [hmine]
  cases parts with
  | nil => rfl
  | cons q qs => simp [List.foldl_map]

/-! ### STATISTIC_APPLY_START -/

/-- What a row pass at a stage that waits does once what it waits for exists. -/
def startedPass (s : State) (i : Nat) (rp : RowPass) (out : RowPass × Notes) : State :=
  ((s.passRan i out.1 (out.1.factorRequest rp.next ++ out.1.requests (stagesFrom rp.next out.1.next) 0)).addNotes
    i out.1 out.2).settleTile i

variable {pass : Nat}

theorem applyStart_of_passWait (hx : s.stream? sid = some x) (hr : x.row? row = some r)
    (hp : (s.tile i).pass? sid row pass = some rp) :
    s.applyStart i sid row pass = match s.passWait i r rp with
      | some (s, out) => s.startedPass i rp out
      | none => s := by
  have hbind : (s.stream? sid).bind (fun x => x.row? row) = some r := by rw [hx, Option.bind_some, hr]
  unfold applyStart
  rw [hp, hbind]
  dsimp only
  cases s.passWait i r rp <;> rfl

/-- An APPLY stage, or a STAT stage with a reference, waits for the final record that it names. -/
theorem passWait_ref {j : Nat} (hat : rp.next < rp.chain.passEnd rp.pass) (hfree : rp.conflict = none)
    (hj : (rp.chain.stage rp.next).op = opApply ∧ j = (rp.chain.stage rp.next).astat ∨
      (rp.chain.stage rp.next).op = opStat ∧ j = (rp.chain.stage rp.next).ref) :
    s.passWait i r rp = (r.final? j).map (fun f => (s, rp.startRef f (rp.lenOf (rp.chain.stage j).pass))) := by
  have hrec (k : Nat) : rp.recordFor r k = r.final? k := by rw [RowPass.recordFor, hfree]
  unfold passWait
  dsimp only
  rw [if_neg (by omega)]
  rcases hj with ⟨hop, rfl⟩ | ⟨hop, rfl⟩
  · rw [if_pos (by simp [hop]), if_pos (by simp [hop]), hrec]
  · rw [if_pos (by simp [hop]), if_neg (by rw [hop]; simp [opStat, opApply]), hrec]

/-- A PSUM stage waits for the row's result, which the lowest tile that holds a part takes. -/
theorem passWait_psum (hat : rp.next < rp.chain.passEnd rp.pass) (hop : (rp.chain.stage rp.next).op = opPsum) :
    s.passWait i r rp = if r.psums.any (fun p => p.1 == rp.next) then
      (r.psumSum rp.next).map (fun w => (s, rp.startPsum (w.1 == i) (w.2.posInf && w.2.negInf && !w.2.invalid && !w.2.poison)
        (w.2.result (rp.chain.stage rp.next).pmode (fmtOf (rp.chain.stage rp.next).opfD)))) else none := by
  unfold passWait
  dsimp only
  rw [if_neg (by omega), if_neg (by rw [hop]; simp [opStat, opApply, opPsum]), if_pos (by simp [hop])]

/-! ### The three commands while their tile or band runs -/

theorem exec_tileRecordCombine {i : Fin 88} {sid : BitVec 14} {row : BitVec 48} {step : Fin 12} {t : State}
    (hruns : s.tileRuns i.val = true) (h : s.tileCombine i.val sid.toNat row.toNat step.val = t) :
    exec (.tileRecordCombine i sid row step) s = .next t :=
  (congrArg Host.Outcome.next (if_pos hruns)).trans (congrArg Host.Outcome.next h)

theorem exec_bandRecordCombine {sid : BitVec 14} {row : BitVec 48} {step : Fin 12} {t : State}
    (hruns : s.bandRuns (sidBand sid.toNat) = true) (h : s.bandCombine sid.toNat row.toNat step.val = t) :
    exec (.bandRecordCombine sid row step) s = .next t :=
  (congrArg Host.Outcome.next (if_pos hruns)).trans (congrArg Host.Outcome.next h)

theorem exec_statisticApplyStart {i : Fin 88} {sid : BitVec 14} {row : BitVec 48} {p : Fin 4} {t : State}
    (hruns : s.tileRuns i.val = true) (h : s.applyStart i.val sid.toNat row.toNat p.val = t) :
    exec (.statisticApplyStart i sid row p) s = .next t :=
  (congrArg Host.Outcome.next (if_pos hruns)).trans (congrArg Host.Outcome.next h)

end State

/-- Settles O43, a clause for each command: `tileCombine_psum` and `tileCombine_stat`, `combineStat_agree` with `startMerge_band`,
`combinePsum_result`, and `applyStart_of_passWait`. -/
theorem recordsRiseToTheirLevel : Obligations.RecordsRiseToTheirLevel := by
  intro i sid row step x r s st b hx hr
  have hsid := State.sid_of_stream hx
  have hrow := RowCtx.row_of_row hr
  have hb : b < 8 := by
    have := sid.isLt
    simp only [b, sidBand]
    omega
  refine ⟨fun rp a hruns hp hc hop hin hnext ha => ?_, fun rp a hruns hp hc hop hfin hw hroom ha => ?_,
    fun k m hop hm hlay hrecs hmerge hfinal hfull => ?_,
    fun own parts hruns hop hfinal hmerge hparts hall hown => ⟨fun hm => ?_, fun k m hm hlay hroom => ?_⟩,
    fun w parts hruns hop hparts hne hall hnew hw => ?_, fun p rp hruns hp hat => ?_⟩
  · obtain ⟨y, hy, hyr⟩ := s.modRow_found hx hr
      (fun c => { c with psumParts := c.psumParts ++ [(step.val, i.val, a.closeGroup)] }) fun _ => rfl
    refine ⟨_, y, State.exec_tileRecordCombine hruns (State.tileCombine_psum hx hr hp hc hop hin hnext ha), hy, hyr, ?_, fun k hk => ?_, rfl⟩
    · obtain ⟨hs, hrw, hps⟩ := RowPass.key_of_pass hp
      exact State.putPass_pass _ hp ⟨hs, hrw, hps⟩
    · exact State.putPass_tile_ne _ _ _ _ fun h => hk (Fin.ext h.symm)
  · exact State.exec_tileRecordCombine hruns (State.tileCombine_stat hx hr hp hc hop hfin hw hroom ha)
  · have hwait := State.tileCombine_waits (i := i.val) hx hr hop
      (State.levelRoom_full hm hlay hrecs (by rw [hsid, hrow]; exact hmerge) hfinal (by rw [hsid]; exact hfull))
    refine congrArg Host.Outcome.next ?_
    rw [hwait]
    exact ite_self s
  · refine State.exec_bandRecordCombine hruns ?_
    rw [State.bandCombine_stat hx hr hop, State.combineStat_agree hfinal (by rw [hsid, hrow]; exact hmerge)
      (by rw [State.mergeRoom, hm]) (hparts ▸ hall) (hparts ▸ hown), State.bandReady, hm, hsid, hrow]
  · have hmx : s.merge? (sidBand x.sid) x.sid r.row step.val = none := by
      rw [hsid, hrow]
      exact hmerge
    have hbx : sidBand x.sid = b := by rw [hsid]
    have hmk : m = r.chain.stage k := State.mergeOf_stage hm
    have hexec : exec (.bandRecordCombine sid row step) s = .next ((s.modStream x.sid (fun y => y.modRow r.row (fun c =>
        { c with recs := c.recs.filter (fun p => p.1 != step.val) }))).startMerge x r k step.val own (s.rowLen x r st.pass)) := by
      refine State.exec_bandRecordCombine hruns ?_
      rw [State.bandCombine_stat hx hr hop, State.combineStat_agree hfinal hmx
        (by rw [State.mergeRoom, hm, hbx]; simp [hroom]) (hparts ▸ hall) (hparts ▸ hown), State.bandReady, hm]
      exact if_pos (by simp [hmk, hlay])
    have hband := (s.modStream x.sid (fun y => y.modRow r.row (fun c =>
      { c with recs := c.recs.filter (fun p => p.1 != step.val) }))).startMerge_band (k := k) (own := own)
      (total := s.rowLen x r st.pass) (hbx ▸ hb) hmx
    rw [hbx] at hband
    refine ⟨_, { State.begunMerge x r k step.val own (s.rowLen x r st.pass) with
      asked := (State.begunMerge x r k step.val own (s.rowLen x r st.pass)).reads.length, again := false }, hexec,
      congrArg Band.merges hband, rfl, rfl, ?_, ?_, ?_, fun c hc => ?_, ?_⟩
    · exact hrow ▸ rfl
    · rw [State.reads_asked]
    · rw [State.reads_asked]
      exact congrArg Band.fabQueue hband
    · rw [State.startMerge_band_ne (by rw [hbx]; exact hc.symm), State.modStream_band]
    · rw [State.startMerge_tiles, State.modStream_tiles]
  · subst hparts
    have hexec := State.exec_bandRecordCombine hruns
      ((State.bandCombine_psum hx hr hop).trans (State.combinePsum_result hne hall hnew hw))
    rw [hsid, hrow] at hexec
    obtain ⟨y, hy, hyr⟩ := s.modRow_found hx hr (fun c => { c with
      psumParts := (partsOf (sortTiles r.tiles) step.val r.psumParts).map (fun q => (step.val, q.1, q.2)) ++
        c.psumParts.filter (fun p => p.1 != step.val)
      psums := c.psums ++ [(step.val, w.elem)] }) fun _ => rfl
    exact ⟨_, y, _, hexec, hy, hyr, rfl, State.psumSum_parts _ _ _ _ rfl, rfl⟩
  · intro at1 goes
    have hexec {t : State} := State.exec_statisticApplyStart (sid := sid) (row := row) (p := p) (t := t) hruns
    have happly := State.applyStart_of_passWait hx hr hp
    refine ⟨fun j hfree hj => ?_, fun hop hnew => hexec ?_, fun low acc hop hsome hsum => hexec ?_⟩
    · rw [State.passWait_ref hat hfree hj] at happly
      exact ⟨fun hnone => hexec (by rw [happly, hnone]; rfl), fun f hf => hexec (by rw [happly, hf]; rfl)⟩
    · rw [happly, State.passWait_psum hat hop, if_neg (by simpa using fun a h => hnew (rp.next, a) h rfl)]
    · rw [happly, State.passWait_psum hat hop, if_pos (by simpa using hsome), hsum]
      rfl

end Sys2Proof.Machine
end

section
/-!
PROOFS. The head of a tile's queue enters its row pass (R31, R131, R293, R375, R377 to R379): what a batch of elements
leaves of its row pass, what the evaluators grant, and what the notes of the batch report.
-/

namespace Sys2Proof.Machine

/-! ### What a batch leaves of its row pass -/

namespace RowPass

/-- `b` is the row pass `a` further on: its key, its chain and whether it has finished stand. -/
structure Later (a b : RowPass) : Prop where
  sid      : b.sid = a.sid
  row      : b.row = a.row
  pass     : b.pass = a.pass
  chain    : b.chain = a.chain
  finished : b.finished = a.finished

theorem Later.refl (a : RowPass) : Later a a := ⟨rfl, rfl, rfl, rfl, rfl⟩

theorem Later.trans {a b c : RowPass} (h : Later a b) (g : Later b c) : Later a c :=
  ⟨g.sid.trans h.sid, g.row.trans h.row, g.pass.trans h.pass, g.chain.trans h.chain, g.finished.trans h.finished⟩

theorem runElems_later (rp : RowPass) (k : Nat) (stat : Option (Val × Opnd)) (xs : List Slotted) :
    Later rp (runElems rp k stat xs).1 := by
  induction xs generalizing rp with
  | nil => exact .refl rp
  | cons x xs ih =>
    unfold runElems
    refine Later.trans ?_ (ih _)
    exact ⟨rfl, rfl, rfl, rfl, rfl⟩

theorem runStat_later (rp : RowPass) (k : Nat) (ref : StatRef) (xs : List Slotted) : Later rp (runStat rp k ref xs) :=
  ⟨rfl, rfl, rfl, rfl, rfl⟩

theorem runSweepA_later (rp : RowPass) (k : Nat) (xs : List Slotted) : Later rp (runSweepA rp k xs).1 := by
  induction xs generalizing rp with
  | nil => exact .refl rp
  | cons x xs ih =>
    unfold runSweepA
    refine Later.trans ?_ (ih _)
    exact ⟨rfl, rfl, rfl, rfl, rfl⟩

theorem runStage_later (rp : RowPass) (k : Nat) (xs : List Slotted) : Later rp (runStage rp k xs).1 := by
  unfold runStage
  dsimp only
  split
  · refine Later.trans ?_ (runElems_later _ _ _ _)
    split
    · exact runStat_later rp k _ xs
    · exact .refl rp
  · split
    · exact (runStat_later rp k _ xs).trans (runElems_later _ _ _ _)
    · split
      · refine Later.trans ?_ (runElems_later _ _ _ _)
        exact ⟨rfl, rfl, rfl, rfl, rfl⟩
      · exact runElems_later _ _ _ _

theorem runPlain_later (rp : RowPass) (ks : List Nat) (xs : List Slotted) : Later rp (runPlain rp ks xs).1 := by
  induction ks generalizing rp xs with
  | nil => exact .refl rp
  | cons k ks ih =>
    unfold runPlain
    exact (runStage_later rp k xs).trans (ih _ _)

theorem runArrive_later (rp : RowPass) (k : Nat) (xs : List Slotted) : Later rp (runArrive rp k xs).1 := by
  unfold runArrive
  dsimp only
  split
  · exact .refl rp
  · split
    · exact runSweepA_later rp k xs
    · split
      · exact ⟨rfl, rfl, rfl, rfl, rfl⟩
      · exact .refl rp

theorem runBatch_later (rp : RowPass) (start stop : Nat) (xs : List Slotted) : Later rp (runBatch rp start stop xs).1 :=
  (runPlain_later rp _ xs).trans (runArrive_later _ _ _)

theorem countPoison_later (rp : RowPass) (new : List RowElem) : Later rp (rp.countPoison new) := by
  unfold countPoison
  dsimp only
  split
  · exact .refl rp
  · exact ⟨rfl, rfl, rfl, rfl, rfl⟩

theorem enter_later (rp : RowPass) (fs : List PassFault) (new : List RowElem) : Later rp (rp.enter fs new).1 := by
  unfold enter
  have hcount := rp.countPoison_later new
  have hfaults : Later (rp.countPoison new) { rp.countPoison new with faults := rp.faults ++ fs } := ⟨rfl, rfl, rfl, rfl, rfl⟩
  exact ((hcount.trans hfaults).trans (runBatch_later _ _ _ _)).trans ⟨rfl, rfl, rfl, rfl, rfl⟩

/-- What the elements of a beat make of a row pass, with the errors of the beat, and what they note. -/
def takes (rp : RowPass) (q : QEntry) (fs : List HwFault) : RowPass × Notes :=
  rp.enter (fs.map (rp.takeFault rp.taken)) (q.elements rp.chain)

/-- What the lanes ask of the evaluators for the elements of a beat. -/
def asks (rp : RowPass) (q : QEntry) (fs : List HwFault) : List (Nat × List (List EvalKind)) :=
  (rp.takes q fs).1.requests (stagesFrom (rp.chain.passStart rp.pass) rp.next) rp.elems.length

/-- A row pass that has taken a beat which is not its last. -/
def fed (rp : RowPass) (q : QEntry) (fs : List HwFault) : RowPass :=
  let r := (rp.takes q fs).1
  { r with poison := r.poison || q.poisonRow || fs.any (fun f => f.unit == 7), opened := true, tStart := none }

theorem fed_later (rp : RowPass) (q : QEntry) (fs : List HwFault) : Later rp (rp.fed q fs) :=
  (rp.enter_later _ _).trans ⟨rfl, rfl, rfl, rfl, rfl⟩

/-- Each evaluator stands once in what the lanes of a row pass ask for. -/
theorem requests_nodup (rp : RowPass) (ks : List Nat) (lo : Nat) : ((rp.requests ks lo).map Prod.fst).Nodup := by
  unfold requests
  dsimp only
  split
  · exact List.nodup_nil
  · rw [List.map_map]
    refine List.Nodup.map_on (fun a ha b hb h => ?_) List.nodup_range
    simp only [Function.comp, List.mem_range] at ha hb h
    omega

end RowPass

/-! ### What the evaluators grant (R131, book 6) -/

/-- Evaluator `e` of tile `y` has issued `grants` grants and returned their results, and its lane pointer stands at `ptr`. -/
def Tile.Served (y z : Tile) (e grants ptr : Nat) : Prop :=
  refOf z.evalGrants e = refOf y.evalGrants e + grants ∧ refOf z.evalResults e = refOf y.evalResults e + grants ∧
    refOf z.lanePtrs e = ptr

theorem refOf_countAt_replicate (a n e : Nat) (l : List (Nat × Nat)) :
    refOf ((List.replicate n a).foldl (fun l e => countAt e l) l) e = refOf l e + (if a = e then n else 0) := by
  induction n generalizing l with
  | zero => simp
  | succ n ih =>
    rw [List.replicate_succ, List.foldl_cons, ih, refOf_countAt]
    by_cases h : a = e
    · simp [h]
      omega
    · simp [h, Ne.symm h]

theorem Tile.serve_same (y : Tile) (q : Nat × List (List EvalKind)) :
    let n := arbServe (q.2.map List.length).sum q.2 (refOf y.lanePtrs q.1)
    y.Served (y.serve q) q.1 n.1 n.2 := by
  refine ⟨?_, ?_, ?_⟩
  · exact (refOf_countAt_replicate _ _ _ _).trans (by rw [if_pos rfl])
  · exact (refOf_countAt_replicate _ _ _ _).trans (by rw [if_pos rfl])
  · exact (refOf_setAt _ _ _ _).trans (if_pos rfl)

theorem Tile.serve_other (y : Tile) (q : Nat × List (List EvalKind)) {e : Nat} (h : q.1 ≠ e) :
    y.Served (y.serve q) e 0 (refOf y.lanePtrs e) := by
  refine ⟨?_, ?_, ?_⟩
  · exact (refOf_countAt_replicate _ _ _ _).trans (by rw [if_neg h])
  · exact (refOf_countAt_replicate _ _ _ _).trans (by rw [if_neg h])
  · exact (refOf_setAt _ _ _ _).trans (if_neg h.symm)

theorem Tile.serves_other (y : Tile) (qs : List (Nat × List (List EvalKind))) {e : Nat} (h : ∀ a ∈ qs, a.1 ≠ e) :
    y.Served (qs.foldl Tile.serve y) e 0 (refOf y.lanePtrs e) := by
  induction qs generalizing y with
  | nil => exact ⟨rfl, rfl, rfl⟩
  | cons q qs ih =>
    obtain ⟨hg, hr, hp⟩ := y.serve_other q (h q (by simp))
    obtain ⟨ig, ir, ip⟩ := ih (y.serve q) fun a ha => h a (by simp [ha])
    exact ⟨ig.trans hg, ir.trans hr, ip.trans hp⟩

/-- An evaluator that stands once among those asked serves its own lanes, whatever the others do. -/
theorem Tile.serves_mem (y : Tile) (qs : List (Nat × List (List EvalKind))) (hnodup : (qs.map Prod.fst).Nodup)
    {a : Nat × List (List EvalKind)} (ha : a ∈ qs) :
    let n := arbServe (a.2.map List.length).sum a.2 (refOf y.lanePtrs a.1)
    y.Served (qs.foldl Tile.serve y) a.1 n.1 n.2 := by
  induction qs generalizing y with
  | nil => cases ha
  | cons q qs ih =>
    rw [List.map_cons, List.nodup_cons] at hnodup
    obtain ⟨hnew, hrest⟩ := hnodup
    rcases List.mem_cons.1 ha with rfl | hmem
    · obtain ⟨hg, hr, hp⟩ := y.serve_same a
      obtain ⟨ig, ir, ip⟩ := (y.serve a).serves_other qs (e := a.1) fun b hb heq => hnew (heq ▸ List.mem_map_of_mem hb)
      exact ⟨ig.trans hg, ir.trans hr, ip.trans hp⟩
    · have hne : q.1 ≠ a.1 := fun heq => hnew (heq ▸ List.mem_map_of_mem hmem)
      obtain ⟨hg, hr, hp⟩ := y.serve_other q hne
      obtain ⟨ig, ir, ip⟩ := ih (y.serve q) hrest hmem
      rw [hp] at ig ir ip
      exact ⟨ig.trans (by rw [hg]; rfl), ir.trans (by rw [hr]; rfl), ip⟩

namespace State

variable {s t u : State}

/-! ### Reports of a batch (R75, R375) -/

/-- The bits of INT_STATUS that stand in `s` stand in `t`. -/
def KeepsInt (s t : State) : Prop := ∀ k, s.intStatus.getLsbD k = true → t.intStatus.getLsbD k = true

theorem setInt_keepsInt (s : State) (k : Nat) : KeepsInt s (s.setInt k) := fun j h => by
  simp [setInt, BitVec.getLsbD_or, h]

theorem holdEvent_keepsInt (s : State) (e : Event) : KeepsInt s (s.holdEvent e) := by
  unfold holdEvent markFull
  split
  · exact setInt_keepsInt _ _
  · exact fun _ h => h

theorem takeTaps_keepsInt (s : State) (n : Nat) : KeepsInt s (s.takeTaps n) := by
  induction n generalizing s with
  | zero => exact fun _ h => h
  | succ n ih =>
    unfold takeTaps
    split
    · split
      · exact fun _ h => h
      · exact fun k h => ih _ k (holdEvent_keepsInt _ _ k h)
    · exact fun _ h => h

theorem report2_keepsInt (s : State) (src code : Nat) (p : Nat → Nat) (q : Option Nat) : KeepsInt s (s.report2 src code p q) := by
  intro k h
  have htaken := s.takeTaps_keepsInt 4096 k h
  unfold report2
  dsimp only
  split
  · split
    · exact holdEvent_keepsInt _ _ k htaken
    · exact htaken
  · split
    · exact htaken
    · split
      · exact holdEvent_keepsInt _ _ k htaken
      · exact htaken

/-- From `s` to `t` a batch has reported findings other than FIRST_NAN: the streams are suspended as before. -/
structure Noted (s t : State) : Prop where
  frame   : t = { s with streams := t.streams, taps := t.taps, arb := t.arb, intStatus := t.intStatus }
  int     : KeepsInt s t
  nans    : ∀ src, t.kindCount src evFirstNan = s.kindCount src evFirstNan
  streams : ∀ y ∈ t.streams, ∃ x ∈ s.streams, y.sid = x.sid ∧ y.suspended = x.suspended ∧ y.causes = x.causes

theorem Noted.tile (h : Noted s t) (k : Nat) : t.tile k = s.tile k := by
  rw [h.frame]
  rfl

theorem Noted.refl (s : State) : Noted s s := ⟨rfl, fun _ h => h, fun _ => rfl, fun y hy => ⟨y, hy, rfl, rfl, rfl⟩⟩

theorem Noted.trans (h : Noted s t) (g : Noted t u) : Noted s u where
  frame := by rw [g.frame, h.frame]
  int k hk := g.int k (h.int k hk)
  nans src := (g.nans src).trans (h.nans src)
  streams y hy := by
    obtain ⟨x, hx, hsid, hsus, hcauses⟩ := g.streams y hy
    obtain ⟨z, hz, zsid, zsus, zcauses⟩ := h.streams x hx
    exact ⟨z, hz, hsid.trans zsid, hsus.trans zsus, hcauses.trans zcauses⟩

theorem Noted.report (s : State) (src code : Nat) (p : Nat → Nat) (h : evFirstNan ≠ code) : Noted s (s.report src code p) where
  frame := by rw [report_frame]
  int := s.report2_keepsInt src code p none
  nans k := (s.report_kindCount src code p k evFirstNan).trans (if_neg fun hk => h hk.2)
  streams y hy := ⟨y, by rwa [report_streams] at hy, rfl, rfl, rfl⟩

theorem Noted.foldl {α : Type} {f : State → α → State} (h : ∀ s a, Noted s (f s a)) (l : List α) (s : State) :
    Noted s (l.foldl f s) := by
  induction l generalizing s with
  | nil => exact .refl s
  | cons a l ih => exact (h s a).trans (ih _)

theorem Noted.modStream (s : State) (sid : Nat) {f : Stream → Stream}
    (hf : ∀ x, (f x).sid = x.sid ∧ (f x).suspended = x.suspended ∧ (f x).causes = x.causes) : Noted s (s.modStream sid f) where
  frame := rfl
  int _ h := h
  nans _ := rfl
  streams y hy := by
    obtain ⟨x, hx, rfl⟩ := List.mem_map.1 hy
    refine ⟨x, hx, ?_⟩
    split
    · exact hf x
    · exact ⟨rfl, rfl, rfl⟩

theorem Noted.countTap (s : State) (src n : Nat) : Noted s (s.countTap src evSaturation n) := by
  unfold State.countTap
  split
  · exact .refl s
  · refine ⟨rfl, fun _ h => h, fun k => ?_, fun y hy => ⟨y, hy, rfl, rfl, rfl⟩⟩
    let x : Tap := { s.tapOf src evSaturation with count := min ((s.tapOf src evSaturation).count + n) 0xFFFFFFFF }
    have hof : x.of src evSaturation = true := s.tapOf_of src evSaturation
    have hno : x.of k evFirstNan = false := by
      rw [Tap.of_eq_false, ((Tap.of_iff _ _ _).1 hof).2]
      exact fun h => absurd h.2 (by decide)
    exact (kindCount_of_find x (fun a c => find_putTap x s.taps a c) k evFirstNan).trans (if_neg (by simp [hno]))

theorem Noted.noteSats (s : State) (i : Nat) (rp : RowPass) (sats : List (Nat × Nat × Nat)) : Noted s (s.noteSats i rp sats) := by
  unfold State.noteSats
  split
  · split
    · refine ((Noted.report s i evSaturation _ (by decide)).trans (.modStream _ _ ?_)).trans (.countTap _ _ _)
      exact fun _ => ⟨rfl, rfl, rfl⟩
    · exact .countTap _ _ _
  · exact .countTap _ _ _
  · exact .refl s

theorem Noted.noteFault (s : State) (i : Nat) (rp : RowPass) (f : HwFault) : Noted s (s.noteFault i rp f) := by
  refine Noted.report _ _ _ _ ?_
  cases f.kind <;> decide

/-! ### The trap (R377 to R379) -/

/-- The trap with its record, which names the first NaN. -/
def latchTrap (s : State) (i : Nat) (rp : RowPass) (n : NanNote) (more : List NanNote) : State :=
  { s with trap := { s.trap with
      record := BitVec.ofNat 192 (s.elemPayload i rp n.stage n.step n.col), valid := true, count := min more.length 0xFFFFFFFF } }

/-- The trap latches its first NaN. -/
def latchNan (s : State) (i : Nat) (rp : RowPass) (n : NanNote) (more : List NanNote) : State :=
  ((s.latchTrap i rp n more).setInt intTrap).notice i evFirstNan (s.elemPayload i rp n.stage n.step n.col)

theorem latchTrap_kindCount (s : State) (i : Nat) (rp : RowPass) (n : NanNote) (more : List NanNote) (src code : Nat) :
    (s.latchTrap i rp n more).kindCount src code = s.kindCount src code := kindCount_congr rfl src code

/-- The NaNs that meet TRIG. -/
def seenNans (s : State) (nans : List NanNote) : List NanNote := nans.filter (fun n => !s.trap.trig || n.created)

theorem noteNans_stands {i : Nat} {rp : RowPass} {nans : List NanNote}
    (h : s.seenNans nans = [] ∨ (s.trap.arm = false ∧ s.trap.valid = false)) : s.noteNans i rp nans = s := by
  unfold seenNans at h
  unfold noteNans
  dsimp only
  split
  case h_1 => rfl
  case h_2 n more hseen =>
    obtain ⟨harm, hvalid⟩ := h.resolve_left (by rw [hseen]; exact List.cons_ne_nil _ _)
    rw [if_neg (by simp [hvalid]), if_pos (by simp [harm])]

theorem noteNans_counts {i : Nat} {rp : RowPass} {nans : List NanNote} (h : s.seenNans nans ≠ [])
    (hvalid : s.trap.valid = true) : s.noteNans i rp nans =
      { s with trap := { s.trap with count := min (s.trap.count + (s.seenNans nans).length) 0xFFFFFFFF } } := by
  unfold seenNans at h ⊢
  unfold noteNans
  dsimp only
  split
  case h_1 hseen => exact absurd hseen h
  case h_2 n more hseen => rw [if_pos hvalid]

theorem noteNans_latches {i : Nat} {rp : RowPass} {nans more : List NanNote} {n : NanNote} (h : s.seenNans nans = n :: more)
    (harm : s.trap.arm = true) (hvalid : s.trap.valid = false) : s.noteNans i rp nans =
      if s.trap.halt then (s.latchNan i rp n more).haltBand (bandOf i) else s.latchNan i rp n more := by
  unfold seenNans at h
  unfold noteNans
  dsimp only
  rw [h]
  dsimp only
  rw [if_neg (by simp [hvalid]), if_neg (by simp [harm])]
  rw [notice, report_trap]
  rfl

theorem latchNan_frame (s : State) (i : Nat) (rp : RowPass) (n : NanNote) (more : List NanNote) :
    s.latchNan i rp n more = { s with
      trap := { s.trap with record := BitVec.ofNat 192 (s.elemPayload i rp n.stage n.step n.col), valid := true,
                            count := min more.length 0xFFFFFFFF }
      intStatus := (s.latchNan i rp n more).intStatus, taps := (s.latchNan i rp n more).taps
      arb := (s.latchNan i rp n more).arb } := by
  unfold latchNan
  rw [notice, report_frame]
  rfl

theorem latchNan_int (s : State) (i : Nat) (rp : RowPass) (n : NanNote) (more : List NanNote) :
    (s.latchNan i rp n more).intStatus.getLsbD 12 = true := by
  have hset := setInt_bit (s.latchTrap i rp n more) 12 (by decide)
  unfold latchNan notice report
  exact report2_keepsInt _ _ _ _ _ 12 hset

theorem latchNan_kindCount (s : State) (i : Nat) (rp : RowPass) (n : NanNote) (more : List NanNote) :
    (s.latchNan i rp n more).kindCount i evFirstNan = satInc (s.kindCount i evFirstNan) := by
  unfold latchNan
  rw [notice_kindCount, if_pos ⟨rfl, rfl⟩, kindCount_congr (setInt_taps (s.latchTrap i rp n more) intTrap),
    latchTrap_kindCount]

/-! ### A band halted (R379) -/

/-- The stream is suspended, and the trap is among the causes. -/
def stopped (x : Stream) : Prop := x.suspended = true ∧ x.causes.halt = true

/-- The trap suspends streams. -/
def stopStreams (l : List Stream) (s : State) : State :=
  l.foldl (fun s x => s.suspend x.sid (fun c => { c with halt := true })) s

/-- Every stream that the trap suspends stands stopped, and those that were stopped do. -/
theorem stopStreams_streams (l : List Stream) (s : State) :
    ∀ y ∈ (stopStreams l s).streams,
      ∃ z ∈ s.streams, z.sid = y.sid ∧ (stopped z ∨ (∃ x ∈ l, x.sid = z.sid) → stopped y) := by
  induction l generalizing s with
  | nil => exact fun y hy => ⟨y, hy, rfl, fun h => h.resolve_right (by simp)⟩
  | cons x l ih =>
    intro y hy
    obtain ⟨z, hz, hsid, hstop⟩ := ih _ y hy
    obtain ⟨w, hw, rfl⟩ := List.mem_map.1 hz
    by_cases hx : w.sid = x.sid
    · rw [if_pos (by simpa using hx)] at hsid hstop
      refine ⟨w, hw, ?_, fun _ => hstop (.inl ?_)⟩
      · rw [← hsid]
        dsimp only
        split <;> rfl
      · unfold stopped
        dsimp only
        split
        case isTrue h => exact ⟨h, rfl⟩
        case isFalse => exact ⟨rfl, rfl⟩
    · rw [if_neg (by simpa using hx)] at hsid hstop
      refine ⟨w, hw, hsid, fun h => hstop (h.imp_right ?_)⟩
      rintro ⟨v, hv, hvw⟩
      rcases List.mem_cons.1 hv with rfl | hmem
      · exact absurd hvw.symm hx
      · exact ⟨v, hmem, hvw⟩

theorem stopStreams_frame (l : List Stream) (s : State) :
    stopStreams l s = { s with streams := (stopStreams l s).streams } := by
  unfold stopStreams
  induction l generalizing s with
  | nil => rfl
  | cons x l ih =>
    rw [List.foldl_cons, ih]
    rfl

theorem stopStreams_tile (l : List Stream) (s : State) (k : Nat) : (stopStreams l s).tile k = s.tile k := by
  rw [stopStreams_frame]
  rfl

theorem stopStreams_band (l : List Stream) (s : State) (b : Nat) : (stopStreams l s).band b = s.band b := by
  rw [stopStreams_frame]
  rfl

theorem stopStreams_trap (l : List Stream) (s : State) : (stopStreams l s).trap = s.trap := by
  rw [stopStreams_frame]

theorem stopStreams_taps (l : List Stream) (s : State) : (stopStreams l s).taps = s.taps := by
  rw [stopStreams_frame]

theorem stopStreams_intStatus (l : List Stream) (s : State) : (stopStreams l s).intStatus = s.intStatus := by
  rw [stopStreams_frame]

/-- The beats of a band's tiles that OPD_OUT's queue holds as the band stops. -/
def opdLeaves (s : State) (b : Nat) (x : Band) : Band :=
  { x with opdLeft := (bandTiles b).map (fun t => min 16 (s.tile t).egress.length) }

theorem opdCross_bands (s : State) (b : Nat) :
    (s.opdCross b).bands = if s.bandRuns b then (s.modBand b (s.opdLeaves b)).bands else s.bands := by
  unfold opdCross
  split <;> rfl

theorem opdCross_band_ne (s : State) {b c : Nat} (h : b ≠ c) : (s.opdCross b).band c = s.band c := by
  have hmod := s.modBand_band_ne b c (s.opdLeaves b) h
  unfold band at hmod ⊢
  rw [opdCross_bands]
  split
  · exact hmod
  · rfl

theorem opdCross_tile (s : State) (b k : Nat) :
    (s.opdCross b).tile k = { s.tile k with xevLeft := ((s.opdCross b).tile k).xevLeft } := by
  unfold opdCross
  split
  · simp only [tile, modBand_tiles, Vector.getElem?_mapIdx]
    cases s.tiles[k]? with
    | none => rfl
    | some x =>
      rw [Option.map_some, Option.getD_some, Option.getD_some]
      split <;> rfl
  · rfl

theorem opdCross_trap (s : State) (b : Nat) : (s.opdCross b).trap = s.trap := by
  unfold opdCross
  split <;> rfl

theorem opdCross_taps (s : State) (b : Nat) : (s.opdCross b).taps = s.taps := by
  unfold opdCross
  split <;> rfl

theorem opdCross_intStatus (s : State) (b : Nat) : (s.opdCross b).intStatus = s.intStatus := by
  unfold opdCross
  split <;> rfl

/-- The band stands still, before its streams are suspended. -/
def stopBand (s : State) (b : Nat) : State :=
  (((s.fabCross b).modBand b (fun x => { x with halted := true })).setInt intHalt).trapHalted

theorem trapHalted_tile (s : State) (k : Nat) : s.trapHalted.tile k = s.tile k := rfl

theorem stopBand_tile (s : State) (b k : Nat) : (s.stopBand b).tile k = s.tile k := by
  unfold stopBand fabCross
  rw [trapHalted_tile, setInt_tile, modBand_tile, modBand_tile]

theorem stopBand_trap (s : State) (b : Nat) : (s.stopBand b).trap = { s.trap with halted := true } := by
  unfold stopBand fabCross trapHalted
  rw [setInt_trap, modBand_trap, modBand_trap]

theorem stopBand_taps (s : State) (b : Nat) : (s.stopBand b).taps = s.taps := by
  unfold stopBand fabCross trapHalted
  rw [setInt_taps, modBand_taps, modBand_taps]

theorem stopBand_intStatus (s : State) (b : Nat) : (s.stopBand b).intStatus = (s.setInt intHalt).intStatus := by
  unfold stopBand fabCross trapHalted setInt
  rw [modBand_intStatus, modBand_intStatus]

theorem stopBand_band (s : State) {b : Nat} (hb : b < 8) : ((s.stopBand b).band b).halted = true :=
  congrArg Band.halted (modBand_band (s.fabCross b) b (fun x => { x with halted := true }) hb)

theorem stopBand_band_ne (s : State) {b c : Nat} (h : b ≠ c) : (s.stopBand b).band c = s.band c :=
  (modBand_band_ne (s.fabCross b) b c (fun x => { x with halted := true }) h).trans (modBand_band_ne s b c _ h)

theorem haltBand_eq (s : State) (b : Nat) :
    s.haltBand b = stopStreams (((s.opdCross b).stopBand b).streamsIn b) ((s.opdCross b).stopBand b) := rfl

theorem haltBand_tile (s : State) (b k : Nat) :
    (s.haltBand b).tile k = { s.tile k with xevLeft := ((s.haltBand b).tile k).xevLeft } := by
  rw [haltBand_eq, stopStreams_tile, stopBand_tile]
  exact s.opdCross_tile b k

theorem haltBand_band (s : State) {b : Nat} (hb : b < 8) : ((s.haltBand b).band b).halted = true := by
  rw [haltBand_eq, stopStreams_band, stopBand_band _ hb]

theorem haltBand_band_ne (s : State) {b c : Nat} (h : b ≠ c) : (s.haltBand b).band c = s.band c := by
  rw [haltBand_eq, stopStreams_band, stopBand_band_ne _ h, opdCross_band_ne _ h]

theorem haltBand_trap (s : State) (b : Nat) : (s.haltBand b).trap = { s.trap with halted := true } := by
  rw [haltBand_eq, stopStreams_trap, stopBand_trap, opdCross_trap]

theorem haltBand_kindCount (s : State) (b src code : Nat) : (s.haltBand b).kindCount src code = s.kindCount src code := by
  refine kindCount_congr ?_ src code
  rw [haltBand_eq, stopStreams_taps, stopBand_taps, opdCross_taps]

theorem haltBand_intStatus (s : State) (b : Nat) : (s.haltBand b).intStatus = (s.setInt intHalt).intStatus := by
  rw [haltBand_eq, stopStreams_intStatus, stopBand_intStatus]
  unfold setInt
  rw [opdCross_intStatus]

theorem haltBand_streams (s : State) (b : Nat) : ∀ y ∈ (s.haltBand b).streams, sidBand y.sid = b → stopped y := by
  intro y hy hband
  rw [haltBand_eq] at hy
  obtain ⟨z, hz, hsid, hstop⟩ := stopStreams_streams _ _ y hy
  refine hstop (.inr ⟨z, List.mem_filter.2 ⟨hz, ?_⟩, rfl⟩)
  simp [hsid, hband]

/-! ### A tile whose row pass is open -/

/-- A row pass that still takes its elements goes no further by itself. -/
theorem advancePass_opened {i sid row pass : Nat} {rp : RowPass} (hp : (s.tile i).pass? sid row pass = some rp)
    (hopen : rp.opened = true) (hfin : rp.finished = false) : s.advancePass i sid row pass = s := by
  unfold advancePass
  extract_lets s1 s2 s3 s4
  have h1 : s1 = s := by simp [s1, hp, hfin, RowPass.ran, hopen]
  have h2 : s2 = s := by simp [s2, h1, hp, hfin]
  have h3 : s3 = s := by simp [s3, h2, hp, hfin]
  have h4 : s4 = s := by
    simp only [s4, h3, hp]
    split
    case h_1 _ _ q r hq hr =>
      obtain rfl := Option.some.inj hq
      rw [if_neg (by simp [RowPass.over, hfin])]
    case h_2 => rfl
  rw [h4, hp]
  split
  case h_1 _ _ q r hq hr =>
    obtain rfl := Option.some.inj hq
    rw [if_neg (by simp [RowPass.done, hfin])]
  case h_2 => rfl

theorem settleTile_opened {i : Nat} {rp : RowPass} (hrows : (s.tile i).rows = [rp]) (hblocks : (s.tile i).blocks = [])
    (hopen : rp.opened = true) (hfin : rp.finished = false) : s.settleTile i = s := by
  have hkeys : (s.tile i).keys = [(rp.sid, rp.row, rp.pass)] := by
    rw [Tile.keys, hrows]
    rfl
  have hp : (s.tile i).pass? rp.sid rp.row rp.pass = some rp := by
    rw [Tile.pass?, hrows]
    simp
  have hpass : s.settlePass i rp.sid rp.row rp.pass = s := by
    unfold settlePass
    rw [advancePass_opened hp hopen hfin, ite_self]
  unfold settleTile
  simp only [hkeys, List.foldl_cons, List.foldl_nil, hpass, hblocks]

/-! ### A batch in its tile -/

/-- The first NaN halts the band, or the notes of a batch change the trap and report alone. -/
theorem noteNans_cases (s : State) (i : Nat) (rp : RowPass) (nans : List NanNote) :
    (s.noteNans i rp nans = { s with trap := (s.noteNans i rp nans).trap }) ∨
      ∃ n more, s.noteNans i rp nans =
        if s.trap.halt then (s.latchNan i rp n more).haltBand (bandOf i) else s.latchNan i rp n more := by
  cases hseen : s.seenNans nans with
  | nil => exact .inl (by rw [noteNans_stands (.inl hseen)])
  | cons n more =>
    cases hvalid : s.trap.valid with
    | true => exact .inl (by rw [noteNans_counts (by rw [hseen]; exact List.cons_ne_nil _ _) hvalid])
    | false =>
      cases harm : s.trap.arm with
      | true => exact .inr ⟨n, more, noteNans_latches hseen harm hvalid⟩
      | false => exact .inl (by rw [noteNans_stands (.inr ⟨harm, hvalid⟩)])

theorem latchTrap_tile (s : State) (i : Nat) (rp : RowPass) (n : NanNote) (more : List NanNote) (k : Nat) :
    (s.latchTrap i rp n more).tile k = s.tile k := rfl

theorem latchTrap_band (s : State) (i : Nat) (rp : RowPass) (n : NanNote) (more : List NanNote) (b : Nat) :
    (s.latchTrap i rp n more).band b = s.band b := rfl

theorem latchNan_tile (s : State) (i : Nat) (rp : RowPass) (n : NanNote) (more : List NanNote) (k : Nat) :
    (s.latchNan i rp n more).tile k = s.tile k := by
  unfold latchNan notice
  rw [report_tile, setInt_tile, latchTrap_tile]

theorem latchNan_band (s : State) (i : Nat) (rp : RowPass) (n : NanNote) (more : List NanNote) (b : Nat) :
    (s.latchNan i rp n more).band b = s.band b := by
  unfold latchNan notice
  rw [report_band, setInt_band, latchTrap_band]

theorem latchNan_trap (s : State) (i : Nat) (rp : RowPass) (n : NanNote) (more : List NanNote) :
    (s.latchNan i rp n more).trap = { s.trap with
      record := BitVec.ofNat 192 (s.elemPayload i rp n.stage n.step n.col), valid := true
      count := min more.length 0xFFFFFFFF } := by
  rw [latchNan_frame]

/-- Of a tile the notes of a batch change the XEV responses that have crossed, and those only as the trap halts the band. -/
theorem noteNans_tile (s : State) (i : Fin 88) (rp : RowPass) (nans : List NanNote) (k : Nat) :
    ((s.noteNans i.val rp nans).tile k = { s.tile k with xevLeft := ((s.noteNans i.val rp nans).tile k).xevLeft }) ∧
      (((s.noteNans i.val rp nans).band (bandOf i.val)).halted = false → (s.noteNans i.val rp nans).tile k = s.tile k) := by
  rcases s.noteNans_cases i.val rp nans with h | ⟨n, more, h⟩
  · have htile : (s.noteNans i.val rp nans).tile k = s.tile k := by
      rw [h]
      rfl
    rw [htile]
    exact ⟨rfl, fun _ => rfl⟩
  · rw [h]
    split
    · refine ⟨?_, fun hrun => ?_⟩
      · rw [haltBand_tile, latchNan_tile]
      · rw [haltBand_band _ (bandOf_lt i)] at hrun
        cases hrun
    · rw [latchNan_tile]
      exact ⟨rfl, fun _ => rfl⟩

/-- The armed trap latches its first NaN (R377), and with HALT stops the band of the tile alone (R379). -/
theorem noteNans_latched {i : Fin 88} {rp : RowPass} {nans more : List NanNote} {n : NanNote} (h : s.seenNans nans = n :: more)
    (harm : s.trap.arm = true) (hvalid : s.trap.valid = false) :
    let u := s.noteNans i.val rp nans
    let b := bandOf i.val
    u.trap = { s.trap with
      record := BitVec.ofNat 192 (s.elemPayload i.val rp n.stage n.step n.col), count := min more.length 0xFFFFFFFF
      valid := true, halted := s.trap.halted || s.trap.halt } ∧
    u.intStatus.getLsbD 12 = true ∧ u.kindCount i.val evFirstNan = satInc (s.kindCount i.val evFirstNan) ∧
    (s.trap.halt = true → (u.band b).halted = true ∧ u.intStatus.getLsbD 13 = true ∧
      ∀ y ∈ u.streams, sidBand y.sid = b → stopped y) ∧
    (s.trap.halt = false → u.band b = s.band b) ∧ ∀ c, b ≠ c → u.band c = s.band c := by
  dsimp only
  rw [noteNans_latches h harm hvalid]
  cases hhalt : s.trap.halt with
  | true =>
    rw [if_pos rfl]
    refine ⟨?_, ?_, ?_, fun _ => ⟨haltBand_band _ (bandOf_lt i), ?_, haltBand_streams _ _⟩, nofun, fun c hc => ?_⟩
    · rw [haltBand_trap, latchNan_trap, Bool.or_true, ← hhalt]
    · rw [haltBand_intStatus]
      exact setInt_keepsInt _ _ 12 (s.latchNan_int i.val rp n more)
    · rw [haltBand_kindCount, latchNan_kindCount]
    · rw [haltBand_intStatus]
      exact setInt_bit _ 13 (by decide)
    · rw [haltBand_band_ne _ hc, latchNan_band]
  | false =>
    rw [if_neg Bool.false_ne_true]
    refine ⟨?_, s.latchNan_int i.val rp n more, s.latchNan_kindCount i.val rp n more, nofun, fun _ => latchNan_band _ _ _ _ _ _,
      fun c _ => latchNan_band _ _ _ _ _ _⟩
    rw [latchNan_trap, Bool.or_false, ← hhalt]

theorem elemPayload_later {a b : RowPass} (h : a.Later b) (s : State) (i k step col : Nat) :
    s.elemPayload i b k step col = s.elemPayload i a k step col := by
  unfold elemPayload
  rw [h.chain, h.sid, h.pass, h.row]

theorem passRan_tile (s : State) {i : Fin 88} {rp old : RowPass} (qs : List (Nat × List (List EvalKind)))
    (hrows : (s.tile i.val).rows = [old]) (hlater : old.Later rp) :
    (s.passRan i.val rp qs).tile i.val = qs.foldl Tile.serve { s.tile i.val with rows := [rp] } := by
  have hput : (s.putPass i.val rp).tile i.val = { s.tile i.val with rows := [rp] } := by
    rw [putPass, modTile_tile _ _ _ i.isLt, Tile.modPass, hrows, List.map_cons, List.map_nil,
      if_pos (by simp [hlater.sid, hlater.row, hlater.pass])]
  rw [passRan, modTile_tile _ _ _ i.isLt, hput]

theorem passRan_tile_ne (s : State) {i k : Nat} (h : i ≠ k) (rp : RowPass) (qs : List (Nat × List (List EvalKind))) :
    (s.passRan i rp qs).tile k = s.tile k :=
  (modTile_tile_ne _ _ _ _ h).trans (putPass_tile_ne _ _ _ _ h)

/-- A beat that is not the last of its row pass goes through the stages, and the row pass stays open. -/
theorem feed_goesOn {i : Fin 88} {q : QEntry} {rp : RowPass} {fs : List HwFault} (hp : (s.tile i.val).pass? q.sid q.row q.pass = some rp)
    (hrows : (s.tile i.val).rows = [rp]) (hblocks : (s.tile i.val).blocks = []) (hopen : rp.opened = true)
    (hfin : rp.finished = false) (hlast : q.last = false) :
    Noted ((s.passRan i.val (rp.fed q fs) (rp.asks q fs)).noteNans i.val (rp.fed q fs) (rp.takes q fs).2.nans)
      (s.feed i.val q fs) := by
  let u := (s.passRan i.val (rp.fed q fs) (rp.asks q fs)).noteNans i.val (rp.fed q fs) (rp.takes q fs).2.nans
  let v := fs.foldl (fun s f => s.noteFault i.val (rp.fed q fs) f)
    ((s.passRan i.val (rp.fed q fs) (rp.asks q fs)).addNotes i.val (rp.fed q fs) (rp.takes q fs).2)
  have hnoted : Noted u v := (Noted.noteSats _ _ _ _).trans (.foldl (fun s f => .noteFault s i.val (rp.fed q fs) f) fs _)
  have hlater := rp.fed_later q fs
  have htile : v.tile i.val = { (rp.asks q fs).foldl Tile.serve { s.tile i.val with rows := [rp.fed q fs] } with
      xevLeft := (v.tile i.val).xevLeft } := by
    rw [hnoted.tile, ← passRan_tile s (rp.asks q fs) hrows hlater]
    exact (noteNans_tile _ i _ _ i.val).1
  have hsettle : v.settleTile i.val = v := by
    refine settleTile_opened (rp := rp.fed q fs) ?_ ?_ rfl (hlater.finished.trans hfin)
    · rw [htile, Tile.serves_frame]
    · rw [htile, Tile.serves_frame]
      exact hblocks
  have hfeed : s.feed i.val q fs = v.settleTile i.val := by
    unfold feed
    rw [hp]
    dsimp only
    rw [if_neg (by simp [hopen])]
    simp only [hlast, Bool.false_eq_true, if_false, Bool.not_false]
    rfl
  rw [hfeed, hsettle]
  exact hnoted

/-! ### ACC_BEAT_DEQUEUE -/

/-- The head of the queue is taken. -/
def popped (s : State) (i : Nat) (rest : List QEntry) : State :=
  s.booked (fun s => s.modTile i (fun y => { y with queue := rest }))

section
variable {i : Fin 88} {fs : List HwFault} {cor : Corrected} {q : QEntry} {rest : List QEntry} {x : Stream}

theorem takeHead_eq (hq : (s.tile i.val).queue = q :: rest) :
    s.takeHead i.val fs = (s.popped i.val rest).takeEntry i.val q fs := by
  unfold takeHead
  rw [hq]
  rfl

theorem exec_dequeue_waits (hruns : s.tileRuns i.val = true) (hq : (s.tile i.val).queue = q :: rest) (hbeat : q.isBeat = true)
    (h : (s.popped i.val rest).takeEntry i.val q fs = none) : exec (.accBeatDequeue i fs cor) s = .next s := by
  have hhead : HeadIsBeat (s.tile i.val).queue := hq ▸ HeadIsBeat.append (.single hbeat) (by simp)
  refine (congrArg Host.Outcome.next (if_pos hruns)).trans (congrArg Host.Outcome.next ?_)
  rw [drainMarks_beat 256 hhead]
  dsimp only
  rw [takeHead_eq hq, h]

theorem exec_dequeue_takes (hruns : s.tileRuns i.val = true) (hq : (s.tile i.val).queue = q :: rest) (hbeat : q.isBeat = true)
    (h : (s.popped i.val rest).takeEntry i.val q fs = some u) :
    exec (.accBeatDequeue i fs cor) s = .next ((u.addCorrected i.val cor).drainMarks i.val 256) := by
  have hhead : HeadIsBeat (s.tile i.val).queue := hq ▸ HeadIsBeat.append (.single hbeat) (by simp)
  refine (congrArg Host.Outcome.next (if_pos hruns)).trans (congrArg Host.Outcome.next ?_)
  rw [drainMarks_beat 256 hhead]
  dsimp only
  rw [takeHead_eq hq, h]

/-- So does one behind which no mark stands. -/
theorem exec_dequeue_ends (hruns : s.tileRuns i.val = true) (hq : (s.tile i.val).queue = q :: rest) (hbeat : q.isBeat = true)
    (h : (s.popped i.val rest).takeEntry i.val q fs = some u) (hqueue : (u.tile i.val).queue = rest) (hrest : HeadIsBeat rest) :
    exec (.accBeatDequeue i fs cor) s = .next (u.addCorrected i.val cor) := by
  rw [exec_dequeue_takes hruns hq hbeat h, drainMarks_beat 256]
  rw [addCorrected, modTile_tile _ _ _ i.isLt]
  exact hqueue ▸ hrest

theorem takeEntry_waits (hx : s.stream? q.sid = some x) (hin : x.runsIn i.val q.row = true) (hfirst : q.first = true)
    (hmay : s.mayBegin i.val x q = false) : s.takeEntry i.val q fs = none := by
  simp [takeEntry, hx, hin, hfirst, hmay]

theorem takeEntry_begins (hx : s.stream? q.sid = some x) (hin : x.runsIn i.val q.row = true) (hfirst : q.first = true)
    (hmay : s.mayBegin i.val x q = true) : s.takeEntry i.val q fs = some ((s.beginRow i.val x q).feed i.val q fs) := by
  simp [takeEntry, hx, hin, hfirst, hmay]

theorem takeEntry_goesOn (hx : s.stream? q.sid = some x) (hin : x.runsIn i.val q.row = true) (hfirst : q.first = false) :
    s.takeEntry i.val q fs = some (s.feed i.val q fs) := by
  simp [takeEntry, hx, hin, hfirst]

theorem takeEntry_forwards {g : Migration} (hx : s.stream? q.sid = some x) (hin : x.runsIn i.val q.row = false)
    (hg : x.migration = some g) (hfree : (s.tile g.new).free > 0) : s.takeEntry i.val q fs = some (s.enqueue g.new q) := by
  simp [takeEntry, hx, hin, hg, hfree]

theorem popped_tile (s : State) (i : Fin 88) (rest : List QEntry) :
    (s.popped i.val rest).tile i.val = { s.tile i.val with queue := rest } := by
  rw [popped, booked_tile, modTile_tile _ _ _ i.isLt]

theorem popped_tile_ne (s : State) {i k : Nat} (h : i ≠ k) (rest : List QEntry) : (s.popped i rest).tile k = s.tile k := by
  rw [popped, booked_tile, modTile_tile_ne _ _ _ _ h]

/-- A beat whose row runs in the spare goes to the spare's queue (R358). -/
theorem dequeue_forwards {g : Migration} (hruns : s.tileRuns i.val = true) (hq : (s.tile i.val).queue = q :: rest)
    (hbeat : q.isBeat = true) (hx : s.stream? q.sid = some x) (hin : x.runsIn i.val q.row = false) (hg : x.migration = some g)
    (hnew : g.new < 88) (hne : g.new ≠ i.val) (hfree : (s.tile g.new).free > 0) (hrest : HeadIsBeat rest) :
    let t := ((s.popped i.val rest).enqueue g.new q).addCorrected i.val cor
    exec (.accBeatDequeue i fs cor) s = .next t ∧ (t.tile g.new).queue = (s.tile g.new).queue ++ [q] ∧
      (t.tile i.val).queue = rest ∧ (t.tile i.val).rows = (s.tile i.val).rows ∧
      ∀ k : Fin 88, k ≠ i → k.val ≠ g.new → t.tile k.val = s.tile k.val := by
  have hother (k : Nat) (hk : i.val ≠ k) :
      (((s.popped i.val rest).enqueue g.new q).addCorrected i.val cor).tile k = ((s.popped i.val rest).enqueue g.new q).tile k :=
    modTile_tile_ne _ _ _ _ hk
  have hmine : ((s.popped i.val rest).enqueue g.new q).tile i.val = { s.tile i.val with queue := rest } := by
    rw [enqueue, booked_tile, modTile_tile_ne _ _ _ _ hne, popped_tile]
  have hplace : ((s.popped i.val rest).tile g.new).free > 0 := by rw [popped_tile_ne s hne.symm]; exact hfree
  refine ⟨exec_dequeue_ends hruns hq hbeat (takeEntry_forwards (x := x) hx hin hg hplace) (by rw [hmine]) hrest, ?_, ?_, ?_,
    fun k hki hkn => ?_⟩
  · rw [hother _ hne.symm, enqueue_tile _ hnew, popped_tile_ne s hne.symm]
  · rw [addCorrected, modTile_tile _ _ _ i.isLt, hmine]
  · rw [addCorrected, modTile_tile _ _ _ i.isLt, hmine]
  · have hik : i.val ≠ k.val := fun h => hki (Fin.ext h.symm)
    rw [hother _ hik, enqueue, booked_tile, modTile_tile_ne _ _ _ _ hkn.symm, popped_tile_ne s hik]

end

/-! ### A beat in an open row pass -/

section
variable (s : State) (i : Fin 88) (q : QEntry) (rest : List QEntry) (rp : RowPass) (fs : List HwFault)

/-- The beat has left the queue, and its elements have gone through the stages. -/
def ranBeat : State := (s.popped i.val rest).passRan i.val (rp.fed q fs) (rp.asks q fs)

/-- The trap has met the NaNs of the beat. -/
def metNans : State := (s.ranBeat i q rest rp fs).noteNans i.val (rp.fed q fs) (rp.takes q fs).2.nans

theorem ranBeat_trap : (s.ranBeat i q rest rp fs).trap = s.trap := by
  unfold ranBeat passRan putPass popped
  rw [modTile_trap, modTile_trap, booked_trap, modTile_trap]

theorem ranBeat_time : (s.ranBeat i q rest rp fs).time = s.time := by
  unfold ranBeat passRan putPass popped
  rw [modTile_time, modTile_time, booked_time, modTile_time]

theorem ranBeat_kindCount (src code : Nat) : (s.ranBeat i q rest rp fs).kindCount src code = s.kindCount src code := by
  refine kindCount_congr ?_ src code
  unfold ranBeat passRan putPass popped
  rw [modTile_taps, modTile_taps, booked_taps, modTile_taps]

theorem ranBeat_band (b : Nat) : (s.ranBeat i q rest rp fs).band b = s.band b := by
  unfold ranBeat passRan putPass popped
  rw [modTile_band, modTile_band, booked_band, modTile_band]

theorem ranBeat_tile_ne {k : Nat} (h : i.val ≠ k) : (s.ranBeat i q rest rp fs).tile k = s.tile k :=
  (passRan_tile_ne _ h _ _).trans (s.popped_tile_ne h rest)

theorem ranBeat_tile (hrows : (s.tile i.val).rows = [rp]) : (s.ranBeat i q rest rp fs).tile i.val =
    (rp.asks q fs).foldl Tile.serve { s.tile i.val with queue := rest, rows := [rp.fed q fs] } := by
  have hpopped := s.popped_tile i rest
  refine (passRan_tile _ (rp.asks q fs) (old := rp) ?_ (rp.fed_later q fs)).trans (by rw [hpopped])
  rw [hpopped]
  exact hrows

theorem seenNans_ranBeat (nans : List NanNote) : (s.ranBeat i q rest rp fs).seenNans nans = s.seenNans nans := by
  unfold seenNans
  rw [ranBeat_trap]

/-- From `s` to `t` the open row pass `rp` of tile `i` has taken the beat `q`, behind which `rest` stands: after the trap only
counts of corrected errors and reports other than FIRST_NAN change. -/
structure TookBeat (s t : State) (i : Fin 88) (q : QEntry) (rest : List QEntry) (rp : RowPass) (fs : List HwFault) : Prop where
  rows  : (s.tile i.val).rows = [rp]
  noted : ∃ v, Noted (s.metNans i q rest rp fs) v ∧ ∃ cor, t = v.addCorrected i.val cor

variable {s i q rest rp fs}

/-- A beat that is not its row pass's last leaves the queue and goes through the stages. -/
theorem dequeue_tookBeat {x : Stream} {cor : Corrected} (hruns : s.tileRuns i.val = true) (hq : (s.tile i.val).queue = q :: rest)
    (hbeat : q.isBeat = true) (hx : s.stream? q.sid = some x) (hin : x.runsIn i.val q.row = true) (hfirst : q.first = false)
    (hlast : q.last = false) (hrows : (s.tile i.val).rows = [rp]) (hsid : rp.sid = q.sid) (hrow : rp.row = q.row)
    (hpass : rp.pass = q.pass) (hopen : rp.opened = true) (hfin : rp.finished = false) (hblocks : (s.tile i.val).blocks = [])
    (hrest : HeadIsBeat rest) : ∃ t, exec (.accBeatDequeue i fs cor) s = .next t ∧ TookBeat s t i q rest rp fs := by
  have hpopped := s.popped_tile i rest
  have hrows' : ((s.popped i.val rest).tile i.val).rows = [rp] := by rw [hpopped]; exact hrows
  have hp : ((s.popped i.val rest).tile i.val).pass? q.sid q.row q.pass = some rp := by
    rw [Tile.pass?, hrows']
    simp [hsid, hrow, hpass]
  have hnoted : Noted (s.metNans i q rest rp fs) ((s.popped i.val rest).feed i.val q fs) :=
    feed_goesOn hp hrows' (by rw [hpopped]; exact hblocks) hopen hfin hlast
  have hqueue : (((s.popped i.val rest).feed i.val q fs).tile i.val).queue = rest := by
    rw [hnoted.tile, metNans, (noteNans_tile _ i _ _ _).1, ranBeat_tile _ _ _ _ _ _ hrows, Tile.serves_frame]
  exact ⟨_, exec_dequeue_ends hruns hq hbeat (takeEntry_goesOn (x := x) hx hin hfirst) hqueue hrest, hrows, _, hnoted, _, rfl⟩

namespace TookBeat

variable (h : TookBeat s t i q rest rp fs)
include h

theorem trap : t.trap = (s.metNans i q rest rp fs).trap := by
  obtain ⟨v, hnoted, cor, rfl⟩ := h.noted
  rw [addCorrected, modTile_trap, hnoted.frame]

theorem band (b : Nat) : t.band b = (s.metNans i q rest rp fs).band b := by
  obtain ⟨v, hnoted, cor, rfl⟩ := h.noted
  rw [addCorrected, modTile_band, hnoted.frame]
  rfl

theorem keepsInt : KeepsInt (s.metNans i q rest rp fs) t := by
  obtain ⟨v, hnoted, cor, rfl⟩ := h.noted
  exact hnoted.int

theorem firstNans (src : Nat) : t.kindCount src evFirstNan = (s.metNans i q rest rp fs).kindCount src evFirstNan := by
  obtain ⟨v, hnoted, cor, rfl⟩ := h.noted
  rw [addCorrected, modTile_kindCount, hnoted.nans]

theorem stopped_of {b : Nat} (hstop : ∀ y ∈ (s.metNans i q rest rp fs).streams, sidBand y.sid = b → stopped y) :
    ∀ y ∈ t.streams, sidBand y.sid = b → y.suspended = true ∧ y.causes.halt = true := by
  obtain ⟨v, hnoted, cor, rfl⟩ := h.noted
  intro y hy hband
  obtain ⟨z, hz, hsid, hsus, hcauses⟩ := hnoted.streams y hy
  obtain ⟨zsus, zhalt⟩ := hstop z hz (hsid ▸ hband)
  exact ⟨hsus.trans zsus, hcauses ▸ zhalt⟩

theorem tile_met {k : Fin 88} (hk : k ≠ i) : t.tile k.val = (s.metNans i q rest rp fs).tile k.val := by
  obtain ⟨v, hnoted, cor, rfl⟩ := h.noted
  exact (modTile_tile_ne _ _ _ _ fun heq => hk (Fin.ext heq.symm)).trans (hnoted.tile k.val)

/-- Of its own tile the beat has changed the queue, the row pass, what the evaluators granted, the counts of corrected errors and,
with a halt, what has crossed. -/
theorem tile_served : t.tile i.val =
    { (rp.asks q fs).foldl Tile.serve { s.tile i.val with queue := rest, rows := [rp.fed q fs] } with
      xevLeft := ((s.metNans i q rest rp fs).tile i.val).xevLeft, corrected := (t.tile i.val).corrected } := by
  obtain ⟨v, hnoted, cor, rfl⟩ := h.noted
  have hmet := ((s.ranBeat i q rest rp fs).noteNans_tile i (rp.fed q fs) (rp.takes q fs).2.nans i.val).1
  rw [ranBeat_tile _ _ _ _ _ _ h.rows] at hmet
  have hv := (hnoted.tile i.val).trans hmet
  rw [addCorrected, modTile_tile _ _ _ i.isLt, hv]
  rfl

theorem trap_stands (hstands : s.seenNans (rp.takes q fs).2.nans = [] ∨ (s.trap.arm = false ∧ s.trap.valid = false)) :
    t.trap = s.trap := by
  rw [h.trap, metNans, noteNans_stands (by rw [seenNans_ranBeat, ranBeat_trap]; exact hstands), ranBeat_trap]

theorem trap_counts (hsome : s.seenNans (rp.takes q fs).2.nans ≠ []) (hvalid : s.trap.valid = true) : t.trap =
    { s.trap with count := min (s.trap.count + (s.seenNans (rp.takes q fs).2.nans).length) 0xFFFFFFFF } := by
  rw [h.trap, metNans, noteNans_counts (by rw [seenNans_ranBeat]; exact hsome) (by rw [ranBeat_trap]; exact hvalid),
    seenNans_ranBeat, ranBeat_trap]

theorem trap_latches {n : NanNote} {more : List NanNote} (hseen : s.seenNans (rp.takes q fs).2.nans = n :: more)
    (harm : s.trap.arm = true) (hvalid : s.trap.valid = false) :
    let st := rp.chain.stage n.stage
    let b := bandOf i.val
    t.trap = { s.trap with
      record := BitVec.ofNat 192 (layoutE rp.sid rp.chain.id rp.pass i.val n.stage n.step st.op st.subOp rp.row n.col s.time.toNat)
      count := min more.length 0xFFFFFFFF, valid := true, halted := s.trap.halted || s.trap.halt } ∧
    t.intStatus.getLsbD 12 = true ∧ t.kindCount i.val evFirstNan = satInc (s.kindCount i.val evFirstNan) ∧
    (s.trap.halt = true → (t.band b).halted = true ∧ t.intStatus.getLsbD 13 = true ∧
      ∀ y ∈ t.streams, sidBand y.sid = b → y.suspended = true ∧ y.causes.halt = true) ∧
    (s.trap.halt = false → (t.band b).halted = (s.band b).halted) ∧
    ∀ k : Fin 8, k.val ≠ b → t.band k.val = s.band k.val := by
  intro st b
  have htrap := s.ranBeat_trap i q rest rp fs
  obtain ⟨ltrap, lint, lkind, lhalt, lruns, lothers⟩ := noteNans_latched (i := i) (rp := rp.fed q fs)
    ((s.seenNans_ranBeat i q rest rp fs _).trans hseen) (by rw [htrap]; exact harm) (by rw [htrap]; exact hvalid)
  refine ⟨?_, h.keepsInt 12 lint, ?_, fun hhalt => ?_, fun hhalt => ?_, fun k hk => ?_⟩
  · rw [h.trap]
    refine ltrap.trans ?_
    rw [elemPayload_later (rp.fed_later q fs), elemPayload, htrap, ranBeat_time]
  · rw [h.firstNans]
    exact lkind.trans (congrArg satInc (ranBeat_kindCount _ _ _ _ _ _ _ _))
  · obtain ⟨hstop, hbit, hstreams⟩ := lhalt (by rw [htrap]; exact hhalt)
    exact ⟨by rw [h.band]; exact hstop, h.keepsInt 13 hbit, h.stopped_of hstreams⟩
  · rw [h.band]
    exact congrArg Band.halted ((lruns (by rw [htrap]; exact hhalt)).trans (ranBeat_band _ _ _ _ _ _ b))
  · rw [h.band]
    exact (lothers _ hk.symm).trans (ranBeat_band _ _ _ _ _ _ k.val)

theorem tile_of_evaluator {e grants ptr : Nat}
    (hserved : Tile.Served { s.tile i.val with queue := rest, rows := [rp.fed q fs] }
      ((rp.asks q fs).foldl Tile.serve { s.tile i.val with queue := rest, rows := [rp.fed q fs] }) e grants ptr) :
    (s.tile i.val).Served (t.tile i.val) e grants ptr := by
  obtain ⟨hgrants, hresults, hptr⟩ := hserved
  exact ⟨(congrArg (fun z : Tile => refOf z.evalGrants e) h.tile_served).trans hgrants,
    (congrArg (fun z : Tile => refOf z.evalResults e) h.tile_served).trans hresults,
    (congrArg (fun z : Tile => refOf z.lanePtrs e) h.tile_served).trans hptr⟩

theorem served {a : Nat × List (List EvalKind)} (ha : a ∈ rp.asks q fs) :
    let n := arbServe (a.2.map List.length).sum a.2 (refOf (s.tile i.val).lanePtrs a.1)
    (s.tile i.val).Served (t.tile i.val) a.1 n.1 n.2 :=
  h.tile_of_evaluator (Tile.serves_mem _ _ (RowPass.requests_nodup _ _ _) ha)

theorem unserved {e : Nat} (he : ∀ a ∈ rp.asks q fs, a.1 ≠ e) :
    (s.tile i.val).Served (t.tile i.val) e 0 (refOf (s.tile i.val).lanePtrs e) :=
  h.tile_of_evaluator (Tile.serves_other _ _ he)

theorem tile_other {k : Fin 88} (hk : k ≠ i) : t.tile k.val = { s.tile k.val with xevLeft := (t.tile k.val).xevLeft } := by
  have hik : i.val ≠ k.val := fun heq => hk (Fin.ext heq.symm)
  have hmet := ((s.ranBeat i q rest rp fs).noteNans_tile i (rp.fed q fs) (rp.takes q fs).2.nans k.val).1
  rw [ranBeat_tile_ne _ _ _ _ _ _ hik] at hmet
  rw [h.tile_met hk]
  exact hmet

/-- In a band that goes on running nothing crosses. -/
theorem xevLeft_runs (hruns : s.tileRuns i.val = true)
    (hhalt : (t.band (bandOf i.val)).halted = (s.band (bandOf i.val)).halted) (k : Fin 88) :
    (t.tile k.val).xevLeft = (s.tile k.val).xevLeft := by
  have hfree : (s.band (bandOf i.val)).halted = false := by
    have hb := (Bool.and_eq_true_iff.1 hruns).2
    simp only [bandRuns, Bool.and_eq_true, Bool.not_eq_true'] at hb
    exact hb.2
  have hsame : (s.metNans i q rest rp fs).tile k.val = (s.ranBeat i q rest rp fs).tile k.val :=
    (noteNans_tile _ i _ _ k.val).2 (by rw [← hfree, ← hhalt, h.band]; rfl)
  by_cases hk : k = i
  · subst hk
    rw [h.tile_served, hsame, ranBeat_tile _ _ _ _ _ _ h.rows, Tile.serves_frame]
  · rw [h.tile_met hk, hsame, ranBeat_tile_ne _ _ _ _ _ _ fun heq => hk (Fin.ext heq.symm)]

theorem tile : t.tile i.val = { s.tile i.val with
    rows := [rp.fed q fs], queue := rest, corrected := (t.tile i.val).corrected, xevLeft := (t.tile i.val).xevLeft
    lanePtrs := (t.tile i.val).lanePtrs, evalGrants := (t.tile i.val).evalGrants
    evalResults := (t.tile i.val).evalResults } := by
  rw [h.tile_served, Tile.serves_frame]

end TookBeat

end

end State

/-- Settles O42: a beat that begins a row pass by `exec_dequeue_waits` and `exec_dequeue_takes`, one of an open row pass by
`dequeue_tookBeat` and the facts of `TookBeat`. -/
theorem headOfTheQueueEntersTheChain : Obligations.HeadOfTheQueueEntersTheChain := by
  intro i fs cor q rest x s s1 hruns hq hbeat hx
  have hs1 : s1 = s.popped i.val rest := rfl
  clear_value s1
  subst hs1
  have hx1 : (s.popped i.val rest).stream? q.sid = some x := hx
  refine ⟨fun hin hfirst hmay => ?_, fun hin hfirst hmay => ?_,
    fun rp hin hfirst hlast hrows hsid hrow hpass hopen hfin hblocks hrest => ?_, fun g hin hg hnew hne hfree hrest => ?_⟩
  · exact State.exec_dequeue_waits hruns hq hbeat (State.takeEntry_waits hx1 hin hfirst hmay)
  · exact State.exec_dequeue_takes hruns hq hbeat (State.takeEntry_begins hx1 hin hfirst hmay)
  · obtain ⟨t, hexec, h⟩ := State.dequeue_tookBeat (fs := fs) (cor := cor) hruns hq hbeat hx hin hfirst hlast hrows hsid hrow hpass
      hopen hfin hblocks hrest
    exact ⟨t, (rp.takes q fs).1, hexec, rfl, h.trap_stands, h.trap_counts, fun n more hseen => h.trap_latches hseen, h.tile,
      ⟨fun a ha => h.served ha, fun e he => h.unserved he⟩, fun k hk => h.tile_other hk, h.xevLeft_runs hruns⟩
  · obtain ⟨hexec, hqueue, hmine, hrows, hothers⟩ := State.dequeue_forwards (cor := cor) (fs := fs) hruns hq hbeat hx hin hg hnew hne hfree hrest
    exact ⟨_, hexec, hqueue, hmine, hrows, hothers⟩

end Sys2Proof.Machine
end

section
/-!
PROOFS. A value that a format holds is written in it exactly (R39 to R50, R57, R62): a nonzero one takes its own code again,
a zero a code of a zero.
-/

namespace Sys2Proof.Machine

/-! ### Sign, exponent and fraction of a code -/

/-- The code with a sign, an exponent field of `eb` bits and a fraction field of `fb` bits. -/
def floatCode (fb eb : Nat) (s : Bool) (x f : Nat) : Nat := b2n s * 2 ^ (fb + eb) + x * 2 ^ fb + f

section Fields

variable {fb eb x f : Nat} (s : Bool) (hx : x < 2 ^ eb) (hf : f < 2 ^ fb)
include hf

theorem floatCode_mod : floatCode fb eb s x f % 2 ^ fb = f := by
  have hsplit : floatCode fb eb s x f = f + 2 ^ fb * (b2n s * 2 ^ eb + x) := by
    simp only [floatCode, pow_add]; ring
  rw [hsplit, Nat.add_mul_mod_self_left, Nat.mod_eq_of_lt hf]

theorem floatCode_div : floatCode fb eb s x f / 2 ^ fb = b2n s * 2 ^ eb + x := by
  have hsplit : floatCode fb eb s x f = f + 2 ^ fb * (b2n s * 2 ^ eb + x) := by
    simp only [floatCode, pow_add]; ring
  rw [hsplit, Nat.add_mul_div_left _ _ (by positivity), Nat.div_eq_of_lt hf, Nat.zero_add]

include hx

theorem bit_floatCode : bit (floatCode fb eb s x f) (fb + eb) = s := by
  have hdiv : b2n s * 2 ^ eb + x = x + 2 ^ eb * b2n s := by ring
  rw [bit, Nat.shiftRight_eq_div_pow, pow_add, ← Nat.div_div_eq_div_mul, floatCode_div s hf, hdiv,
    Nat.add_mul_div_left _ _ (by positivity), Nat.div_eq_of_lt hx]
  cases s <;> rfl

theorem bits_floatCode (heb : 0 < eb) : bits (floatCode fb eb s x f) (fb + eb - 1) fb = x := by
  have hwidth : fb + eb - 1 + 1 - fb = eb := by omega
  rw [bits, Nat.shiftRight_eq_div_pow, floatCode_div s hf, hwidth, Nat.mul_add_mod_self_right, Nat.mod_eq_of_lt hx]

end Fields

/-- Every code of the width has the three fields. -/
theorem exists_floatCode {fb eb c : Nat} (hc : c < 2 ^ (fb + eb + 1)) :
    ∃ s x f, x < 2 ^ eb ∧ f < 2 ^ fb ∧ c = floatCode fb eb s x f := by
  have htop : c / 2 ^ fb / 2 ^ eb < 2 := by
    rw [Nat.div_div_eq_div_mul, ← pow_add, Nat.div_lt_iff_lt_mul (by positivity), mul_comm, ← pow_succ]
    exact hc
  have hs : b2n (c / 2 ^ fb / 2 ^ eb == 1) = c / 2 ^ fb / 2 ^ eb := by
    generalize c / 2 ^ fb / 2 ^ eb = top at htop
    interval_cases top <;> rfl
  refine ⟨c / 2 ^ fb / 2 ^ eb == 1, c / 2 ^ fb % 2 ^ eb, c % 2 ^ fb, Nat.mod_lt _ (by positivity),
    Nat.mod_lt _ (by positivity), ?_⟩
  rw [floatCode, hs, pow_add]
  calc c = 2 ^ fb * (2 ^ eb * (c / 2 ^ fb / 2 ^ eb) + c / 2 ^ fb % 2 ^ eb) + c % 2 ^ fb := by
        rw [Nat.div_add_mod, Nat.div_add_mod]
    _ = _ := by ring

/-! ### Rounding a value that is on the grid -/

@[simp] theorem shl_zero (n : Nat) : shl n 0 = n := rfl

theorem floorLog2_int {m : Nat} (hm : 0 < m) (q : Int) : floorLog2 m 1 q = Nat.log2 m + q := by
  have hone : Nat.log2 1 = 0 := by decide
  have hself : 1 <<< m.log2 ≤ m := by
    rw [Nat.one_shiftLeft]
    exact Nat.log2_self_le hm.ne'
  simp [floorLog2, shl, hone, hself]

@[simp] theorem floorAt_self (m : Nat) (q : Int) : floorAt q m 1 q = m := by simp [floorAt]

/-- A magnitude on the lower grid point stays there. -/
@[simp] theorem pickHi_self (r : Rnd) (even : Bool) (m hi : Nat) (q : Int) : pickHi r even m 1 q m hi q = false := by
  simp [pickHi]

/-- A significand that fits, at the exponent to which its magnitude is rounded, is not rounded (R50). -/
theorem roundSig_of_fits {p m : Nat} {q : Int} {emin : Option Int} (r : Rnd) (hm : 0 < m) (hlt : m < 2 ^ p)
    (hq : emin.elim ((m.log2 : Int) + q - (p - 1 : Nat)) (max ((m.log2 : Int) + q - (p - 1 : Nat))) = q) :
    roundSig r p emin m 1 q = (m, q) := by
  cases emin <;> simp only [Option.elim] at hq <;> simp [roundSig, floorLog2_int hm, hq, hlt.ne]

theorem log2_significand {fb f : Nat} (hf : f < 2 ^ fb) : (2 ^ fb + f).log2 = fb :=
  (Nat.log2_eq_iff (by positivity)).2 ⟨by omega, by rw [pow_succ]; omega⟩

/-- A normal significand is not rounded. -/
theorem roundSig_normal {fb f : Nat} {q : Int} {emin : Option Int} (r : Rnd) (hf : f < 2 ^ fb) (he : ∀ e ∈ emin, e ≤ q) :
    roundSig r (fb + 1) emin (2 ^ fb + f) 1 q = (2 ^ fb + f, q) := by
  refine roundSig_of_fits r (by positivity) (by rw [pow_succ]; omega) ?_
  rw [log2_significand hf]
  cases emin with
  | none => simp
  | some e => simpa using he e rfl

/-- A subnormal significand is not rounded. -/
theorem roundSig_subnormal {fb f : Nat} {q : Int} (r : Rnd) (hpos : 0 < f) (hf : f < 2 ^ fb) :
    roundSig r (fb + 1) (some q) f 1 q = (f, q) := by
  have hlog : f.log2 < fb := (Nat.log2_lt hpos.ne').2 hf
  refine roundSig_of_fits r hpos (by rw [pow_succ]; omega) ?_
  simp only [Option.elim, Nat.add_sub_cancel]
  omega

/-- An integer is not rounded to an integer. -/
@[simp] theorem roundInt_int (r : Rnd) (m : Nat) : roundInt r m 1 0 = m := by simp [roundInt]

/-! ### Floating-point formats -/

/-- A rounded magnitude in the range of the format is written with its significand and exponent. -/
theorem encodeIeee_of_roundSig {fb eb n d m : Nat} {e q : Int} (s : Bool) (hn : n ≠ 0) (hm : m ≠ 0)
    (hround : roundSig .rne (fb + 1) (some (1 - (2 ^ (eb - 1) - 1) - fb)) n d e = (m, q)) (hq : q + fb ≤ 2 ^ (eb - 1) - 1) :
    encodeIeee fb eb .lane false (.fin s n d e) = ⟨ieeeCode fb eb s m q, .none⟩ := by
  have hover : ¬ q + fb > 2 ^ (eb - 1) - 1 := by omega
  simp only [encodeIeee, beq_eq_false_iff_ne.2 hn, beq_eq_false_iff_ne.2 hm, hround, if_neg hover, Bool.false_eq_true, if_false]

theorem ieeeCode_subnormal {fb f : Nat} (eb : Nat) (s : Bool) (q : Int) (hf : f < 2 ^ fb) :
    ieeeCode fb eb s f q = floatCode fb eb s 0 f := by
  simp [ieeeCode, hf, floatCode]

theorem ieeeCode_normal (fb eb f : Nat) (s : Bool) (q : Int) :
    ieeeCode fb eb s (2 ^ fb + f) q = floatCode fb eb s (q + fb + (2 ^ (eb - 1) - 1)).toNat f := by
  simp [ieeeCode, floatCode]

section Floats

variable {fb eb x f : Nat} (s : Bool) (hx : x < 2 ^ eb) (hf : f < 2 ^ fb)
include hx hf

theorem decodeIeee_floatCode (heb : 0 < eb) : decodeIeee fb eb (floatCode fb eb s x f) =
    if x = 2 ^ eb - 1 then (if f = 0 then .inf s else .nan s (f <<< (26 - fb)))
    else if x = 0 then .fin s f 1 (1 - (2 ^ (eb - 1) - 1) - fb)
    else .fin s (2 ^ fb + f) 1 ((x : Int) - (2 ^ (eb - 1) - 1) - fb) := by
  simp [decodeIeee, bit_floatCode s hx hf, bits_floatCode s hx hf heb, floatCode_mod s hf]

theorem decodeMini_floatCode (heb : 0 < eb) (bias : Int) : decodeMini fb eb bias (floatCode fb eb s x f) =
    if x = 0 then (if s = true ∧ f = 1 then Val.default else .fin s 0 1 0)
    else .fin s (2 ^ fb + f) 1 ((x : Int) - bias - fb) := by
  simp [decodeMini, bit_floatCode s hx hf, bits_floatCode s hx hf heb, floatCode_mod s hf]

/-- Binary32 and binary16, R62: what is neither a NaN nor a zero is written as its own code. -/
theorem encodeIeee_decodeIeee (heb : 1 < eb) (hnan : (decodeIeee fb eb (floatCode fb eb s x f)).isNan = false)
    (hzero : (decodeIeee fb eb (floatCode fb eb s x f)).isZero = false) :
    encodeIeee fb eb .lane false (decodeIeee fb eb (floatCode fb eb s x f)) = ⟨floatCode fb eb s x f, .none⟩ := by
  have hbias : (2 : Int) ≤ 2 ^ (eb - 1) := le_self_pow₀ (by decide) (by omega)
  have hmax : ((2 ^ eb : Nat) : Int) = 2 * 2 ^ (eb - 1) := by
    rw [← pow_succ', Nat.sub_add_cancel (by omega)]
    push_cast
    rfl
  rw [decodeIeee_floatCode s hx hf (by omega)] at hnan hzero ⊢
  by_cases htop : x = 2 ^ eb - 1
  · rw [if_pos htop] at hnan ⊢
    obtain rfl : f = 0 := by_contra fun h => by simp [h, Val.isNan] at hnan
    simp [htop, encodeIeee, floatCode]
  rw [if_neg htop] at hzero ⊢
  by_cases hsub : x = 0
  · subst hsub
    have hpos : 0 < f := Nat.pos_of_ne_zero (by simpa [Val.isZero] using hzero)
    rw [if_pos rfl, encodeIeee_of_roundSig s hpos.ne' hpos.ne' (roundSig_subnormal .rne hpos hf) (by omega),
      ieeeCode_subnormal _ s _ hf]
  · have hround := roundSig_normal (q := (x : Int) - (2 ^ (eb - 1) - 1) - fb)
      (emin := some (1 - (2 ^ (eb - 1) - 1) - fb)) .rne hf (by simp; omega)
    rw [if_neg hsub, encodeIeee_of_roundSig s (by positivity) (by positivity) hround (by omega), ieeeCode_normal]
    simp

/-- FM16 and FM8, R47, R48: what is neither a NaN nor a zero is written as its own code. -/
theorem encodeMini_decodeMini (heb : 0 < eb) (bias : Int)
    (hzero : (decodeMini fb eb bias (floatCode fb eb s x f)).isZero = false)
    (hnan : (decodeMini fb eb bias (floatCode fb eb s x f)).isNan = false) :
    encodeMini fb eb bias .rne false (decodeMini fb eb bias (floatCode fb eb s x f)) = ⟨floatCode fb eb s x f, .none⟩ := by
  have hmax : (x : Int) < 2 ^ eb := by exact_mod_cast hx
  rw [decodeMini_floatCode s hx hf heb] at hnan hzero ⊢
  by_cases hsub : x = 0
  · rw [if_pos hsub] at hnan hzero
    split at hnan
    · cases hnan
    · next h => simp [h, Val.isZero] at hzero
  · have hover : ¬ (x : Int) - bias > 2 ^ eb - 1 - bias := by omega
    have hunder : ¬ (x : Int) - bias < 1 - bias := by omega
    rw [if_neg hsub]
    simp [encodeMini, roundSig_normal (emin := none) .rne hf, floatCode, hover, hunder]

theorem decodeIeee_of_isZero (heb : 1 < eb) (hzero : (decodeIeee fb eb (floatCode fb eb s x f)).isZero = true) :
    decodeIeee fb eb (floatCode fb eb s x f) = decodeIeee fb eb (floatCode fb eb s 0 0) := by
  rw [decodeIeee_floatCode s hx hf (by omega)] at hzero
  obtain ⟨rfl, rfl⟩ : x = 0 ∧ f = 0 := by
    split_ifs at hzero with htop hinf hsub
    · cases hzero
    · cases hzero
    · exact ⟨hsub, by simpa [Val.isZero] using hzero⟩
    · simp [Val.isZero] at hzero
  rfl

theorem decodeMini_of_isZero (heb : 0 < eb) (bias : Int)
    (hzero : (decodeMini fb eb bias (floatCode fb eb s x f)).isZero = true) :
    decodeMini fb eb bias (floatCode fb eb s x f) = decodeMini fb eb bias (floatCode fb eb s 0 0) := by
  rw [decodeMini_floatCode (x := 0) (f := 0) s (by positivity) (by positivity) heb, if_pos rfl, if_neg (by simp)]
  rw [decodeMini_floatCode s hx hf heb] at hzero ⊢
  split_ifs at hzero with hsub hn
  · cases hzero
  · rw [if_pos hsub, if_neg hn]
  · simp [Val.isZero] at hzero

end Floats

/-- XF, R57: the value of a code by its fields. -/
theorem decode_xf_floatCode {x f : Nat} (s : Bool) (hx : x < 2 ^ 10) (hf : f < 2 ^ 26) : decode .xf (floatCode 26 10 s x f) =
    if x = 1023 then (if f = 0 then .inf s else .nan s f)
    else if x = 0 then .fin s 0 1 0
    else .fin s (2 ^ 26 + f) 1 ((x : Int) - 511 - 26) := by
  have hsign : bit (floatCode 26 10 s x f) 36 = s := bit_floatCode s hx hf
  have hexp : bits (floatCode 26 10 s x f) 35 26 = x := bits_floatCode s hx hf (by decide)
  have hfrac : floatCode 26 10 s x f % 2 ^ 26 = f := floatCode_mod s hf
  simp only [decode, hsign, hexp, hfrac, beq_iff_eq]

/-- XF, R57: what is neither a NaN nor a zero is written as its own code. -/
theorem encodeXf_decode {x f : Nat} (s : Bool) (hx : x < 2 ^ 10) (hf : f < 2 ^ 26)
    (hnan : (decode .xf (floatCode 26 10 s x f)).isNan = false) (hzero : (decode .xf (floatCode 26 10 s x f)).isZero = false) :
    encodeXf (decode .xf (floatCode 26 10 s x f)) = ⟨floatCode 26 10 s x f, .none⟩ := by
  rw [decode_xf_floatCode s hx hf] at hnan hzero ⊢
  by_cases htop : x = 1023
  · rw [if_pos htop] at hnan ⊢
    obtain rfl : f = 0 := by_contra fun h => by simp [h, Val.isNan] at hnan
    simp [htop, encodeXf, floatCode]
  rw [if_neg htop] at hzero ⊢
  by_cases hsub : x = 0
  · simp [hsub, Val.isZero] at hzero
  · have hunder : ¬ (x : Int) - 511 - 26 + 26 < -510 := by omega
    have hover : ¬ (x : Int) - 511 - 26 + 26 > 511 := by omega
    have hfield : ((x : Int) - 511 - 26 + 26 + 511).toNat = x := by omega
    have hround := roundSig_normal (q := (x : Int) - 511 - 26) (emin := none) .rne hf nofun
    have hsig : (2 ^ 26 + f == 0) = false := beq_eq_false_iff_ne.2 (by positivity)
    rw [if_neg hsub]
    simp only [encodeXf, hsig, hround, if_neg hunder, if_neg hover, hfield, Nat.add_sub_cancel_left, floatCode,
      Bool.false_eq_true, if_false]

theorem decode_xf_of_isZero {x f : Nat} (s : Bool) (hx : x < 2 ^ 10) (hf : f < 2 ^ 26)
    (hzero : (decode .xf (floatCode 26 10 s x f)).isZero = true) :
    decode .xf (floatCode 26 10 s x f) = decode .xf (floatCode 26 10 s 0 0) := by
  rw [decode_xf_floatCode (x := 0) (f := 0) s (by decide) (by decide), if_neg (by decide), if_pos rfl]
  rw [decode_xf_floatCode s hx hf] at hzero ⊢
  split_ifs at hzero with htop hinf hsub
  · cases hzero
  · cases hzero
  · rw [if_neg htop, if_pos hsub]
  · simp [Val.isZero] at hzero

/-! ### Logarithmic formats -/

@[simp] theorem cmpMag_int (n m : Nat) (e : Int) : cmpMag n 1 e m 1 e = compare n m := by simp [cmpMag]

/-- C[0] to C[7] rise, from 2^23 on and below 2^24 (Table 2.2). -/
theorem lnC_lt : ∀ i < 8, ∀ j < i, lnC.getD j 0 < lnC.getD i 0 := by decide

theorem log2_lnC : ∀ j < 8, (lnC.getD j 0).log2 = 23 := by decide

theorem lnV_pos (n : Int) : 0 < (lnV n).1 := by
  have hlow : ∀ j < 8, 0 < lnC.getD j 0 := by decide
  exact hlow _ (by omega)

/-- Among the significands, C[j] finds itself. -/
theorem lnFindJ_lnC {j step : Nat} (k : Int) (hstep : j % step = 0) {i : Nat} (hji : j ≤ i) (hi : i < 8) :
    lnFindJ (lnC.getD j 0) 1 (k - 23) k step i = j := by
  induction i with
  | zero => rw [Nat.le_zero.1 hji, lnFindJ]
  | succ i ih =>
    rw [lnFindJ, cmpMag_int]
    obtain hlt | rfl := Nat.lt_or_eq_of_le hji
    · have hbelow : compare (lnC.getD j 0) (lnC.getD (i + 1) 0) = .lt := Nat.compare_eq_lt.2 (lnC_lt _ hi _ hlt)
      rw [hbelow, if_neg (by simp)]
      exact ih (by omega) (by omega)
    · rw [if_pos (by simp [hstep])]

/-- V of a position is not rounded to another one (R41, R50). -/
theorem roundLog_lnV (r : Rnd) (step : Nat) (n : Int) (hstep : (n % 8).toNat % step = 0) :
    roundLog r step (lnV n).1 1 (lnV n).2 = n := by
  have hj : (n % 8).toNat < 8 := by omega
  have hk : floorLog2 (lnV n).1 1 (lnV n).2 = n / 8 := by
    have hlog : (lnV n).1.log2 = 23 := log2_lnC _ hj
    rw [floorLog2_int (lnV_pos n), hlog, lnV]
    omega
  have hfind : lnFindJ (lnV n).1 1 (lnV n).2 (n / 8) step 7 = (n % 8).toNat :=
    lnFindJ_lnC (n / 8) hstep (by omega) (by decide)
  have hn : 8 * (n / 8) + ((n % 8).toNat : Int) = n := by omega
  simp only [roundLog, hk, hfind, hn, pickHi_self, Bool.false_eq_true, if_false]

/-- A position of the format's own sequence is written as its code (R40 to R44). -/
theorem encodeLog_lnVal {step mb m : Nat} {off : Int} (s : Bool) (hstep0 : 0 < step)
    (hstep : ((step * m + off) % 8).toNat % step = 0) (hm0 : 0 < m) (hm : m < 2 ^ mb) :
    encodeLog step off mb .rne (lnVal s (step * m + off)) = ⟨b2n s * 2 ^ mb + m, .none⟩ := by
  have hdiv : ((step : Int) * m + off - off) / step = m := by
    rw [Int.add_sub_cancel, Int.mul_ediv_cancel_left _ (by omega)]
  have hover : ¬ (m : Int) > ((2 ^ mb - 1 : Nat) : Int) := by omega
  have hunder : ¬ (m : Int) < 1 := by omega
  simp only [encodeLog, lnVal, beq_eq_false_iff_ne.2 (lnV_pos _).ne', roundLog_lnV .rne _ _ hstep, hdiv, if_neg hover,
    if_neg hunder, Int.toNat_natCast, Bool.false_eq_true, if_false]

theorem decode_ln8_floatCode {m : Nat} (s : Bool) (hm : m < 2 ^ 7) : decode .ln8 (floatCode 7 0 s 0 m) =
    if m = 0 then (if s then Val.default else Val.zero) else lnVal s (m - 120) := by
  have hsign : bit (floatCode 7 0 s 0 m) 7 = s := bit_floatCode s (by decide) hm
  have hpos : floatCode 7 0 s 0 m % 128 = m := floatCode_mod s hm
  simp only [decode, hsign, hpos, beq_iff_eq]

theorem decode_ln4_floatCode {m : Nat} (s : Bool) (hm : m < 2 ^ 3) : decode .ln4 (floatCode 3 0 s 0 m) =
    if m = 0 then Val.zero else lnVal s (4 * (m - 7)) := by
  have hsign : bit (floatCode 3 0 s 0 m) 3 = s := bit_floatCode s (by decide) hm
  have hpos : floatCode 3 0 s 0 m % 8 = m := floatCode_mod s hm
  simp only [decode, hsign, hpos, beq_iff_eq]

theorem encodeLane_ln8_position {m : Nat} (s : Bool) (hm0 : 0 < m) (hm : m < 2 ^ 7) :
    encodeLane .ln8 (decode .ln8 (floatCode 7 0 s 0 m)) = ⟨floatCode 7 0 s 0 m, .none⟩ := by
  have henc := encodeLog_lnVal (step := 1) (off := -120) s (by decide) (Nat.mod_one _) hm0 hm
  rw [decode_ln8_floatCode s hm, if_neg hm0.ne']
  simpa [encodeLane, encode, floatCode, Int.sub_eq_add_neg] using henc

theorem encodeLane_ln4_position {m : Nat} (s : Bool) (hm0 : 0 < m) (hm : m < 2 ^ 3) :
    encodeLane .ln4 (decode .ln4 (floatCode 3 0 s 0 m)) = ⟨floatCode 3 0 s 0 m, .none⟩ := by
  have henc := encodeLog_lnVal (step := 4) (off := -28) s (by decide) (by omega) hm0 hm
  rw [decode_ln4_floatCode s hm, if_neg hm0.ne', mul_sub]
  simpa [encodeLane, encode, floatCode, Int.sub_eq_add_neg] using henc

theorem isZero_lnVal (s : Bool) (n : Int) : (lnVal s n).isZero = false := by
  simpa [lnVal, Val.isZero] using (lnV_pos n).ne'

theorem decode_ln8_of_isZero {m : Nat} (s : Bool) (hm : m < 2 ^ 7) (hzero : (decode .ln8 (floatCode 7 0 s 0 m)).isZero = true) :
    m = 0 := by
  rw [decode_ln8_floatCode s hm] at hzero
  by_contra hm0
  rw [if_neg hm0, isZero_lnVal] at hzero
  cases hzero

theorem decode_ln4_of_isZero {m : Nat} (s : Bool) (hm : m < 2 ^ 3) (hzero : (decode .ln4 (floatCode 3 0 s 0 m)).isZero = true) :
    m = 0 := by
  rw [decode_ln4_floatCode s hm] at hzero
  by_contra hm0
  rw [if_neg hm0, isZero_lnVal] at hzero
  cases hzero

/-! ### Integer formats -/

theorem Val.isZero_ofInt (i : Int) : (Val.ofInt i).isZero = decide (i = 0) := by
  rw [Bool.eq_iff_iff]
  simp [Val.ofInt, Val.isZero]

/-- An integer of the range is written as its residue (R49). -/
theorem encodeInt_ofInt (w : Nat) (signed : Bool) {i : Int} (hi0 : i ≠ 0)
    (hlo : (if signed then -2 ^ (w - 1) else 0) ≤ i) (hhi : i ≤ if signed then 2 ^ (w - 1) - 1 else 2 ^ w - 1) :
    encodeInt w signed .rne (Val.ofInt i) = ⟨(i % 2 ^ w).toNat, .none⟩ := by
  have hval : (if decide (i < 0) = true then -(i.natAbs : Int) else i.natAbs) = i := by
    simp only [decide_eq_true_eq]
    split <;> omega
  simp only [encodeInt, Val.ofInt, roundInt_int, hval, if_neg hlo.not_gt, if_neg hhi.not_gt, Int.natAbs_eq_zero, beq_iff_eq,
    if_neg hi0]

/-- The integer that a code of `w` bits stands for is written as that code. -/
theorem encodeInt_decoded {w c : Nat} (signed : Bool) (hw : 0 < w) (hc : c < 2 ^ w) {i : Int}
    (hi : i = if signed && c ≥ 2 ^ (w - 1) then (c : Int) - 2 ^ w else c) (hi0 : i ≠ 0) :
    encodeInt w signed .rne (Val.ofInt i) = ⟨c, .none⟩ := by
  have htwo : (2 : Int) ^ w = 2 * 2 ^ (w - 1) := by rw [← pow_succ', Nat.sub_add_cancel hw]
  have hpos : (0 : Int) < 2 ^ (w - 1) := by positivity
  have hcw : (c : Int) < 2 ^ w := by exact_mod_cast hc
  have hhalf : c ≥ 2 ^ (w - 1) ↔ (2 : Int) ^ (w - 1) ≤ c := by norm_cast
  have hrange : (if signed then -2 ^ (w - 1) else 0) ≤ i ∧ i ≤ if signed then 2 ^ (w - 1) - 1 else 2 ^ w - 1 := by
    cases signed
    · simp only [Bool.false_and, Bool.false_eq_true, if_false] at hi ⊢
      omega
    · simp only [Bool.true_and, decide_eq_true_eq, hhalf, if_true] at hi ⊢
      split at hi <;> omega
  have hres : i % 2 ^ w = c := by
    rw [hi]
    split
    · rw [Int.sub_emod_right, Int.emod_eq_of_lt (by omega) hcw]
    · rw [Int.emod_eq_of_lt (by omega) hcw]
  rw [encodeInt_ofInt w signed hi0 hrange.1 hrange.2, hres, Int.toNat_natCast]

/-! ### Every format -/

/-- A value that is neither a NaN nor a zero is written as its own code. -/
theorem encodeLane_decode {f : Fmt} {c : Nat} (hc : c < 2 ^ f.width) (hnan : (decode f c).isNan = false)
    (hzero : (decode f c).isZero = false) : encodeLane f (decode f c) = ⟨c, .none⟩ := by
  cases f with
  | b32 =>
    obtain ⟨s, x, f, hx, hf, rfl⟩ := exists_floatCode (fb := 23) (eb := 8) hc
    exact encodeIeee_decodeIeee s hx hf (by decide) hnan hzero
  | b16 =>
    obtain ⟨s, x, f, hx, hf, rfl⟩ := exists_floatCode (fb := 10) (eb := 5) hc
    exact encodeIeee_decodeIeee s hx hf (by decide) hnan hzero
  | fm16 =>
    obtain ⟨s, x, f, hx, hf, rfl⟩ := exists_floatCode (fb := 9) (eb := 6) hc
    exact encodeMini_decodeMini s hx hf (by decide) 31 hzero hnan
  | fm8 =>
    obtain ⟨s, x, f, hx, hf, rfl⟩ := exists_floatCode (fb := 3) (eb := 4) hc
    exact encodeMini_decodeMini s hx hf (by decide) 8 hzero hnan
  | xf =>
    obtain ⟨s, x, f, hx, hf, rfl⟩ := exists_floatCode (fb := 26) (eb := 10) hc
    exact encodeXf_decode s hx hf hnan hzero
  | ln8 =>
    obtain ⟨s, x, m, hx, hm, rfl⟩ := exists_floatCode (fb := 7) (eb := 0) hc
    obtain rfl : x = 0 := by omega
    refine encodeLane_ln8_position s (Nat.pos_of_ne_zero ?_) hm
    rintro rfl
    cases s
    · cases hzero
    · cases hnan
  | ln4 =>
    obtain ⟨s, x, m, hx, hm, rfl⟩ := exists_floatCode (fb := 3) (eb := 0) hc
    obtain rfl : x = 0 := by omega
    refine encodeLane_ln4_position s (Nat.pos_of_ne_zero ?_) hm
    rintro rfl
    cases s <;> cases hzero
  | iq8 signed => exact encodeInt_decoded signed (Nat.succ_pos _) hc rfl (by simpa [decode, Val.isZero_ofInt] using hzero)
  | iq4 signed => exact encodeInt_decoded signed (Nat.succ_pos _) hc rfl (by simpa [decode, Val.isZero_ofInt] using hzero)

/-- A zero of a format is that of code 0 or that of the sign bit alone. -/
theorem decode_of_isZero {f : Fmt} {c : Nat} (hc : c < 2 ^ f.width) (hzero : (decode f c).isZero = true) :
    ∃ s, decode f c = decode f (b2n s * 2 ^ (f.width - 1)) := by
  have hsign {fb eb : Nat} {s : Bool} (hw : f.width = fb + eb + 1) (h : decode f c = decode f (floatCode fb eb s 0 0)) :
      ∃ s, decode f c = decode f (b2n s * 2 ^ (f.width - 1)) := ⟨s, by simp [h, hw, floatCode]⟩
  cases f with
  | b32 =>
    obtain ⟨s, x, f, hx, hf, rfl⟩ := exists_floatCode (fb := 23) (eb := 8) hc
    exact hsign rfl (decodeIeee_of_isZero s hx hf (by decide) hzero)
  | b16 =>
    obtain ⟨s, x, f, hx, hf, rfl⟩ := exists_floatCode (fb := 10) (eb := 5) hc
    exact hsign rfl (decodeIeee_of_isZero s hx hf (by decide) hzero)
  | fm16 =>
    obtain ⟨s, x, f, hx, hf, rfl⟩ := exists_floatCode (fb := 9) (eb := 6) hc
    exact hsign rfl (decodeMini_of_isZero s hx hf (by decide) 31 hzero)
  | fm8 =>
    obtain ⟨s, x, f, hx, hf, rfl⟩ := exists_floatCode (fb := 3) (eb := 4) hc
    exact hsign rfl (decodeMini_of_isZero s hx hf (by decide) 8 hzero)
  | xf =>
    obtain ⟨s, x, f, hx, hf, rfl⟩ := exists_floatCode (fb := 26) (eb := 10) hc
    exact hsign rfl (decode_xf_of_isZero s hx hf hzero)
  | ln8 =>
    obtain ⟨s, x, m, hx, hm, rfl⟩ := exists_floatCode (fb := 7) (eb := 0) hc
    obtain rfl : x = 0 := by omega
    obtain rfl := decode_ln8_of_isZero s hm hzero
    exact hsign rfl rfl
  | ln4 =>
    obtain ⟨s, x, m, hx, hm, rfl⟩ := exists_floatCode (fb := 3) (eb := 0) hc
    obtain rfl : x = 0 := by omega
    obtain rfl := decode_ln4_of_isZero s hm hzero
    exact hsign rfl rfl
  | iq8 signed | iq4 signed =>
    rw [decode, Val.isZero_ofInt, decide_eq_true_eq] at hzero
    refine ⟨false, ?_⟩
    rw [decode, hzero]
    cases signed <;> rfl

/-- A zero of a format is written as a code of the same zero. -/
theorem decode_encodeLane_zero {f : Fmt} {c : Nat} (hc : c < 2 ^ f.width) (hzero : (decode f c).isZero = true) :
    decode f (encodeLane f (decode f c)).code = decode f c ∧ (encodeLane f (decode f c)).ev = .none := by
  obtain ⟨s, h⟩ := decode_of_isZero hc hzero
  rw [h] at hzero ⊢
  revert hzero
  cases f with
  | iq8 signed | iq4 signed => cases signed <;> cases s <;> decide
  | _ => cases s <;> decide

/-- Settles O58: a nonzero value by `encodeLane_decode`, a zero by `decode_encodeLane_zero`. -/
theorem formatsHoldTheirOwnValues : Obligations.FormatsHoldTheirOwnValues := by
  intro f c hc hnan
  cases hzero : (decode f c).isZero with
  | true => exact decode_encodeLane_zero hc hzero
  | false => simp [encodeLane_decode hc hnan hzero]

end Sys2Proof.Machine
end

section
/-!
PROOFS. Special inputs of the built-in functions, APPLY and the step engine (R62, R124, R126, R167, R168, R215, R219, R220).
-/

namespace Sys2Proof.Machine

/-! ### How far rounding goes -/

theorem cast_shl (n : Nat) {k : Int} (hk : 0 ≤ k) : (shl n k : ℚ) = n * 2 ^ k := by
  obtain ⟨m, rfl⟩ := Int.eq_ofNat_of_zero_le hk
  simp [shl, Nat.shiftLeft_eq]

/-- The numerator is below the denominator times the power of two after the logarithm of the quotient. -/
theorem num_lt_floorLog2 {d : Nat} (n : Nat) (hd : 0 < d) (e : Int) : (n : ℚ) < d * 2 ^ (floorLog2 n d e - e + 1) := by
  simp only [floorLog2]
  set l : Int := (n.log2 : Int) - d.log2 with hl
  generalize hge : (if l ≥ 0 then decide (shl d l ≤ n) else decide (d ≤ shl n (-l))) = ge
  cases ge with
  | true =>
    have hn : (n : ℚ) < 2 ^ ((n.log2 : Int) + 1) := by exact_mod_cast Nat.lt_log2_self (n := n)
    have hdlog : (2 : ℚ) ^ (d.log2 : Int) ≤ d := by exact_mod_cast Nat.log2_self_le hd.ne'
    calc (n : ℚ) < 2 ^ ((n.log2 : Int) + 1) := hn
      _ = 2 ^ (d.log2 : Int) * 2 ^ (l + 1) := by rw [← zpow_add₀ two_ne_zero]; congr 1; omega
      _ ≤ d * 2 ^ (l + 1) := by gcongr
      _ = _ := by simp
  | false =>
    have hlt : (n : ℚ) < d * 2 ^ l := by
      split at hge
      · next hnn =>
        rw [← cast_shl d hnn]
        exact_mod_cast not_le.1 (of_decide_eq_false hge)
      · have hshl : (n * 2 ^ (-l) : ℚ) < d := by
          rw [← cast_shl n (by omega)]
          exact_mod_cast not_le.1 (of_decide_eq_false hge)
        rwa [zpow_neg, mul_inv_lt_iff₀ (by positivity)] at hshl
    simpa using hlt

/-- A magnitude is below the power of two after its logarithm. -/
theorem mag_lt_floorLog2 {n d : Nat} (hd : 0 < d) (e : Int) : (n / d * 2 ^ e : ℚ) < 2 ^ (floorLog2 n d e + 1) := by
  have hdq : (0 : ℚ) < d := by exact_mod_cast hd
  calc (n / d * 2 ^ e : ℚ) < 2 ^ (floorLog2 n d e - e + 1) * 2 ^ e :=
        mul_lt_mul_of_pos_right ((div_lt_iff₀' hdq).2 (num_lt_floorLog2 n hd e)) (by positivity)
    _ = _ := by rw [← zpow_add₀ two_ne_zero]; congr 1; omega

theorem floorAt_le (q : Int) (n : Nat) {d : Nat} (e : Int) : (floorAt q n d e : ℚ) ≤ n / d * 2 ^ (e - q) := by
  by_cases h : e - q ≥ 0
  · have hshl := cast_shl n h
    simp only [floorAt, if_pos h]
    calc ((shl n (e - q) / d : Nat) : ℚ) ≤ (shl n (e - q) : ℚ) / d := Nat.cast_div_le
      _ = _ := by rw [hshl]; ring
  · have hshl := cast_shl d (k := -(e - q)) (by omega)
    simp only [floorAt, if_neg h]
    calc ((n / shl d (-(e - q)) : Nat) : ℚ) ≤ n / (shl d (-(e - q)) : ℚ) := Nat.cast_div_le
      _ = _ := by rw [hshl, zpow_neg]; field_simp

/-- The significand before rounding has at most `p` bits at an exponent that leaves no more. -/
theorem floorAt_lt {n d p : Nat} {e q : Int} (hd : 0 < d) (hq : floorLog2 n d e + 1 ≤ q + p) : floorAt q n d e < 2 ^ p := by
  have hlt : (floorAt q n d e : ℚ) < 2 ^ (p : Int) :=
    calc (floorAt q n d e : ℚ) ≤ n / d * 2 ^ (e - q) := floorAt_le q n e
      _ = n / d * 2 ^ e * 2 ^ (-q) := by rw [sub_eq_add_neg, zpow_add₀ two_ne_zero]; ring
      _ < 2 ^ (floorLog2 n d e + 1) * 2 ^ (-q) := mul_lt_mul_of_pos_right (mag_lt_floorLog2 hd e) (by positivity)
      _ = 2 ^ (floorLog2 n d e + 1 - q) := (zpow_add₀ two_ne_zero _ _).symm
      _ ≤ 2 ^ (p : Int) := zpow_le_zpow_right₀ (by norm_num) (by omega)
  exact_mod_cast hlt

/-- A rounded significand has `p` bits, and its exponent is no finer than the least one (R50). -/
theorem roundSig_range {n d p : Nat} {e emin : Int} (r : Rnd) (hd : 0 < d) (hp : 0 < p) :
    (roundSig r p (some emin) n d e).1 < 2 ^ p ∧ emin ≤ (roundSig r p (some emin) n d e).2 := by
  simp only [roundSig]
  generalize hq : max (floorLog2 n d e - (p - 1 : Nat)) emin = q
  have hlo : floorAt q n d e < 2 ^ p := floorAt_lt hd (by omega)
  have hhalf : 2 ^ (p - 1) < 2 ^ p := Nat.pow_lt_pow_right (by decide) (by omega)
  split_ifs with hhi hmax hmax
  · exact ⟨hhalf, by dsimp only; omega⟩
  · exact ⟨lt_of_le_of_ne hlo (by simpa using hmax), by dsimp only; omega⟩
  · exact ⟨hhalf, by dsimp only; omega⟩
  · exact ⟨hlo, by dsimp only; omega⟩

/-! ### What rounding to an IEEE format keeps: the sign of a number, and that a NaN is one -/

/-- The code that a number is written as has its sign, and is no NaN. -/
theorem encodeIeee_fin_code (fb : Nat) {eb n d : Nat} (e : Int) (s : Bool) (heb : 1 < eb) (hd : 0 < d) :
    ∃ x f, x < 2 ^ eb ∧ f < 2 ^ fb ∧ (x = 2 ^ eb - 1 → f = 0) ∧
      (encodeIeee fb eb .lane false (.fin s n d e)).code = floatCode fb eb s x f := by
  have hbias : (2 : Int) ≤ 2 ^ (eb - 1) := le_self_pow₀ (by decide) (by omega)
  have hmax : ((2 ^ eb : Nat) : Int) = 2 * 2 ^ (eb - 1) := by
    rw [← pow_succ', Nat.sub_add_cancel (by omega)]
    push_cast
    rfl
  have hpos : 0 < 2 ^ fb := by positivity
  by_cases hn : n = 0
  · exact ⟨0, 0, by omega, hpos, fun _ => rfl, by simp [encodeIeee, hn, floatCode]⟩
  have hrange := roundSig_range (n := n) (e := e) (emin := 1 - (2 ^ (eb - 1) - 1) - fb) .rne hd (Nat.succ_pos fb)
  generalize hround : roundSig .rne (fb + 1) (some (1 - (2 ^ (eb - 1) - 1) - fb)) n d e = mq at hrange
  obtain ⟨m, q⟩ := mq
  obtain ⟨hm, hq⟩ := hrange
  by_cases hm0 : m = 0
  · exact ⟨0, 0, by omega, hpos, fun _ => rfl, by simp [encodeIeee, hn, hround, hm0, floatCode]⟩
  by_cases hover : q + fb ≤ 2 ^ (eb - 1) - 1
  · rw [encodeIeee_of_roundSig s hn hm0 hround hover]
    by_cases hsub : m < 2 ^ fb
    · exact ⟨0, m, by omega, hsub, by omega, ieeeCode_subnormal eb s q hsub⟩
    · obtain ⟨f, rfl⟩ := Nat.exists_eq_add_of_le (not_lt.1 hsub)
      rw [pow_succ] at hm
      dsimp only at hm hq
      exact ⟨_, f, by omega, by omega, by omega, ieeeCode_normal fb eb f s q⟩
  · refine ⟨2 ^ eb - 1, 0, by omega, hpos, fun _ => rfl, ?_⟩
    have hover' : q + fb > 2 ^ (eb - 1) - 1 := by omega
    simp only [encodeIeee, beq_eq_false_iff_ne.2 hn, hround, beq_eq_false_iff_ne.2 hm0, if_pos hover', floatCode,
      Bool.false_eq_true, if_false, Nat.add_zero]
    rfl

/-- A number that is rounded to binary32 keeps its sign, as an infinity or as a number. -/
theorem reround_b32_fin {d : Nat} (n : Nat) (e : Int) (s : Bool) (hd : 0 < d) :
    reround .b32 (.fin s n d e) = .inf s ∨ ∃ m k, reround .b32 (.fin s n d e) = .fin s m 1 k := by
  obtain ⟨x, f, hx, hf, hinf, hcode⟩ := encodeIeee_fin_code 23 (eb := 8) (n := n) e s (by decide) hd
  have hval : reround .b32 (.fin s n d e) = decodeIeee 23 8 (floatCode 23 8 s x f) := by rw [← hcode]; rfl
  rw [hval, decodeIeee_floatCode s hx hf (by decide)]
  by_cases hmax : x = 2 ^ 8 - 1
  · exact .inl (by rw [if_pos hmax, if_pos (hinf hmax)])
  · right
    rw [if_neg hmax]
    split
    · exact ⟨_, _, rfl⟩
    · exact ⟨_, _, rfl⟩

theorem reround_b32_inf (s : Bool) : reround .b32 (.inf s) = .inf s := by cases s <;> decide

/-- A zero is written alike at every exponent. -/
theorem encodeLane_fin_zero (o : Fmt) (s : Bool) (d : Nat) (e : Int) :
    encodeLane o (.fin s 0 d e) = encodeLane o (.fin s 0 1 0) := by
  cases o <;> simp [encodeLane, encode, encodeIeee, encodeMini, encodeLog, encodeInt, encodeXf]

theorem reround_b32_zero (s : Bool) (d : Nat) (e : Int) : reround .b32 (.fin s 0 d e) = .fin s 0 1 (-149) := by
  rw [reround, encodeLane_fin_zero]
  cases s <;> decide

/-- A NaN that is rounded to binary32 stays a NaN. -/
theorem reround_b32_nan (s : Bool) {fr : Nat} (hfr : fr < 2 ^ 26) : ∃ f, reround .b32 (.nan s fr) = .nan s f := by
  have hf : fr >>> 3 ||| 2 ^ 22 < 2 ^ 23 :=
    Nat.or_lt_two_pow (by rw [Nat.shiftRight_eq_div_pow]; omega) (by decide)
  have hf0 : fr >>> 3 ||| 2 ^ 22 ≠ 0 := fun h => by simpa using (Nat.or_eq_zero_iff.1 h).2
  have hval : reround .b32 (.nan s fr) = decodeIeee 23 8 (floatCode 23 8 s (2 ^ 8 - 1) (fr >>> 3 ||| 2 ^ 22)) := rfl
  rw [hval, decodeIeee_floatCode s (by decide) hf (by decide), if_pos rfl, if_neg hf0]
  exact ⟨_, rfl⟩

/-! ### Built-in functions (R124, R126, Table 5.4) -/

/-- Whether results of a format are narrow: their input is first rounded to binary32 (R124). -/
def Fmt.narrow (o : Fmt) : Bool := !(o.isLong || o == .fm16 || o == .xf)

theorem Fmt.narrow_eq_false {o : Fmt} : o.narrow = false ↔ o.isLong = true ∨ o = .fm16 ∨ o = .xf := by
  simp only [Fmt.narrow, Bool.not_eq_false', Bool.or_eq_true, beq_iff_eq, or_assoc]

theorem Fmt.narrow_eq_true {o : Fmt} : o.narrow = true ↔ o.isLong = false ∧ o ≠ .fm16 ∧ o ≠ .xf := by
  simp [Fmt.narrow, and_assoc]

/-- The value that a built-in function takes. -/
def evalInput (o : Fmt) (x : Val) : Val := if o.narrow then reround .b32 x else x

theorem evalEnc_builtin {func : Nat} {f : Fn} (hf : Fn.ofCode func = some f) (psh : Nat) (o : Fmt) (x : Val) :
    evalEnc func none psh o x = encodeLane o (Val.scale2 psh (evalBuiltin f o (evalInput o x))) := by
  simp only [evalEnc, evalExact, hf]
  rfl

@[simp] theorem evalInput_inf (o : Fmt) (s : Bool) : evalInput o (.inf s) = .inf s := by
  rw [evalInput, reround_b32_inf, ite_self]

theorem evalInput_zero (o : Fmt) (s : Bool) (d : Nat) (e : Int) : ∃ d' e', evalInput o (.fin s 0 d e) = .fin s 0 d' e' := by
  rw [evalInput, reround_b32_zero]
  split
  · exact ⟨_, _, rfl⟩
  · exact ⟨_, _, rfl⟩

/-- A narrow format keeps neither the sign nor the fraction of a NaN (R54). -/
theorem encodeLane_narrow_nan {o : Fmt} (ho : o.narrow = true) (s s' : Bool) (f f' : Nat) :
    encodeLane o (.nan s f) = encodeLane o (.nan s' f') := by
  match o, ho with
  | .fm8, _ | .ln8, _ | .ln4, _ | .iq8 _, _ | .iq4 _, _ => rfl

/-- The functions that have no value at a negative number. -/
def Fn.positiveOnly : Fn → Bool
  | .log2 | .log | .rsqrt => true
  | .exp2 | .exp | .recip => false

section Builtin

variable (o : Fmt) (psh : Nat) (s : Bool) (n d : Nat) (e : Int)

/-- A NaN passes, quieted. -/
theorem evalEnc_nan {func fr : Nat} {f : Fn} (hf : Fn.ofCode func = some f) (hfr : fr < 2 ^ 26) :
    evalEnc func none psh o (.nan s fr) = encodeLane o (.nan s (fr ||| 2 ^ 25)) := by
  rw [evalEnc_builtin hf, evalInput]
  cases ho : o.narrow with
  | false => rfl
  | true =>
    obtain ⟨f', h⟩ := reround_b32_nan s hfr
    rw [if_pos rfl, h]
    exact encodeLane_narrow_nan ho ..

theorem evalEnc_inf {func : Nat} {f : Fn} (hf : Fn.ofCode func = some f) :
    evalEnc func none psh o (.inf s) = encodeLane o (Val.scale2 psh (evalBuiltin f o (.inf s))) := by
  rw [evalEnc_builtin hf, evalInput_inf]

theorem evalBuiltin_zero (f : Fn) : evalBuiltin f o (.fin s 0 d e) = evalBuiltin f o (.fin s 0 1 0) := by
  cases f <;> simp [evalBuiltin]

/-- What the functions give at a zero does not depend on how it is written. -/
theorem evalEnc_zero {func : Nat} {f : Fn} (hf : Fn.ofCode func = some f) :
    evalEnc func none psh o (.fin s 0 d e) = encodeLane o (Val.scale2 psh (evalBuiltin f o (.fin s 0 1 0))) := by
  obtain ⟨d', e', h⟩ := evalInput_zero o s d e
  rw [evalEnc_builtin hf, h, evalBuiltin_zero]

theorem evalBuiltin_negative {f : Fn} (hpos : f.positiveOnly = true) {n : Nat} (hn : n ≠ 0) :
    evalBuiltin f o (.fin true n d e) = Val.default := by
  match f, hpos with
  | .log2, _ | .log, _ | .rsqrt, _ => simp [evalBuiltin, hn]

theorem evalBuiltin_negative_zero {f : Fn} (hpos : f.positiveOnly = true) : evalBuiltin f o (.fin true 0 d e) = .inf true := by
  match f, hpos with
  | .log2, _ | .log, _ | .rsqrt, _ => rfl

theorem evalBuiltin_negative_inf {f : Fn} (hpos : f.positiveOnly = true) : evalBuiltin f o (.inf true) = Val.default := by
  match f, hpos with
  | .log2, _ | .log, _ | .rsqrt, _ => rfl

variable {n d}

theorem evalEnc_negative_wide {func : Nat} {f : Fn} (hf : Fn.ofCode func = some f) (hpos : f.positiveOnly = true) (hn : 0 < n)
    (ho : o.narrow = false) : evalEnc func none psh o (.fin true n d e) = encodeLane o Val.default := by
  rw [evalEnc_builtin hf, evalInput, ho, if_neg Bool.false_ne_true, evalBuiltin_negative o d e hpos hn.ne']
  rfl

/-- For a narrow result a negative number may round to -0 (R124). -/
theorem evalEnc_negative_narrow {func : Nat} {f : Fn} (hf : Fn.ofCode func = some f) (hpos : f.positiveOnly = true) (hd : 0 < d)
    (ho : o.narrow = true) : evalEnc func none psh o (.fin true n d e) =
      if (reround .b32 (.fin true n d e)).isZero then encodeLane o (.inf true) else encodeLane o Val.default := by
  rw [evalEnc_builtin hf, evalInput, ho, if_pos rfl]
  obtain h | ⟨m, k, h⟩ := reround_b32_fin n e true hd
  · rw [h, evalBuiltin_negative_inf o hpos]
    rfl
  · rw [h]
    by_cases hm : m = 0
    · rw [hm, evalBuiltin_negative_zero o 1 k hpos]
      rfl
    · rw [evalBuiltin_negative o 1 k hpos hm, if_neg (by simpa [Val.isZero] using hm)]
      rfl

end Builtin

section Classes

variable (o : Fmt) (psh : Nat) (s : Bool) (d : Nat) (e : Int) {func : Nat} {f : Fn} (hf : Fn.ofCode func = some f)
include hf

/-- Table 5.4, EXP2 and EXP at the infinities and the zeros. -/
theorem evalEnc_exp (hexp : f = .exp2 ∨ f = .exp) :
    evalEnc func none psh o (.inf true) = encodeLane o Val.zero ∧
    evalEnc func none psh o (.inf false) = encodeLane o (.inf false) ∧
    evalEnc func none psh o (.fin s 0 d e) = encodeLane o (Val.scale2 psh Val.one) := by
  have hneg : evalBuiltin f o (.inf true) = Val.zero := by rcases hexp with rfl | rfl <;> rfl
  have hpos : evalBuiltin f o (.inf false) = .inf false := by rcases hexp with rfl | rfl <;> rfl
  have hzero : evalBuiltin f o (.fin s 0 1 0) = Val.one := by rcases hexp with rfl | rfl <;> rfl
  rw [evalEnc_inf o psh true hf, evalEnc_inf o psh false hf, evalEnc_zero o psh s d e hf, hneg, hpos, hzero]
  exact ⟨encodeLane_fin_zero .., rfl, rfl⟩

/-- Table 5.4, LOG2 and LOG at the infinities and the zeros. -/
theorem evalEnc_log (hlog : f = .log2 ∨ f = .log) :
    evalEnc func none psh o (.inf true) = encodeLane o Val.default ∧
    evalEnc func none psh o (.inf false) = encodeLane o (.inf false) ∧
    evalEnc func none psh o (.fin s 0 d e) = encodeLane o (.inf true) := by
  have hneg : evalBuiltin f o (.inf true) = Val.default := by rcases hlog with rfl | rfl <;> rfl
  have hpos : evalBuiltin f o (.inf false) = .inf false := by rcases hlog with rfl | rfl <;> rfl
  have hzero : evalBuiltin f o (.fin s 0 1 0) = .inf true := by rcases hlog with rfl | rfl <;> rfl
  rw [evalEnc_inf o psh true hf, evalEnc_inf o psh false hf, evalEnc_zero o psh s d e hf, hneg, hpos, hzero]
  exact ⟨rfl, rfl, rfl⟩

end Classes

/-- Table 5.4, RECIP at the infinities and the zeros. -/
theorem evalEnc_recip (o : Fmt) (psh : Nat) (s : Bool) (d : Nat) (e : Int) :
    evalEnc 5 none psh o (.inf s) = encodeLane o (.fin s 0 1 0) ∧
    evalEnc 5 none psh o (.fin s 0 d e) = encodeLane o (.inf s) := by
  rw [evalEnc_inf (f := .recip) o psh s rfl, evalEnc_zero (f := .recip) o psh s d e rfl]
  exact ⟨encodeLane_fin_zero .., rfl⟩

/-- Table 5.4, RSQRT at the infinities and the zeros. -/
theorem evalEnc_rsqrt (o : Fmt) (psh : Nat) (s : Bool) (d : Nat) (e : Int) :
    evalEnc 6 none psh o (.inf true) = encodeLane o Val.default ∧
    evalEnc 6 none psh o (.inf false) = encodeLane o Val.zero ∧
    evalEnc 6 none psh o (.fin s 0 d e) = encodeLane o (.inf s) := by
  rw [evalEnc_inf (f := .rsqrt) o psh true rfl, evalEnc_inf (f := .rsqrt) o psh false rfl,
    evalEnc_zero (f := .rsqrt) o psh s d e rfl]
  exact ⟨rfl, encodeLane_fin_zero .., rfl⟩

/-! ### APPLY (R215, R219, R220, R224) -/

theorem Val.firstNan_cons_nan {v : Val} (h : v.isNan = true) (vs : List Val) : Val.firstNan (v :: vs) = some v.quiet := by
  rw [Val.firstNan, if_pos h]

theorem Val.firstNan_cons {v : Val} (h : v.isNan = false) (vs : List Val) : Val.firstNan (v :: vs) = Val.firstNan vs := by
  rw [Val.firstNan, if_neg (by simp [h])]

theorem Val.isNan_of_firstNan {q : Val} {vs : List Val} (h : Val.firstNan vs = some q) : q.isNan = true := by
  induction vs with
  | nil => cases h
  | cons v vs ih =>
    cases hv : v.isNan with
    | false => exact ih (by rwa [Val.firstNan_cons hv] at h)
    | true =>
      rw [Val.firstNan_cons_nan hv, Option.some.injEq] at h
      cases v with
      | nan => rw [← h]; rfl
      | inf => cases hv
      | fin => cases hv

/-- A NaN among the first operands is the first NaN. -/
theorem Val.firstNan_append {q : Val} {vs : List Val} (h : Val.firstNan vs = some q) (us : List Val) :
    Val.firstNan (vs ++ us) = some q := by
  induction vs with
  | nil => cases h
  | cons v vs ih =>
    cases hv : v.isNan with
    | false =>
      rw [Val.firstNan_cons hv] at h
      rw [List.cons_append, Val.firstNan_cons hv, ih h]
    | true => rwa [List.cons_append, Val.firstNan_cons_nan hv, ← Val.firstNan_cons_nan hv vs]

section NanOperand

variable {a b : Val}

/-- The exact operations pass their first NaN operand, quieted (R62). -/
theorem Val.binary_nan {q : Val} (h : Val.firstNan [a, b] = some q) :
    Val.add a b = q ∧ Val.sub a b = q ∧ Val.mul a b = q ∧ Val.div a b = q := by
  refine ⟨?_, ?_, ?_, ?_⟩
  · unfold Val.add; rw [h]
  · unfold Val.sub; rw [h]
  · unfold Val.mul; rw [h]
  · unfold Val.div; rw [h]

theorem Val.not_inf_of_isNan (h : a.isNan = true) : a.isInf = false := by
  cases a with
  | nan => rfl
  | inf => cases h
  | fin => cases h

end NanOperand

section Apply

variable {c : Chain} {k col : Nat} {a : Opnd} {st : Val}

theorem applyElem_sub_of_finite (haop : (c.stage k).aop = 0) (ha : a.val.isInf = false) :
    applyElem c k col st a = encodeLane (fmtOf (c.stage k).opfD) (Val.sub a.val st) := by
  simp [applyElem, haop, ha]

theorem applyElem_nan (haop : (c.stage k).aop < 2) (ha : a.val.isNan = true) :
    applyElem c k col st a = encodeLane (fmtOf (c.stage k).opfD) a.val.quiet := by
  obtain ⟨-, hsub, -, hdiv⟩ := Val.binary_nan (Val.firstNan_cons_nan ha [st])
  obtain h | h : (c.stage k).aop = 0 ∨ (c.stage k).aop = 1 := by omega
  · rw [applyElem_sub_of_finite h (Val.not_inf_of_isNan ha), hsub]
  · simp [applyElem, h, ha, hdiv]

theorem applyElem_inf_inf (haop : (c.stage k).aop = 0) (s : Bool) (ha : a.val = .inf s) (hst : st = .inf s) :
    applyElem c k col st a = encodeLane (fmtOf (c.stage k).opfD) (if s then .inf true else Val.default) := by
  simp only [applyElem, haop, ha, hst]
  cases s <;> rfl

theorem applyElem_div_zero (haop : (c.stage k).aop = 1) (hst : st.isZero = true) (ha : a.val.isNan = false) :
    applyElem c k col st a = encodeLane (fmtOf (c.stage k).opfD) Val.zero := by
  simp [applyElem, haop, hst, ha]

end Apply

/-! ### The step engine (R62, R167, R168, Tables 7.4 and 7.5) -/

section Steps

variable {r : StepRegs} {w : Nat}

/-- The operand A of a step. -/
def stepA (r : StepRegs) (w : Nat) : Nat := r.read (bits w 21 17)

/-- The operand B of a step. -/
def stepB (r : StepRegs) (w : Nat) : Nat := r.read (bits w 16 12)

/-- A step of one operand passes a NaN, quieted. -/
theorem stepResult_nan_unary (hop : bits w 31 27 ∈ [0x05, 0x06, 0x07, 0x09, 0x0A])
    (ha : (decode .b32 (stepA r w)).isNan = true) : stepResult r w = rn32 (decode .b32 (stepA r w)).quiet := by
  have hrint : rintVal (decode .b32 (stepA r w)) = (decode .b32 (stepA r w)).quiet := by
    generalize decode .b32 (stepA r w) = v at ha
    cases v with
    | nan => rfl
    | inf => cases ha
    | fin => cases ha
  rw [stepA] at ha hrint ⊢
  simp only [List.mem_cons, List.not_mem_nil, or_false] at hop
  rcases hop with hop | hop | hop | hop | hop <;> simp [stepResult, hop, hrint, ha]

/-- A step of an exact operation passes its first NaN operand, quieted. -/
theorem stepResult_nan_binary {q : Val} (hop : bits w 31 27 ∈ [0x02, 0x03, 0x04])
    (hq : Val.firstNan [decode .b32 (stepA r w), decode .b32 (stepB r w)] = some q) : stepResult r w = rn32 q := by
  obtain ⟨hadd, hsub, hmul, -⟩ := Val.binary_nan hq
  have hnan := Val.isNan_of_firstNan hq
  have hthree := Val.firstNan_append hq [decode .b32 (r.read (bits w 11 7))]
  rw [stepA, stepB] at hadd hsub hmul hthree
  simp only [List.mem_cons, List.not_mem_nil, or_false] at hop
  rcases hop with hop | hop | hop
  · simp only [stepResult, hop, hadd, hsub, ite_self]
  · simp [stepResult, hop, hmul, stepResult.negProduct, hnan]
  · rw [List.cons_append, List.cons_append, List.nil_append] at hthree
    simp only [stepResult, hop, hthree]

/-- A NaN operand A passes, quieted (R62). -/
theorem stepResult_nan_a (hop : bits w 31 27 ∈ [0x02, 0x03, 0x04, 0x05, 0x06, 0x07, 0x09, 0x0A])
    (ha : (decode .b32 (stepA r w)).isNan = true) : stepResult r w = rn32 (decode .b32 (stepA r w)).quiet := by
  obtain h | h := List.mem_append.1 (show bits w 31 27 ∈ [0x02, 0x03, 0x04] ++ [0x05, 0x06, 0x07, 0x09, 0x0A] from hop)
  · exact stepResult_nan_binary h (Val.firstNan_cons_nan ha _)
  · exact stepResult_nan_unary h ha

/-- A NaN operand B passes, quieted, where A is a number (R62). -/
theorem stepResult_nan_b (hop : bits w 31 27 ∈ [0x02, 0x03, 0x04]) (ha : (decode .b32 (stepA r w)).isNan = false)
    (hb : (decode .b32 (stepB r w)).isNan = true) : stepResult r w = rn32 (decode .b32 (stepB r w)).quiet :=
  stepResult_nan_binary hop (by rw [Val.firstNan_cons ha, Val.firstNan_cons_nan hb])

/-- An infinity or a zero is no NaN, and quieting leaves it. -/
theorem Val.inf_or_zero {v : Val} (h : v.isInf = true ∨ v.isZero = true) : v.isNan = false ∧ v.quiet = v := by
  cases v with
  | nan => rcases h with h | h <;> cases h
  | inf => exact ⟨rfl, rfl⟩
  | fin => exact ⟨rfl, rfl⟩

/-- Table 7.4, GETE of an infinity or a zero. -/
theorem stepResult_gete (hop : bits w 31 27 = 0x06)
    (ha : (decode .b32 (stepA r w)).isInf = true ∨ (decode .b32 (stepA r w)).isZero = true) : stepResult r w = 0 := by
  obtain ⟨hnan, -⟩ := Val.inf_or_zero ha
  rw [stepA] at ha hnan
  simp [stepResult, hop, hnan, ha]

/-- Table 7.4, GETM of an infinity or a zero. -/
theorem stepResult_getm (hop : bits w 31 27 = 0x07)
    (ha : (decode .b32 (stepA r w)).isInf = true ∨ (decode .b32 (stepA r w)).isZero = true) :
    stepResult r w = rn32 (decode .b32 (stepA r w)) := by
  obtain ⟨-, hquiet⟩ := Val.inf_or_zero ha
  rw [stepA] at ha hquiet ⊢
  simp only [stepResult, hop, hquiet]
  rw [if_pos (by simpa [or_assoc] using Or.inr ha)]

theorem rn32_default : rn32 Val.default = 0x7FC00000 := by decide

/-- Table 7.4, SCL2 by what is not an integer. -/
theorem stepResult_scl2 (hop : bits w 31 27 = 0x08) (hint : (decode .b32 (stepB r w)).isInteger = false) :
    stepResult r w = 0x7FC00000 := by
  rw [stepB] at hint
  have hscl (a b : Val) (hb : b.isInteger = false) : stepResult.scl2 a b = Val.default := by
    cases b <;> simp [stepResult.scl2, hb]
  simp only [stepResult, hop, hscl _ _ hint, rn32_default]

theorem stepResult_fix (hop : bits w 31 27 = 0x0D) : stepResult r w = fixMap (bits w 6 0) r.x (stepA r w) := by
  simp only [stepResult, hop, stepA]

section Fix

variable {x : Nat} (a : Nat) {imm : Nat}

theorem fixMap_zero : fixMap 0 x a = a := rfl

theorem fixMap_nan (himm : imm ≠ 0) (hx : (decode .b32 x).isNan = true) : fixMap imm x a = rn32 (decode .b32 x).quiet := by
  unfold fixMap
  simp [himm, hx]

/-- Table 7.5 at the negative infinity. -/
theorem fixMap_neg_inf (hx : decode .b32 x = .inf true) :
    (imm = 1 → fixMap imm x a = 0) ∧ (imm = 2 ∨ imm = 4 → fixMap imm x a = 0x7FC00000) ∧
      (imm = 3 → fixMap imm x a = 0x80000000) := by
  have hzero : rn32 (.fin true 0 1 0) = 0x80000000 := by decide
  unfold fixMap
  refine ⟨?_, ?_, ?_⟩
  · rintro rfl
    simp [hx, Val.isNan, Val.isInf, Val.neg?]
  · rintro (rfl | rfl) <;> simp [hx, Val.isNan, Val.isInf, Val.neg?, rn32_default]
  · rintro rfl
    simp [hx, Val.isNan, Val.isInf, Val.neg?, hzero]

/-- Table 7.5 at the positive infinity. -/
theorem fixMap_pos_inf (hx : decode .b32 x = .inf false) :
    (imm = 1 ∨ imm = 2 → fixMap imm x a = 0x7F800000) ∧ (imm = 3 ∨ imm = 4 → fixMap imm x a = 0) := by
  have hinf : rn32 (.inf false) = 0x7F800000 := by decide
  unfold fixMap
  refine ⟨?_, ?_⟩
  · rintro (rfl | rfl) <;> simp [hx, Val.isNan, Val.isInf, Val.neg?, hinf]
  · rintro (rfl | rfl) <;> simp [hx, Val.isNan, Val.isInf, Val.neg?]

/-- Table 7.5 at the zeros. -/
theorem fixMap_of_isZero (hx : (decode .b32 x).isZero = true) :
    (imm = 1 → fixMap imm x a = 0x3F800000) ∧ (imm = 2 → fixMap imm x a = 0xFF800000) ∧
      (imm = 3 ∨ imm = 4 → fixMap imm x a = if (decode .b32 x).neg? then 0xFF800000 else 0x7F800000) := by
  have hinf (s : Bool) : rn32 (.inf s) = if s then 0xFF800000 else 0x7F800000 := by cases s <;> decide
  obtain ⟨hnan, -⟩ := Val.inf_or_zero (.inr hx)
  have hfin : (decode .b32 x).isInf = false := by
    cases h : decode .b32 x with
    | inf => rw [h] at hx; cases hx
    | nan => rfl
    | fin => rfl
  unfold fixMap
  refine ⟨?_, ?_, ?_⟩
  · rintro rfl
    simp [hx, hnan, hfin]
  · rintro rfl
    simp [hx, hnan, hfin, hinf]
  · rintro (rfl | rfl) <;> simp [hx, hnan, hfin, hinf]

/-- Table 7.5 at a negative number. -/
theorem fixMap_negative {n d : Nat} {e : Int} (hx : decode .b32 x = .fin true (n + 1) d e) :
    (imm = 2 ∨ imm = 4 → fixMap imm x a = 0x7FC00000) ∧ (imm = 1 ∨ imm = 3 → fixMap imm x a = a) := by
  unfold fixMap
  refine ⟨?_, ?_⟩
  · rintro (rfl | rfl) <;> simp [hx, Val.isNan, Val.isInf, Val.isZero, Val.neg?, rn32_default]
  · rintro (rfl | rfl) <;> simp [hx, Val.isNan, Val.isInf, Val.isZero, Val.neg?]

/-- Table 7.5 at a positive number: no class. -/
theorem fixMap_positive {n d : Nat} {e : Int} (hx : decode .b32 x = .fin false (n + 1) d e) : fixMap imm x a = a := by
  unfold fixMap
  simp [hx, Val.isNan, Val.isInf, Val.isZero, Val.neg?]

end Fix

end Steps

/-- Settles O60: the functions by `evalEnc_builtin` and the value of each in its class, APPLY by the cases of `applyElem`,
the steps by `stepResult_nan_binary` and the cases of `fixMap`. -/
theorem specialInputsFollowTheTables : Obligations.SpecialInputsFollowTheTables := by
  refine ⟨fun o psh s n d e fr hn hd hfr => ?_, fun c k col a st => ?_, fun r w => ?_⟩
  · have hwide {func : Nat} {f : Fn} (hf : Fn.ofCode func = some f) (hpos : f.positiveOnly = true)
        (ho : o.isLong = true ∨ o = .fm16 ∨ o = .xf) :=
      evalEnc_negative_wide o psh e (d := d) hf hpos hn (Fmt.narrow_eq_false.2 ho)
    refine ⟨fun func h1 h6 => ?_, fun func hfunc => ?_, fun func hfunc => ?_, (evalEnc_recip o psh s d e).1,
      (evalEnc_recip o psh s d e).2, (evalEnc_rsqrt o psh s d e).1, (evalEnc_rsqrt o psh s d e).2.1,
      (evalEnc_rsqrt o psh s d e).2.2, hwide (f := .rsqrt) rfl rfl, fun func hfunc hlong hfm hxf => ?_⟩
    · obtain ⟨f, hf⟩ : ∃ f, Fn.ofCode func = some f := by interval_cases func <;> exact ⟨_, rfl⟩
      exact evalEnc_nan o psh s hf hfr
    · rcases hfunc with rfl | rfl
      · exact evalEnc_exp (f := .exp2) o psh s d e rfl (.inl rfl)
      · exact evalEnc_exp (f := .exp) o psh s d e rfl (.inr rfl)
    · obtain ⟨f, hf, hlog, hpos⟩ : ∃ f, Fn.ofCode func = some f ∧ (f = .log2 ∨ f = .log) ∧
          f.positiveOnly = true := by
        rcases hfunc with rfl | rfl
        · exact ⟨.log2, rfl, .inl rfl, rfl⟩
        · exact ⟨.log, rfl, .inr rfl, rfl⟩
      obtain ⟨hneg, hinf, hzero⟩ := evalEnc_log o psh s d e hf hlog
      exact ⟨hneg, hinf, hzero, hwide hf hpos⟩
    · obtain ⟨f, hf, hpos⟩ : ∃ f, Fn.ofCode func = some f ∧ f.positiveOnly = true := by
        rcases hfunc with rfl | rfl | rfl <;> exact ⟨_, rfl, rfl⟩
      exact evalEnc_negative_narrow o psh e hf hpos hd (Fmt.narrow_eq_true.2 ⟨hlong, hfm, hxf⟩)
  · exact ⟨applyElem_inf_inf (s := true), applyElem_inf_inf (s := false), applyElem_div_zero, applyElem_nan⟩
  · refine ⟨stepResult_nan_a, stepResult_nan_b, stepResult_gete, stepResult_getm, fun hop _ hint _ => stepResult_scl2 hop hint,
      fun hop himm => ?_, fun hop => ?_⟩
    · rw [stepResult_fix hop, himm, fixMap_zero]
      rfl
    · dsimp only
      rw [stepResult_fix hop]
      exact ⟨fixMap_nan _, fixMap_neg_inf _, fixMap_pos_inf _, fixMap_of_isZero _, fun _ _ _ => fixMap_negative _,
        fun _ _ _ => fixMap_positive _⟩

end Sys2Proof.Machine
end

section
/-!
PROOFS. Exact values as rational numbers (R88), the grid of an IEEE format, and that rounding goes to a neighbour on it
(R50, R51, R62).
-/

namespace Sys2Proof.Machine

/-! ### Exact values as rational numbers (R88) -/

/-- An exact value that is the number `x`, with the sign of a positive one. -/
def Val.HasMag (v : Val) (x : ℚ) : Prop := ∃ n d e, v = .fin false n d e ∧ 0 < d ∧ x = n / d * 2 ^ e

theorem Val.hasMag_fin (n : Nat) {d : Nat} (e : Int) (hd : 0 < d) : (Val.fin false n d e).HasMag (n / d * 2 ^ e) :=
  ⟨n, d, e, rfl, hd, rfl⟩

theorem Val.hasMag_dyadic (n : Nat) (e : Int) : (Val.fin false n 1 e).HasMag (n * 2 ^ e) := by
  simpa using Val.hasMag_fin n e one_pos

/-- The numerator of one magnitude over the common denominator and exponent of two. -/
theorem cast_shl_common (n d' : Nat) {d : Nat} {e g : Int} (hd : 0 < d) (hg : g ≤ e) :
    (shl (n * d') (e - g) : ℚ) = n / d * 2 ^ e * (d * d' / 2 ^ g) := by
  have hdq : (d : ℚ) ≠ 0 := by exact_mod_cast hd.ne'
  rw [cast_shl _ (by omega), zpow_sub₀ two_ne_zero]
  push_cast
  field_simp

/-- Magnitudes compare as the numbers that they are. -/
theorem cmpMag_eq_cmp (n n' : Nat) {d d' : Nat} (e e' : Int) (hd : 0 < d) (hd' : 0 < d') :
    cmpMag n d e n' d' e' = cmp (n / d * 2 ^ e : ℚ) (n' / d' * 2 ^ e') := by
  have hl := cast_shl_common n d' hd (min_le_left e e')
  have hr := cast_shl_common n' d hd' (min_le_right e e')
  rw [mul_comm (d' : ℚ)] at hr
  rw [cmpMag, ← cmp_eq_compare, ← (Nat.strictMono_cast (α := ℚ)).cmp_map_eq, hl, hr, cmp_mul_pos_right (by positivity)]

/-- Values compare as the numbers that they are. -/
theorem Val.HasMag.lt_iff {v w : Val} {x y : ℚ} (hv : v.HasMag x) (hw : w.HasMag y) : Val.lt v w = true ↔ x < y := by
  obtain ⟨n, d, e, rfl, hd, rfl⟩ := hv
  obtain ⟨n', d', e', rfl, hd', rfl⟩ := hw
  have hdq : (0 : ℚ) < d := by exact_mod_cast hd
  have hdq' : (0 : ℚ) < d' := by exact_mod_cast hd'
  rcases Nat.eq_zero_or_pos n with rfl | hn <;> rcases Nat.eq_zero_or_pos n' with rfl | hn'
  · simp [Val.lt, Val.cmp]
  · have hpos : (0 : ℚ) < n' / d' * 2 ^ e' := by positivity
    simpa [Val.lt, Val.cmp, hn'.ne'] using hpos
  · have hpos : (0 : ℚ) ≤ n / d * 2 ^ e := by positivity
    simpa [Val.lt, Val.cmp, hn.ne'] using hpos
  · simp [Val.lt, Val.cmp, hn.ne', hn'.ne', cmpMag_eq_cmp n n' e e' hd hd', cmp_eq_lt_iff]

theorem Val.HasMag.mul {v w : Val} {x y : ℚ} (hv : v.HasMag x) (hw : w.HasMag y) : (Val.mul v w).HasMag (x * y) := by
  obtain ⟨n, d, e, rfl, hd, rfl⟩ := hv
  obtain ⟨n', d', e', rfl, hd', rfl⟩ := hw
  refine ⟨n * n', d * d', e + e', rfl, Nat.mul_pos hd hd', ?_⟩
  rw [zpow_add₀ two_ne_zero]
  push_cast
  ring

theorem Val.HasMag.div {v w : Val} {x y : ℚ} (hv : v.HasMag x) (hw : w.HasMag y) (hy : 0 < y) :
    (Val.div v w).HasMag (x / y) := by
  obtain ⟨n, d, e, rfl, hd, rfl⟩ := hv
  obtain ⟨n', d', e', rfl, hd', rfl⟩ := hw
  have hn' : n' ≠ 0 := by rintro rfl; simp at hy
  refine ⟨n * d', d * n', e - e', by simp [Val.div, Val.firstNan, Val.isNan, Val.neg?, hn'],
    Nat.mul_pos hd (Nat.pos_of_ne_zero hn'), ?_⟩
  have hdq : (d : ℚ) ≠ 0 := by exact_mod_cast hd.ne'
  have hnq : (n' : ℚ) ≠ 0 := by exact_mod_cast hn'
  rw [zpow_sub₀ two_ne_zero]
  push_cast
  field_simp

theorem Val.HasMag.scale2 {v : Val} {x : ℚ} (hv : v.HasMag x) (k : Int) : (Val.scale2 k v).HasMag (x * 2 ^ k) := by
  obtain ⟨n, d, e, rfl, hd, rfl⟩ := hv
  exact ⟨n, d, e + k, rfl, hd, by rw [zpow_add₀ two_ne_zero, mul_assoc]⟩

/-- The reference magnitudes of Table 3.5 are positive numbers. -/
theorem refMag_hasMag (f : Fmt) : ∃ x, (refMag f).HasMag x ∧ 0 < x := by
  have hdyadic {n : Nat} (e : Int) (hn : 0 < n) : ∃ x, (Val.fin false n 1 e).HasMag x ∧ 0 < x :=
    ⟨_, Val.hasMag_dyadic n e, by positivity⟩
  cases f with
  | iq8 signed | iq4 signed => exact hdyadic _ (by cases signed <;> decide)
  | _ => exact hdyadic _ (by decide)

/-! ### The power of two next above a number (R77) -/

/-- The denominator times the power of two of the logarithm does not exceed the numerator. -/
theorem floorLog2_le_num {n : Nat} (hn : 0 < n) (d : Nat) (e : Int) : (d * 2 ^ (floorLog2 n d e - e) : ℚ) ≤ n := by
  simp only [floorLog2]
  set l : Int := (n.log2 : Int) - d.log2 with hl
  generalize hge : (if l ≥ 0 then decide (shl d l ≤ n) else decide (d ≤ shl n (-l))) = ge
  cases ge with
  | true =>
    have hle : (d * 2 ^ l : ℚ) ≤ n := by
      split at hge
      · next hnn =>
        rw [← cast_shl d hnn]
        exact_mod_cast of_decide_eq_true hge
      · have hshl : (d : ℚ) ≤ n * 2 ^ (-l) := by
          rw [← cast_shl n (by omega)]
          exact_mod_cast of_decide_eq_true hge
        rwa [zpow_neg, le_mul_inv_iff₀ (by positivity)] at hshl
    simpa using hle
  | false =>
    have hdlog : (d : ℚ) ≤ 2 ^ ((d.log2 : Int) + 1) := by exact_mod_cast Nat.lt_log2_self.le
    have hnlog : (2 : ℚ) ^ (n.log2 : Int) ≤ n := by exact_mod_cast Nat.log2_self_le hn.ne'
    calc (d * 2 ^ (l - 1 + e - e) : ℚ) ≤ 2 ^ ((d.log2 : Int) + 1) * 2 ^ (l - 1 + e - e) := by gcongr
      _ = 2 ^ (n.log2 : Int) := by rw [← zpow_add₀ two_ne_zero]; congr 1; omega
      _ ≤ n := hnlog

/-- The power of two of its logarithm does not exceed a magnitude. -/
theorem floorLog2_le_mag {n d : Nat} (hn : 0 < n) (hd : 0 < d) (e : Int) : (2 ^ floorLog2 n d e : ℚ) ≤ n / d * 2 ^ e := by
  have hdq : (0 : ℚ) < d := by exact_mod_cast hd
  calc (2 ^ floorLog2 n d e : ℚ) = 2 ^ (floorLog2 n d e - e) * 2 ^ e := by rw [← zpow_add₀ two_ne_zero]; congr 1; omega
    _ ≤ n / d * 2 ^ e := mul_le_mul_of_nonneg_right ((le_div_iff₀' hdq).2 (floorLog2_le_num hn d e)) (by positivity)

/-- The exponent of the smallest power of two that is not below a number. -/
theorem ceilLog2_spec {v : Val} {x : ℚ} (hv : v.HasMag x) (hx : 0 < x) : x ≤ 2 ^ ceilLog2 v ∧ 2 ^ (ceilLog2 v - 1) < x := by
  obtain ⟨n, d, e, rfl, hd, rfl⟩ := hv
  have hn : 0 < n := Nat.pos_of_ne_zero (by rintro rfl; simp at hx)
  have hle := floorLog2_le_mag hn hd e
  have hlt := mag_lt_floorLog2 (n := n) hd e
  simp only [ceilLog2, cmpMag_eq_cmp n 1 e _ hd one_pos, beq_iff_eq, cmp_eq_eq_iff, Nat.cast_one, div_one, one_mul]
  split
  · next heq =>
    rw [heq]
    exact ⟨le_rfl, zpow_lt_zpow_right₀ one_lt_two (by omega)⟩
  · next hne =>
    rw [Int.add_sub_cancel]
    exact ⟨hlt.le, lt_of_le_of_ne hle (Ne.symm hne)⟩

/-! ### The grid of an IEEE format (R62) -/

theorem floatCode_false (fb eb x f : Nat) : floatCode fb eb false x f = x * 2 ^ fb + f := by simp [floatCode, b2n]

/-- The exponent of a subnormal significand. -/
abbrev ieeeMin (fb eb : Nat) : Int := 1 - (2 ^ (eb - 1) - 1) - fb

/-- The number that a code without sign stands for, in a format whose exponent field has no end. -/
def ieeeGrid (fb : Nat) (emin : Int) (c : Nat) : ℚ := (c - (c / 2 ^ fb - 1) * 2 ^ fb : Nat) * 2 ^ (emin + (c / 2 ^ fb - 1 : Nat))

section Grid

variable {fb k m : Nat} {emin : Int}

/-- A significand of `fb + 1` bits at a place of the exponent. -/
theorem ieeeGrid_of_lt (hnorm : k = 0 ∨ 2 ^ fb ≤ m) (hm : m < 2 ^ (fb + 1)) :
    ieeeGrid fb emin (m + k * 2 ^ fb) = m * 2 ^ (emin + k) := by
  have hfield : (m + k * 2 ^ fb) / 2 ^ fb = m / 2 ^ fb + k := Nat.add_mul_div_right _ _ (by positivity)
  have htop : m / 2 ^ fb < 2 := (Nat.div_lt_iff_lt_mul (by positivity)).2 (by rwa [← pow_succ'])
  have hplace : m / 2 ^ fb + k - 1 = k := by
    rcases hnorm with rfl | hle
    · omega
    · have := (Nat.one_le_div_iff (by positivity)).2 hle
      omega
  rw [ieeeGrid, hfield, hplace, Nat.add_sub_cancel]

/-- The first significand past `fb + 1` bits is the least one at the next place. -/
theorem ieeeGrid_of_le (hnorm : k = 0 ∨ 2 ^ fb ≤ m) (hm : m ≤ 2 ^ (fb + 1)) :
    ieeeGrid fb emin (m + k * 2 ^ fb) = m * 2 ^ (emin + k) := by
  obtain hlt | rfl := Nat.lt_or_eq_of_le hm
  · exact ieeeGrid_of_lt hnorm hlt
  · have hnext : 2 ^ (fb + 1) + k * 2 ^ fb = 2 ^ fb + (k + 1) * 2 ^ fb := by ring
    rw [hnext, ieeeGrid_of_lt (.inr le_rfl) (by rw [pow_succ]; have := Nat.two_pow_pos fb; omega)]
    push_cast
    rw [← add_assoc, zpow_add_one₀ two_ne_zero]
    ring

/-- Every code is a significand of `fb + 1` bits at a place. -/
theorem exists_significand (fb c : Nat) : ∃ m k, c = m + k * 2 ^ fb ∧ (k = 0 ∨ 2 ^ fb ≤ m) ∧ m < 2 ^ (fb + 1) := by
  have hmod : c % 2 ^ fb < 2 ^ fb := Nat.mod_lt _ (by positivity)
  have hdiv := Nat.mod_add_div c (2 ^ fb)
  cases hx : c / 2 ^ fb with
  | zero => exact ⟨c, 0, by simp, .inl rfl, by rw [hx] at hdiv; rw [pow_succ]; omega⟩
  | succ k =>
    refine ⟨2 ^ fb + c % 2 ^ fb, k, ?_, .inr (by omega), by rw [pow_succ]; omega⟩
    rw [hx] at hdiv
    linarith

theorem ieeeGrid_strictMono (fb : Nat) (emin : Int) : StrictMono (ieeeGrid fb emin) := by
  refine strictMono_nat_of_lt_succ fun c => ?_
  obtain ⟨m, k, rfl, hnorm, hm⟩ := exists_significand fb c
  have hnext : m + k * 2 ^ fb + 1 = m + 1 + k * 2 ^ fb := by ring
  rw [hnext, ieeeGrid_of_lt hnorm hm, ieeeGrid_of_le (hnorm.imp_right (by omega)) hm]
  gcongr
  omega

@[simp] theorem ieeeGrid_zero (fb : Nat) (emin : Int) : ieeeGrid fb emin 0 = 0 := by simp [ieeeGrid]

end Grid

/-- A code without sign below the infinity is the number of the grid. -/
theorem decodeIeee_hasMag {fb eb c : Nat} (heb : 0 < eb) (hc : c < (2 ^ eb - 1) * 2 ^ fb) :
    (decodeIeee fb eb c).HasMag (ieeeGrid fb (ieeeMin fb eb) c) := by
  have hf : c % 2 ^ fb < 2 ^ fb := Nat.mod_lt _ (by positivity)
  have hx : c / 2 ^ fb < 2 ^ eb - 1 := (Nat.div_lt_iff_lt_mul (by positivity)).2 hc
  have hcode : c = floatCode fb eb false (c / 2 ^ fb) (c % 2 ^ fb) := by rw [floatCode_false, Nat.div_add_mod']
  generalize c / 2 ^ fb = x at hx hcode
  generalize c % 2 ^ fb = f at hf hcode
  rw [hcode, decodeIeee_floatCode false (by omega) hf heb, if_neg hx.ne]
  cases x with
  | zero =>
    have hplace : floatCode fb eb false 0 f = f + 0 * 2 ^ fb := by rw [floatCode_false, Nat.add_comm]
    rw [if_pos rfl, hplace, ieeeGrid_of_lt (.inl rfl) (by rw [pow_succ]; omega)]
    simpa using Val.hasMag_dyadic f (ieeeMin fb eb)
  | succ k =>
    have hplace : floatCode fb eb false (k + 1) f = 2 ^ fb + f + k * 2 ^ fb := by rw [floatCode_false]; ring
    rw [if_neg (Nat.succ_ne_zero k), hplace, ieeeGrid_of_lt (.inr (by omega)) (by rw [pow_succ]; omega)]
    convert Val.hasMag_dyadic (2 ^ fb + f) _ using 3
    push_cast
    ring

/-- The code of the infinity. -/
theorem decodeIeee_top (fb : Nat) {eb : Nat} (heb : 0 < eb) : decodeIeee fb eb ((2 ^ eb - 1) * 2 ^ fb) = .inf false := by
  have hcode : (2 ^ eb - 1) * 2 ^ fb = floatCode fb eb false (2 ^ eb - 1) 0 := by rw [floatCode_false, Nat.add_zero]
  rw [hcode, decodeIeee_floatCode false (by have := Nat.two_pow_pos eb; omega) (by positivity) heb, if_pos rfl, if_pos rfl]

/-! ### Rounding goes to a neighbour on the grid (R50, R51, R62) -/

/-- The significand before rounding is the floor of the magnitude in units of the grid. -/
theorem floorAt_eq_floor (q : Int) (n d : Nat) (e : Int) : floorAt q n d e = ⌊(n / d * 2 ^ (e - q) : ℚ)⌋₊ := by
  by_cases h : e - q ≥ 0
  · have hunits : (n / d * 2 ^ (e - q) : ℚ) = (shl n (e - q) : ℚ) / d := by rw [cast_shl n h]; ring
    rw [floorAt, if_pos h, hunits, Nat.floor_div_eq_div]
  · have hunits : (n / d * 2 ^ (e - q) : ℚ) = n / (shl d (-(e - q)) : ℚ) := by
      rw [cast_shl d (by omega), zpow_neg]
      field_simp
    rw [floorAt, if_neg h, hunits, Nat.floor_div_eq_div]

/-- A magnitude is below the grid point after its floor. -/
theorem lt_floorAt_add_one (q : Int) (n d : Nat) (e : Int) : (n / d * 2 ^ e : ℚ) < (floorAt q n d e + 1) * 2 ^ q := by
  have hsplit : (2 : ℚ) ^ e = 2 ^ (e - q) * 2 ^ q := by rw [← zpow_add₀ two_ne_zero, Int.sub_add_cancel]
  rw [hsplit, ← mul_assoc, floorAt_eq_floor]
  gcongr
  exact Nat.lt_floor_add_one _

/-- What goes to the upper grid point is above the lower one. -/
theorem lt_mag_of_pickHi {r : Rnd} {even : Bool} {n d lo hi : Nat} {e q : Int} (hd : 0 < d)
    (h : pickHi r even n d e lo hi q = true) : (lo * 2 ^ q : ℚ) < n / d * 2 ^ e := by
  have hlt : shl (lo * d) (q - min e q) < shl n (e - min e q) := by
    by_contra hle
    simp only [pickHi, if_pos (not_lt.1 hle)] at h
    cases h
  have hdq : (0 : ℚ) < d := by exact_mod_cast hd
  have hl := cast_shl_common lo d one_pos (min_le_right e q)
  have hr := cast_shl_common n 1 hd (min_le_left e q)
  rw [mul_one] at hr
  have hltq : (shl (lo * d) (q - min e q) : ℚ) < shl n (e - min e q) := by exact_mod_cast hlt
  rw [hl, hr, Nat.cast_one, div_one, one_mul, mul_one] at hltq
  exact lt_of_mul_lt_mul_right hltq (by positivity)

/-- A magnitude lies between two neighbours of a grid with `fb + 1` bits and a least exponent, and rounds to the lower one, or, where
it is not there itself, to the upper one. -/
theorem roundSig_neighbours {n d fb : Nat} (e emin : Int) (r : Rnd) (hn : 0 < n) (hd : 0 < d) :
    ∃ (lo k : Nat), lo < 2 ^ (fb + 1) ∧ (k = 0 ∨ 2 ^ fb ≤ lo) ∧
      (lo * 2 ^ (emin + k) : ℚ) ≤ n / d * 2 ^ e ∧ (n / d * 2 ^ e : ℚ) < (lo + 1) * 2 ^ (emin + k) ∧
      (roundSig r (fb + 1) (some emin) n d e = (lo, emin + k) ∨
        (lo * 2 ^ (emin + k) : ℚ) < n / d * 2 ^ e ∧
          roundSig r (fb + 1) (some emin) n d e =
            if lo + 1 = 2 ^ (fb + 1) then (2 ^ fb, emin + k + 1) else (lo + 1, emin + k)) := by
  obtain ⟨k, hk⟩ : ∃ k : Nat, max (floorLog2 n d e - fb) emin = emin + k :=
    ⟨(max (floorLog2 n d e - fb) emin - emin).toNat, by omega⟩
  have hlo : floorAt (emin + k) n d e < 2 ^ (fb + 1) := floorAt_lt hd (by omega)
  have hle : (floorAt (emin + k) n d e * 2 ^ (emin + k) : ℚ) ≤ n / d * 2 ^ e := by
    calc (floorAt (emin + k) n d e * 2 ^ (emin + k) : ℚ) ≤ n / d * 2 ^ (e - (emin + k)) * 2 ^ (emin + k : Int) := by
          gcongr
          exact floorAt_le ..
      _ = n / d * 2 ^ e := by rw [mul_assoc, ← zpow_add₀ two_ne_zero, Int.sub_add_cancel]
  have hlt := lt_floorAt_add_one (emin + k) n d e
  refine ⟨floorAt (emin + k) n d e, k, hlo, ?_, hle, hlt, ?_⟩
  · by_contra! hnorm
    obtain ⟨hk0, hsmall⟩ := hnorm
    have hfloor := floorLog2_le_mag hn hd e
    have hstep : ((floorAt (emin + k) n d e + 1 : Nat) : ℚ) ≤ 2 ^ fb := by exact_mod_cast hsmall
    have hplace : floorLog2 n d e = fb + (emin + k) := by omega
    rw [hplace, zpow_add₀ two_ne_zero, zpow_natCast] at hfloor
    push_cast at hstep
    exact absurd (hfloor.trans_lt hlt) (not_lt.2 (mul_le_mul_of_nonneg_right hstep (by positivity)))
  · simp only [roundSig, Nat.add_sub_cancel, hk]
    cases hpick : pickHi r (floorAt (emin + k) n d e % 2 == 0) n d e (floorAt (emin + k) n d e)
        (floorAt (emin + k) n d e + 1) (emin + k) with
    | false => exact .inl (by simp [hlo.ne])
    | true => exact .inr ⟨lt_mag_of_pickHi hd hpick, by simp⟩

/-- An exponent field has twice its bias and two more codes (R62). -/
theorem two_pow_exponent {eb : Nat} (heb : 1 < eb) : (2 : Int) ≤ 2 ^ (eb - 1) ∧ ((2 ^ eb : Nat) : Int) = 2 * 2 ^ (eb - 1) := by
  refine ⟨le_self_pow₀ (by decide) (by omega), ?_⟩
  rw [← pow_succ', Nat.sub_add_cancel (by omega)]
  push_cast
  rfl

/-- What a rounded significand is written as: its place on the grid, and the infinity from its code on. -/
theorem encodeIeee_code {fb eb n d m k : Nat} {e : Int} (heb : 1 < eb) (hn : n ≠ 0) (hm : m < 2 ^ (fb + 1))
    (hnorm : k = 0 ∨ 2 ^ fb ≤ m) (hround : roundSig .rne (fb + 1) (some (ieeeMin fb eb)) n d e = (m, ieeeMin fb eb + k)) :
    (encodeIeee fb eb .lane false (.fin false n d e)).code = min (m + k * 2 ^ fb) ((2 ^ eb - 1) * 2 ^ fb) := by
  obtain ⟨hbias, hmax⟩ := two_pow_exponent heb
  rw [pow_succ] at hm
  simp only [ieeeMin] at hround
  by_cases hm0 : m = 0
  · have hpos := Nat.two_pow_pos fb
    obtain rfl : k = 0 := by omega
    simp [encodeIeee, hn, hround, hm0, b2n]
  by_cases hk : k + 2 ≤ 2 ^ eb - 1
  · have hlt : m + k * 2 ^ fb ≤ (2 ^ eb - 1) * 2 ^ fb :=
      calc m + k * 2 ^ fb ≤ (k + 2) * 2 ^ fb := by linarith
        _ ≤ _ := Nat.mul_le_mul_right _ hk
    rw [encodeIeee_of_roundSig false hn hm0 hround (by omega), min_eq_left hlt]
    by_cases hsub : m < 2 ^ fb
    · obtain rfl : k = 0 := by omega
      simp [ieeeCode, hsub, b2n]
    · have hfield : (1 - (2 ^ (eb - 1) - 1) - (fb : Int) + k + fb + (2 ^ (eb - 1) - 1)).toNat = k + 1 := by omega
      obtain ⟨f, rfl⟩ := Nat.exists_eq_add_of_le (not_lt.1 hsub)
      rw [ieeeCode_normal, hfield, floatCode_false]
      ring
  · have hle : (2 ^ eb - 1) * 2 ^ fb ≤ m + k * 2 ^ fb :=
      calc (2 ^ eb - 1) * 2 ^ fb ≤ (1 + k) * 2 ^ fb := Nat.mul_le_mul_right _ (by omega)
        _ ≤ _ := by rw [Nat.add_mul, Nat.one_mul]; gcongr; omega
    have hover : 1 - (2 ^ (eb - 1) - 1) - (fb : Int) + k + fb > 2 ^ (eb - 1) - 1 := by omega
    rw [min_eq_right hle]
    simp only [encodeIeee, beq_eq_false_iff_ne.2 hn, beq_eq_false_iff_ne.2 hm0, hround, if_pos hover, b2n, Bool.false_eq_true,
      if_false, Nat.zero_mul, Nat.zero_add]
    rfl

/-- A positive number is written as one of its two neighbours on the grid, the upper one only where it is above the lower one;
the infinity stands for all codes from its own on. -/
theorem encodeIeee_neighbours {fb eb : Nat} {v : Val} {x : ℚ} (heb : 1 < eb) (hv : v.HasMag x) (hx : 0 < x) :
    ∃ c, ieeeGrid fb (ieeeMin fb eb) c ≤ x ∧ x < ieeeGrid fb (ieeeMin fb eb) (c + 1) ∧
      ((encodeIeee fb eb .lane false v).code = min c ((2 ^ eb - 1) * 2 ^ fb) ∨
        ieeeGrid fb (ieeeMin fb eb) c < x ∧ (encodeIeee fb eb .lane false v).code = min (c + 1) ((2 ^ eb - 1) * 2 ^ fb)) := by
  obtain ⟨n, d, e, rfl, hd, rfl⟩ := hv
  have hn : n ≠ 0 := by rintro rfl; simp at hx
  obtain ⟨lo, k, hlo, hnorm, hle, hlt, hround⟩ :=
    roundSig_neighbours (fb := fb) e (ieeeMin fb eb) .rne (Nat.pos_of_ne_zero hn) hd
  have hnext : lo + k * 2 ^ fb + 1 = lo + 1 + k * 2 ^ fb := by ring
  have hgrid := ieeeGrid_of_lt (emin := ieeeMin fb eb) hnorm hlo
  have hgrid' := ieeeGrid_of_le (emin := ieeeMin fb eb) (m := lo + 1) (hnorm.imp_right (by omega)) hlo
  push_cast at hgrid'
  refine ⟨lo + k * 2 ^ fb, hgrid ▸ hle, by rw [hnext, hgrid']; exact hlt, hround.imp ?_ ?_⟩
  · exact encodeIeee_code heb hn hlo hnorm
  · rintro ⟨habove, hround⟩
    refine ⟨hgrid ▸ habove, ?_⟩
    split at hround
    · next hcarry =>
      have hplace : lo + k * 2 ^ fb + 1 = 2 ^ fb + (k + 1) * 2 ^ fb := by rw [hnext, hcarry]; ring
      rw [hplace]
      exact encodeIeee_code heb hn (by rw [pow_succ]; have := Nat.two_pow_pos fb; omega) (.inr le_rfl)
        (by rw [hround, Nat.cast_add, Nat.cast_one, add_assoc])
    · rw [hnext]
      exact encodeIeee_code heb hn (by omega) (hnorm.imp_right (by omega)) hround

end Sys2Proof.Machine
end

section
/-!
PROOFS. The output scale of a row covers its held values, and is the smallest that does (R77); rows of zeros and of NaNs have
their own (R78).
-/

namespace Sys2Proof.Machine

/-! ### The two scales of a quotient (R77) -/

/-- The code of an SE8 scale with no limits of its own. -/
theorem se8Scale_eq {E : ConvEnv} (hlim : E.st.k3 = 0xFFFF) (v : Val) :
    (se8Scale E v : Int) = min (max (ceilLog2 v + 127) 0) 254 := by
  simp only [se8Scale, hlim, bne_self_eq_false, Bool.false_eq_true, if_false]
  omega

/-- The numbers of the binary16 codes. -/
abbrev b16Grid : Nat → ℚ := ieeeGrid 10 (ieeeMin 10 5)

theorem decode_b16_hasMag {c : Nat} (hc : c < 0x7C00) : (decode .b16 c).HasMag (b16Grid c) :=
  decodeIeee_hasMag (fb := 10) (eb := 5) (by decide) hc

theorem decode_b16_inf : decode .b16 0x7C00 = .inf false := decodeIeee_top 10 (eb := 5) (by decide)

theorem Val.HasMag.lt_inf {v : Val} {x : ℚ} (hv : v.HasMag x) : Val.lt v (.inf false) = true := by
  obtain ⟨n, d, e, rfl, -, -⟩ := hv
  rfl

theorem Val.HasMag.not_inf_lt {v : Val} {x : ℚ} (hv : v.HasMag x) : Val.lt (.inf false) v = false := by
  obtain ⟨n, d, e, rfl, -, -⟩ := hv
  rfl

/-- A binary16 code without sign is below a number. -/
theorem decode_b16_lt_iff {c : Nat} {v : Val} {x : ℚ} (hc : c ≤ 0x7C00) (hv : v.HasMag x) :
    Val.lt (decode .b16 c) v = true ↔ c < 0x7C00 ∧ b16Grid c < x := by
  obtain hlt | rfl := Nat.lt_or_eq_of_le hc
  · rw [(decode_b16_hasMag hlt).lt_iff hv, and_iff_right hlt]
  · simp [decode_b16_inf, hv.not_inf_lt]

/-- Binary16 codes without sign are ordered as their values. -/
theorem decode_b16_lt_decode_iff {c c' : Nat} (hc : c ≤ 0x7C00) (hc' : c' ≤ 0x7C00) :
    Val.lt (decode .b16 c) (decode .b16 c') = true ↔ c < c' := by
  obtain hlt | rfl := Nat.lt_or_eq_of_le hc'
  · rw [decode_b16_lt_iff hc (decode_b16_hasMag hlt), (ieeeGrid_strictMono 10 _).lt_iff_lt]
    omega
  obtain hlt | rfl := Nat.lt_or_eq_of_le hc
  · simp [decode_b16_inf, (decode_b16_hasMag hlt).lt_inf, hlt]
  · simp [decode_b16_inf, Val.lt, Val.cmp]

/-- Rounded toward +infinity, a positive number becomes the smallest binary16 number that is not below it. -/
theorem roundUp_b16 {v : Val} {x : ℚ} (hv : v.HasMag x) (hx : 0 < x) : ∃ u, 0 < u ∧ b16Grid (u - 1) < x ∧ x ≤ b16Grid u ∧
    (if Val.lt (decode .b16 (encodeLane .b16 v).code) v then (encodeLane .b16 v).code + 1 else (encodeLane .b16 v).code) =
      min u 0x7C00 := by
  have hmono := ieeeGrid_strictMono 10 (ieeeMin 10 5)
  obtain ⟨c, hle, hlt, hcode⟩ := encodeIeee_neighbours (fb := 10) (eb := 5) (by decide) hv hx
  change (encodeLane .b16 v).code = min c 0x7C00 ∨ b16Grid c < x ∧ (encodeLane .b16 v).code = min (c + 1) 0x7C00 at hcode
  have hcover : (encodeLane .b16 v).code ≤ 0x7C00 := by omega
  simp only [decode_b16_lt_iff hcover hv]
  obtain habove | rfl := hle.lt_or_eq
  · refine ⟨c + 1, Nat.succ_pos c, habove, hlt.le, ?_⟩
    have hup : ¬ b16Grid (c + 1) < x := not_lt.2 hlt.le
    rcases hcode with hcode | ⟨-, hcode⟩ <;> rw [hcode]
    · by_cases hc : c < 0x7C00
      · rw [min_eq_left hc.le, if_pos ⟨hc, habove⟩]
        omega
      · rw [min_eq_right (by omega), if_neg (by simp)]
        omega
    · by_cases hc : c + 1 < 0x7C00
      · rw [min_eq_left hc.le, if_neg (by simp [hup])]
      · rw [min_eq_right (by omega), if_neg (by simp)]
  · have hpos : 0 < c := hmono.lt_iff_lt.1 (by simpa using hx)
    refine ⟨c, hpos, hmono (by omega), le_rfl, ?_⟩
    have hcode := hcode.resolve_right fun h => lt_irrefl _ h.1
    rw [hcode, if_neg]
    rintro ⟨hc, hlt⟩
    rw [min_eq_left (by omega)] at hlt
    exact lt_irrefl _ hlt

/-- The binary16 fine scale with no limits of its own: the smallest number that is not below the quotient, up to the largest. -/
theorem fineScale_spec {E : ConvEnv} {v : Val} {x : ℚ} (hlim : E.st.k3 = 0xFFFF) (hv : v.HasMag x) (hx : 0 < x) :
    ∃ u, 0 < u ∧ b16Grid (u - 1) < x ∧ x ≤ b16Grid u ∧ fineScale E v = min u 0x7BFF := by
  obtain ⟨u, hu, hbelow, hcover, hround⟩ := roundUp_b16 hv hx
  refine ⟨u, hu, hbelow, hcover, ?_⟩
  have hlow : min u 0x7C00 ≤ 0x7C00 := min_le_right _ _
  simp only [fineScale, hround, hlim, bne_self_eq_false, Bool.false_eq_true, if_false,
    decode_b16_lt_decode_iff hlow (show 1 ≤ 0x7C00 by decide), decode_b16_lt_decode_iff (show 0x7BFF ≤ 0x7C00 by decide) hlow]
  split_ifs <;> omega

/-! ### The largest held value of a row (R77, R79) -/

/-- A held value that exceeds a value. -/
def HeldExceeds (f : Fmt) (p : Nat × HeldElem) (v : Val) : Prop :=
  ¬ (decode f p.2.code).isNan = true ∧ Val.lt v (decode f (heldMag f p.2.code)) = true

theorem heldCounts_iff (f : Fmt) (h : HeldElem) :
    heldCounts f h = true ↔ ¬ (decode f h.code).isNan = true ∧ ¬ (decode f h.code).isZero = true := by
  simp [heldCounts]

/-- The format's parameters of a held value. -/
theorem exists_ieee_of_held {f : Fmt} (hf : f = .b32 ∨ f = .b16) :
    ∃ fb eb, 1 < eb ∧ f.width = fb + eb + 1 ∧ decode f = decodeIeee fb eb := by
  rcases hf with rfl | rfl
  · exact ⟨23, 8, by decide, rfl, rfl⟩
  · exact ⟨10, 5, by decide, rfl, rfl⟩

/-- The bits below the sign are the exponent and the fraction. -/
theorem floatCode_mod_sign {fb eb x f : Nat} (s : Bool) (hx : x < 2 ^ eb) (hf : f < 2 ^ fb) :
    floatCode fb eb s x f % 2 ^ (fb + eb) = x * 2 ^ fb + f := by
  have hlt : x * 2 ^ fb + f < 2 ^ (fb + eb) :=
    calc x * 2 ^ fb + f < (x + 1) * 2 ^ fb := by linarith
      _ ≤ 2 ^ eb * 2 ^ fb := Nat.mul_le_mul_right _ hx
      _ = 2 ^ (fb + eb) := by ring
  rw [floatCode, Nat.add_assoc, Nat.mul_add_mod_self_right, Nat.mod_eq_of_lt hlt]

/-- The magnitude of a held number is that of its code without the sign. -/
theorem heldMag_hasMag {f : Fmt} (hf : f = .b32 ∨ f = .b16) : ∃ fb emin, ∀ c < 2 ^ f.width, (decode f c).isInf = false →
    (decode f c).isNan = false → (decode f (heldMag f c)).HasMag (ieeeGrid fb emin (heldMag f c)) ∧
      ((decode f c).isZero = true ↔ heldMag f c = 0) := by
  obtain ⟨fb, eb, heb, hwidth, hdecode⟩ := exists_ieee_of_held hf
  refine ⟨fb, ieeeMin fb eb, fun c hc hinf hnan => ?_⟩
  rw [hwidth] at hc
  obtain ⟨s, x, g, hx, hg, rfl⟩ := exists_floatCode hc
  have hmag : heldMag f (floatCode fb eb s x g) = x * 2 ^ fb + g := by
    rw [heldMag, hwidth, Nat.add_sub_cancel, floatCode_mod_sign s hx hg]
  rw [hdecode] at hinf hnan ⊢
  have hval := decodeIeee_floatCode s hx hg (by omega)
  have htop : x ≠ 2 ^ eb - 1 := by
    intro h
    rw [hval, if_pos h] at hinf hnan
    split at hinf
    · cases hinf
    · next hg0 => rw [if_neg hg0] at hnan; cases hnan
  rw [hmag, hval, if_neg htop]
  refine ⟨decodeIeee_hasMag (by omega) ?_, ?_⟩
  · calc x * 2 ^ fb + g < (x + 1) * 2 ^ fb := by linarith
      _ ≤ _ := Nat.mul_le_mul_right _ (by omega)
  · by_cases hsub : x = 0 <;> simp [hsub, Val.isZero]

/-- One place: of two held values the larger one takes it. -/
theorem topInsert_one (f : Fmt) (x y : Nat × Nat) :
    topInsert f 1 x [y] = [x] ∧ heldMag f y.2 ≤ heldMag f x.2 ∨ topInsert f 1 x [y] = [y] ∧ heldMag f x.2 ≤ heldMag f y.2 := by
  simp only [topInsert, Bool.or_eq_true, Bool.and_eq_true, decide_eq_true_eq, beq_iff_eq]
  split_ifs
  · exact .inl ⟨rfl, by omega⟩
  · exact .inr ⟨rfl, by omega⟩

/-- One place: after a list of held values one of the largest stands in it. -/
theorem foldl_topInsert_one (f : Fmt) (xs : List (Nat × Nat)) (y : Nat × Nat) : ∃ z ∈ y :: xs,
    xs.foldl (fun acc x => topInsert f 1 x acc) [y] = [z] ∧ ∀ x ∈ y :: xs, heldMag f x.2 ≤ heldMag f z.2 := by
  induction xs generalizing y with
  | nil => exact ⟨y, by simp⟩
  | cons x xs ih =>
    simp only [List.foldl_cons, List.forall_mem_cons] at ih ⊢
    rcases topInsert_one f x y with ⟨htake, hle⟩ | ⟨htake, hle⟩ <;> rw [htake]
    · obtain ⟨z, hz, hfold, hx, hmax⟩ := ih x
      exact ⟨z, List.mem_cons_of_mem _ hz, hfold, hle.trans hx, hx, hmax⟩
    · obtain ⟨z, hz, hfold, hy, hmax⟩ := ih y
      exact ⟨z, by simp at hz ⊢; tauto, hfold, hy, hle.trans hy, hmax⟩

/-- The held values with a place are those that are neither NaNs nor zeros (R79). -/
theorem topHeld_eq_foldl (f : Fmt) (n : Nat) (hs : List (Nat × HeldElem)) : topHeld f n hs =
    ((hs.filter (fun p => heldCounts f p.2)).map (fun p => (p.1, p.2.code))).foldl (fun acc x => topInsert f n x acc) [] := by
  rw [topHeld, List.foldl_map, List.foldl_filter]

/-- No place is taken in a row of zeros and NaNs. -/
theorem topHeld_eq_nil {f : Fmt} {hs : List (Nat × HeldElem)} (n : Nat) (h : ∀ p ∈ hs, heldCounts f p.2 = false) :
    topHeld f n hs = [] := by
  rw [topHeld_eq_foldl, List.filter_eq_nil_iff.2 (by simpa using h)]
  rfl

/-- One place: the largest held value that is neither a NaN nor a zero takes it. -/
theorem topHeld_one {f : Fmt} {hs : List (Nat × HeldElem)} (h : ∃ p ∈ hs, heldCounts f p.2 = true) :
    ∃ p ∈ hs, heldCounts f p.2 = true ∧ topHeld f 1 hs = [(p.1, p.2.code)] ∧
      ∀ q ∈ hs, heldCounts f q.2 = true → heldMag f q.2.code ≤ heldMag f p.2.code := by
  have hmem {z : Nat × Nat} : z ∈ (hs.filter (fun p => heldCounts f p.2)).map (fun p => (p.1, p.2.code)) ↔
      ∃ p ∈ hs, heldCounts f p.2 = true ∧ (p.1, p.2.code) = z := by
    simp [and_assoc]
  rw [topHeld_eq_foldl]
  generalize (hs.filter (fun p => heldCounts f p.2)).map (fun p => (p.1, p.2.code)) = xs at hmem
  cases xs with
  | nil =>
    obtain ⟨p, hp, hcounts⟩ := h
    exact absurd (hmem.2 ⟨p, hp, hcounts, rfl⟩) List.not_mem_nil
  | cons y ys =>
    obtain ⟨z, hz, hfold, hmax⟩ := foldl_topInsert_one f ys y
    obtain ⟨p, hp, hcounts, rfl⟩ := hmem.1 hz
    exact ⟨p, hp, hcounts, hfold, fun q hq hqc => hmax _ (hmem.2 ⟨q, hq, hqc, rfl⟩)⟩

/-! ### The scale of a row (R77, R78) -/

/-- A row of NaNs takes the scale that marks it. -/
theorem convRow_nan {E : ConvEnv} {hs : List (Nat × HeldElem)}
    (h : ∀ p ∈ hs, (decode E.st.holdf p.2.code).isNan = true) : convRow E hs =
      { scale := nanScale E.st.scout, neutral := false, zeroRow := false, removed := [] } := by
  have htop := topHeld_eq_nil (f := E.st.holdf) (hs := hs) (E.st.outl + 1) fun p hp => by simp [heldCounts, h p hp]
  have hall : hs.all (fun p => (decode E.st.holdf p.2.code).isNan) = true := List.all_eq_true.2 h
  simp [convRow, htop, hall]

/-- A row of zeros, or of zeros and NaNs, takes the neutral scale. -/
theorem convRow_zero {E : ConvEnv} {hs : List (Nat × HeldElem)}
    (hzero : ∃ p ∈ hs, ¬ (decode E.st.holdf p.2.code).isNan = true)
    (h : ∀ p ∈ hs, (decode E.st.holdf p.2.code).isNan = true ∨ (decode E.st.holdf p.2.code).isZero = true) : convRow E hs =
      { scale := if E.st.scout == 1 then 127 else 0x3C00, neutral := true, zeroRow := true, removed := [] } := by
  have htop := topHeld_eq_nil (f := E.st.holdf) (E.st.outl + 1) fun p hp => by
    simpa [heldCounts, imp_iff_not_or] using h p hp
  have hall : hs.all (fun p => (decode E.st.holdf p.2.code).isNan) = false := by simpa using hzero
  simp [convRow, htop, hall]

/-- A row with a held value that is neither a NaN nor a zero takes the scale of a quotient, of its largest magnitude and the
reference magnitude: multiples of the reference magnitude are exceeded in the row up to that quotient, and not from it on. -/
theorem convRow_quotient {E : ConvEnv} {hs : List (Nat × HeldElem)} {m : ℚ} (hf : E.st.holdf = .b32 ∨ E.st.holdf = .b16)
    (hcodes : ∀ p ∈ hs, p.2.code < 2 ^ E.st.holdf.width ∧ (decode E.st.holdf p.2.code).isInf = false)
    (hsome : ∃ p ∈ hs, ¬ (decode E.st.holdf p.2.code).isNan = true ∧ ¬ (decode E.st.holdf p.2.code).isZero = true)
    (houtl : E.st.outl = 0) (href : (refMag E.st.fmt).HasMag m) (hm : 0 < m) :
    ∃ r x, r.HasMag x ∧ 0 < x ∧
      convRow E hs = { scale := if E.st.scout == 1 then se8Scale E r else fineScale E r, neutral := false, zeroRow := false,
                       removed := [] } ∧
      ∀ w t, w.HasMag (t * m) →
        (x ≤ t → ∀ p ∈ hs, ¬ HeldExceeds E.st.holdf p w) ∧ (t < x → ∃ p ∈ hs, HeldExceeds E.st.holdf p w) := by
  obtain ⟨fb, emin, hmag⟩ := heldMag_hasMag hf
  obtain ⟨p, hp, hcounts, htop, hmax⟩ := topHeld_one (by simpa only [heldCounts_iff] using hsome)
  obtain ⟨hpnan, hpzero⟩ := (heldCounts_iff _ _).1 hcounts
  obtain ⟨hpcode, hpinf⟩ := hcodes p hp
  obtain ⟨hA, hAzero⟩ := hmag _ hpcode hpinf (by simpa using hpnan)
  have hApos : 0 < ieeeGrid fb emin (heldMag E.st.holdf p.2.code) := by
    rw [← ieeeGrid_zero fb emin]
    exact ieeeGrid_strictMono fb emin (Nat.pos_of_ne_zero fun h => hpzero (hAzero.2 h))
  refine ⟨_, _, hA.div href hm, div_pos hApos hm, by simp [convRow, houtl, htop],
    fun w t hw => ⟨fun hle q hq => ?_, fun hlt => ?_⟩⟩
  · rintro ⟨hqnan, hexceeds⟩
    obtain ⟨hqcode, hqinf⟩ := hcodes q hq
    obtain ⟨hQ, hQzero⟩ := hmag _ hqcode hqinf (by simpa using hqnan)
    have hlargest : heldMag E.st.holdf q.2.code ≤ heldMag E.st.holdf p.2.code := by
      by_cases hz : (decode E.st.holdf q.2.code).isZero = true
      · rw [hQzero.1 hz]
        exact Nat.zero_le _
      · exact hmax q hq ((heldCounts_iff _ _).2 ⟨hqnan, hz⟩)
    have hbound := (div_le_iff₀ hm).1 hle
    exact absurd ((hw.lt_iff hQ).1 hexceeds) (not_lt.2 (((ieeeGrid_strictMono fb emin).monotone hlargest).trans hbound))
  · exact ⟨p, hp, hpnan, (hw.lt_iff hA).2 ((lt_div_iff₀ hm).1 hlt)⟩

/-- Settles O59: rows of NaNs and of zeros by `convRow_nan` and `convRow_zero`, all others by `convRow_quotient` with the scale
that the quotient gets, `ceilLog2_spec` for SE8 and `fineScale_spec` for binary16. -/
theorem rowScaleCoversTheRow : Obligations.RowScaleCoversTheRow := by
  intro E hs f R mx nan zero value exceeds hf hcodes
  refine ⟨fun hnan => ?_, fun hsome hzero => ?_, fun hsome houtl hlim => ?_⟩
  · simp only [R, convRow_nan hnan]
    simp [nanScale]
  · simp only [R, convRow_zero hsome hzero]
    simp
  · obtain ⟨m, href, hm⟩ := refMag_hasMag E.st.fmt
    obtain ⟨r, x, hr, hx, hrow, hexceeds⟩ := convRow_quotient hf hcodes hsome houtl href hm
    simp only [R, hrow]
    refine ⟨trivial, trivial, trivial, fun hscout => ?_, fun hscout => ?_⟩
    · have hcode := se8Scale_eq hlim r
      obtain ⟨hcover, hleast⟩ := ceilLog2_spec hr hx
      have hscaled (k : Int) := mul_comm m ((2 : ℚ) ^ k) ▸ href.scale2 k
      simp only [hscout, beq_self_eq_true, if_true]
      refine ⟨by omega, fun htop => (hexceeds _ _ (hscaled _)).1 ?_, fun hpos => (hexceeds _ _ (hscaled _)).2 ?_⟩
      · exact hcover.trans (zpow_le_zpow_right₀ one_le_two (by omega))
      · exact (zpow_le_zpow_right₀ one_le_two (by omega)).trans_lt hleast
    · obtain ⟨u, hu, hleast, hcover, hcode⟩ := fineScale_spec hlim hr hx
      have hmono := (ieeeGrid_strictMono 10 (ieeeMin 10 5)).monotone
      simp only [hscout, hcode, Nat.reduceBEq, Bool.false_eq_true, if_false]
      refine ⟨by omega, by omega, fun htop => (hexceeds _ _ ((decode_b16_hasMag (by omega)).mul href)).1 ?_,
        fun hpos => (hexceeds _ _ ((decode_b16_hasMag (by omega)).mul href)).2 ?_⟩
      · exact hcover.trans (hmono (by omega))
      · exact (hmono (by omega)).trans_lt hleast

end Sys2Proof.Machine
end


section
/-!
PROOFS. What a STAT or an exact PSUM stage accumulates over a row is a maximum, an exact sum or a flag of the row's values, so
that neither their order nor their split counts (R103, R105, R188 to R190).
-/

namespace Sys2Proof.Machine

/-! ### The accumulator of a STAT stage (R188 to R190, R194) -/

/-- The value that a STAT stage takes of an element (R188). -/
def statValue (f : Fmt) (x : Val) : Val := if f = .xf then reround .b32 x else x

/-- The values of a row that are not NaNs. -/
def numbersOf (ws : List Val) : List Val := ws.filter fun v => !v.isNan

/-- The accumulator after values of which none is a NaN: the maxima, the sums of the terms and the flags. -/
def StatAcc.withNumbers (kind psh : Nat) (e : Int) (a : StatAcc) (vs : List Val) : StatAcc :=
  { a with
    maxkey := if kMax kind then (vs.map fun v => maxKey (encodeLane .b32 v).code).foldl max a.maxkey else a.maxkey
    absmax := if kAbsmax kind then (vs.map fun v => (encodeLane .b32 v).code % 2 ^ 31).foldl max a.absmax else a.absmax
    sum := a.sum + if kSum kind then (vs.map fun v => (sumTerm psh v).t).sum else 0
    sumsq := a.sumsq + if kSumsq kind then (vs.map fun v => (sumsqTerm e v).t).sum else 0
    allZero := a.allZero && vs.all Val.isZero
    sat := a.sat || vs.any fun v => kSum kind && (sumTerm psh v).sat || kSumsq kind && (sumsqTerm e v).sat }

/-- The accumulator after the values of a row: its numbers, and the mark of its NaNs. -/
def StatAcc.withRow (kind psh : Nat) (e : Int) (a : StatAcc) (ws : List Val) : StatAcc :=
  { a.withNumbers kind psh e (numbersOf ws) with
    nan := a.nan || ws.any Val.isNan
    allZero := a.allZero && ws.all Val.isZero }

theorem Val.isZero_of_isNan {v : Val} (h : v.isNan = true) : v.isZero = false := by
  cases v with
  | nan s f => rfl
  | inf s | fin s n d e => cases h

namespace StatAcc

variable {kind psh : Nat} {e : Int} {f : Fmt} {a : StatAcc} {x : Val}

/-- R194: a NaN adds no term. -/
theorem take_nan (h : (statValue f x).isNan = true) : a.take kind psh e f x = { a with nan := true, allZero := false } := by
  simp only [statValue] at h
  simp [take, h]

theorem take_number (h : (statValue f x).isNan = false) :
    a.take kind psh e f x = a.withNumbers kind psh e [statValue f x] := by
  simp only [statValue] at h
  simp [take, withNumbers, statValue, h, apply_ite Term.t, apply_ite Term.sat, Bool.or_assoc]

theorem withRow_cons_nan {w : Val} (ws : List Val) (h : w.isNan = true) :
    withRow kind psh e { a with nan := true, allZero := false } ws = a.withRow kind psh e (w :: ws) := by
  simp [withRow, withNumbers, numbersOf, h, Val.isZero_of_isNan h]

theorem withRow_cons_number {w : Val} (ws : List Val) (h : w.isNan = false) :
    (a.withNumbers kind psh e [w]).withRow kind psh e ws = a.withRow kind psh e (w :: ws) := by
  have hsum (k : Bool) (m t u : Nat) : m + (if k then t else 0) + (if k then u else 0) = m + if k then t + u else 0 := by
    split <;> omega
  have hmax (k : Bool) (m y : Nat) (ys : List Nat) :
      (if k then ys.foldl max (if k then max m y else m) else if k then max m y else m) =
        if k then ys.foldl max (max m y) else m := by
    split <;> rfl
  simp [withRow, withNumbers, numbersOf, h, hsum, hmax, Bool.and_assoc, Bool.or_assoc]

/-- Elements taken one after the other. -/
theorem foldl_take (kind psh : Nat) (e : Int) (f : Fmt) (a : StatAcc) (xs : List Val) :
    xs.foldl (fun a x => a.take kind psh e f x) a = a.withRow kind psh e (xs.map (statValue f)) := by
  induction xs generalizing a with
  | nil => simp [withRow, withNumbers, numbersOf]
  | cons x xs ih =>
    rw [List.foldl_cons, ih, List.map_cons]
    cases h : (statValue f x).isNan with
    | true => rw [take_nan h, withRow_cons_nan _ h]
    | false => rw [take_number h, withRow_cons_number _ h]

theorem withNumbers_perm {vs vs' : List Val} (h : vs.Perm vs') : a.withNumbers kind psh e vs = a.withNumbers kind psh e vs' := by
  simp only [withNumbers, (h.map _).foldl_eq, (h.map _).sum_eq, h.all_eq, h.any_eq]

theorem withRow_perm {ws ws' : List Val} (h : ws.Perm ws') : a.withRow kind psh e ws = a.withRow kind psh e ws' := by
  have hnumbers : (numbersOf ws).Perm (numbersOf ws') := h.filter _
  simp only [withRow, withNumbers_perm hnumbers, h.all_eq, h.any_eq]

variable {step : Nat} {ws : List Val}

theorem start_withRow_sum : ((start step).withRow kind psh e ws).sum =
    if kSum kind then ((numbersOf ws).map fun v => (sumTerm psh v).t).sum else 0 := by
  simp only [start, withRow, withNumbers, Nat.zero_add]

theorem start_withRow_sumsq : ((start step).withRow kind psh e ws).sumsq =
    if kSumsq kind then ((numbersOf ws).map fun v => (sumsqTerm e v).t).sum else 0 := by
  simp only [start, withRow, withNumbers, Nat.zero_add]

theorem start_withRow_maxkey (h : kMax kind = true) : ((start step).withRow kind psh e ws).maxkey =
    ((numbersOf ws).map fun v => maxKey (encodeLane .b32 v).code).foldl max 0 := by
  simp only [start, withRow, withNumbers, if_pos h]

theorem start_withRow_absmax (h : kAbsmax kind = true) : ((start step).withRow kind psh e ws).absmax =
    ((numbersOf ws).map fun v => (encodeLane .b32 v).code % 2 ^ 31).foldl max 0 := by
  simp only [start, withRow, withNumbers, if_pos h]

theorem start_withRow_nan : ((start step).withRow kind psh e ws).nan = true ↔
    (numbersOf ws).length < ws.length := by
  simp [start, withRow, numbersOf, List.length_filter_lt_length_iff_exists]

theorem start_withRow_allZero : ((start step).withRow kind psh e ws).allZero = true ↔
    (numbersOf ws).length = ws.length ∧ ∀ v ∈ numbersOf ws, v.isZero = true := by
  have hnumber (v : Val) (h : v.isZero = true) : v.isNan = false :=
    Bool.eq_false_iff.2 fun hnan => by simp [Val.isZero_of_isNan hnan] at h
  simp only [start, withRow, numbersOf, Bool.true_and, List.all_eq_true, List.length_filter_eq_length_iff, List.mem_filter,
    Bool.not_eq_true']
  exact ⟨fun h => ⟨fun v hv => hnumber v (h v hv), fun v hv => h v hv.1⟩, fun h v hv => h.2 v ⟨hv, h.1 v hv⟩⟩

theorem start_withRow_sat : ((start step).withRow kind psh e ws).sat = true ↔
    ∃ v ∈ numbersOf ws, kSum kind = true ∧ (sumTerm psh v).sat = true ∨
      kSumsq kind = true ∧ (sumsqTerm e v).sat = true := by
  simp only [start, withRow, withNumbers, Bool.false_or, List.any_eq_true, Bool.or_eq_true, Bool.and_eq_true]

end StatAcc

/-- A maximum that begins at 0 is below no element, and is 0 or one of them. -/
theorem foldl_max_zero_spec {α : Type} (g : α → Nat) (vs : List α) :
    (∀ v ∈ vs, g v ≤ (vs.map g).foldl max 0) ∧ ((vs.map g).foldl max 0 = 0 ∨ ∃ v ∈ vs, (vs.map g).foldl max 0 = g v) := by
  rw [List.foldl_max, Nat.zero_max]
  refine ⟨fun v hv => List.le_max?_getD_of_mem (List.mem_map_of_mem hv), ?_⟩
  cases h : (vs.map g).max? with
  | none => exact .inl rfl
  | some m =>
    obtain ⟨v, hv, rfl⟩ := List.mem_map.1 (List.max?_mem h)
    exact .inr ⟨v, hv, rfl⟩

/-! ### Terms do not exceed what their clamp leaves (R189, R190) -/

/-- A magnitude that a natural number bounds does not round past it. -/
theorem roundInt_le {n d m : Nat} {e : Int} (r : Rnd) (hd : 0 < d) (h : (n / d * 2 ^ e : ℚ) ≤ m) : roundInt r n d e ≤ m := by
  have hlo : floorAt 0 n d e ≤ m := by
    have hfloor := floorAt_le 0 n (d := d) e
    rw [Int.sub_zero] at hfloor
    exact_mod_cast hfloor.trans h
  simp only [roundInt]
  split
  · next hpick =>
    have hup := (lt_mag_of_pickHi hd hpick).trans_le h
    rw [zpow_zero, mul_one] at hup
    exact_mod_cast hup
  · exact hlo

theorem mag_le_of_cmpMag {n d : Nat} {e e' : Int} (hd : 0 < d) (h : (cmpMag n d e 1 1 e' == .gt) = false) :
    (n / d * 2 ^ e : ℚ) ≤ 2 ^ e' := by
  rw [cmpMag_eq_cmp n 1 e e' hd one_pos, beq_eq_false_iff_ne, Ne, cmp_eq_gt_iff, not_lt] at h
  simpa using h

theorem sumTerm_le {d : Nat} (psh : Nat) (s : Bool) (n : Nat) (k : Int) (hd : 0 < d) :
    (sumTerm psh (.fin s n d k)).t ≤ 2 ^ 38 := by
  simp only [sumTerm]
  split_ifs with hzero hneg hclamp
  · exact Nat.zero_le _
  · exact Nat.zero_le _
  · exact le_rfl
  · refine roundInt_le _ hd ?_
    calc (n / d * 2 ^ (k - psh + 38) : ℚ) = n / d * 2 ^ (k - psh) * 2 ^ 38 := by
          rw [zpow_add₀ two_ne_zero, ← mul_assoc]
          rfl
      _ ≤ 2 ^ (0 : Int) * 2 ^ 38 := by
        gcongr
        exact mag_le_of_cmpMag hd (Bool.eq_false_iff.2 hclamp)
      _ = (2 ^ 38 : Nat) := by norm_num

theorem sumsqTerm_le {d : Nat} (e : Int) (s : Bool) (n : Nat) (k : Int) (hd : 0 < d) :
    (sumsqTerm e (.fin s n d k)).t ≤ 2 ^ 46 := by
  simp only [sumsqTerm]
  split_ifs with hzero hclamp
  · exact Nat.zero_le _
  · exact le_rfl
  · simp only [Bool.or_eq_true, not_or, Bool.not_eq_true] at hclamp
    obtain ⟨-, hmag⟩ := hclamp
    have hunits : (2 : ℚ) ^ (2 * k - 2 * e + 46) = (2 ^ k / 2 ^ e) ^ 2 * 2 ^ 46 := by
      rw [← zpow_sub₀ two_ne_zero, ← zpow_natCast, ← zpow_mul, ← zpow_natCast, ← zpow_add₀ two_ne_zero]
      congr 1
      push_cast
      ring
    have hratio : (n / d * 2 ^ k / 2 ^ e : ℚ) ≤ 1 := (div_le_one (by positivity)).2 (mag_le_of_cmpMag hd hmag)
    refine roundInt_le _ (Nat.mul_pos hd hd) ?_
    calc ((n * n : Nat) / (d * d : Nat) * 2 ^ (2 * k - 2 * e + 46) : ℚ) = (n / d * 2 ^ k / 2 ^ e) ^ 2 * 2 ^ 46 := by
          rw [hunits]
          push_cast
          ring
      _ ≤ 1 * 2 ^ 46 := by
        gcongr
        exact pow_le_one₀ (by positivity) hratio
      _ = (2 ^ 46 : Nat) := by norm_num

/-! ### The accumulator of an exact PSUM stage (R103, R105) -/

/-- A product in units of an exact accumulator. -/
def psumUnits (lsb : Int) : Val → Int
  | .fin s n _ e => if s then -(floorAt lsb n 1 e : Int) else floorAt lsb n 1 e
  | _ => 0

namespace PsumAcc

/-- The accumulator after products in exact mode. -/
def withProducts (a : PsumAcc) (vs : List Val) : PsumAcc :=
  { a with
    exact := a.exact + (vs.map (psumUnits a.lsb)).sum
    invalid := a.invalid || vs.any Val.isNan
    posInf := a.posInf || vs.contains (.inf false)
    negInf := a.negInf || vs.contains (.inf true)
    allNegZero := a.allNegZero && vs.all fun v => v.isZero && v.neg? }

theorem product_exact (a : PsumAcc) (v : Val) : a.product true v = a.withProducts [v] := by
  cases v with
  | nan s f => simp [product, product.noted, withProducts, psumUnits, Val.isNan, Val.isZero]
  | inf s => cases s <;> simp [product, product.noted, withProducts, psumUnits, Val.isNan, Val.isZero]
  | fin s n d e => cases h : n == 0 && s <;> simp [product, withProducts, psumUnits, Val.isNan, Val.isZero, Val.neg?, h]

theorem withProducts_append (a : PsumAcc) (vs vs' : List Val) :
    (a.withProducts vs).withProducts vs' = a.withProducts (vs ++ vs') := by
  simp [withProducts, Int.add_assoc, Bool.or_assoc, Bool.and_assoc]

/-- Products taken one after the other. -/
theorem foldl_product (a : PsumAcc) (vs : List Val) :
    vs.foldl (fun a v => a.product true v) a = a.withProducts vs := by
  induction vs generalizing a with
  | nil => simp [withProducts]
  | cons v vs ih => rw [List.foldl_cons, ih, product_exact, withProducts_append, List.singleton_append]

theorem withProducts_perm (a : PsumAcc) {vs vs' : List Val} (h : vs.Perm vs') : a.withProducts vs = a.withProducts vs' := by
  simp only [withProducts, (h.map _).sum_eq, h.any_eq, h.all_eq, h.contains_eq]

/-- R103: the partials of two tiles combine to the one of all their products. -/
theorem combine_withProducts (step : Nat) (lsb : Int) (vs vs' : List Val) :
    combine true ((start step lsb).withProducts vs) ((start step lsb).withProducts vs') =
      (start step lsb).withProducts (vs ++ vs') := by
  simp [combine, start, withProducts]

/-! ### The value of the accumulator (R105) -/

variable {a : PsumAcc}

theorem value_invalid (h : a.invalid = true ∨ a.posInf = true ∧ a.negInf = true) : a.value true = Val.default := by
  simp only [value, Bool.or_eq_true, Bool.and_eq_true, if_pos h]

theorem value_posInf (hinv : a.invalid = false) (hpos : a.posInf = true) (hneg : a.negInf = false) :
    a.value true = .inf false := by
  simp [value, hinv, hpos, hneg]

theorem value_negInf (hinv : a.invalid = false) (hpos : a.posInf = false) (hneg : a.negInf = true) :
    a.value true = .inf true := by
  simp [value, hinv, hpos, hneg]

theorem value_finite (hinv : a.invalid = false) (hpos : a.posInf = false) (hneg : a.negInf = false) :
    a.value true = if a.exact = 0 then .fin a.allNegZero 0 1 0 else .fin (decide (a.exact < 0)) a.exact.natAbs 1 a.lsb := by
  simp [value, hinv, hpos, hneg, Val.isZero]

end PsumAcc

/-- No product is a NaN or an infinity. -/
theorem no_special_of_finite {vs : List Val} (h : ∀ v ∈ vs, v.isNan = false ∧ v.isInf = false) :
    vs.any Val.isNan = false ∧ ∀ s, vs.contains (.inf s) = false := by
  refine ⟨List.any_eq_false.2 fun v hv => by simp [(h v hv).1], fun s => ?_⟩
  rw [List.contains_eq_mem, decide_eq_false_iff_not]
  exact fun hv => absurd (h _ hv).2 (by simp [Val.isInf])

/-- R105: what the products of a row make of its result. -/
theorem start_withProducts_value (step : Nat) (lsb : Int) (xs : List Val) :
    let r := (PsumAcc.start step lsb).withProducts xs
    ((∃ v ∈ xs, v.isNan = true) ∨ .inf false ∈ xs ∧ .inf true ∈ xs → r.value true = Val.default) ∧
    (∀ s, (∀ v ∈ xs, v.isNan = false) → .inf s ∈ xs → .inf (!s) ∉ xs → r.value true = .inf s) ∧
    ((∀ v ∈ xs, v.isNan = false ∧ v.isInf = false) → r.value true = if r.exact = 0
      then .fin (decide (∀ v ∈ xs, v.isZero = true ∧ v.neg? = true)) 0 1 0
      else .fin (decide (r.exact < 0)) r.exact.natAbs 1 lsb) := by
  intro r
  have hinv : r.invalid = xs.any Val.isNan := Bool.false_or _
  have hpos : r.posInf = xs.contains (.inf false) := Bool.false_or _
  have hneg : r.negInf = xs.contains (.inf true) := Bool.false_or _
  refine ⟨fun h => PsumAcc.value_invalid ?_, fun s hnan hin hout => ?_, fun h => ?_⟩
  · simpa [hinv, hpos, hneg] using h
  · have hinv' : r.invalid = false := by simpa [hinv] using hnan
    cases s with
    | false => exact PsumAcc.value_posInf hinv' (by simpa [hpos] using hin) (by simpa [hneg] using hout)
    | true => exact PsumAcc.value_negInf hinv' (by simpa [hpos] using hout) (by simpa [hneg] using hin)
  · obtain ⟨hnan, hinf⟩ := no_special_of_finite h
    have hzero : r.allNegZero = decide (∀ v ∈ xs, v.isZero = true ∧ v.neg? = true) := by
      rw [Bool.eq_iff_iff]
      simp [r, PsumAcc.withProducts, PsumAcc.start]
    rw [PsumAcc.value_finite (hinv.trans hnan) (hpos.trans (hinf _)) (hneg.trans (hinf _)), hzero]
    rfl

/-- Settles O57: the accumulator after a row in closed form, of which every part is a maximum, a sum or a flag of the values. -/
theorem accumulationsHaveNoOrder : Obligations.AccumulationsHaveNoOrder := by
  unfold Obligations.AccumulationsHaveNoOrder
  simp only [StatAcc.foldl_take, PsumAcc.foldl_product]
  refine ⟨fun kind psh e f a xs ys h => StatAcc.withRow_perm (h.map _), fun step kind psh e f xs => ?_,
    fun psh e s n d k hd => ⟨sumTerm_le psh s n k hd, sumsqTerm_le e s n k hd⟩,
    fun a xs ys h => a.withProducts_perm h, PsumAcc.combine_withProducts, fun step lsb xs => ?_⟩
  · have hlen : xs.length = (xs.map (statValue f)).length := by rw [List.length_map]
    rw [hlen]
    exact ⟨StatAcc.start_withRow_sum, StatAcc.start_withRow_sumsq,
      fun h => StatAcc.start_withRow_maxkey h ▸ foldl_max_zero_spec _ _,
      fun h => StatAcc.start_withRow_absmax h ▸ foldl_max_zero_spec _ _,
      StatAcc.start_withRow_nan, StatAcc.start_withRow_allZero, StatAcc.start_withRow_sat⟩
  · obtain ⟨hinvalid, hinf, hfinite⟩ := start_withProducts_value step lsb xs
    refine ⟨hinvalid, hinf, fun _ => ?_, fun h hzero => ?_, fun h hne => ?_⟩
    · exact (Int.zero_add _).trans (congrArg List.sum (List.map_congr_left fun v _ => by cases v <;> rfl))
    · rw [hfinite h, if_pos hzero]
    · rw [hfinite h, if_neg hne]

end Sys2Proof.Machine
end

section
/-!
PROOFS. XEV: the status that a request gets (R299), what its acceptance leaves in its tile and reports (R137, R298), and what the
response that leaves takes with it (R311).
-/

namespace Sys2Proof.Machine

/-! ### The form of a request (R299) -/

/-- The code is one of R108: a built-in function, or the first slot of a loaded one. -/
def funcKnown (f : Nat) : Bool := (1 ≤ f && f ≤ 6) || (0x10 ≤ f && f ≤ 0x13)

/-- What a request must be, whatever tables are loaded. -/
def xevFormed (r : XevReq) : Bool :=
  funcKnown r.func.toNat && opfOk r.ifmt.toNat && r.ifmt != 8 && opfOk r.ofmt.toNat && r.ofmt != 8 &&
    !(fmtOf r.ofmt.toNat).isInt && 1 ≤ r.n.toNat && r.n.toNat ≤ 64

theorem xevFormed_eq_false {r : XevReq}
    (h : r.n = 0 ∨ 64 < r.n.toNat ∨ r.func = 0 ∨ (6 < r.func.toNat ∧ r.func.toNat < 0x10) ∨ 0x13 < r.func.toNat ∨
      opfOk r.ifmt.toNat = false ∨ r.ifmt = 8 ∨ opfOk r.ofmt.toNat = false ∨ r.ofmt = 8 ∨
      (fmtOf r.ofmt.toNat).isInt = true) : xevFormed r = false := by
  have hcode (hf : r.func = 0 ∨ (6 < r.func.toNat ∧ r.func.toNat < 0x10) ∨ 0x13 < r.func.toNat) :
      funcKnown r.func.toNat = false := by
    have hzero : r.func = 0 ↔ r.func.toNat = 0 := by rw [← BitVec.toNat_inj]; rfl
    rw [hzero] at hf
    simp only [funcKnown, Bool.or_eq_false_iff, Bool.and_eq_false_iff, decide_eq_false_iff_not]
    omega
  unfold xevFormed
  rcases h with h | h | h | h | h | h | h | h | h | h
  · simp [h]
  · simp [h]
  · simp [hcode (.inl h)]
  · simp [hcode (.inr (.inl h))]
  · simp [hcode (.inr (.inr h))]
  all_goals simp [h]

/-- A code of a loaded function is known. -/
theorem xevFormed_of_slot {r : XevReq} (k : Fin 4) (hfunc : r.func.toNat = 0x10 + k.val) (hin : opfOk r.ifmt.toNat = true)
    (hin8 : r.ifmt ≠ 8) (hout : opfOk r.ofmt.toNat = true) (hout8 : r.ofmt ≠ 8) (hint : (fmtOf r.ofmt.toNat).isInt = false)
    (hpos : 1 ≤ r.n.toNat) (hmost : r.n.toNat ≤ 64) : xevFormed r = true := by
  have hcode : funcKnown r.func.toNat = true := by
    simp only [funcKnown, Bool.or_eq_true, Bool.and_eq_true, decide_eq_true_eq]
    omega
  simpa [xevFormed, hcode, hin, hout, hint, hpos, hmost] using And.intro hin8 hout8

namespace State

variable {s : State} {r : XevReq}

/-! ### The status of a request (R299) -/

/-- The status of a request of good form, by the table of the function that it names and the elements of an output grant. -/
def tableStatus (elems : Nat) : Option (Nat × Option Table) → Nat
  | none => 0
  | some (_, none) => 1
  | some (_, some x) => if x.narrow || elems != 4 then 0 else 2

theorem xevStatus_eq (s : State) (r : XevReq) :
    s.xevStatus r = if !xevFormed r then 2 else tableStatus (grantElems r.ofmt.toNat) (s.xevTable r.func.toNat) := rfl

theorem xevStatus_malformed (s : State) (h : xevFormed r = false) : s.xevStatus r = 2 := by
  rw [xevStatus_eq, h]
  rfl

theorem xevStatus_formed (s : State) (h : xevFormed r = true) :
    s.xevStatus r = tableStatus (grantElems r.ofmt.toNat) (s.xevTable r.func.toNat) := by
  rw [xevStatus_eq, h]
  rfl

/-- A code of a loaded function names its slot, and the table where the slot is the first of a LOADED one. -/
theorem xevTable_slot (s : State) (k : Fin 4) : s.xevTable (0x10 + k.val) = some (k.val,
    if (s.slots.get k).state == .loaded && (s.slots.get k).first == k.val then (s.slots.get k).table else none) := by
  have hcode : (decide (0x10 ≤ 0x10 + k.val) && decide (0x10 + k.val ≤ 0x13)) = true := by
    simp only [Bool.and_eq_true, decide_eq_true_eq]
    omega
  have hdrop : s.slots.toList.drop k.val = s.slots.get k :: s.slots.toList.drop (k.val + 1) := by
    rw [List.drop_eq_getElem_cons (by simp)]
    simp [Vector.get]
  unfold xevTable
  rw [if_pos hcode, Nat.add_sub_cancel_left]
  dsimp only
  rw [hdrop]

theorem xevStatus_notLoaded (hform : xevFormed r = true) {j : Nat} (h : s.xevTable r.func.toNat = some (j, none)) :
    s.xevStatus r = 1 := by
  rw [xevStatus_formed s hform, h]
  rfl

theorem xevStatus_noNarrow {j : Nat} {x : Table} (h : s.xevTable r.func.toNat = some (j, some x)) (hnarrow : x.narrow = false)
    (hwidth : grantElems r.ofmt.toNat = 4) : s.xevStatus r = 2 := by
  cases hform : xevFormed r with
  | false => exact xevStatus_malformed s hform
  | true => rw [xevStatus_formed s hform, h, tableStatus, hnarrow, hwidth]; rfl

theorem xevStatus_lt (s : State) (r : XevReq) : s.xevStatus r < 4 := by
  cases hform : xevFormed r with
  | false => rw [xevStatus_malformed s hform]; decide
  | true =>
    rw [xevStatus_formed s hform]
    unfold tableStatus
    split
    · decide
    · decide
    · split <;> decide

/-! ### Acceptance (R137, R298) -/

/-- The response of a request that is OK. -/
def xevOk (s : State) (t : Nat) (r : XevReq) : XevRsp where
  id := r.id
  n := r.n
  status := 0
  poison := BitVec.ofNat 64 (xevPoisons r)
  data := BitVec.ofNat 2048 (packElems (fmtOf r.ofmt.toNat).width ((List.range r.n.toNat).map (fun k => (s.xevResult r k).1)))
  slot := (s.xevTable r.func.toNat).map (fun p => p.1)
  places := (List.range r.n.toNat).map (fun k => ((s.tile t).xevPtr + k) % 256)

/-- The response of a request that is turned away. -/
def xevNot (s : State) (r : XevReq) : XevRsp where
  id := r.id
  n := r.n
  status := BitVec.ofNat 2 (s.xevStatus r)
  poison := 0
  data := 0
  slot := none
  places := []

/-- The response of a request, by its status. -/
def xevAnswer (s : State) (t : Nat) (r : XevReq) : XevRsp := if s.xevStatus r = 0 then s.xevOk t r else s.xevNot r

theorem xevAnswer_ok (t : Nat) (h : s.xevStatus r = 0) : s.xevAnswer t r = s.xevOk t r := if_pos h

theorem xevAnswer_not (t : Nat) (h : s.xevStatus r ≠ 0) : s.xevAnswer t r = s.xevNot r := if_neg h

theorem xevAnswer_head (s : State) (t : Nat) (r : XevReq) :
    (s.xevAnswer t r).id = r.id ∧ (s.xevAnswer t r).n = r.n ∧ (s.xevAnswer t r).status.toNat = s.xevStatus r := by
  by_cases h : s.xevStatus r = 0
  · rw [xevAnswer_ok t h, h]
    exact ⟨rfl, rfl, rfl⟩
  · rw [xevAnswer_not t h]
    refine ⟨rfl, rfl, ?_⟩
    rw [xevNot, BitVec.toNat_ofNat, Nat.mod_eq_of_lt (s.xevStatus_lt r)]

/-- The findings of the errors that a request met. -/
def xevFaults (s : State) (t : Nat) (r : XevReq) : State :=
  (r.faults.filter (fun f => f.elem < r.n.toNat)).foldl (fun s f => s.xevFault t f) s

/-- The tile takes a response, and its pointer and counters move. -/
def xevTakes (a : XevRsp) (ptr : Nat) (cnt cor : List Nat) (y : Tile) : Tile :=
  { y with xevBuf := y.xevBuf ++ [a], xevPtr := ptr, xevCnt := cnt, corrected := cor }

theorem xevAccept_ok (i : Fin 88) (h : s.xevStatus r = 0) : ∃ cnt cor : List Nat, s.xevAccept i.val r =
    xevFaults (s.modTile i.val (xevTakes (s.xevOk i.val r) (((s.tile i.val).xevPtr + r.n.toNat) % 256) cnt cor)) i.val r := by
  let took (cnt : List Nat) (y : Tile) : Tile := { y with
    xevBuf := y.xevBuf ++ [s.xevOk i.val r], xevPtr := (y.xevPtr + r.n.toNat) % 256, xevCnt := cnt }
  have haccept : ∃ (cnt : List Nat) (c : Corrected),
      s.xevAccept i.val r = xevFaults ((s.modTile i.val (took cnt)).addCorrected i.val c) i.val r := by
    unfold xevAccept xevFaults
    rw [h]
    dsimp only
    rw [List.map_map]
    exact ⟨_, _, rfl⟩
  obtain ⟨cnt, c, haccept⟩ := haccept
  rw [haccept, addCorrected, modTile_modTile]
  exact ⟨cnt, _, rfl⟩

theorem xevAccept_not (i : Fin 88) (h : s.xevStatus r ≠ 0) : ∃ cnt : List Nat, s.xevAccept i.val r =
    s.modTile i.val (xevTakes (s.xevNot r) (s.tile i.val).xevPtr cnt (s.tile i.val).corrected) := by
  unfold xevAccept
  dsimp only
  split
  case h_1 h0 => exact absurd h0 h
  case h_2 => exact ⟨_, rfl⟩

theorem xevFaults_told (s : State) (t : Nat) (r : XevReq) : Told s (s.xevFaults t r) :=
  Told.foldl _ _ (fun _ _ => .report _ _ _ _) _

theorem xevFaults_none (s : State) (t : Nat) (h : r.faults = []) : s.xevFaults t r = s := by
  rw [xevFaults, h]
  rfl

theorem xevFaults_kindCount (s : State) (t : Nat) {f : XevFault} (h : r.faults = [f]) (hf : f.elem < r.n.toNat) :
    (s.xevFaults t r).kindCount t (faultEvent f.kind) = satInc (s.kindCount t (faultEvent f.kind)) := by
  have hone : s.xevFaults t r = s.xevFault t f := by
    rw [xevFaults, h, List.filter_singleton, decide_eq_true hf]
    rfl
  rw [hone, xevFault, report_kindCount, if_pos ⟨rfl, rfl⟩]

/-- From `s` to `t` tile `i` has accepted a request and holds its answer; the errors of one that is OK are reported. -/
structure XevAccepts (s t : State) (i : Fin 88) (r : XevReq) : Prop where
  frame   : t = { s with tiles := t.tiles, taps := t.taps, arb := t.arb, intStatus := t.intStatus }
  mine    : t.tile i.val = xevTakes (s.xevAnswer i.val r) (t.tile i.val).xevPtr (t.tile i.val).xevCnt
    (t.tile i.val).corrected (s.tile i.val)
  others  : ∀ k : Fin 88, k ≠ i → t.tile k.val = s.tile k.val
  ok      : s.xevStatus r = 0 → (t.tile i.val).xevPtr = ((s.tile i.val).xevPtr + r.n.toNat) % 256
  not     : s.xevStatus r ≠ 0 → (t.tile i.val).xevPtr = (s.tile i.val).xevPtr ∧
    (t.tile i.val).corrected = (s.tile i.val).corrected
  quiet   : s.xevStatus r ≠ 0 ∨ r.faults = [] → t = { s with tiles := t.tiles }
  counted : ∀ f, s.xevStatus r = 0 → r.faults = [f] → f.elem < r.n.toNat →
    t.kindCount i.val (faultEvent f.kind) = satInc (s.kindCount i.val (faultEvent f.kind))

theorem xevAccepts_ok (i : Fin 88) (h : s.xevStatus r = 0) : XevAccepts s (s.xevAccept i.val r) i r := by
  obtain ⟨cnt, cor, haccept⟩ := xevAccept_ok i h
  rw [← xevAnswer_ok i.val h] at haccept
  let took := xevTakes (s.xevAnswer i.val r) (((s.tile i.val).xevPtr + r.n.toNat) % 256) cnt cor
  let u := s.modTile i.val took
  have hu : s.xevAccept i.val r = u.xevFaults i.val r := haccept
  have htold : Told u (u.xevFaults i.val r) := u.xevFaults_told i.val r
  have honly : OnlyTile s (u.xevFaults i.val r) i (took (s.tile i.val)) :=
    (OnlyTile.modTile s i took).congr fun k => by rw [htold]; rfl
  obtain ⟨hmine, hothers⟩ := honly
  rw [hu]
  exact {
    frame := by rw [htold]; rfl
    mine := by rw [hmine]; rfl
    others := hothers
    ok := fun _ => by rw [hmine]; rfl
    not := fun hne => absurd h hne
    quiet := fun hquiet => by rw [xevFaults_none u i.val (hquiet.resolve_left fun hne => hne h)]; rfl
    counted := fun f _ hone hf => by rw [xevFaults_kindCount u i.val hone hf, modTile_kindCount] }

theorem xevAccepts_not (i : Fin 88) (h : s.xevStatus r ≠ 0) : XevAccepts s (s.xevAccept i.val r) i r := by
  obtain ⟨cnt, haccept⟩ := xevAccept_not i h
  rw [← xevAnswer_not i.val h] at haccept
  obtain ⟨hmine, hothers⟩ := OnlyTile.modTile s i
    (xevTakes (s.xevAnswer i.val r) (s.tile i.val).xevPtr cnt (s.tile i.val).corrected)
  rw [haccept]
  exact {
    frame := rfl
    mine := by rw [hmine]; rfl
    others := hothers
    ok := fun h0 => absurd h0 h
    not := fun _ => by rw [hmine]; exact ⟨rfl, rfl⟩
    quiet := fun _ => rfl
    counted := fun _ h0 => absurd h0 h }

theorem xevAccepts (s : State) (i : Fin 88) (r : XevReq) : XevAccepts s (s.xevAccept i.val r) i r := by
  by_cases h : s.xevStatus r = 0
  · exact xevAccepts_ok i h
  · exact xevAccepts_not i h

/-! ### The two commands -/

theorem exec_xevRequest_waits (i : Fin 88) (h : s.xevReady i.val = false) : exec (.xevRequest i r) s = .next s :=
  congrArg Host.Outcome.next (if_neg (by simp [h]))

theorem exec_xevRequest_accepts (i : Fin 88) (h : s.xevReady i.val = true) :
    exec (.xevRequest i r) s = .next (s.booked (fun s => s.xevAccept i.val r)) :=
  congrArg Host.Outcome.next (if_pos h)

/-- A poisoned result is a NaN, or 0 in a format without one (R137). -/
theorem xevResult_poisoned (s : State) {k : Nat} (h : r.faults.any (fun f => f.elem == k) = true) :
    (s.xevResult r k).1 = if (fmtOf r.ofmt.toNat).hasNan then (fmtOf r.ofmt.toNat).nanCode else 0 := by
  unfold xevResult
  dsimp only
  rw [if_pos h]
  split <;> rfl

theorem exec_xevResponse_waits (i : Fin 88)
    (h : s.portRuns i.val = false ∨ (s.tile i.val).xevBuf = [] ∨ s.tileRuns i.val = false ∧ (s.tile i.val).xevLeft = 0) :
    exec (.xevResponse i) s = .next s := by
  refine congrArg Host.Outcome.next ?_
  rcases h with h | h | ⟨hruns, hleft⟩
  · exact if_neg (by simp [h])
  · rw [h]
    exact ite_self s
  · exact if_neg (by simp [xevGives, hruns, hleft])

/-- The tile gives its oldest response: the evaluators return its results, and the port drives it. -/
def xevGive (a : XevRsp) (rest : List XevRsp) (runs : Bool) (y : Tile) : Tile :=
  { y.grant a.places with
    xevBuf := rest, xevOut := some { a with places := [] }, xevLeft := if runs then y.xevLeft else y.xevLeft - 1 }

theorem exec_xevResponse_gives (i : Fin 88) {a : XevRsp} {rest : List XevRsp} (hbuf : (s.tile i.val).xevBuf = a :: rest)
    (hport : s.portRuns i.val = true) (hgives : s.tileRuns i.val = true ∨ (s.tile i.val).xevLeft ≠ 0) :
    exec (.xevResponse i) s =
      .next (s.booked (fun s => s.modTile i.val (xevGive a rest (s.tileRuns i.val)))).drainSlots := by
  have hcond : (s.portRuns i.val && s.xevGives i.val) = true := by simpa [hport, xevGives] using hgives
  refine congrArg Host.Outcome.next ((if_pos hcond).trans ?_)
  rw [hbuf]
  rfl

end State

/-- Settles O47: a request by its status (`xevAccepts`, `xevAnswer_head`), the statuses by the form of the request and
the slot it names (`xevFormed_eq_false`, `xevTable_slot`), and a response by `exec_xevResponse_gives`. -/
theorem xevAnswersInOrder : Obligations.XevAnswersInOrder := by
  unfold Obligations.XevAnswersInOrder
  refine ⟨fun i r s => ⟨State.exec_xevRequest_waits i, fun hready => ?_, fun hbad => ?_, ?_, ?_⟩,
    fun r k h s => s.xevResult_poisoned h,
    fun i s => ⟨fun h => ?_, fun a rest hbuf => ⟨fun hruns hleft => ?_, fun hport hgives => ?_⟩⟩⟩
  · obtain ⟨hframe, hmine, hothers, hok, hnot, hquiet, hcounted⟩ := s.xevAccepts i r
    obtain ⟨hid, hn, hstatus⟩ := s.xevAnswer_head i.val r
    let t := s.booked (fun s => s.xevAccept i.val r)
    have hbooked : t = { s.xevAccept i.val r with books := t.books } := rfl
    have htile (k : Nat) : t.tile k = (s.xevAccept i.val r).tile k := s.booked_tile _ k
    rw [← htile] at hmine hok hnot
    refine ⟨t, s.xevAnswer i.val r, State.exec_xevRequest_accepts i hready, hmine, hid, hn, hstatus, fun h => ⟨hok h, ?_⟩,
      fun h => ⟨(hnot h).1, (hnot h).2, ?_⟩, fun h => ?_, rfl, hcounted, fun k hk => (htile k).trans (hothers k hk), ?_⟩
    · rw [State.xevAnswer_ok _ h]
      exact ⟨rfl, rfl, rfl⟩
    · rw [State.xevAnswer_not _ h]
      exact ⟨rfl, rfl, rfl⟩
    · rw [hbooked, hquiet h]
    · rw [hbooked, hframe]
  · exact s.xevStatus_malformed (xevFormed_eq_false hbad)
  · intro k x hfunc hslot hnarrow hwidth
    have htable : s.xevTable r.func.toNat = some (k.val, some x) := by
      rw [hfunc, State.xevTable_slot, hslot]
      simp
    exact State.xevStatus_noNarrow htable hnarrow hwidth
  · intro k hfunc hslot hin hin8 hout hout8 hint hpos hmost
    have htable : s.xevTable r.func.toNat = some (k.val, none) := by
      rw [hfunc, State.xevTable_slot, if_neg]
      simpa only [Bool.and_eq_true, beq_iff_eq, not_and_or] using hslot
    exact State.xevStatus_notLoaded (xevFormed_of_slot k hfunc hin hin8 hout hout8 hint hpos hmost) htable
  · exact State.exec_xevResponse_waits i (h.imp_right .inl)
  · exact State.exec_xevResponse_waits i (.inr (.inr ⟨hruns, hleft⟩))
  · obtain ⟨hmine, hothers⟩ := State.OnlyTile.modTile s i (State.xevGive a rest (s.tileRuns i.val))
    let t := (s.booked (fun s => s.modTile i.val (State.xevGive a rest (s.tileRuns i.val)))).drainSlots
    have htile : t.tile i.val = State.xevGive a rest (s.tileRuns i.val) (s.tile i.val) := hmine
    refine ⟨t, State.exec_xevResponse_gives i hbuf hport hgives, ?_, fun hplaces => ?_, hothers, rfl⟩
    · rw [htile]
      rfl
    · rw [htile, State.xevGive, hplaces]
      exact ⟨rfl, rfl⟩

end Sys2Proof.Machine
end

section
/-!
PROOFS. What runs in the background of the service: Drizzle (R363, R364, R367), a damaged table entry (R375), the audit of the
books (Table 16.6) and the watchdog (Table 16.2).
-/

namespace Sys2Proof.Machine

namespace State

variable {s : State}

/-! ### Reads of management SRAM (R375) -/

/-- After a read of management SRAM whose end is a free value (log entry 82). -/
theorem sramUse_counts (s : State) :
    s.sramUse.mgmtCorrected =
        (if Config.sramOutcome s.fresh = .corrected then satInc s.mgmtCorrected else s.mgmtCorrected) ∧
      s.sramUse.fatal = (if Config.sramOutcome s.fresh = .uncorrectable then s.fatal ||| 4 else s.fatal) := by
  unfold sramUse sramRead sramNext
  cases Config.sramOutcome s.fresh <;> exact ⟨rfl, rfl⟩

/-- After one whose end an operand gives. -/
theorem sramRead_eq (s : State) (r : SramRead) : s.sramRead r = { s with
    mgmtCorrected := if r = .corrected then satInc s.mgmtCorrected else s.mgmtCorrected
    fatal := if r = .uncorrectable then s.fatal ||| 0x00000004 else s.fatal } := by
  cases r <;> rfl

/-! ### Drizzle (R363, R364) -/

/-- The read of management SRAM that a test of `unit` makes: one of an evaluator compares its narrow arrays (R149). -/
def narrowRead (s : State) (unit : Nat) : State := if unit = unitEvaluator then s.sramUse else s

theorem narrowRead_frame (s : State) (unit : Nat) : s.narrowRead unit = { s with
    fresh := (s.narrowRead unit).fresh, mgmtCorrected := (s.narrowRead unit).mgmtCorrected
    fatal := (s.narrowRead unit).fatal } := by
  unfold narrowRead
  split
  · rw [sramUse_frame]
  · rfl

theorem narrowRead_taps (s : State) (unit : Nat) : (s.narrowRead unit).taps = s.taps := by rw [narrowRead_frame]

theorem narrowRead_tile (s : State) (unit k : Nat) : (s.narrowRead unit).tile k = s.tile k := by
  rw [narrowRead_frame]
  rfl

/-- From `s` to `t` a test of `unit` has read what it reads of management SRAM. -/
def NarrowReads (s t : State) (unit : Nat) : Prop :=
  t.fresh = (if unit = 1 then s.fresh + 1 else s.fresh) ∧
  t.mgmtCorrected = (if unit = 1 ∧ Config.sramOutcome s.fresh = .corrected then satInc s.mgmtCorrected
    else s.mgmtCorrected) ∧
  t.fatal = if unit = 1 ∧ Config.sramOutcome s.fresh = .uncorrectable then s.fatal ||| 4 else s.fatal

theorem narrowReads_self (s : State) (unit : Nat) : NarrowReads s (s.narrowRead unit) unit := by
  unfold NarrowReads narrowRead
  by_cases h : unit = 1
  · obtain ⟨hcor, hfatal⟩ := s.sramUse_counts
    simp only [h, unitEvaluator, if_true, true_and]
    exact ⟨rfl, hcor, hfatal⟩
  · simp [h, unitEvaluator]

/-- The read of a test is one from the state before it: the test leaves the free values and the counts of such reads. -/
theorem narrowReads {u : State} (unit : Nat)
    (h : u = { s with tiles := u.tiles, intStatus := u.intStatus, arb := u.arb, taps := u.taps }) :
    NarrowReads s (u.narrowRead unit) unit := by
  have hself := u.narrowReads_self unit
  have hfresh : u.fresh = s.fresh := by rw [h]
  have hcor : u.mgmtCorrected = s.mgmtCorrected := by rw [h]
  have hfatal : u.fatal = s.fatal := by rw [h]
  unfold NarrowReads at hself ⊢
  rwa [hfresh, hcor, hfatal] at hself

theorem exec_drizzleTest_idle (i : Fin 88) {r : DrizzleResult} (h : s.drizzles i.val r = false) :
    exec (.drizzleTest i r) s = .next s :=
  congrArg Host.Outcome.next (if_neg (by simp [h]))

theorem exec_drizzleTest (i : Fin 88) {r : DrizzleResult} (h : s.drizzles i.val r = true) :
    exec (.drizzleTest i r) s = .next ((s.drizzle i.val r).narrowRead (drizzleUnit r)) := by
  refine congrArg Host.Outcome.next ((if_pos h).trans ?_)
  unfold narrowRead
  simp only [beq_iff_eq]

/-- R132: an evaluator that holds a request has no slot for its test. -/
theorem drizzles_busy {i : Nat} {r : DrizzleResult} (hunit : drizzleUnit r = unitEvaluator)
    (h : ∃ q ∈ (s.tile i).xevBuf, drizzleIndex r ∈ q.places) : s.drizzles i r = false := by
  have hany : (s.tile i).xevBuf.any (fun q => q.places.contains (drizzleIndex r)) = true := by
    simpa using h
  unfold drizzles
  rw [hany, hunit]
  simp

theorem drizzle_pass (s : State) (i : Fin 88) (u : Byte) (n : BitVec 16) (done : Bool) :
    s.drizzle i.val (.pass u n done) = { s with tiles := (s.drizzle i.val (.pass u n done)).tiles } ∧
      OnlyTile s (s.drizzle i.val (.pass u n done)) i
        { s.tile i.val with sweeps := if done then satInc (s.tile i.val).sweeps else (s.tile i.val).sweeps } := by
  cases done with
  | false => exact ⟨rfl, .refl s i⟩
  | true => exact ⟨rfl, .modTile s i fun y => { y with sweeps := satInc y.sweeps }⟩

theorem scrubCorrected_only (s : State) (i : Fin 88) (a b c : Bool) : OnlyTile s (s.scrubCorrected i.val a b c) i
    { s.tile i.val with corrected := ((s.scrubCorrected i.val a b c).tile i.val).corrected } := by
  obtain ⟨hmine, hothers⟩ := OnlyTile.modTile s i (fun (y : Tile) => { y with
    corrected := (y.corrected.zip [b2n a, b2n b, b2n c, 0]).map (fun (p : Nat × Nat) => min (p.1 + p.2) 0xFFFFFFFF) })
  refine ⟨?_, hothers⟩
  rw [scrubCorrected, hmine]

theorem pathMonitor_low (s : State) {t i o : Nat} (h : o < s.marginOf t) :
    s.pathMonitor t i o = s.drizzleFinding t evMarginLow 0 i (s.marginOf t) o := if_pos h

theorem pathMonitor_fine (s : State) {t i o : Nat} (h : s.marginOf t ≤ o) : s.pathMonitor t i o = s :=
  if_neg (Nat.not_lt.2 h)

theorem drizzleFinding_told (s : State) (t code unit index expected observed : Nat) :
    Told s (s.drizzleFinding t code unit index expected observed) := .report _ _ _ _

theorem drizzleFinding_kindCount (s : State) (t code unit index expected observed : Nat) :
    (s.drizzleFinding t code unit index expected observed).kindCount t code = satInc (s.kindCount t code) := by
  rw [drizzleFinding, report_kindCount, if_pos ⟨rfl, rfl⟩]

/-- R364: a fault is a finding and nothing else, beside the read of the test. -/
theorem drizzle_fault {r : DrizzleResult} {u : Byte} {n : BitVec 16} {e o : Word}
    (hr : r = .fault u n e o ∨ r = .eccFault u n e o) (s : State) (t : Nat) :
    s.drizzle t r = s.drizzleFinding t evDrizzleFault u.toNat n.toNat e.toNat o.toNat ∧ drizzleUnit r = u.toNat := by
  rcases hr with rfl | rfl <;> exact ⟨rfl, rfl⟩

/-! ### A damaged table entry (R375) -/

theorem exec_tableEntryRewrite (i : Fin 88) (e : EntryRef) (r : SramRead) (hruns : s.tileRuns i.val = true)
    (hholds : s.holdsEntry i.val e = true) : exec (.tableEntryRewrite i e r) s = .next ((s.entryRewrite i.val e).sramRead r) :=
  congrArg Host.Outcome.next (if_pos (by simp [hruns, hholds]))

/-- Every row pass that reads the entry is poisoned. -/
def poisonReaders (e : EntryRef) (y : Tile) : Tile :=
  { y with rows := y.rows.map (fun r => { r with poison := r.poison || entryReadBy e r }) }

theorem entryRewrite_eq (s : State) (i : Nat) (e : EntryRef) : s.entryRewrite i e =
    (s.modTile i (poisonReaders e)).report i evPoisonEcc (layoutU i 7 (entryIndex e) (entrySid e) 0 0 0) := by
  have hpoison : (fun (r : RowPass) => if entryReadBy e r then { r with poison := true } else r) =
      fun r => { r with poison := r.poison || entryReadBy e r } := by
    funext r
    cases entryReadBy e r <;> simp
  unfold entryRewrite poisonReaders
  rw [hpoison]

theorem entryRewrite_spec (s : State) (i : Fin 88) (e : EntryRef) :
    s.entryRewrite i.val e = { s with
      tiles := (s.entryRewrite i.val e).tiles, taps := (s.entryRewrite i.val e).taps, arb := (s.entryRewrite i.val e).arb
      intStatus := (s.entryRewrite i.val e).intStatus } ∧
    OnlyTile s (s.entryRewrite i.val e) i (poisonReaders e (s.tile i.val)) ∧
    (s.entryRewrite i.val e).kindCount i.val evPoisonEcc = satInc (s.kindCount i.val evPoisonEcc) := by
  rw [entryRewrite_eq]
  refine ⟨?_, (OnlyTile.modTile s i _).congr fun k => report_tile _ _ _ _ k, ?_⟩
  · rw [report_frame]
    rfl
  · rw [report_kindCount, if_pos ⟨rfl, rfl⟩, modTile_kindCount]

/-! ### The books in balance (Table 16.6) -/

end State

theorem bookOf_eq_none {book unit expected observed : Nat} :
    bookOf book unit expected observed = none ↔ expected = observed := by
  by_cases h : expected = observed <;> simp [bookOf, h]

theorem refOf_eq_zero {xs : List (Nat × Nat)} {e : Nat} (h : e ∉ xs.map (fun p => p.1)) : refOf xs e = 0 := by
  induction xs with
  | nil => rfl
  | cons x xs ih =>
    rw [List.map_cons, List.mem_cons, not_or] at h
    obtain ⟨hx, hxs⟩ := h
    rw [refOf_cons, if_neg (Ne.symm hx), ih hxs]

/-- An evaluator whose two counts agree where one of them stands, agrees everywhere. -/
theorem Tile.tokens_balanced {y : Tile} {t : Nat} (h : y.tokens t = []) (e : Nat) :
    refOf y.evalGrants e = refOf y.evalResults e := by
  by_cases he : e ∈ (y.evalGrants ++ y.evalResults).map (fun p => p.1)
  · exact bookOf_eq_none.1 (List.filterMap_eq_nil_iff.1 h e (List.mem_dedup.2 he))
  · rw [List.map_append, List.mem_append, not_or] at he
    obtain ⟨hgrants, hresults⟩ := he
    rw [refOf_eq_zero hgrants, refOf_eq_zero hresults]

namespace State

variable {s : State}

/-- What the audit holds the counters of the books against. -/
structure Balanced (s : State) : Prop where
  skid     : ∀ i : Fin 88, s.books.skid.getD i.val 0 + (s.tile i.val).queue.countP (fun q => q.isBeat) = 128
  units    : ∀ i : Fin 88, s.migratesOn i.val = false → s.bookUnits i.val = 192
  contexts : ∀ b : Fin 8, s.books.contexts.getD b.val 0 + (s.streamsIn b.val).length = 2048
  slots    : ∀ k : Fin 4, s.books.slots.getD k.val 0 = s.slotRefs k.val
  chains   : ∀ id ∈ s.chainsNamed, refOf s.books.chains id = s.chainRefs id
  tokens   : ∀ (i : Fin 88) (e : Nat), refOf (s.tile i.val).evalGrants e = refOf (s.tile i.val).evalResults e

theorem balanced_of_unbalanced (h : s.unbalanced = []) : s.Balanced := by
  simp only [unbalanced, bookRefs, List.append_eq_nil_iff, List.filterMap_eq_nil_iff, List.flatMap_eq_nil_iff,
    List.mem_range] at h
  obtain ⟨⟨⟨⟨⟨⟨⟨hskid, -⟩, -⟩, -⟩, hunits⟩, hcontexts⟩, hslots, hchains⟩, htokens⟩ := h
  exact {
    skid := fun i => (bookOf_eq_none.1 (hskid i.val i.isLt)).symm
    units := fun i hno => by
      have hbook := hunits i.val i.isLt
      rw [if_neg (by simp [hno])] at hbook
      exact (bookOf_eq_none.1 hbook).symm
    contexts := fun b => (bookOf_eq_none.1 (hcontexts b.val b.isLt)).symm
    slots := fun k => (bookOf_eq_none.1 (hslots k.val k.isLt)).symm
    chains := fun id hid => (bookOf_eq_none.1 (hchains id (List.mem_dedup.2 (List.mem_append_left _ hid)))).symm
    tokens := fun i e => Tile.tokens_balanced (htokens i.val i.isLt) e }

/-! ### The audit (Table 16.6) -/

/-- What the audit before noted of a book: whether it had then been found twice. -/
def notedBefore (s : State) (x : Nat × Nat × Nat × Nat) : Option (Nat × Nat × Bool) :=
  s.booksBad.find? (fun z => z.1 == x.1 && z.2.1 == x.2.1)

/-- The finding about a book that two audits in a row find out of balance. -/
def booksFinding (s : State) (x : Nat × Nat × Nat × Nat) : State :=
  (s.report srcMgmt evBooks (fun n => layoutU (bookTile x.1 x.2.1) 9 x.1 0xFFFF 0 x.2.2.1 x.2.2.2 n)).setFatal fatalBooks

/-- What an audit after `s` does with one book. -/
def auditBook (s u : State) (x : Nat × Nat × Nat × Nat) : State :=
  match s.notedBefore x with
  | some (_, _, false) => u.booksFinding x
  | _ => u

theorem audit_eq (s : State) : s.audit = { s.unbalanced.foldl s.auditBook s with
    booksBad := s.unbalanced.map (fun x => (x.1, x.2.1, (s.notedBefore x).isSome)) } := rfl

theorem auditBook_none {x : Nat × Nat × Nat × Nat} (h : s.notedBefore x = none) (u : State) : s.auditBook u x = u := by
  rw [auditBook, h]

theorem auditBook_again {x : Nat × Nat × Nat × Nat} {y : Nat × Nat × Bool} (h : s.notedBefore x = some y)
    (hy : y.2.2 = false) (u : State) : s.auditBook u x = u.booksFinding x := by
  obtain ⟨book, unit, twice⟩ := y
  cases hy
  rw [auditBook, h]

theorem booksFinding_frame (u : State) (x : Nat × Nat × Nat × Nat) : u.booksFinding x = { u with
    fatal := u.fatal ||| BitVec.ofNat 32 (2 ^ fatalBooks), taps := (u.booksFinding x).taps, arb := (u.booksFinding x).arb
    intStatus := (u.booksFinding x).intStatus } := by
  unfold booksFinding
  rw [report_frame]
  rfl

/-- A book leaves the state as it is or brings its finding. -/
theorem auditBook_cases (s u : State) (x : Nat × Nat × Nat × Nat) :
    s.auditBook u x = u ∨ s.auditBook u x = u.booksFinding x := by
  unfold auditBook
  split
  · exact .inr rfl
  · exact .inl rfl

/-- From `s` to `t` nothing but findings of the books have come, and FATAL_STATUS.BOOKS stays set. -/
structure Audited (s t : State) : Prop where
  frame : t = { s with fatal := t.fatal, taps := t.taps, arb := t.arb, intStatus := t.intStatus }
  fatal : s.fatal.getLsbD fatalBooks = true → t.fatal.getLsbD fatalBooks = true

theorem Audited.refl (s : State) : Audited s s := ⟨rfl, id⟩

theorem Audited.trans {s t u : State} (h : Audited s t) (g : Audited t u) : Audited s u where
  frame := by rw [g.frame, h.frame]
  fatal := g.fatal ∘ h.fatal

theorem booksFinding_fatal (u : State) (x : Nat × Nat × Nat × Nat) : (u.booksFinding x).fatal.getLsbD fatalBooks = true := by
  rw [booksFinding_frame]
  simp [fatalBooks]

theorem auditBook_audited (s u : State) (x : Nat × Nat × Nat × Nat) : Audited u (s.auditBook u x) := by
  rcases s.auditBook_cases u x with h | h
  · rw [h]
    exact .refl u
  · rw [h]
    exact ⟨by rw [booksFinding_frame], fun _ => u.booksFinding_fatal x⟩

theorem auditBooks_audited (s : State) (l : List (Nat × Nat × Nat × Nat)) (u : State) : Audited u (l.foldl s.auditBook u) := by
  induction l generalizing u with
  | nil => exact .refl u
  | cons x l ih => exact (s.auditBook_audited u x).trans (ih _)

/-- One book that is found again sets FATAL_STATUS.BOOKS, whatever the others do. -/
theorem auditBooks_again {l : List (Nat × Nat × Nat × Nat)} {x : Nat × Nat × Nat × Nat} {y : Nat × Nat × Bool}
    (hx : x ∈ l) (h : s.notedBefore x = some y) (hy : y.2.2 = false) (u : State) :
    (l.foldl s.auditBook u).fatal.getLsbD fatalBooks = true := by
  obtain ⟨before, after, rfl⟩ := List.append_of_mem hx
  rw [List.foldl_append, List.foldl_cons, auditBook_again h hy]
  exact (s.auditBooks_audited after _).fatal (booksFinding_fatal _ x)

/-- Books that the audit before did not find bring nothing yet. -/
theorem auditBooks_first {l : List (Nat × Nat × Nat × Nat)} (h : ∀ x ∈ l, s.notedBefore x = none) (u : State) :
    l.foldl s.auditBook u = u := by
  induction l generalizing u with
  | nil => rfl
  | cons x l ih =>
    rw [List.foldl_cons, auditBook_none (h x List.mem_cons_self)]
    exact ih (fun z hz => h z (List.mem_cons_of_mem x hz)) u

theorem exec_booksAudit (hruns : s.mgmtRuns = true) (hgoes : s.paused = false) (hready : s.readyDone = true) :
    exec .booksAudit s = .next s.audit :=
  congrArg Host.Outcome.next (if_pos (by simp [hruns, hgoes, hready]))

theorem exec_watchdogExpiry (hruns : s.mgmtRuns = true) : exec .watchdogExpiry s = .next
    (if s.workPending then s.setFatal fatalWdog else s) := by
  have hexec : exec .watchdogExpiry s = .next (if s.mgmtRuns && s.workPending then s.setFatal fatalWdog else s) := rfl
  rw [hexec, hruns, Bool.true_and]

end State

/-- Settles O53: a test of Drizzle by its outcome and its read (`exec_drizzleTest`, `narrowReads`), a damaged entry by
`entryRewrite_spec`, the audit book by book (`balanced_of_unbalanced`, `auditBooks_again`, `auditBooks_first`), and the
watchdog by `exec_watchdogExpiry`. -/
theorem backgroundChecksReportAndGoOn : Obligations.BackgroundChecksReportAndGoOn := by
  unfold Obligations.BackgroundChecksReportAndGoOn
  refine ⟨fun i s => ⟨fun r => State.exec_drizzleTest_idle i, fun n e o d hbusy => ?_, fun u n done h => ?_, fun a b c h => ?_,
    fun r u n e o hr h => ?_, fun n o h => ⟨fun hfine => ?_, fun hlow => ?_⟩⟩, fun i e r s hruns hholds => ?_,
    fun s hruns hgoes hready => ?_, fun s => State.exec_watchdogExpiry⟩
  · exact ⟨State.drizzles_busy rfl hbusy, State.drizzles_busy rfl hbusy, State.drizzles_busy rfl hbusy⟩
  · obtain ⟨hframe, honly⟩ := s.drizzle_pass i u n done
    obtain ⟨hmine, hothers⟩ := honly.congr fun k => (s.drizzle i.val (.pass u n done)).narrowRead_tile u.toNat k
    refine ⟨_, State.exec_drizzleTest i h, hmine, State.narrowReads u.toNat ?_, hothers, ?_⟩
    · rw [hframe]
    · rw [State.narrowRead_frame, hframe]
  · obtain ⟨hmine, hothers⟩ := s.scrubCorrected_only i a b c
    exact ⟨_, State.exec_drizzleTest i h, hmine, hothers, rfl⟩
  · obtain ⟨hfinding, hunit⟩ := State.drizzle_fault hr s i.val
    have hexec := State.exec_drizzleTest i h
    rw [hfinding, hunit] at hexec
    have htold := s.drizzleFinding_told i.val evDrizzleFault u.toNat n.toNat e.toNat o.toNat
    refine ⟨_, hexec, State.narrowReads u.toNat ?_, ?_, ?_⟩
    · rw [htold]
    · rw [State.narrowRead_frame, htold]
    · rw [State.kindCount_congr (State.narrowRead_taps _ _), State.drizzleFinding_kindCount]
  · exact (State.exec_drizzleTest i h).trans (congrArg Host.Outcome.next (s.pathMonitor_fine hfine))
  · have hexec := State.exec_drizzleTest i h
    have hfinding : s.drizzle i.val (.marginLow n o) = _ := s.pathMonitor_low hlow
    rw [hfinding] at hexec
    exact ⟨_, hexec, s.drizzleFinding_kindCount _ _ _ _ _ _, s.drizzleFinding_told _ _ _ _ _ _⟩
  · obtain ⟨hframe, ⟨hmine, hothers⟩, hcount⟩ := s.entryRewrite_spec i e
    have hexec := State.exec_tableEntryRewrite i e r hruns hholds
    rw [State.sramRead_eq] at hexec
    refine ⟨_, hexec, hmine, hothers, hcount, ?_⟩
    rw [hframe]
  · have hexec := State.exec_booksAudit hruns hgoes hready
    rw [State.audit_eq] at hexec
    refine ⟨_, hexec, fun hnone => ⟨?_, ?_⟩, fun x hx y hy hfirst => ?_, fun hfirst => ?_, ?_⟩
    · rw [hnone]
      rfl
    · obtain ⟨hskid, hunits, hcontexts, hslots, hchains, htokens⟩ := State.balanced_of_unbalanced hnone
      exact ⟨fun i => ⟨hskid i, hunits i⟩, hcontexts, hslots, hchains, htokens⟩
    · exact State.auditBooks_again hx hy hfirst s
    · exact (congrArg State.fatal (State.auditBooks_first hfirst s) :)
    · rw [(s.auditBooks_audited s.unbalanced s).frame]

end Sys2Proof.Machine
end

section
/-! PROOFS. What leaves the loadable slots and the loads as they stand, and what frees slots of drained tables. -/

namespace Sys2Proof.Machine

/-- The loadable slots and the loads in progress stand. -/
@[simp] abbrev KeepsTables (s t : State) : Prop := t.slots = s.slots ∧ t.loads = s.loads

/-- Slot `i` after its table has left it. -/
def freed (i : Nat) : Slot := { state := .free, first := i, table := none }

/-- From `x` to `y` tables that were DRAINING are gone, each from all its slots (R150). -/
def Drains (x y : Vector Slot 4) : Prop :=
  ∃ gone : Nat → Bool, y = x.mapIdx (fun i z => if z.state == .draining && gone z.first then freed i else z)

@[simp] theorem Drains.refl (x : Vector Slot 4) : Drains x x := ⟨fun _ => false, by ext i hi; simp⟩

theorem Drains.trans {x y z : Vector Slot 4} (h : Drains x y) (g : Drains y z) : Drains x z := by
  obtain ⟨a, rfl⟩ := h
  obtain ⟨b, rfl⟩ := g
  refine ⟨fun k => a k || b k, Vector.ext fun i hi => ?_⟩
  simp only [Vector.getElem_mapIdx]
  by_cases hd : (x[i].state == .draining && a x[i].first) = true
  · obtain ⟨hs, ha⟩ := Bool.and_eq_true_iff.1 hd
    simp [freed, hs, ha]
  · rw [if_neg hd]
    simp only [Bool.and_eq_true, not_and, Bool.not_eq_true] at hd
    cases hs : x[i].state == .draining
    · simp
    · simp [hd hs]

/-- A step from `s` to `t` leaves the loads alone and takes drained tables from their slots at most. -/
@[simp] abbrev MayDrain (s t : State) : Prop := t.loads = s.loads ∧ ∀ x, Drains x s.slots → Drains x t.slots

theorem MayDrain.refl (s : State) : MayDrain s s := ⟨rfl, fun _ => id⟩

theorem MayDrain.trans {s t u : State} (h : MayDrain s t) (g : MayDrain t u) : MayDrain s u :=
  ⟨g.1.trans h.1, fun x hx => g.2 x (h.2 x hx)⟩

theorem MayDrain.of_keeps {s t : State} (h : KeepsTables s t) : MayDrain s t := ⟨h.2, fun _ hx => h.1 ▸ hx⟩

theorem MayDrain.then {s t u : State} (h : MayDrain s t) (g : KeepsTables t u) : MayDrain s u := h.trans (.of_keeps g)

theorem MayDrain.after {s t u : State} (g : KeepsTables s t) (h : MayDrain t u) : MayDrain s u := (MayDrain.of_keeps g).trans h

@[simp] theorem drains_ite (x a b : Vector Slot 4) (c : Prop) [Decidable c] :
    Drains x (if c then a else b) = if c then Drains x a else Drains x b := apply_ite _ _ _ _

namespace State
variable (s : State)

@[simp] theorem ite_slots (c : Prop) [Decidable c] (a b : State) : (if c then a else b).slots = if c then a.slots else b.slots := apply_ite _ _ _ _
@[simp] theorem ite_loads (c : Prop) [Decidable c] (a b : State) : (if c then a else b).loads = if c then a.loads else b.loads := apply_ite _ _ _ _

@[simp] theorem foldl_tables {α : Type} (f : State → α → State) (l : List α) (h : ∀ u a, (f u a).slots = u.slots ∧ (f u a).loads = u.loads) :
    KeepsTables s (l.foldl f s) := by
  induction l generalizing s with
  | nil => exact ⟨rfl, rfl⟩
  | cons a l ih => exact ⟨(ih _).1.trans (h s a).1, (ih _).2.trans (h s a).2⟩

@[simp] theorem foldl_drains {α : Type} (f : State → α → State) (l : List α) (h : ∀ u a, (f u a).loads = u.loads ∧ Drains u.slots (f u a).slots) :
    MayDrain s (l.foldl f s) := by
  induction l generalizing s with
  | nil => exact ⟨rfl, fun _ => id⟩
  | cons a l ih => exact ⟨(ih _).1.trans (h s a).1, fun x hx => (ih _).2 x (hx.trans (h s a).2)⟩

@[simp] theorem modTiles_tables (ts : List Nat) (f : Tile → Tile) : KeepsTables s (s.modTiles ts f) := by
  constructor <;> simp [modTiles]

section
variable {f : State → State} (h : ∀ u, (f u).slots = u.slots ∧ (f u).loads = u.loads)
include h

@[simp] theorem ctlWrite_tables : KeepsTables s (s.ctlWrite f) := by
  unfold ctlWrite; split
  · exact h s
  · exact ⟨rfl, rfl⟩
@[simp] theorem glomenChange_tables (a b c d : Nat) : KeepsTables s (s.glomenChange a b c d f) := by
  unfold glomenChange; split
  · constructor <;> simp [h]
  · exact ⟨rfl, rfl⟩
end

/-! ### Counts, events, the change log and the answers of a command -/

@[simp] theorem refreshService_tables : KeepsTables s s.refreshService := by
  constructor <;> simp [refreshService]

@[simp] theorem countReads_tables (n bytes : Nat) : KeepsTables s (s.countReads n bytes) := ⟨rfl, rfl⟩

@[simp] theorem ctlDone_tables (v : Word) : KeepsTables s (s.ctlDone v) := ⟨rfl, rfl⟩

@[simp] theorem markFull_tables : KeepsTables s s.markFull := by
  constructor <;> simp [markFull]

@[simp] theorem holdEvent_tables (e : Event) : KeepsTables s (s.holdEvent e) := by
  constructor <;> simp [holdEvent]

@[simp] theorem loseEvent_tables (code : Nat) : KeepsTables s (s.loseEvent code) := ⟨rfl, rfl⟩

@[simp] theorem takeTaps_tables (n : Nat) : KeepsTables s (s.takeTaps n) := by
  rw [takeTaps_frame]
  exact ⟨rfl, rfl⟩

@[simp] theorem sramRead_tables (r : SramRead) : KeepsTables s (s.sramRead r) := by cases r <;> exact ⟨rfl, rfl⟩

@[simp] theorem sramUse_tables : KeepsTables s s.sramUse := by
  constructor <;> simp [sramUse]

@[simp] theorem logAppend_tables (i : LogInfo) : KeepsTables s (s.logAppend i) := by
  constructor <;> simp [logAppend]

@[simp] theorem logDrop_tables (kind object : Nat) : KeepsTables s (s.logDrop kind object) := by
  constructor <;> simp [logDrop]

@[simp] theorem logWrap_tables : KeepsTables s s.logWrap := by
  constructor <;> simp [logWrap]

@[simp] theorem finishLong_tables (origin : Nat) (tag : BitVec 16) (result oldh newh : Nat) : KeepsTables s (s.finishLong origin tag result oldh newh) := by
  unfold finishLong
  split <;> constructor <;> simp

@[simp] theorem reportMap_tables (b old : Nat) : KeepsTables s (s.reportMap b old) := by
  constructor <;> simp [reportMap]

@[simp] theorem refreshBand_tables (b : Nat) : KeepsTables s (s.refreshBand b) := by
  constructor <;> simp [refreshBand]

@[simp] theorem changeMap_tables (b : Nat) (f : State → State) (h : ∀ u, (f u).slots = u.slots ∧ (f u).loads = u.loads) :
    KeepsTables s (s.changeMap b f) := by
  constructor <;> simp [changeMap, h]

@[simp] theorem writeOut_tables (m : Nat) (ws : List Nat) : KeepsTables s (s.writeOut m ws) := ⟨rfl, rfl⟩

@[simp] theorem respond_tables (m : Nat) (ws : List Nat) : KeepsTables s (s.respond m ws) := by
  constructor <;> simp [respond]

@[simp] theorem writeReady_tables : KeepsTables s s.writeReady := by
  constructor <;> simp [writeReady]

@[simp] theorem takeBell_tables (m : Nat) : KeepsTables s (s.takeBell m) := ⟨rfl, rfl⟩

@[simp] theorem commit_tables (c : Cmd) (a b : Nat) (f : State → State) (g : State → List Nat)
    (h : ∀ u, (f u).slots = u.slots ∧ (f u).loads = u.loads) : KeepsTables s (s.commit c a b f g) := by
  constructor <;> simp [commit, h]

theorem commit_drains (c : Cmd) (a b : Nat) {f : State → State} (g : State → List Nat) (h : MayDrain s (f s)) :
    MayDrain s (s.commit c a b f g) := by
  unfold commit
  split
  · exact h.then (by constructor <;> simp)
  · constructor <;> simp

@[simp] theorem accept_tables (c : Cmd) (n o a b : Nat) (f : State → State)
    (h : ∀ u, (f u).slots = u.slots ∧ (f u).loads = u.loads) : KeepsTables s (s.accept c n o a b f) := by
  constructor <;> simp [accept, h]

theorem accept_drains (c : Cmd) (n o a b : Nat) {f : State → State} (h : ∀ u, MayDrain u (f u)) :
    MayDrain s (s.accept c n o a b f) := by
  unfold accept
  split
  · extract_lets obj i op s1 s2
    have h2 : KeepsTables s s2 := by simp [s2, s1]
    exact (MayDrain.after h2 (h s2)).then (by constructor <;> simp)
  · constructor <;> simp

@[simp] theorem runCmd_tables (m op : Nat) (pick : Cmd → Bool) (f : Cmd → State → State)
    (h : ∀ c u, (f c u).slots = u.slots ∧ (f c u).loads = u.loads) : KeepsTables s (s.runCmd m op pick f) := by
  unfold runCmd
  dsimp only
  split
  · split <;> constructor <;> simp [h]
  · exact ⟨rfl, rfl⟩

theorem runCmd_drains (m op : Nat) (pick : Cmd → Bool) {f : Cmd → State → State} (h : ∀ c, MayDrain s (f c s)) :
    MayDrain s (s.runCmd m op pick f) := by
  unfold runCmd
  dsimp only
  split
  · split
    · constructor <;> simp
    · exact h _
  · exact .refl s

@[simp] theorem readError_tables (b addr : Nat) (poison : Bool) : KeepsTables s (s.readError b addr poison) := by
  constructor <;> simp [readError]

@[simp] theorem vaneRead_tables (a n : Nat) (img : HostRead) : KeepsTables s (s.vaneRead a n img) := by
  cases img <;> constructor <;> simp [vaneRead]

@[simp] theorem withRead_tables (c : Cmd) (a k n : Nat) (img : HostRead) (f : List Byte → State → State)
    (h : ∀ c u, (f c u).slots = u.slots ∧ (f c u).loads = u.loads) : KeepsTables s (s.withRead c a k n img f) := by
  unfold withRead
  cases img <;> constructor <;> simp [h]

theorem withRead_drains (c : Cmd) (a k n : Nat) (img : HostRead) {f : List Byte → State → State}
    (h : ∀ bs u, MayDrain u (f bs u)) : MayDrain s (s.withRead c a k n img f) := by
  unfold withRead
  split
  · constructor <;> simp
  split
  · exact .refl s
  · split
    · constructor <;> simp
    · exact MayDrain.after (by constructor <;> simp) (h _ _)

@[simp] theorem orRefuse_tables (c : Cmd) (r : Option Refuse) (f : State → State)
    (h : ∀ u, (f u).slots = u.slots ∧ (f u).loads = u.loads) : KeepsTables s (s.orRefuse c r f) := by
  cases r
  · exact h s
  · constructor <;> simp [orRefuse]

theorem orRefuse_drains (c : Cmd) (r : Option Refuse) {f : State → State} (h : MayDrain s (f s)) :
    MayDrain s (s.orRefuse c r f) := by
  cases r
  · exact h
  · constructor <;> simp [orRefuse]

@[simp] theorem acknowledge_tables (m : Nat) : KeepsTables s (s.acknowledge m) := by
  unfold acknowledge
  dsimp only
  repeat' split
  all_goals constructor <;> simp

/-! ### Streams, and the chains that hold tables -/

@[simp] theorem suspend_tables (sid : Nat) (f : Causes → Causes) : KeepsTables s (s.suspend sid f) := ⟨rfl, rfl⟩

@[simp] theorem resume_tables (sid : Nat) : KeepsTables s (s.resume sid) := by
  unfold resume
  split <;> constructor <;> simp

@[simp] theorem resumeAll_tables (sids : List Nat) : KeepsTables s (s.resumeAll sids) := by
  constructor <;> simp [resumeAll]

@[simp] theorem unsuspend_tables (sids : List Nat) (f : Causes → Causes) : KeepsTables s (s.unsuspend sids f) := by
  constructor <;> simp [unsuspend]

@[simp] theorem passEnded_tables (sid row pass ticks : Nat) (promised : Bool) : KeepsTables s (s.passEnded sid row pass ticks promised) := by
  unfold passEnded
  split <;> constructor <;> simp

@[simp] theorem pruneChains_tables : KeepsTables s s.pruneChains := ⟨rfl, rfl⟩

@[simp] theorem drainSlots_drains : MayDrain s s.drainSlots := by
  refine ⟨rfl, fun x h => h.trans ⟨fun k => !s.slotHeld k, ?_⟩⟩
  rfl

@[simp] theorem prune_drains : MayDrain s s.prune := by
  constructor <;> simp +contextual [prune]

/-! ### Service operations and the map -/

@[simp] theorem gate_tables (t : Nat) : KeepsTables s (s.gate t) := ⟨rfl, rfl⟩

@[simp] theorem powerUp_tables (t : Nat) : KeepsTables s (s.powerUp t) := ⟨rfl, rfl⟩

@[simp] theorem setActive_tables (t : Nat) (on : Bool) : KeepsTables s (s.setActive t on) := ⟨rfl, rfl⟩

@[simp] theorem setSpare_tables (b : Nat) (t : Option Nat) : KeepsTables s (s.setSpare b t) := ⟨rfl, rfl⟩

@[simp] theorem testFail_tables (t unit index : Nat) : KeepsTables s (s.testFail t unit index) := by
  constructor <;> simp [testFail]

@[simp] theorem setSvc_tables (b : Nat) (o : Option SvcOp) : KeepsTables s (s.setSvc b o) := ⟨rfl, rfl⟩

@[simp] theorem enterService_tables (t : Nat) : KeepsTables s (s.enterService t) := ⟨rfl, rfl⟩

@[simp] theorem svcEnd_tables (b : Nat) : KeepsTables s (s.svcEnd b) := by
  unfold svcEnd
  split <;> constructor <;> simp

@[simp] theorem svcStop_tables (b : Nat) : KeepsTables s (s.svcStop b) := by
  unfold svcStop
  split <;> constructor <;> simp

@[simp] theorem svcFail_tables (b : Nat) : KeepsTables s (s.svcFail b) := by
  unfold svcFail
  split <;> constructor <;> simp

@[simp] theorem svcCount_tables (o : SvcOp) : KeepsTables s (s.svcCount o) := ⟨rfl, rfl⟩

@[simp] theorem powerBack_tables (t : Nat) : KeepsTables s (s.powerBack t) := by
  constructor <;> simp [powerBack]

@[simp] theorem svcBegin_tables (b : Nat) (o : SvcOp) (t : Nat) : KeepsTables s (s.svcBegin b o t) := by
  unfold svcBegin
  repeat' split
  all_goals constructor <;> simp

@[simp] theorem svcNext_tables (b : Nat) : KeepsTables s (s.svcNext b) := by
  unfold svcNext
  dsimp only
  repeat' split
  all_goals constructor <;> simp

@[simp] theorem svcGoOn_tables (b : Nat) : KeepsTables s (s.svcGoOn b) := by
  unfold svcGoOn
  repeat' split
  all_goals constructor <;> simp

@[simp] theorem svcRestore_tables (b : Nat) (o : SvcOp) : KeepsTables s (s.svcRestore b o) := by
  constructor <;> simp [svcRestore]

@[simp] theorem svcRetire_tables (b : Nat) (o : SvcOp) : KeepsTables s (s.svcRetire b o) := by
  constructor <;> simp [svcRetire]

@[simp] theorem svcGate_tables (b : Nat) (o : SvcOp) : KeepsTables s (s.svcGate b o) := by
  unfold svcGate
  repeat' split
  all_goals constructor <;> simp

@[simp] theorem restoreStep_tables (t : Nat) : KeepsTables s (s.restoreStep t) := by
  unfold restoreStep
  split <;> constructor <;> simp

@[simp] theorem restoreAnew_tables (t : Nat) : KeepsTables s (s.restoreAnew t) := by
  unfold restoreAnew
  split <;> constructor <;> simp

@[simp] theorem restoreGoOn_tables (t : Nat) : KeepsTables s (s.restoreGoOn t) := by
  constructor <;> simp [restoreGoOn]

@[simp] theorem svcSettle_tables (b : Nat) : KeepsTables s (s.svcSettle b) := by
  unfold svcSettle
  repeat' split
  all_goals constructor <;> simp

@[simp] theorem joinMap_tables (t : Nat) : KeepsTables s (s.joinMap t) := by
  constructor <;> simp [joinMap]

@[simp] theorem becomeSpare_tables (b t : Nat) : KeepsTables s (s.becomeSpare b t) := by
  constructor <;> simp [becomeSpare]

@[simp] theorem svcDone_tables (b : Nat) (o : SvcOp) : KeepsTables s (s.svcDone b o) := by
  unfold svcDone
  split <;> constructor <;> simp

@[simp] theorem loseSpare_tables (b t : Nat) : KeepsTables s (s.loseSpare b t) := by
  constructor <;> simp [loseSpare]

@[simp] theorem entryChecked_tables (t : Nat) (pass : Bool) : KeepsTables s (s.entryChecked t pass) := by
  unfold entryChecked
  dsimp only
  repeat' split
  all_goals constructor <;> simp

/-! ### Closing streams, findings and rows -/

@[simp] theorem finishClose_drains (sid : Nat) : MayDrain s (s.finishClose sid) := by
  unfold finishClose
  repeat' split
  all_goals constructor <;> simp +contextual

@[simp] theorem countTap_tables (src code n : Nat) : KeepsTables s (s.countTap src code n) := by
  constructor <;> simp [countTap]

@[simp] theorem noteSats_tables (t : Nat) (rp : RowPass) (sats : List (Nat × Nat × Nat)) : KeepsTables s (s.noteSats t rp sats) := by
  unfold noteSats
  split <;> constructor <;> simp

@[simp] theorem opdCross_tables (b : Nat) : KeepsTables s (s.opdCross b) := by
  constructor <;> simp [opdCross]

@[simp] theorem fabCross_tables (b : Nat) : KeepsTables s (s.fabCross b) := ⟨rfl, rfl⟩

@[simp] theorem trapHalted_tables : KeepsTables s s.trapHalted := ⟨rfl, rfl⟩

@[simp] theorem haltBand_tables (b : Nat) : KeepsTables s (s.haltBand b) := by
  constructor <;> simp [haltBand]

@[simp] theorem noteNans_tables (t : Nat) (rp : RowPass) (nans : List NanNote) : KeepsTables s (s.noteNans t rp nans) := by
  unfold noteNans
  dsimp only
  repeat' split
  all_goals constructor <;> simp

@[simp] theorem noteFault_tables (t : Nat) (rp : RowPass) (f : HwFault) : KeepsTables s (s.noteFault t rp f) := by
  constructor <;> simp [noteFault]

@[simp] theorem addNotes_tables (t : Nat) (rp : RowPass) (n : Notes) : KeepsTables s (s.addNotes t rp n) := by
  constructor <;> simp [addNotes]

@[simp] theorem openRow_drains (x : Stream) (row : Nat) : MayDrain s (s.openRow x row) := by
  unfold openRow
  split
  · exact .refl s
  split
  · exact .refl s
  · exact MayDrain.after (t := s.booked _) ⟨rfl, rfl⟩ (prune_drains _)

@[simp] theorem placePass_tables (t : Nat) (rp : RowPass) : KeepsTables s (s.placePass t rp) := ⟨rfl, rfl⟩

@[simp] theorem claimRow_tables (rp : RowPass) : KeepsTables s (s.claimRow rp) := by
  unfold claimRow
  split <;> constructor <;> simp

@[simp] theorem beginPass_tables (t : Nat) (rp : RowPass) : KeepsTables s (s.beginPass t rp) := by
  unfold beginPass
  dsimp only
  repeat' split
  all_goals constructor <;> simp

@[simp] theorem putPass_tables (t : Nat) (rp : RowPass) : KeepsTables s (s.putPass t rp) := ⟨rfl, rfl⟩

@[simp] theorem passRan_tables (t : Nat) (rp : RowPass) (qs : List (Nat × List (List EvalKind))) : KeepsTables s (s.passRan t rp qs) := ⟨rfl, rfl⟩

@[simp] theorem startClock_tables (t : Nat) (rp : RowPass) : KeepsTables s (s.startClock t rp) := by
  constructor <;> simp [startClock]

@[simp] theorem finishPass_tables (t : Nat) (rp : RowPass) : KeepsTables s (s.finishPass t rp) := ⟨rfl, rfl⟩

@[simp] theorem endAbsent_tables (t : Nat) (x : Stream) (r : RowCtx) (p : Nat) : KeepsTables s (s.endAbsent t x r p) := ⟨rfl, rfl⟩

@[simp] theorem joinAbsent_tables (sid row : Nat) : KeepsTables s (s.joinAbsent sid row) := by
  unfold joinAbsent
  repeat' split
  all_goals constructor <;> simp

@[simp] theorem handOn_tables (t : Nat) (rp : RowPass) : KeepsTables s (s.handOn t rp) := by
  unfold handOn
  dsimp only
  repeat' split
  all_goals constructor <;> simp

@[simp] theorem releasePass_tables (t : Nat) (rp : RowPass) : KeepsTables s (s.releasePass t rp) := ⟨rfl, rfl⟩

@[simp] theorem measurePass_tables (t : Nat) (rp : RowPass) (r : RowCtx) : KeepsTables s (s.measurePass t rp r) := by
  constructor <;> simp [measurePass]

@[simp] theorem freeHold_tables (sid row : Nat) : KeepsTables s (s.freeHold sid row) := ⟨rfl, rfl⟩

@[simp] theorem endPass_drains (t : Nat) (rp : RowPass) : MayDrain s (s.endPass t rp) := by
  unfold endPass
  extract_lets e s1 s2
  have h2 : KeepsTables s s2 := ⟨rfl, rfl⟩
  clear_value s2
  split
  · exact .of_keeps h2
  split
  · exact .of_keeps h2
  next x hx r hr =>
  extract_lets s3 s4 s5 s6
  have h3 : KeepsTables s s3 := by
    subst s3
    split <;> simp [h2]
  have h4 : KeepsTables s s4 := by simp [s4, h3]
  clear_value s3 s4
  have h5 : KeepsTables s s5 := by
    subst s5
    split <;> simp [h4]
  clear_value s5
  have h6 : MayDrain s s6 := by
    subst s6
    split
    · exact .after h5 (prune_drains _)
    · exact .of_keeps (by simp [h3])
  exact h6.trans ((finishClose_drains _ _).then (svcSettle_tables _ _))

@[simp] theorem advancePass_drains (t sid row pass : Nat) : MayDrain s (s.advancePass t sid row pass) := by
  unfold advancePass
  extract_lets s1 s2 s3 s4
  have h1 : KeepsTables s s1 := by
    subst s1
    repeat' split
    all_goals constructor <;> simp
  have h2 : MayDrain s s2 := by
    refine MayDrain.after h1 ?_
    subst s2
    repeat' split
    all_goals constructor <;> simp +contextual
  have h3 : KeepsTables s2 s3 := by
    subst s3
    repeat' split
    all_goals constructor <;> simp
  have h4 : KeepsTables s3 s4 := by
    subst s4
    repeat' split
    all_goals constructor <;> simp
  have h : MayDrain s s4 := (h2.then h3).then h4
  split
  · split
    · exact h.trans (endPass_drains _ _ _)
    · exact h
  · exact h

/-! ### What waits in a tile -/

@[simp] theorem settlePass_drains (t sid row pass : Nat) : MayDrain s (s.settlePass t sid row pass) := by
  constructor <;> simp +contextual [settlePass]

@[simp] theorem sendBlocks_tables (t : Nat) : KeepsTables s (s.sendBlocks t) := by
  constructor <;> simp [sendBlocks]

@[simp] theorem settleBlocks_tables (t : Nat) : KeepsTables s (s.settleBlocks t) := by
  constructor <;> simp [settleBlocks]

@[simp] theorem settleTile_drains (t : Nat) : MayDrain s (s.settleTile t) := by
  unfold settleTile
  extract_lets sweep s1
  have hs (u : State) : MayDrain u (sweep u) := foldl_drains u _ _ (fun v k => by simp)
  have h1 : MayDrain s s1 := (hs s).trans ((hs _).trans ((hs _).trans (hs _)))
  have hb (u : State) : MayDrain u (sweep (u.settleBlocks t)) := MayDrain.after (settleBlocks_tables u t) (hs _)
  exact h1.trans (foldl_drains _ _ _ fun v b => ⟨(hb v).1, (hb v).2 _ (.refl _)⟩)

@[simp] theorem settleTiles_drains (ts : List Nat) : MayDrain s (s.settleTiles ts) := by
  constructor <;> simp +contextual [settleTiles]

@[simp] theorem settleRow_drains (t sid row : Nat) : MayDrain s (s.settleRow t sid row) := by
  unfold settleRow
  split <;> constructor <;> simp +contextual

theorem passWait_tables {t : Nat} {r : RowCtx} {rp rp1 : RowPass} {s1 : State} {n : Notes}
    (h : s.passWait t r rp = some (s1, rp1, n)) : KeepsTables s s1 := by
  unfold passWait at h
  extract_lets k st j ps R s2 out at h
  have h2 : KeepsTables s s2 := foldl_tables s _ _ fun u p => putPass_tables u _ _
  clear_value s2
  split at h
  · cases h
  split at h
  · simp only [Option.map_eq_some_iff, Prod.mk.injEq] at h
    obtain ⟨-, -, rfl, -⟩ := h
    exact ⟨rfl, rfl⟩
  split at h
  · split at h
    · simp only [Option.map_eq_some_iff, Prod.mk.injEq] at h
      obtain ⟨-, -, rfl, -⟩ := h
      exact ⟨rfl, rfl⟩
    · cases h
  split at h
  · simp only [Option.some.injEq, Prod.mk.injEq] at h
    exact h.1 ▸ ⟨rfl, rfl⟩
  split at h
  · simp only [Option.some.injEq, Prod.mk.injEq] at h
    exact h.1 ▸ h2
  · cases h

@[simp] theorem applyStart_drains (t sid row pass : Nat) : MayDrain s (s.applyStart t sid row pass) := by
  unfold applyStart
  split
  · split
    · next h =>
      have hw := passWait_tables s h
      exact MayDrain.after (t := (passRan _ _ _ _).addNotes _ _ _) (by simp [hw]) (settleTile_drains _ t)
    · exact .refl s
  · exact .refl s

@[simp] theorem repromise_tables (affected : Stream → Bool) : KeepsTables s (s.repromise affected) := ⟨rfl, rfl⟩

/-! ### Merges -/

@[simp] theorem queueFab_tables (b : Nat) (rs : List FabReq) : KeepsTables s (s.queueFab b rs) := ⟨rfl, rfl⟩

@[simp] theorem putMerge_tables (b : Nat) (m : Merge) : KeepsTables s (s.putMerge b m) := ⟨rfl, rfl⟩

@[simp] theorem askMerge_tables (b : Nat) (m : Merge) : KeepsTables s (s.askMerge b m) := ⟨rfl, rfl⟩

@[simp] theorem keepWaiting_tables (m : Merge) : KeepsTables s (s.keepWaiting m) := ⟨rfl, rfl⟩

@[simp] theorem endWait_tables (m : Merge) : KeepsTables s (s.endWait m) := ⟨rfl, rfl⟩

@[simp] theorem blockMerge_tables (b : Nat) (m : Merge) : KeepsTables s (s.blockMerge b m) := ⟨rfl, rfl⟩

@[simp] theorem readOn_tables (b : Nat) (m : Merge) (p : MergePhase) : KeepsTables s (s.readOn b m p) := ⟨rfl, rfl⟩

@[simp] theorem sendOn_tables (b : Nat) (m : Merge) (p : MergePhase) (rs : List FabReq) : KeepsTables s (s.sendOn b m p rs) := ⟨rfl, rfl⟩

@[simp] theorem mismatch_tables (b : Nat) (first : Rec) (p1 : Nat) (second : Rec) (p2 reason : Nat) : KeepsTables s (s.mismatch b first p1 second p2 reason) := by
  constructor <;> simp [mismatch]

@[simp] theorem putFinal_drains (sid row step : Nat) (r : Rec) : MayDrain s (s.putFinal sid row step r) := by
  unfold putFinal
  extract_lets s1
  have h1 : KeepsTables s s1 := ⟨rfl, rfl⟩
  split
  · exact .of_keeps h1
  · exact .after h1 (settleTiles_drains _ _)

@[simp] theorem endMerge_drains (b : Nat) (m : Merge) (r : Rec) : MayDrain s (s.endMerge b m r) := by
  constructor <;> simp +contextual [endMerge]

@[simp] theorem failMerge_drains (b : Nat) (m : Merge) : MayDrain s (s.failMerge b m) := by
  constructor <;> simp +contextual [failMerge]

@[simp] theorem completeMerge_drains (b : Nat) (m : Merge) (r : Rec) (part : Nat) : MayDrain s (s.completeMerge b m r part) := by
  constructor <;> simp +contextual [completeMerge]

@[simp] theorem gathered_drains (b : Nat) (m : Merge) : MayDrain s (s.gathered b m) := by
  unfold gathered
  dsimp only
  repeat' split
  all_goals constructor <;> simp +contextual

@[simp] theorem mergeRead_drains (b : Nat) (m : Merge) (r : MergeReq) (bs : List Byte) : MayDrain s (s.mergeRead b m r bs) := by
  unfold mergeRead
  split <;> constructor <;> simp +contextual

@[simp] theorem mergeDone_tables (b : Nat) (m : Merge) (r : MergeReq) : KeepsTables s (s.mergeDone b m r) := by
  unfold mergeDone
  split <;> constructor <;> simp

@[simp] theorem mergeResponse_drains (b sid row step : Nat) (r : MergeReq) (res : Option (List Byte)) : MayDrain s (s.mergeResponse b sid row step r res) := by
  unfold mergeResponse
  repeat' split
  all_goals constructor <;> simp +contextual

@[simp] theorem startMerge_tables (x : Stream) (c : RowCtx) (k : Nat) (step : Nat) (own : Rec) (total : Nat) : KeepsTables s (s.startMerge x c k step own total) := by
  constructor <;> simp [startMerge]

@[simp] theorem mergeReread_tables (sid row step : Nat) : KeepsTables s (s.mergeReread sid row step) := by
  unfold mergeReread
  dsimp only
  repeat' split
  all_goals constructor <;> simp

@[simp] theorem mwaitExpiry_tables (sid row step : Nat) : KeepsTables s (s.mwaitExpiry sid row step) := by
  unfold mwaitExpiry
  dsimp only
  repeat' split
  all_goals constructor <;> simp

/-! ### Index lists -/

@[simp] theorem windowWait_tables (t : Nat) (b : Block) (goesOn : Bool) : KeepsTables s (s.windowWait t b goesOn) := ⟨rfl, rfl⟩

@[simp] theorem askList_tables (t : Nat) (b : Block) (p : ListPhase) (want : Nat) : KeepsTables s (s.askList t b p want) := ⟨rfl, rfl⟩

@[simp] theorem listFinding_tables (t : Nat) (b : Block) : KeepsTables s (s.listFinding t b) := by
  constructor <;> simp [listFinding]

@[simp] theorem freeWindow_drains (t : Nat) (b : Block) (sent : Bool) : MayDrain s (s.freeWindow t b sent) :=
  MayDrain.after (t := s.modTile t _) ⟨rfl, rfl⟩ (settleTile_drains _ t)

@[simp] theorem noteBadIndex_tables (t : Nat) (b : Block) (x : Nat) : KeepsTables s (s.noteBadIndex t b x) := by
  unfold noteBadIndex
  split <;> constructor <;> simp

@[simp] theorem listRead_drains (t : Nat) (b : Block) (indices : List Byte) : MayDrain s (s.listRead t b indices) := by
  constructor <;> simp +contextual [listRead]

@[simp] theorem listStep_drains (t : Nat) (b : Block) : MayDrain s (s.listStep t b) := by
  unfold listStep
  split <;> constructor <;> simp +contextual

@[simp] theorem listGoOn_drains (t : Nat) (b : Block) : MayDrain s (s.listGoOn t b) := by
  unfold listGoOn
  split <;> constructor <;> simp +contextual

@[simp] theorem listResponse_drains (t sid pass index off : Nat) (res : Option (List Byte)) : MayDrain s (s.listResponse t sid pass index off res) := by
  unfold listResponse
  split <;> constructor <;> simp +contextual

@[simp] theorem listAsk_tables (t sid pass : Nat) : KeepsTables s (s.listAsk t sid pass) := by
  unfold listAsk
  split <;> constructor <;> simp

@[simp] theorem listReread_tables (t sid pass : Nat) : KeepsTables s (s.listReread t sid pass) := by
  unfold listReread
  split <;> constructor <;> simp

@[simp] theorem gatherWait_tables (t sid pass : Nat) : KeepsTables s (s.gatherWait t sid pass) := by
  unfold gatherWait
  split <;> constructor <;> simp

/-! ### The accumulation ports -/

@[simp] theorem portFinding_tables (t code port sid row : Nat) : KeepsTables s (s.portFinding t code port sid row) := by
  constructor <;> simp [portFinding]

@[simp] theorem enqueue_tables (t : Nat) (q : QEntry) : KeepsTables s (s.enqueue t q) := ⟨rfl, rfl⟩

@[simp] theorem takeBeat_tables (t : Nat) (o : OpenPass) (b : AccBeat) (use : Nat) (bad : Bool) : KeepsTables s (s.takeBeat t o b use bad) := by
  constructor <;> simp [takeBeat]

@[simp] theorem judgeBeat_tables (t : Nat) (x : Stream) (c : Chain) (o : OpenPass) (b : AccBeat) (longLen : Bool) : KeepsTables s (s.judgeBeat t x c o b longLen) := by
  constructor <;> simp [judgeBeat]

@[simp] theorem judgeFirst_drains (t : Nat) (x : Stream) (b : AccBeat) : MayDrain s (s.judgeFirst t x b) := by
  unfold judgeFirst
  dsimp only
  repeat' split
  all_goals constructor <;> simp +contextual

@[simp] theorem overrun_drains (t : Nat) (x : Stream) (b : AccBeat) : MayDrain s (s.overrun t x b) := by
  unfold overrun
  extract_lets sid o s1 p z lenp o1
  have h1 : KeepsTables s s1 := by
    subst s1
    split <;> exact ⟨rfl, rfl⟩
  clear_value s1 o1
  split
  · split
    · exact .of_keeps h1
    · split
      · exact .of_keeps (by simp [h1])
      · exact .after h1 (.then (t := s1.openRow x o1.row) (openRow_drains _ _ _) (by simp))
  · split
    · exact .of_keeps (by simp)
    · exact .refl s

@[simp] theorem beginRow_drains (t : Nat) (x : Stream) (q : QEntry) : MayDrain s (s.beginRow t x q) := by
  unfold beginRow
  dsimp only
  repeat' split
  all_goals constructor <;> simp +contextual

@[simp] theorem feed_drains (t : Nat) (q : QEntry) (fs : List HwFault) : MayDrain s (s.feed t q fs) := by
  unfold feed
  split <;> constructor <;> simp +contextual

theorem takeEntry_drains {t : Nat} {q : QEntry} {fs : List HwFault} {s1 : State}
    (h : s.takeEntry t q fs = some s1) : MayDrain s s1 := by
  unfold takeEntry at h
  split at h
  · cases h
    exact .refl s
  split at h
  · split at h
    · split at h
      · cases h
        exact (beginRow_drains _ _ _ _).trans (feed_drains _ _ _ _)
      · cases h
    · cases h
      exact feed_drains _ _ _ _
  · split at h
    · split at h
      · cases h
        exact .of_keeps ⟨rfl, rfl⟩
      · cases h
    · cases h
      exact .refl s

theorem takeHead_drains {t : Nat} {fs : List HwFault} {s1 : State}
    (h : s.takeHead t fs = some s1) : MayDrain s s1 := by
  unfold takeHead at h
  split at h
  · cases h
  · exact MayDrain.after (t := s.booked _) ⟨rfl, rfl⟩ (takeEntry_drains _ h)

@[simp] theorem takeMarks_drains (t n : Nat) : MayDrain s (s.takeMarks t n) := by
  induction n generalizing s with
  | zero => exact .refl s
  | succ n ih =>
    unfold takeMarks
    split
    · split
      · exact .refl s
      · split
        · next h => exact (takeHead_drains s h).trans (ih _)
        · exact .refl s
    · exact .refl s

@[simp] theorem drainMarks_drains (t n : Nat) : MayDrain s (s.drainMarks t n) := by
  constructor <;> simp +contextual [drainMarks]

@[simp] theorem addCorrected_tables (t : Nat) (c : Corrected) : KeepsTables s (s.addCorrected t c) := ⟨rfl, rfl⟩

@[simp] theorem sendBeat_drains (t : Nat) : MayDrain s (s.sendBeat t) := by
  unfold sendBeat
  dsimp only
  repeat' split
  case h_2 => exact MayDrain.after (t := s.setTile t _) ⟨rfl, rfl⟩ (settleTile_drains _ t)
  all_goals exact .refl s

@[simp] theorem sendCrossed_drains (t : Nat) : MayDrain s (s.sendCrossed t) := by
  unfold sendCrossed
  dsimp only
  split
  · exact .refl s
  · exact MayDrain.after (t := s.modBand _ _) ⟨rfl, rfl⟩ (sendBeat_drains _ t)

@[simp] theorem xevFault_tables (t : Nat) (f : XevFault) : KeepsTables s (s.xevFault t f) := by
  constructor <;> simp [xevFault]

@[simp] theorem xevAccept_tables (t : Nat) (r : XevReq) : KeepsTables s (s.xevAccept t r) := by
  unfold xevAccept
  split <;> constructor <;> simp

/-! ### Statistics -/

@[simp] theorem tileCombine_drains (t sid row step : Nat) : MayDrain s (s.tileCombine t sid row step) := by
  unfold tileCombine
  dsimp only
  repeat' split
  all_goals constructor <;> simp +contextual

@[simp] theorem bandReady_drains (x : Stream) (r : RowCtx) (step : Nat) (own : Rec) (total : Nat) (bad : Bool) : MayDrain s (s.bandReady x r step own total bad) := by
  unfold bandReady
  split <;> constructor <;> simp +contextual

@[simp] theorem combineStat_drains (x : Stream) (r : RowCtx) (step : Nat) : MayDrain s (s.combineStat x r step) := by
  unfold combineStat
  dsimp only
  repeat' split
  all_goals constructor <;> simp +contextual

@[simp] theorem combinePsum_tables (x : Stream) (r : RowCtx) (step : Nat) : KeepsTables s (s.combinePsum x r step) := by
  unfold combinePsum
  dsimp only
  repeat' split
  all_goals constructor <;> simp

@[simp] theorem bandCombine_drains (sid row step : Nat) : MayDrain s (s.bandCombine sid row step) := by
  unfold bandCombine
  repeat' split
  all_goals constructor <;> simp +contextual

/-! ### The rings, the audit and the FAB ports -/

@[simp] theorem writeEvent_tables : KeepsTables s s.writeEvent := by
  unfold writeEvent
  repeat' split
  all_goals constructor <;> simp

@[simp] theorem writeMirror_tables : KeepsTables s s.writeMirror := by
  unfold writeMirror
  repeat' split
  all_goals constructor <;> simp

@[simp] theorem audit_tables : KeepsTables s s.audit := by
  rw [audit_eq, (s.auditBooks_audited s.unbalanced s).frame]
  exact ⟨rfl, rfl⟩

@[simp] theorem storeSent_drains (r : FabReq) : MayDrain s (s.storeSent r) := by
  unfold storeSent
  split
  · exact MayDrain.after (t := s.modTile _ _) ⟨rfl, rfl⟩ (settleTile_drains _ _)
  · exact .refl s

@[simp] theorem fabIssue_drains (b tag : Nat) : MayDrain s (s.fabIssue b tag) := by
  unfold fabIssue
  dsimp only
  split
  · exact .refl s
  split
  · exact .refl s
  · exact MayDrain.after (t := s.setBand b _) ⟨rfl, rfl⟩ (storeSent_drains _ _)

@[simp] theorem fabFinding_tables (b code sid row addr op status : Nat) : KeepsTables s (s.fabFinding b code sid row addr op status) := by
  constructor <;> simp [fabFinding]

@[simp] theorem storeDone_drains (t sid row pass : Nat) (ok : Bool) : MayDrain s (s.storeDone t sid row pass ok) :=
  MayDrain.after (t := s.modTile t _) ⟨rfl, rfl⟩ (settleTile_drains _ t)

@[simp] theorem bandDone_drains (b : Nat) (r : FabReq) (ok : Bool) (data : BitVec 1024) : MayDrain s (s.bandDone b r ok data) := by
  unfold bandDone
  split <;> constructor <;> simp +contextual

@[simp] theorem wakeBand_drains (b : Nat) : MayDrain s (s.wakeBand b) := by
  unfold wakeBand
  split
  · extract_lets held s1 s2
    have h1 : KeepsTables s s1 := ⟨rfl, rfl⟩
    have h2 : MayDrain s1 s2 := foldl_drains _ _ _ fun u h => by simp
    exact MayDrain.after h1 (h2.trans (foldl_drains _ _ _ fun u t => by simp))
  · exact .refl s

/-! ### Chains and streams of a command -/

@[simp] theorem repointId_tables (a b id : Nat) : KeepsTables s (s.repointId a b id) := by
  unfold repointId
  split <;> constructor <;> simp

@[simp] theorem installChain_drains (v : Chain) : MayDrain s (s.installChain v) :=
  MayDrain.after (t := s.booked _) ⟨rfl, rfl⟩ (prune_drains _)

@[simp] theorem loadChain_drains (c : Cmd) (img : HostRead) : MayDrain s (s.loadChain c img) := by
  unfold loadChain
  refine withRead_drains _ _ _ _ _ _ fun bs u => ?_
  split
  · constructor <;> simp
  · refine orRefuse_drains _ _ _ (orRefuse_drains _ _ _ (orRefuse_drains _ _ _ (commit_drains _ _ _ _ _ ?_)))
    exact (installChain_drains u _).then (repromise_tables _ _)

@[simp] theorem dropChain_drains (id : Nat) : MayDrain s (s.dropChain id) :=
  MayDrain.after (t := s.booked _) ⟨rfl, rfl⟩ (prune_drains _)

@[simp] theorem retireChain_drains (c : Cmd) : MayDrain s (s.retireChain c) := by
  unfold retireChain
  dsimp only
  split
  · constructor <;> simp
  split
  · constructor <;> simp
  · exact commit_drains _ _ _ _ _ (dropChain_drains _ _)

@[simp] theorem addStream_tables (x : Stream) (atRisk : Bool) : KeepsTables s (s.addStream x atRisk) := ⟨rfl, rfl⟩

@[simp] theorem openStream_tables (c : Cmd) (desc : HostRead) : KeepsTables s (s.openStream c desc) := by
  unfold openStream
  refine withRead_tables _ _ _ _ _ _ _ fun bs u => ?_
  dsimp only
  split
  · constructor <;> simp
  · refine orRefuse_tables _ _ _ _ fun u => ?_
    split
    · exact ⟨rfl, rfl⟩
    · exact orRefuse_tables _ _ _ _ fun u => commit_tables _ _ _ _ _ _ fun u => addStream_tables u _ _

@[simp] theorem closeStream_drains (c : Cmd) : MayDrain s (s.closeStream c) := by
  unfold closeStream
  dsimp only
  split
  · constructor <;> simp
  split
  · constructor <;> simp
  · refine accept_drains _ _ _ _ _ _ fun u => ?_
    exact MayDrain.after (t := u.modStream _ _) ⟨rfl, rfl⟩ ((settleTiles_drains _ _).trans (finishClose_drains _ _))

@[simp] theorem mergeAbandon_drains (c : Cmd) : MayDrain s (s.mergeAbandon c) := by
  unfold mergeAbandon
  dsimp only
  repeat' split
  case h_2.isFalse => exact commit_drains _ _ _ _ _ (failMerge_drains _ _ _)
  all_goals constructor <;> simp

theorem combineArea_tables (b total : Nat) (own : Rec) (parts : List (Nat × Rec)) :
    KeepsTables s (s.combineArea b total own parts).1 := by
  unfold combineArea
  dsimp only
  split
  · split
    · exact ⟨rfl, rfl⟩
    · exact mismatch_tables _ _ _ _ _ _ _
  · exact foldl_tables _ _ _ fun u p => mismatch_tables _ _ _ _ _ _ _

theorem combineRecord_tables (x : Stream) (v : Chain) (k row base : Nat) (area : List HostRead) :
    KeepsTables s (s.combineRecord x v k row base area).1 := by
  unfold combineRecord
  dsimp only
  split
  · exact combineArea_tables _ _ _ _ _
  · exact foldl_tables _ _ _ fun u p => readError_tables _ _ _ _

@[simp] theorem combineInto_tables (x : Stream) (v : Chain) (k row dst base : Nat) (area : List HostRead) :
    KeepsTables s (s.combineInto x v k row dst base area) := by
  unfold combineInto
  extract_lets out
  have h : KeepsTables s out.1 := combineRecord_tables _ _ _ _ _ _ _
  split
  · exact h
  · exact h

@[simp] theorem mergeCombine_tables (c : Cmd) (area : List HostRead) : KeepsTables s (s.mergeCombine c area) := by
  unfold mergeCombine
  dsimp only
  repeat' split
  all_goals constructor <;> simp

/-! ### Commands that read, and the policy -/

@[simp] theorem getInfo_tables (c : Cmd) : KeepsTables s (s.getInfo c) := by
  constructor <;> simp [getInfo]

@[simp] theorem queryStream_tables (c : Cmd) : KeepsTables s (s.queryStream c) := by
  unfold queryStream
  split <;> constructor <;> simp

@[simp] theorem queryProgress_tables (c : Cmd) : KeepsTables s (s.queryProgress c) := by
  unfold queryProgress
  dsimp only
  repeat' split
  all_goals constructor <;> simp

@[simp] theorem readLog_tables (c : Cmd) : KeepsTables s (s.readLog c) := by
  unfold readLog
  repeat' split
  all_goals constructor <;> simp

@[simp] theorem beginSquall_tables (b cause mhz : Nat) : KeepsTables s (s.beginSquall b cause mhz) := by
  constructor <;> simp [beginSquall]

@[simp] theorem endSquall_tables (b mhz : Nat) : KeepsTables s (s.endSquall b mhz) := by
  constructor <;> simp [endSquall]

@[simp] theorem pointSquall_tables (b : Nat) : KeepsTables s (s.pointSquall b) := by
  constructor <;> simp [pointSquall]

@[simp] theorem windowSquall_tables (b mhz : Nat) : KeepsTables s (s.windowSquall b mhz) := by
  constructor <;> simp [windowSquall]

@[simp] theorem setRequest_tables (b p : Nat) : KeepsTables s (s.setRequest b p) := by
  constructor <;> simp [setRequest]

@[simp] theorem putPolicy_tables (item scope v : Nat) : KeepsTables s (s.putPolicy item scope v) := by
  unfold putPolicy
  split <;> constructor <;> simp

@[simp] theorem setPolicy_tables (c : Cmd) : KeepsTables s (s.setPolicy c) := by
  constructor <;> simp [setPolicy]

@[simp] theorem putFloor_tables (b p : Nat) : KeepsTables s (s.putFloor b p) := ⟨rfl, rfl⟩

@[simp] theorem followFloor_tables (b : Nat) : KeepsTables s (s.followFloor b) := by
  constructor <;> simp [followFloor]

@[simp] theorem setFloor_tables (c : Cmd) : KeepsTables s (s.setFloor c) := by
  constructor <;> simp [setFloor]

@[simp] theorem openInterval_tables (stack : BitVec 4) (chan : BitVec 8) (duration : Word) : KeepsTables s (s.openInterval stack chan duration) := by
  unfold openInterval
  split <;> constructor <;> simp

@[simp] theorem noticeBegin_tables (c : Cmd) : KeepsTables s (s.noticeBegin c) := by
  constructor <;> simp [noticeBegin]

@[simp] theorem endInterval_tables (stack : BitVec 4) (chan : BitVec 8) : KeepsTables s (s.endInterval stack chan) := by
  unfold endInterval
  split <;> constructor <;> simp

@[simp] theorem noticeEnd_tables (c : Cmd) : KeepsTables s (s.noticeEnd c) := by
  constructor <;> simp [noticeEnd]

@[simp] theorem intervalOverdue_tables (stack : BitVec 4) (chan : BitVec 8) : KeepsTables s (s.intervalOverdue stack chan) := by
  unfold intervalOverdue
  split <;> constructor <;> simp

/-! ### Commands of the service operations -/

@[simp] theorem acceptSvc_tables (c : Cmd) (a b : Nat) (f : State → State)
    (h : ∀ u, (f u).slots = u.slots ∧ (f u).loads = u.loads) : KeepsTables s (s.acceptSvc c a b f) := by
  constructor <;> simp [acceptSvc, h]

@[simp] theorem tileRetire_tables (c : Cmd) : KeepsTables s (s.tileRetire c) := by
  unfold tileRetire
  dsimp only
  repeat' split
  all_goals constructor <;> simp

@[simp] theorem tileRestore_tables (c : Cmd) : KeepsTables s (s.tileRestore c) := by
  constructor <;> simp [tileRestore]

@[simp] theorem tileWork_tables (c : Cmd) (kind : SvcKind) : KeepsTables s (s.tileWork c kind) := by
  constructor <;> simp [tileWork]

@[simp] theorem calibrate_tables (c : Cmd) : KeepsTables s (s.calibrate c) := by
  constructor <;> simp [calibrate]

@[simp] theorem bankOffInPlace_tables (t k : Nat) : KeepsTables s (s.bankOffInPlace t k) := ⟨rfl, rfl⟩

@[simp] theorem bankOff_tables (c : Cmd) : KeepsTables s (s.bankOff c) := by
  unfold bankOff
  dsimp only
  repeat' split
  all_goals constructor <;> simp

@[simp] theorem bankOn_tables (c : Cmd) : KeepsTables s (s.bankOn c) := by
  constructor <;> simp [bankOn]

@[simp] theorem moveHold_tables (x : Stream) (old new : Nat) : KeepsTables s (s.moveHold x old new) := ⟨rfl, rfl⟩

@[simp] theorem cutStream_tables (x : Stream) (old new : Nat) (force : Bool) : KeepsTables s (s.cutStream x old new force) := by
  constructor <;> simp [cutStream]

@[simp] theorem streamCut_tables (sid : Nat) : KeepsTables s (s.streamCut sid) := by
  unfold streamCut
  dsimp only
  repeat' split
  all_goals constructor <;> simp

@[simp] theorem leaveRows_tables (t sid : Nat) (gone : RowCtx → Bool) : KeepsTables s (s.leaveRows t sid gone) := ⟨rfl, rfl⟩

@[simp] theorem streamLeaves_drains (sid : Nat) : MayDrain s (s.streamLeaves sid) := by
  unfold streamLeaves
  split
  · exact .refl s
  split
  · exact .refl s
  split
  · extract_lets s1 s2 s3
    have h3 : KeepsTables s s3 := leaveRows_tables s2 _ _ _
    exact .after h3 ((((settleTiles_drains _ _).trans (prune_drains _)).trans (finishClose_drains _ _)).then (svcSettle_tables _ _))
  · exact .refl s

@[simp] theorem backToRole_tables (b : Nat) (o : SvcOp) : KeepsTables s (s.backToRole b o) := by
  constructor <;> simp [backToRole]

@[simp] theorem testFailed_tables (b : Nat) (o : SvcOp) (unit index : Nat) : KeepsTables s (s.testFailed b o unit index) := by
  unfold testFailed
  dsimp only
  repeat' split
  all_goals constructor <;> simp

@[simp] theorem failBanks_tables (t : Nat) (banks : BitVec 16) : KeepsTables s (s.failBanks t banks) := ⟨rfl, rfl⟩

@[simp] theorem selftestDone_tables (t : Nat) (pass : Bool) (unit : Nat) (banks : BitVec 16) : KeepsTables s (s.selftestDone t pass unit banks) := by
  unfold selftestDone
  dsimp only
  repeat' split
  all_goals constructor <;> simp

@[simp] theorem setCalibration_tables (t item : Nat) : KeepsTables s (s.setCalibration t item) := ⟨rfl, rfl⟩

@[simp] theorem logCalibration_tables (o : SvcOp) (t item : Nat) : KeepsTables s (s.logCalibration o t item) := by
  constructor <;> simp [logCalibration]

@[simp] theorem bankMarched_tables (b : Nat) (o : SvcOp) (k : Nat) (pass : Bool) : KeepsTables s (s.bankMarched b o k pass) := by
  constructor <;> simp [bankMarched]

@[simp] theorem calibrateDone_tables (t : Nat) (pass : Bool) : KeepsTables s (s.calibrateDone t pass) := by
  unfold calibrateDone
  dsimp only
  repeat' split
  all_goals constructor <;> simp

@[simp] theorem powerOff_tables (t : Nat) : KeepsTables s (s.powerOff t) := by
  constructor <;> simp [powerOff]

@[simp] theorem powered_tables (t : Nat) : KeepsTables s (s.powered t) := by
  constructor <;> simp [powered]

@[simp] theorem holdExpired_tables (t : Nat) : KeepsTables s (s.holdExpired t) := by
  constructor <;> simp [holdExpired]

@[simp] theorem checkDone_tables (t : Nat) (pass : Bool) : KeepsTables s (s.checkDone t pass) := by
  constructor <;> simp [checkDone]

@[simp] theorem reportLoss_tables (t : Nat) : KeepsTables s (s.reportLoss t) := by
  unfold reportLoss
  dsimp only
  split
  · constructor <;> simp
  · refine foldl_tables _ _ _ fun u x => ?_
    split
    · constructor <;> simp
    · exact foldl_tables _ _ _ fun u row => by constructor <;> simp

@[simp] theorem loseRows_tables (t sid : Nat) : KeepsTables s (s.loseRows t sid) := ⟨rfl, rfl⟩

@[simp] theorem powerLost_drains (t : Nat) : MayDrain s (s.powerLost t) := by
  unfold powerLost
  dsimp only
  split
  · exact .refl s
  · refine .then ?_ (svcSettle_tables _ _)
    refine .trans ?_ (drainSlots_drains _)
    refine .trans (.of_keeps ?_) (foldl_drains _ _ _ fun u y => by simp)
    refine ⟨?_, ?_⟩ <;> simp

/-! ### Firmware, hand-over and start -/

@[simp] theorem setStaging_tables (st : Staging) (img : List Byte) : KeepsTables s (s.setStaging st img) := by
  constructor <;> simp [setStaging]

@[simp] theorem fwStage_tables (c : Cmd) : KeepsTables s (s.fwStage c) := by
  constructor <;> simp [fwStage]

@[simp] theorem fwStaged_tables (img : HostRead) (keyArc : BitVec 64) : KeepsTables s (s.fwStaged img keyArc) := by
  unfold fwStaged
  repeat' split
  all_goals constructor <;> simp

@[simp] theorem fwActivate_tables (c : Cmd) : KeepsTables s (s.fwActivate c) := by
  constructor <;> simp [fwActivate]

@[simp] theorem afterReady_drains : MayDrain s s.afterReady := by
  constructor <;> simp +contextual [afterReady]

@[simp] theorem endActivate_tables (origin : Nat) (tag : BitVec 16) (result done oldv : Nat) : KeepsTables s (s.endActivate origin tag result done oldv) := by
  constructor <;> simp [endActivate]

@[simp] theorem endHandover_tables (h : Handover) (result done oldv : Nat) : KeepsTables s (s.endHandover h result done oldv) := by
  constructor <;> simp [endHandover]

@[simp] theorem endMet_tables (ws : List ArcWait) : KeepsTables s (s.endMet ws) := by
  induction ws generalizing s with
  | nil => exact ⟨rfl, rfl⟩
  | cons w rest ih =>
    unfold endMet
    split
    · simp [ih]
    · exact ⟨rfl, rfl⟩

@[simp] theorem askArc_tables : KeepsTables s s.askArc := by
  unfold askArc
  dsimp only
  repeat' split
  all_goals constructor <;> simp

@[simp] theorem awaitArc_tables (h : Handover) (want : Nat) : KeepsTables s (s.awaitArc h want) := by
  constructor <;> simp [awaitArc]

@[simp] theorem settleArc_tables : KeepsTables s s.settleArc := by
  unfold settleArc
  repeat' split
  all_goals constructor <;> simp

@[simp] theorem handoverReady_drains (keyArc : BitVec 64) : MayDrain s (s.handoverReady keyArc) := by
  unfold handoverReady
  split <;> constructor <;> simp +contextual

@[simp] theorem handoverReverts_drains (cause : RevertCause) : MayDrain s (s.handoverReverts cause) := by
  unfold handoverReverts
  split <;> constructor <;> simp +contextual

@[simp] theorem arcDone_tables (keyArc : BitVec 64) : KeepsTables s (s.arcDone keyArc) := by
  unfold arcDone
  split <;> constructor <;> simp

@[simp] theorem startGlomen_tables : KeepsTables s s.startGlomen := by
  constructor <;> simp [startGlomen]

@[simp] theorem imageChecked_tables (img : HostRead) (keyArc : BitVec 64) : KeepsTables s (s.imageChecked img keyArc) := by
  unfold imageChecked
  dsimp only
  repeat' split
  all_goals constructor <;> simp

@[simp] theorem tapsCross_tables (b : Nat) (ticked : Bool) : KeepsTables s (s.tapsCross b ticked) := by
  constructor <;> simp [tapsCross]

@[simp] theorem mapBand_tables (r : PostReport) (b : Nat) : KeepsTables s (s.mapBand r b) := by
  constructor <;> simp [mapBand]

@[simp] theorem installPolicy_tables (item scope v : Nat) : KeepsTables s (s.installPolicy item scope v) := by
  constructor <;> simp [installPolicy]

@[simp] theorem installFloor_tables (b p : Nat) : KeepsTables s (s.installFloor b p) := by
  constructor <;> simp [installFloor]

@[simp] theorem installDecl_tables (d : List Byte) : KeepsTables s (s.installDecl d) := by
  constructor <;> simp [installDecl]

@[simp] theorem startService_tables : KeepsTables s s.startService := by
  constructor <;> simp [startService]

@[simp] theorem settleReady_tables : KeepsTables s s.settleReady := by
  constructor <;> simp [settleReady]

@[simp] theorem selfTested_tables (r : PostReport) : KeepsTables s (s.selfTested r) := by
  constructor <;> simp [selfTested]

@[simp] theorem outAcked_tables (m : Nat) : KeepsTables s (s.outAcked m) := by
  constructor <;> simp [outAcked]

/-! ### Time, clocks and the register window -/

@[simp] theorem passTime_tables (n : Nat) : KeepsTables s (s.passTime n) := ⟨rfl, rfl⟩

@[simp] theorem skipTime_tables (n : Nat) : KeepsTables s (s.skipTime n) := ⟨rfl, rfl⟩

@[simp] theorem takeTime_tables (v : BitVec 64) : KeepsTables s (s.takeTime v) := by
  constructor <;> simp [takeTime]

@[simp] theorem timeOut_tables : KeepsTables s s.timeOut := by
  constructor <;> simp [timeOut]

@[simp] theorem clockHigh_tables (b mhz : Nat) : KeepsTables s (s.clockHigh b mhz) := by
  constructor <;> simp [clockHigh]

@[simp] theorem loseBand_tables (b : Nat) : KeepsTables s (s.loseBand b) := by
  constructor <;> simp [loseBand]

@[simp] theorem regainBand_drains (b : Nat) : MayDrain s (s.regainBand b) := by
  constructor <;> simp +contextual [regainBand]

@[simp] theorem bandWindow_drains (b cclk hclk : Nat) : MayDrain s (s.bandWindow b cclk hclk) := by
  constructor <;> simp +contextual [bandWindow]

@[simp] theorem monitorWindow_drains (cclk hclk : Vector (BitVec 16) 8) : MayDrain s (s.monitorWindow cclk hclk) := by
  constructor <;> simp +contextual [monitorWindow]

@[simp] theorem applyPoint_tables (b p : Nat) : KeepsTables s (s.applyPoint b p) := by
  constructor <;> simp [applyPoint]

@[simp] theorem changeCap_tables (b p : Nat) : KeepsTables s (s.changeCap b p) := by
  constructor <;> simp [changeCap]

@[simp] theorem choosePoint_tables (b u : Nat) : KeepsTables s (s.choosePoint b u) := by
  constructor <;> simp [choosePoint]

@[simp] theorem clockChoice_tables (b : Nat) (us : List Nat) : KeepsTables s (s.clockChoice b us) := by
  constructor <;> simp [clockChoice]

@[simp] theorem logConfig_tables (off old new : Nat) : KeepsTables s (s.logConfig off old new) := by
  constructor <;> simp [logConfig]

@[simp] theorem retireWrites_tables (r : Ring) : KeepsTables s (s.retireWrites r) := ⟨rfl, rfl⟩

@[simp] theorem rearm_tables : KeepsTables s s.rearm := ⟨rfl, rfl⟩

@[simp] theorem resumeHalt_drains : MayDrain s s.resumeHalt := by
  constructor <;> simp +contextual [resumeHalt]

@[simp] theorem trapCtl_drains (v : Word) : MayDrain s (s.trapCtl v) := by
  constructor <;> simp +contextual [trapCtl]

@[simp] theorem snap_tables (v : Word) : KeepsTables s (s.snap v) := by
  constructor <;> simp [snap]

@[simp] theorem snapDone_tables (junction : Word) : KeepsTables s (s.snapDone junction) := by
  constructor <;> simp [snapDone]

@[simp] theorem ring_tables (m : Fin 4) (v : Word) : KeepsTables s (s.ring m v) := by
  constructor <;> simp [ring]

@[simp] theorem mailboxWrite_tables (m : Fin 4) (off : Nat) (v : Word) : KeepsTables s (s.mailboxWrite m off v) := by
  constructor <;> simp [mailboxWrite]

@[simp] theorem ctlRead_tables (off : Nat) : KeepsTables s (s.ctlRead off) := by
  unfold ctlRead
  split <;> constructor <;> simp

/-! ### Tests while the block runs -/

@[simp] theorem scrubCorrected_tables (t : Nat) (staging table stepStore : Bool) : KeepsTables s (s.scrubCorrected t staging table stepStore) := ⟨rfl, rfl⟩

@[simp] theorem drizzleFinding_tables (t code : Nat) (unit index expected observed : Nat) : KeepsTables s (s.drizzleFinding t code unit index expected observed) := by
  constructor <;> simp [drizzleFinding]

@[simp] theorem pathMonitor_tables (t i o : Nat) : KeepsTables s (s.pathMonitor t i o) := by
  constructor <;> simp [pathMonitor]

@[simp] theorem drizzle_tables (t : Nat) (r : DrizzleResult) : KeepsTables s (s.drizzle t r) := by
  unfold drizzle
  split <;> constructor <;> simp

@[simp] theorem entryRewrite_tables (t : Nat) (e : EntryRef) : KeepsTables s (s.entryRewrite t e) := by
  constructor <;> simp [entryRewrite]

@[simp] theorem block_tables (u : TestUnit) : KeepsTables s (s.block u) := by
  cases u <;> exact ⟨rfl, rfl⟩

@[simp] theorem ownWork_tables : KeepsTables s s.ownWork := by
  constructor <;> simp [ownWork]

end State
end Sys2Proof.Machine
end

section
/-! PROOFS. What each command does to the loadable slots, where it does not write them itself. -/

namespace Sys2Proof.Machine
namespace State
variable (s : State)

/-! ### The register window, the ports' responses, start-up and the test port -/

@[simp] theorem setRing_tables (r : Ring) (x : RingRegs) : KeepsTables s (s.setRing r x) := by
  cases r <;> exact ⟨rfl, rfl⟩

@[simp] theorem writeBase_tables (r : Ring) (hi : Bool) (v : Word) : KeepsTables s (s.writeBase r hi v) := by
  constructor <;> simp [writeBase]

@[simp] theorem writeSize_tables (r : Ring) (v : Word) : KeepsTables s (s.writeSize r v) := by
  cases r <;> constructor <;> simp [writeSize]

@[simp] theorem writeHead_tables (r : Ring) (v : Word) : KeepsTables s (s.writeHead r v) := by
  cases r <;> constructor <;> simp [writeHead]

@[simp] theorem lock_tables (v : Word) : KeepsTables s (s.lock v) := by
  constructor <;> simp [lock]

/-- A write of the register window lets tables drain where it resumes a band (R379), and else leaves them. -/
theorem write_drains (off : Nat) (v : Word) : MayDrain s (s.write off v) := by
  unfold write
  split
  · exact .of_keeps (mailboxWrite_tables _ _ _ _)
  · split
    case h_15 => exact trapCtl_drains _ _
    all_goals exact .of_keeps (by simp)

theorem ctlWrite_drains {f : State → State} (h : MayDrain s (f s)) : MayDrain s (s.ctlWrite f) := by
  unfold ctlWrite
  split
  · exact h.then (ctlDone_tables _ _)
  · exact .refl s

@[simp] theorem eventDone_tables (old ok : Bool) : KeepsTables s (s.eventDone old ok) := by
  constructor <;> simp [eventDone]

@[simp] theorem mirrorDone_tables (seq : Word) (old ok : Bool) : KeepsTables s (s.mirrorDone seq old ok) := by
  constructor <;> simp [mirrorDone]

theorem fabDone_drains (b : Nat) (r : FabReq) (ok : Bool) (data : BitVec 1024) : MayDrain s (s.fabDone b r ok data) := by
  unfold fabDone
  split
  · exact .of_keeps (eventDone_tables _ _ _)
  · exact .of_keeps (mirrorDone_tables _ _ _ _)
  all_goals exact bandDone_drains _ _ _ _ _

theorem fabResponse_drains (b tag status : Nat) (data : BitVec 1024) : MayDrain s (s.fabResponse b tag status data) := by
  unfold fabResponse
  dsimp only
  split
  · exact .of_keeps (by simp)
  · split
    · exact .of_keeps (by simp)
    · exact .after (by simp) (fabDone_drains _ _ _ _ _)

@[simp] theorem release_tables (d : Domain) : KeepsTables s (s.release d) := by
  cases d <;> constructor <;> simp [release]

@[simp] theorem stubStart_tables (h : BitVec 384) (valid : Bool) (base : BitVec 52) : KeepsTables s (s.stubStart h valid base) := by
  constructor <;> simp [stubStart]

@[simp] theorem gated_tables (u : TestUnit) {f : State → State} (h : KeepsTables s (f s)) : KeepsTables s (s.gated u f) := by
  unfold gated
  split
  · exact h
  · exact block_tables _ _

@[simp] theorem testAccess_tables (op : TestOp) : KeepsTables s (s.testAccess op) := by
  unfold testAccess
  cases op
  case loadIr | clock => exact ⟨rfl, rfl⟩
  case wrapper u i =>
    have h : KeepsTables s (s.gated u fun s => s.setWrapper u i) := gated_tables _ _ ⟨rfl, rfl⟩
    dsimp only
    split
    · split
      · exact h
      · exact ⟨rfl, rfl⟩
    · exact ⟨rfl, rfl⟩
  case readInstrument =>
    dsimp only
    split <;> exact ⟨rfl, rfl⟩
  all_goals
    dsimp only
    split
    · exact gated_tables _ _ ⟨rfl, rfl⟩
    · exact ⟨rfl, rfl⟩

end State

/-- `MayDrain` as a notion of its own, which unification compares by its two states. -/
def OnlyDrains (s t : State) : Prop := MayDrain s t

theorem MayDrain.only {s t : State} (h : MayDrain s t) : OnlyDrains s t := h

theorem KeepsTables.only {s t : State} (h : KeepsTables s t) : OnlyDrains s t := MayDrain.of_keeps h

/-- A command of a mailbox is refused, or does what its meaning does. -/
theorem runCmd_onlyDrains (s : State) (m op : Nat) (pick : Cmd → Bool) {f : Cmd → State → State}
    (h : ∀ c, OnlyDrains s (f c s)) : MayDrain s (s.runCmd m op pick f) := State.runCmd_drains s m op pick h

/-- The commands that write the loadable slots themselves. -/
def Instr.writesTables : Instr → Bool
  | .porN _ | .loadTable .. | .tableWriteDone _ | .retireTable _ => true
  | _ => false

theorem MayDrain.ite {s t : State} (c : Prop) [Decidable c] (h : MayDrain s t) : MayDrain s (if c then t else s) := by
  split
  · exact h
  · exact .refl s

theorem accBeat_drains (t : Fin 88) (b : AccBeat) (s u : State) (h : exec (.accBeat t b) s = .next u) : MayDrain s u := by
  obtain rfl := Host.Outcome.next.inj h
  refine .ite _ ?_
  dsimp only
  split
  · split
    · exact .after (by simp) ((State.overrun_drains _ _ _ _).trans (State.drainMarks_drains _ _ _))
    · exact .of_keeps (by simp)
  · split
    · exact .of_keeps (by simp)
    · exact (State.judgeFirst_drains _ _ _ _).trans (State.drainMarks_drains _ _ _)

theorem accBeatDequeue_drains (t : Fin 88) (fs : List HwFault) (c : Corrected) (s u : State)
    (h : exec (.accBeatDequeue t fs c) s = .next u) : MayDrain s u := by
  obtain rfl := Host.Outcome.next.inj h
  refine .ite _ ?_
  dsimp only
  split
  · next v hv =>
    exact (State.drainMarks_drains _ _ _).trans ((State.takeHead_drains _ hv).trans
      (.after (State.addCorrected_tables _ _ _) (State.drainMarks_drains _ _ _)))
  · exact State.drainMarks_drains _ _ _

theorem xevResponse_drains (t : Fin 88) (s u : State) (h : exec (.xevResponse t) s = .next u) : MayDrain s u := by
  obtain rfl := Host.Outcome.next.inj h
  refine .ite _ ?_
  split
  · exact .refl s
  · exact .after (t := s.booked _) ⟨rfl, rfl⟩ (State.drainSlots_drains _)

/-- Every other command leaves the loads alone and does no more to the slots than free them of drained tables. -/
theorem exec_drains (c : Instr) (s t : State) (h : exec c s = .next t) (hc : Instr.writesTables c = false) : MayDrain s t := by
  cases c
  case porN | loadTable | tableWriteDone | retireTable => cases hc
  case accBeat => exact accBeat_drains _ _ _ _ h
  case accBeatDequeue => exact accBeatDequeue_drains _ _ _ _ _ h
  case xevResponse => exact xevResponse_drains _ _ _ h
  all_goals obtain rfl := Host.Outcome.next.inj h
  case commandMalformed m =>
    refine .of_keeps ?_
    split <;> simp
  case loadChain => exact runCmd_onlyDrains _ _ _ _ fun c => (State.loadChain_drains _ c _).only
  case retireChain => exact runCmd_onlyDrains _ _ _ _ fun c => (State.retireChain_drains _ c).only
  case closeStream => exact runCmd_onlyDrains _ _ _ _ fun c => (State.closeStream_drains _ c).only
  case mergeAbandon => exact runCmd_onlyDrains _ _ _ _ fun c => (State.mergeAbandon_drains _ c).only
  case getInfo => exact runCmd_onlyDrains _ _ _ _ fun c => (KeepsTables.only (State.getInfo_tables _ c))
  case openStream => exact runCmd_onlyDrains _ _ _ _ fun c => (KeepsTables.only (State.openStream_tables _ c _))
  case queryStream => exact runCmd_onlyDrains _ _ _ _ fun c => (KeepsTables.only (State.queryStream_tables _ c))
  case queryProgress => exact runCmd_onlyDrains _ _ _ _ fun c => (KeepsTables.only (State.queryProgress_tables _ c))
  case selftest => exact runCmd_onlyDrains _ _ _ _ fun c => (KeepsTables.only (State.tileWork_tables _ c _))
  case calibrate => exact runCmd_onlyDrains _ _ _ _ fun c => (KeepsTables.only (State.calibrate_tables _ c))
  case bankOff => exact runCmd_onlyDrains _ _ _ _ fun c => (KeepsTables.only (State.bankOff_tables _ c))
  case bankOn => exact runCmd_onlyDrains _ _ _ _ fun c => (KeepsTables.only (State.bankOn_tables _ c))
  case tileRetire => exact runCmd_onlyDrains _ _ _ _ fun c => (KeepsTables.only (State.tileRetire_tables _ c))
  case tileRestore => exact runCmd_onlyDrains _ _ _ _ fun c => (KeepsTables.only (State.tileRestore_tables _ c))
  case fwStage => exact runCmd_onlyDrains _ _ _ _ fun c => (KeepsTables.only (State.fwStage_tables _ c))
  case fwActivate => exact runCmd_onlyDrains _ _ _ _ fun c => (KeepsTables.only (State.fwActivate_tables _ c))
  case setPolicy => exact runCmd_onlyDrains _ _ _ _ fun c => (KeepsTables.only (State.setPolicy_tables _ c))
  case setFloorClock => exact runCmd_onlyDrains _ _ _ _ fun c => (KeepsTables.only (State.setFloor_tables _ c))
  case readLog => exact runCmd_onlyDrains _ _ _ _ fun c => (KeepsTables.only (State.readLog_tables _ c))
  case surroundingsNoticeBegin => exact runCmd_onlyDrains _ _ _ _ fun c => (KeepsTables.only (State.noticeBegin_tables _ c))
  case surroundingsNoticeEnd => exact runCmd_onlyDrains _ _ _ _ fun c => (KeepsTables.only (State.noticeEnd_tables _ c))
  case mergeCombine => exact runCmd_onlyDrains _ _ _ _ fun c => (KeepsTables.only (State.mergeCombine_tables _ c _))
  case registerWrite => exact State.ctlWrite_drains _ (State.write_drains _ _ _)
  case nanTrapResume => exact State.ctlWrite_drains _ (State.resumeHalt_drains _)
  case outAck | ringBaseWrite | ringSizeWrite | ringHeadWrite | cfgLockWrite | nanTrapRearm | telSnap =>
    exact .of_keeps (State.ctlWrite_tables _ fun u => by simp)
  case statisticApplyStart => exact .ite _ (State.applyStart_drains _ _ _ _ _)
  case tileRecordCombine => exact .ite _ (State.tileCombine_drains _ _ _ _ _)
  case bandRecordCombine => exact .ite _ (State.bandCombine_drains _ _ _ _)
  case fabRequest => exact .ite _ (State.fabIssue_drains _ _ _)
  case fabResponse => exact .ite _ (State.fabResponse_drains _ _ _ _ _)
  case streamLeavesOldTile => exact .ite _ (State.streamLeaves_drains _ _)
  case tilePowerLost => exact .ite _ (State.powerLost_drains _ _)
  case clockMonitorWindow => exact .ite _ (State.monitorWindow_drains _ _ _)
  case handoverReady => exact .ite _ (.after (by split <;> simp) (State.handoverReady_drains _ _))
  case handoverTimeout => exact .ite _ (.after (by split <;> simp) (State.handoverReverts_drains _ _))
  case opdBeat t =>
    split
    · exact State.sendBeat_drains _ _
    · exact .ite _ (State.sendCrossed_drains _ _)
  case mergeReread | mwaitExpiry | eventRecordWrite | logMirrorWrite | domainResetRelease | romStubStart | powerOnSelfTestDone
      | testAccess =>
    exact .of_keeps (by simp)
  case trstN => exact .of_keeps ⟨rfl, rfl⟩
  all_goals exact .ite _ (.of_keeps (by simp))

end Sys2Proof.Machine
end

section
/-! PROOFS. The loadable slots by their number, the slots of one table, and the steps of LOAD_TABLE. -/

namespace Sys2Proof.Machine
open Sys2Proof.Safety

/-! ### Slots by their number -/

@[simp] theorem mem_slotRange {j first n : Nat} : j ∈ slotRange first n ↔ first ≤ j ∧ j < first + n := by
  simp only [slotRange, List.mem_map, List.mem_range]
  exact ⟨fun ⟨k, hk, he⟩ => by omega, fun h => ⟨j - first, by omega, by omega⟩⟩

namespace State
variable (s : State)

theorem slot_val (i : Fin 4) : s.slot i.val = s.slots.get i := by
  have hdrop : s.slots.toList.drop i.val = s.slots.get i :: s.slots.toList.drop (i.val + 1) := by
    rw [List.drop_eq_getElem_cons (by simp)]
    simp [Vector.get_eq_getElem]
  rw [slot, hdrop, List.headD_cons]

theorem slot_of_lt {k : Nat} (hk : k < 4) : s.slot k = s.slots.get ⟨k, hk⟩ := s.slot_val ⟨k, hk⟩

/-- There is no slot past the fourth. -/
theorem slot_of_ge {k : Nat} (hk : 4 ≤ k) : s.slot k = freed k := by
  rw [slot, List.drop_eq_nil_of_le (by simpa using hk)]
  rfl

theorem lt_of_slot_state {k : Nat} (h : (s.slot k).state ≠ .free) : k < 4 := by
  by_contra hk
  exact h (by rw [slot_of_ge s (by omega)]; rfl)

theorem slot_congr {t : State} (h : t.slots = s.slots) (k : Nat) : t.slot k = s.slot k := by rw [slot, h]; rfl

@[simp] theorem setSlots_loads (is : List Nat) (x : Slot) : (s.setSlots is x).loads = s.loads := rfl

theorem setSlots_get (is : List Nat) (x : Slot) (i : Fin 4) :
    (s.setSlots is x).slots.get i = if i.val ∈ is then x else s.slots.get i := by
  simp [setSlots, Vector.get_eq_getElem]

theorem setSlots_slot (is : List Nat) (x : Slot) {k : Nat} (hk : k ∉ is) : (s.setSlots is x).slot k = s.slot k := by
  by_cases h4 : k < 4
  · rw [slot_of_lt _ h4, slot_of_lt _ h4, setSlots_get, if_neg hk]
  · rw [slot_of_ge _ (by omega), slot_of_ge _ (by omega)]

theorem drains_get {x y : Vector Slot 4} {gone : Nat → Bool}
    (h : y = x.mapIdx (fun i z => if z.state == .draining && gone z.first then freed i else z)) (i : Fin 4) :
    y.get i = if ((x.get i).state == .draining && gone (x.get i).first) = true then freed i.val else x.get i := by
  subst h
  simp [Vector.get_eq_getElem]

theorem slot_drains {t : State} (h : Drains s.slots t.slots) {k : Nat} (hk : (s.slot k).state ≠ .draining) :
    t.slot k = s.slot k := by
  obtain ⟨gone, hg⟩ := h
  by_cases h4 : k < 4
  · rw [slot_of_lt _ h4] at hk ⊢
    rw [slot_of_lt _ h4, drains_get hg, if_neg (by simp [hk])]
  · rw [slot_of_ge _ (by omega), slot_of_ge _ (by omega)]

theorem loadedAt_some {k : Nat} {x : Table} : s.loadedAt k = some x ↔ s.slot k = { state := .loaded, first := k, table := some x } := by
  unfold loadedAt
  dsimp only
  obtain ⟨st, f, tb⟩ := s.slot k
  cases st <;> by_cases hf : f = k <;> simp [hf]

end State

/-! ### The slots of a table stand alike -/

/-- The clause of `SlotsLegal` about the slots themselves. -/
def Alike (v : Vector Slot 4) : Prop :=
  ∀ i : Fin 4, (v.get i).state ≠ .free → ∃ x, (v.get i).table = some x ∧
    i.val ∈ slotRange (v.get i).first x.nslots ∧ (v.get i).first + x.nslots ≤ 4 ∧
    ∀ j : Fin 4, j.val ∈ slotRange (v.get i).first x.nslots → v.get j = v.get i

/-- The clause of `SlotsLegal` about one load. -/
def State.LoadLegal (s : State) (l : TableLoad) : Prop :=
  (s.slot l.first).state = .loading ∧ (s.slot l.first).first = l.first ∧
    ∀ r x, l.replaces = some r → (s.slot l.first).table = some x → r ∉ slotRange l.first x.nslots

theorem slotsLegal_iff (s : State) :
    SlotsLegal s ↔ Alike s.slots ∧ (∀ l ∈ s.loads, s.LoadLegal l) ∧ (s.loads.map (fun l => l.first)).Nodup := Iff.rfl

/-- A load stays legal where its slot stays as it is. -/
theorem State.LoadLegal.congr {s t : State} {l : TableLoad} (h : s.LoadLegal l) (ht : t.slot l.first = s.slot l.first) :
    t.LoadLegal l := by
  unfold State.LoadLegal
  rw [ht]
  exact h

/-- A table leaves all its slots together, since they stand alike. -/
theorem Alike.drains {v w : Vector Slot 4} (h : Alike v) (hd : Drains v w) : Alike w := by
  obtain ⟨gone, hg⟩ := hd
  intro i hi
  have hget := State.drains_get hg
  by_cases hc : ((v.get i).state == .draining && gone (v.get i).first) = true
  · rw [hget, if_pos hc] at hi
    exact absurd rfl hi
  have hwi : w.get i = v.get i := by rw [hget, if_neg hc]
  rw [hwi] at hi ⊢
  obtain ⟨x, hx, hmem, hfit, hall⟩ := h i hi
  refine ⟨x, hx, hmem, hfit, fun j hj => ?_⟩
  rw [hget, hall j hj, if_neg hc]

/-- Slots that are set together for a table stand alike, where no other table had one of them. -/
theorem Alike.set {s : State} (h : Alike s.slots) {st : SlotState} {first : Nat} {x : Table} (hfit : first + x.nslots ≤ 4)
    (hown : ∀ i j : Fin 4, j.val ∈ slotRange first x.nslots → i.val ∉ slotRange first x.nslots → (s.slots.get i).state ≠ .free →
      s.slots.get j ≠ s.slots.get i) :
    Alike (s.setSlots (slotRange first x.nslots) { state := st, first := first, table := some x }).slots := by
  intro i hi
  rw [State.setSlots_get] at hi ⊢
  by_cases hr : i.val ∈ slotRange first x.nslots
  · rw [if_pos hr]
    exact ⟨x, rfl, hr, hfit, fun j hj => by rw [State.setSlots_get, if_pos hj]⟩
  · rw [if_neg hr] at hi ⊢
    obtain ⟨y, hy, hmem, hyfit, hall⟩ := h i hi
    refine ⟨y, hy, hmem, hyfit, fun j hj => ?_⟩
    have hjr : j.val ∉ slotRange first x.nslots := fun hjr => hown i j hjr hr hi (hall j hj)
    rw [State.setSlots_get, if_neg hjr, hall j hj]

section
variable {s t : State}

theorem slotsLegal_of_keeps (h : SlotsLegal s) (hk : KeepsTables s t) : SlotsLegal t := by
  obtain ⟨halike, hloads, hone⟩ := (slotsLegal_iff s).1 h
  rw [slotsLegal_iff, hk.1, hk.2]
  exact ⟨halike, fun l hl => (hloads l hl).congr (s.slot_congr hk.1 _), hone⟩

theorem slotsLegal_of_drains (h : SlotsLegal s) (hd : MayDrain s t) : SlotsLegal t := by
  obtain ⟨halike, hloads, hone⟩ := (slotsLegal_iff s).1 h
  have hdr : Drains s.slots t.slots := hd.2 _ (.refl _)
  rw [slotsLegal_iff, hd.1]
  refine ⟨halike.drains hdr, fun l hl => (hloads l hl).congr (s.slot_drains hdr ?_), hone⟩
  rw [(hloads l hl).1]
  decide

/-- The slots of a table in its first slot are those from there on, and they stand alike. -/
theorem slots_of_table (h : SlotsLegal s) {k : Nat} {st : SlotState} {x : Table} (hst : st ≠ .free)
    (hk : s.slot k = { state := st, first := k, table := some x }) :
    k ∈ slotRange k x.nslots ∧ k + x.nslots ≤ 4 ∧ ∀ j : Fin 4, j.val ∈ slotRange k x.nslots → s.slots.get j = s.slot k := by
  have h4 : k < 4 := s.lt_of_slot_state (by rw [hk]; exact hst)
  have hget : s.slots.get ⟨k, h4⟩ = { state := st, first := k, table := some x } := (s.slot_of_lt h4).symm.trans hk
  obtain ⟨y, hy, hmem, hfit, hall⟩ := h.1 ⟨k, h4⟩ (by rw [hget]; exact hst)
  rw [hget] at hy hmem hfit hall
  obtain rfl : x = y := Option.some.inj hy
  exact ⟨hmem, hfit, fun j hj => (hall j hj).trans hk.symm⟩

/-- No other table has one of its slots. -/
theorem slots_own (h : SlotsLegal s) {k : Nat} {st : SlotState} {x : Table} (hst : st ≠ .free)
    (hk : s.slot k = { state := st, first := k, table := some x }) (i j : Fin 4) (hj : j.val ∈ slotRange k x.nslots)
    (hi : i.val ∉ slotRange k x.nslots) (hstate : (s.slots.get i).state ≠ .free) : s.slots.get j ≠ s.slots.get i := by
  intro he
  obtain ⟨y, hy, hmem, -, -⟩ := h.1 i hstate
  rw [← he, (slots_of_table h hst hk).2.2 j hj, hk] at hy hmem
  obtain rfl : x = y := Option.some.inj hy
  exact hi hmem

/-- The slots of a table take a new state together. -/
theorem alike_setSlots (h : SlotsLegal s) {k : Nat} {st st' : SlotState} {x : Table} (hst : st ≠ .free)
    (hk : s.slot k = { state := st, first := k, table := some x }) :
    Alike (s.setSlots (slotRange k x.nslots) { state := st', first := k, table := some x }).slots :=
  Alike.set h.1 (slots_of_table h hst hk).2.1 (slots_own h hst hk)

/-- A load whose first slot is none of a table's: either the table is not LOADING, or it is another load's. -/
theorem load_apart (h : SlotsLegal s) {k : Nat} {st : SlotState} {x : Table} (hst : st ≠ .free)
    (hk : s.slot k = { state := st, first := k, table := some x }) {l : TableLoad} (hl : l ∈ s.loads)
    (hne : st ≠ .loading ∨ l.first ≠ k) : l.first ∉ slotRange k x.nslots := by
  intro hmem
  obtain ⟨hload, hfirst, -⟩ := h.2.1 l hl
  have h4 : l.first < 4 := s.lt_of_slot_state (by rw [hload]; decide)
  have he : s.slot l.first = s.slot k := (s.slot_of_lt h4).trans ((slots_of_table h hst hk).2.2 ⟨l.first, h4⟩ hmem)
  rw [he, hk] at hload hfirst
  exact hne.elim (fun hn => hn hload) (fun hn => hn hfirst.symm)

end

/-! ### LOAD_TABLE -/

theorem padTake_take {bs : List Byte} {k n : Nat} (h : n ≤ k) : padTake (bs.take k) n = padTake bs n := by
  unfold padTake
  rw [List.take_take, min_eq_left h, List.length_take]
  congr 2
  omega

/-- The table that passes the header check has the BITS of the header, 7 to 9. -/
theorem parseHeader_bits {h : List Byte} {x : Table} (hx : parseHeader h = some x) :
    x.bits = leAt h 9 1 ∧ 7 ≤ x.bits ∧ x.bits ≤ 9 := by
  unfold parseHeader at hx
  dsimp only at hx
  split at hx
  · cases hx
  · next hok =>
    simp only [Bool.not_eq_true, Bool.not_eq_false', Bool.and_eq_true, decide_eq_true_eq] at hok
    obtain rfl := Option.some.inj hx
    have hbits : 7 ≤ leAt h 9 1 ∧ leAt h 9 1 ≤ 9 := by omega
    exact ⟨rfl, hbits⟩

/-- The checks behind the header add the entries' narrow arrays, and change no BITS. -/
theorem tableChecks_bits {t x : Table} {n : Nat} {img : List Byte} (h : tableChecks t n img = .ok x) : x.bits = t.bits := by
  unfold tableChecks at h
  iterate 6
    split at h
    · cases h
  split at h
  · cases hn : narrowArrays t [(.fm8, 3), (.ln8, 4), (.ln4, 5)] <;> rw [hn] at h <;> cases h
    rfl
  · cases h
    rfl

/-- A table that passes its checks has the BITS of the image's header, which holds its 64 bytes. -/
theorem checkImage_bits {n : Nat} {img : List Byte} {x : Table} (h : checkImage n img = .ok x) :
    64 ≤ n ∧ x.bits = leAt (padTake img 64) 9 1 ∧ 7 ≤ x.bits ∧ x.bits ≤ 9 := by
  unfold checkImage at h
  split at h
  · cases h
  next hn =>
  split at h
  · cases h
  · next y hy =>
    have hx : x.bits = y.bits := (tableChecks_bits h :)
    rw [hx]
    exact ⟨by omega, parseHeader_bits hy⟩

/-- An image that passes steps 2 to 4 of R151 has passed its checks and found its slots FREE; it replaces no table there. -/
theorem tableStep_checks {s : State} {len first : Nat} {repl : Option Nat} {img : List Byte} {x : Table}
    (h : s.tableStep len first repl img = .ok x) :
    let b := leAt (padTake (img.take len) 64) 9 1
    let n := if 7 ≤ b && b ≤ 9 then 2 ^ (b - 7) else 1
    checkImage len img = .ok x ∧ first + n ≤ 4 ∧ (∀ j ∈ slotRange first n, (s.slot j).state = .free) ∧
      ∀ r, repl = some r → r ∉ slotRange first n := by
  unfold State.tableStep at h
  extract_lets b n at h ⊢
  clear_value n
  split at h
  · cases h
  next hfit =>
  split at h
  · cases h
  next hfree =>
  simp only [Bool.or_eq_true, bne_iff_ne, decide_eq_true_eq, not_or, not_lt] at hfit
  simp only [Bool.not_eq_true', Bool.not_eq_false, List.all_eq_true, beq_iff_eq] at hfree
  have hslots : first + n ≤ 4 ∧ ∀ j ∈ slotRange first n, (s.slot j).state = .free := ⟨hfit.2, hfree⟩
  cases repl with
  | none =>
    rw [if_neg Bool.false_ne_true] at h
    split at h
    · cases h
    · cases h
    · next y hy =>
      obtain rfl := Except.ok.inj h
      exact ⟨hy, hslots.1, hslots.2, fun r hr => by cases hr⟩
  | some r =>
    dsimp only at h
    split at h
    · cases h
    next hrepl =>
    split at h
    · cases h
    · cases h
    · next y hy =>
      split at h
      · cases h
      · obtain rfl := Except.ok.inj h
        refine ⟨hy, hslots.1, hslots.2, fun k hk hmem => hrepl ?_⟩
        obtain rfl := Option.some.inj hk
        simp [hmem]

/-- The same, of the slots that the table takes. -/
theorem tableStep_ok {s : State} {len first : Nat} {repl : Option Nat} {img : List Byte} {x : Table}
    (h : s.tableStep len first repl img = .ok x) :
    first + x.nslots ≤ 4 ∧ (∀ j ∈ slotRange first x.nslots, (s.slot j).state = .free) ∧
      ∀ r, repl = some r → r ∉ slotRange first x.nslots := by
  obtain ⟨hpass, hslots⟩ := tableStep_checks h
  obtain ⟨hlen, hbits, h7, h9⟩ := checkImage_bits hpass
  rwa [padTake_take hlen, ← hbits, if_pos (by simp [h7, h9])] at hslots

theorem nslots_pos (x : Table) : 1 ≤ x.nslots := Nat.one_le_two_pow

/-- A load that begins in FREE slots and replaces no table there leaves the slots legal. -/
theorem slotsLegal_load {s : State} (h : SlotsLegal s) {x : Table} {l : TableLoad}
    (hfit : l.first + x.nslots ≤ 4) (hfree : ∀ j ∈ slotRange l.first x.nslots, (s.slot j).state = .free)
    (hrepl : ∀ r, l.replaces = some r → r ∉ slotRange l.first x.nslots) :
    SlotsLegal { s.setSlots (slotRange l.first x.nslots) { state := .loading, first := l.first, table := some x } with
      loads := s.loads ++ [l] } := by
  obtain ⟨halike, hloads, hone⟩ := (slotsLegal_iff s).1 h
  have hfirst : l.first ∈ slotRange l.first x.nslots := by
    have := nslots_pos x
    rw [mem_slotRange]
    omega
  have hapart : ∀ k ∈ s.loads, k.first ∉ slotRange l.first x.nslots := fun k hk hmem => by
    have := (hloads k hk).1
    rw [hfree _ hmem] at this
    cases this
  refine (slotsLegal_iff _).2 ⟨Alike.set halike hfit fun i j hj hi hstate he => hstate ?_, fun k hk => ?_, ?_⟩
  · rw [← he, ← s.slot_val, hfree _ hj]
  · rcases List.mem_append.1 hk with hk | hk
    · exact (hloads k hk).congr (s.setSlots_slot _ _ (hapart k hk))
    · obtain rfl := List.mem_singleton.1 hk
      have hslot : (s.setSlots (slotRange k.first x.nslots) { state := .loading, first := k.first, table := some x }).slot k.first =
          { state := .loading, first := k.first, table := some x } := by
        have h4 : k.first < 4 := by
          rw [mem_slotRange] at hfirst
          omega
        rw [State.slot_of_lt _ h4, State.setSlots_get, if_pos hfirst]
      refine (show State.LoadLegal (s.setSlots _ _) k from ?_)
      unfold State.LoadLegal
      rw [hslot]
      refine ⟨rfl, rfl, fun r y hr hy => ?_⟩
      obtain rfl := Option.some.inj hy
      exact hrepl r hr
  · simp only [List.map_append, List.map_cons, List.map_nil, List.nodup_append, List.nodup_singleton, List.mem_singleton]
    refine ⟨hone, trivial, fun a ha b hb => ?_⟩
    obtain ⟨k, hk, rfl⟩ := List.mem_map.1 ha
    rintro rfl
    exact hapart k hk (hb ▸ hfirst)
end Sys2Proof.Machine
end

section
/-! PROOFS. Every step keeps the slots of the function tables legal. -/

namespace Sys2Proof.Machine
open Sys2Proof.Safety

/-- The slots of a table that is not LOADING take another state together. -/
theorem slotsLegal_move {s : State} (h : SlotsLegal s) {k : Nat} {st st' : SlotState} {x : Table} (hst : st ≠ .free)
    (hload : st ≠ .loading) (hk : s.slot k = { state := st, first := k, table := some x }) :
    SlotsLegal (s.setSlots (slotRange k x.nslots) { state := st', first := k, table := some x }) :=
  (slotsLegal_iff _).2 ⟨alike_setSlots h hst hk,
    fun l hl => ((slotsLegal_iff s).1 h).2.1 l hl |>.congr (s.setSlots_slot _ _ (load_apart h hst hk hl (.inl hload))), h.2.2⟩

/-! ### RETIRE_TABLE -/

theorem retireTable_legal {s : State} (c : Cmd) (h : SlotsLegal s) : SlotsLegal (s.retireTable c) := by
  unfold State.retireTable
  dsimp only
  split
  · exact slotsLegal_of_keeps h (by simp)
  next x hx =>
  split
  · exact slotsLegal_of_keeps h (by simp)
  · by_cases hroom : s.logRoom false = true
    · rw [State.commit_room _ _ _ _ _ _ hroom]
      exact slotsLegal_of_keeps (slotsLegal_of_drains (slotsLegal_move (st' := .draining) h (by decide) (by decide) (s.loadedAt_some.1 hx))
        (State.drainSlots_drains _)) (by simp)
    · rw [State.commit_full _ _ _ _ _ _ (by simpa using hroom)]
      exact slotsLegal_of_keeps h (by simp)

/-! ### TABLE_WRITE_DONE -/

/-- The load of a table is over: its slots are LOADED, and the others stand. -/
def State.loadOver (s : State) (first : Nat) (x : Table) : State :=
  ({ s with loads := s.loads.filter (fun l => l.first != first) } : State).setSlots (slotRange first x.nslots)
    { state := .loaded, first := first, table := some x }

theorem loadOver_legal {s : State} (h : SlotsLegal s) {k : Nat} {x : Table}
    (hk : s.slot k = { state := .loading, first := k, table := some x }) : SlotsLegal (s.loadOver k x) := by
  refine (slotsLegal_iff _).2 ⟨alike_setSlots (st := .loading) h (by decide) hk, fun l hl => ?_, ?_⟩
  · obtain ⟨hmem, hne⟩ := List.mem_filter.1 hl
    have hapart := load_apart h (by decide) hk hmem (.inr (by simpa using hne))
    exact (((slotsLegal_iff s).1 h).2.1 l hmem).congr (s.setSlots_slot _ _ hapart)
  · exact h.2.2.sublist (List.filter_sublist.map _)

@[simp] theorem State.loadOver_loads (s : State) (k : Nat) (x : Table) :
    (s.loadOver k x).loads = s.loads.filter (fun l => l.first != k) := rfl

/-- Outside the table's slots `loadOver` changes none. -/
theorem State.loadOver_slot (s : State) {k j : Nat} {x : Table} (hj : j ∉ slotRange k x.nslots) :
    (s.loadOver k x).slot j = s.slot j := State.setSlots_slot _ _ _ hj

theorem State.loadOver_loadedAt (s : State) {k j : Nat} {x : Table} (hj : j ∉ slotRange k x.nslots) :
    (s.loadOver k x).loadedAt j = s.loadedAt j := by
  unfold State.loadedAt
  rw [s.loadOver_slot hj]

/-- The chains that name slot `a` are re-pointed to slot `b`, each id in its turn. -/
def State.repointChains (s : State) (a b : Nat) : State := (s.chains.map (fun c => c.1)).foldl (fun s id => s.repointId a b id) s

@[simp] theorem State.repointChains_tables (s : State) (a b : Nat) : KeepsTables s (s.repointChains a b) :=
  State.foldl_tables s _ _ fun u id => State.repointId_tables u a b id

/-- Among legal slots the re-point of a LOADED table drains its slots. -/
theorem repointAll_slots {s : State} (h : SlotsLegal s) {a b : Nat} {x : Table} (ha : s.loadedAt a = some x) :
    s.repointAll a b = State.prune ((s.repointChains a b).setSlots (slotRange a x.nslots) { state := .draining, first := a, table := some x }) := by
  have hslot := s.loadedAt_some.1 ha
  have hkeeps := s.repointChains_tables a b
  unfold State.repointAll
  extract_lets u n
  have hu : u = s.repointChains a b := rfl
  have hn : n = x.nslots := by
    have : u.slot a = { state := .loaded, first := a, table := some x } := (s.slot_congr hkeeps.1 a).trans hslot
    simp [n, this]
  rw [hu, hn]
  congr 1
  unfold State.setSlots
  congr 1
  refine Vector.ext fun i hi => ?_
  simp only [Vector.getElem_mapIdx]
  split
  · next hmem =>
    have := (slots_of_table h (by decide) hslot).2.2 ⟨i, hi⟩ (by simpa using hmem)
    rw [hslot, ← hkeeps.1, Vector.get_eq_getElem] at this
    rw [show (s.repointChains a b).slots[i] = _ from this]
  · rfl

theorem repointAll_legal {s : State} (h : SlotsLegal s) {a b : Nat} {x : Table} (ha : s.loadedAt a = some x) :
    SlotsLegal (s.repointAll a b) := by
  rw [repointAll_slots h ha]
  have hkeeps := s.repointChains_tables a b
  refine slotsLegal_of_drains ?_ (State.prune_drains _)
  exact slotsLegal_move (slotsLegal_of_keeps h hkeeps) (by decide) (by decide)
    ((s.slot_congr hkeeps.1 a).trans (s.loadedAt_some.1 ha))

/-- The end of a load: its slots are LOADED, and the table that it replaces is re-pointed. -/
def State.loadReplaced (s : State) (l : TableLoad) (first : Nat) (x : Table) : State :=
  match l.replaces with
  | some r => if ((s.loadOver first x).loadedAt r).isSome then (s.loadOver first x).repointAll r first else s.loadOver first x
  | none => s.loadOver first x

theorem loadReplaced_legal {s : State} (h : SlotsLegal s) {l : TableLoad} {k : Nat} {x : Table}
    (hk : s.slot k = { state := .loading, first := k, table := some x }) : SlotsLegal (s.loadReplaced l k x) := by
  have hover := loadOver_legal h hk
  unfold State.loadReplaced
  split
  · split
    · next hr =>
      obtain ⟨y, hy⟩ := Option.isSome_iff_exists.1 hr
      exact repointAll_legal hover hy
    · exact hover
  · exact hover

/-- The first four octets of the HASH of the table that a load replaces; 0 where it replaces none. -/
def State.replacedHash (s : State) (l : TableLoad) : Nat :=
  match l.replaces.bind s.loadedAt with
  | some o => hash4 o.hash
  | none => 0

/-- TABLE_WRITE_DONE of a load for whose re-points the log has room. -/
theorem tableWritten_eq {s : State} {first : Nat} {l : TableLoad} {x : Table}
    (hl : s.loads.find? (fun y => y.first == first) = some l) (hx : (s.slot first).table = some x) :
    s.tableWritten first = if s.repointRoom l then
        ((s.loadReplaced l first x).modLong l.origin l.tag (fun o => { o with done := o.total })).finishLong l.origin l.tag stOk
          (s.replacedHash l) (hash4 x.hash)
      else s := by
  unfold State.tableWritten
  rw [hl]
  dsimp only
  rw [hx]
  cases hroom : s.repointRoom l
  · rfl
  · rfl

/-- The slot of a load that a TABLE_WRITE_DONE names. -/
theorem load_slot {s : State} (h : SlotsLegal s) {first : Nat} {l : TableLoad} {x : Table}
    (hl : s.loads.find? (fun y => y.first == first) = some l) (hx : (s.slot first).table = some x) :
    s.slot first = { state := .loading, first := first, table := some x } := by
  have hfirst : l.first = first := by simpa using List.find?_some hl
  obtain ⟨hstate, hslot, -⟩ := ((slotsLegal_iff s).1 h).2.1 l (List.mem_of_find?_eq_some hl)
  rw [hfirst] at hstate hslot
  rw [← hx, ← hstate]
  exact congrArg (fun f => Slot.mk _ f _) hslot

theorem tableWritten_legal {s : State} (first : Nat) (h : SlotsLegal s) : SlotsLegal (s.tableWritten first) := by
  cases hl : s.loads.find? (fun l => l.first == first) with
  | none =>
    have : s.tableWritten first = s := by
      unfold State.tableWritten
      rw [hl]
    rwa [this]
  | some l =>
    cases hx : (s.slot first).table with
    | none =>
      have : s.tableWritten first = s := by
        unfold State.tableWritten
        rw [hl]
        dsimp only
        rw [hx]
      rwa [this]
    | some x =>
      rw [tableWritten_eq hl hx]
      split
      · exact slotsLegal_of_keeps (loadReplaced_legal (l := l) h (load_slot h hl hx)) (by simp)
      · exact h

/-! ### LOAD_TABLE and reset -/

theorem loadTable_legal {s : State} (c : Cmd) (img : HostRead) (h : SlotsLegal s) : SlotsLegal (s.loadTable c img) := by
  unfold State.loadTable State.withRead
  dsimp only
  split
  · exact slotsLegal_of_keeps h (by simp)
  split
  · exact h
  split
  · exact slotsLegal_of_keeps h (by simp)
  next bs =>
  generalize hu : s.vaneRead (c.addr 1) (bits (c.arg 3) 12 0) (.data bs) = u
  have hlegal : SlotsLegal u := hu ▸ slotsLegal_of_keeps h (State.vaneRead_tables _ _ _ _)
  split
  · exact slotsLegal_of_keeps hlegal (by simp)
  next x hx =>
  generalize hr : (if bit (c.arg 3) 20 then some (bits (c.arg 3) 25 24) else none) = repl at hx
  obtain ⟨hfit, hfree, hrepl⟩ := tableStep_ok hx
  unfold State.accept
  split
  · extract_lets obj i op u1 u2
    have hkeeps : KeepsTables u u2 := by simp [u2, u1]
    have hlegal2 := slotsLegal_of_keeps hlegal hkeeps
    refine slotsLegal_of_keeps (slotsLegal_load (l := ⟨bits (c.arg 3) 17 16, repl, c.m, c.tag⟩) hlegal2 hfit
      (fun j hj => (congrArg Slot.state (u.slot_congr hkeeps.1 j)).trans (hfree j hj)) hrepl) (by simp)
  · exact slotsLegal_of_keeps hlegal (by simp)

theorem runCmd_legal {s : State} (m op : Nat) (pick : Cmd → Bool) {f : Cmd → State → State} (h : SlotsLegal s)
    (hf : ∀ c, SlotsLegal (f c s)) : SlotsLegal (s.runCmd m op pick f) := by
  unfold State.runCmd
  dsimp only
  split
  · split
    · exact slotsLegal_of_keeps h (by simp)
    · exact hf _
  · exact h

/-- After por_n every slot is FREE and no load is in progress (R309). -/
theorem por_legal (s : State) (level : Bool) : SlotsLegal (s.por level) := by
  refine ⟨fun i hi => absurd ?_ hi, fun l hl => absurd hl List.not_mem_nil, List.nodup_nil⟩
  simp [State.por, State.porWith, Vector.get_eq_getElem]

/-! ### Every step -/

theorem exec_legal (c : Instr) (s t : State) (h : exec c s = .next t) (hs : SlotsLegal s) : SlotsLegal t := by
  by_cases hc : Instr.writesTables c = false
  · exact slotsLegal_of_drains hs (exec_drains c s t h hc)
  cases c
  case porN level =>
    obtain rfl : (if level == s.porN then s else s.por level) = t := Host.Outcome.next.inj h
    split
    · exact hs
    · exact por_legal s level
  case loadTable m img => exact Host.Outcome.next.inj h ▸ runCmd_legal _ _ _ hs fun c => loadTable_legal c img hs
  case tableWriteDone slot =>
    obtain rfl : (if s.mgmtRuns then s.tableWritten slot.val else s) = t := Host.Outcome.next.inj h
    split
    · exact tableWritten_legal _ hs
    · exact hs
  case retireTable m => exact Host.Outcome.next.inj h ▸ runCmd_legal _ _ _ hs fun c => retireTable_legal c hs
  all_goals exact absurd rfl hc

/-- A tick frees drained tables. -/
theorem tick_drains (s : State) : MayDrain s (tick s) := by
  unfold tick
  extract_lets s0 s1 one s2 s3
  have h3 : KeepsTables s0 s3 := by
    subst s3
    split <;> exact ⟨rfl, rfl⟩
  exact .after (State.ownWork_tables s) (.after h3 (State.drainSlots_drains _))

/-- Settles O5: a command that does not write the slots frees them of drained tables at most (`exec_drains`), a load begins in
FREE slots (`slotsLegal_load`), and a table's slots move together (`slotsLegal_move`). -/
theorem everyStepKeepsTableSlotsLegal : Obligations.EveryStepKeepsTableSlotsLegal := by
  intro s t hs h
  cases hq : s.pending with
  | nil =>
    rw [step_tick hq] at h
    exact Host.Outcome.next.inj h ▸ slotsLegal_of_drains hs (tick_drains s)
  | cons c rest =>
    rw [step_command hq] at h
    exact exec_legal c _ t h hs

end Sys2Proof.Machine
end

section
/-! PROOFS. RETIRE_TABLE (R155). -/

namespace Sys2Proof.Machine
open Sys2Proof.Safety

/-- One slot after the drained tables are gone. -/
theorem State.drainSlots_get (s : State) (j : Fin 4) :
    s.drainSlots.slots.get j = if (s.slots.get j).state = .draining ∧ s.slotHeld (s.slots.get j).first = false then freed j.val
      else s.slots.get j := by
  refine (State.drains_get (x := s.slots) (gone := fun k => !s.slotHeld k) rfl j).trans ?_
  simp

/-- A retired table's slots, before the log and the mailbox. -/
def State.retired (s : State) (i : Nat) (x : Table) : State :=
  (s.setSlots (slotRange i x.nslots) { state := .draining, first := i, table := some x }).drainSlots

/-- The slots of a retired table are FREE, or DRAINING while it is held. -/
theorem State.retired_own (s : State) {i : Nat} {x : Table} {j : Fin 4} (hj : j.val ∈ slotRange i x.nslots) :
    ((s.retired i x).slots.get j).state = if s.slotHeld i = false then .free else .draining := by
  have hheld (k : Nat) : (s.setSlots (slotRange i x.nslots) { state := .draining, first := i, table := some x }).slotHeld k =
      s.slotHeld k := rfl
  rw [retired, drainSlots_get, setSlots_get, if_pos hj]
  simp only [hheld, true_and]
  split <;> rfl

/-- The other slots stand, where they are not DRAINING. -/
theorem State.retired_other (s : State) {i : Nat} {x : Table} {j : Fin 4} (hj : j.val ∉ slotRange i x.nslots)
    (hstate : (s.slots.get j).state ≠ .draining) : (s.retired i x).slots.get j = s.slots.get j := by
  rw [retired, drainSlots_get, setSlots_get, if_neg hj, if_neg (fun h => hstate h.1)]

/-- What a logged and answered change leaves of the state that the change has made. -/
theorem State.logPut_answer_eq (u : State) (i : LogInfo) (c : Cmd) (st : Nat) (ws : List Nat) :
    (u.logPut i).answer c st ws = { u with
      log := ((u.logPut i).answer c st ws).log, mbx := ((u.logPut i).answer c st ws).mbx
      bells := ((u.logPut i).answer c st ws).bells, commandsTaken := satInc u.commandsTaken, handover := handoverAfter u c.m
      intStatus := ((u.logPut i).answer c st ws).intStatus, taps := ((u.logPut i).answer c st ws).taps
      arb := ((u.logPut i).answer c st ws).arb } := by
  have hcount : ((u.logPut i).answer c st ws).commandsTaken = satInc u.commandsTaken := by
    rw [State.answer_eq]
    simp
  have hhand : ((u.logPut i).answer c st ws).handover = handoverAfter u c.m := by
    rw [State.answer_eq]
    simp [handoverAfter]
  have hbooks : (u.logPut i).books = u.books := by rw [State.logPut_frame]
  conv_lhs => rw [State.answer_frame, hcount, hhand]
  simp [hbooks]

/-- The log entry of RETIRE_TABLE (Table 16.9). -/
def retireEntry (c : Cmd) (x : Table) : LogInfo where
  origin := c.m
  kind := kTable
  result := stOk
  tag := c.tag.toNat
  object := bits (c.arg 1) 1 0
  oldh := hash4 x.hash
  newh := 0

/-- RETIRE_TABLE of a LOADED table that no chain names, where the log has room. -/
theorem State.retireTable_loaded {s : State} {c : Cmd} {x : Table} (hop : c.op = opRetireTable)
    (hx : s.loadedAt (bits (c.arg 1) 1 0) = some x) (hnamed : s.tableNamed (bits (c.arg 1) 1 0) = false)
    (hroom : s.logRoom false = true) :
    s.retireTable c = ((s.retired (bits (c.arg 1) 1 0) x).logPut (retireEntry c x)).answer c stOk [] := by
  have hobject : s.logObject c = bits (c.arg 1) 1 0 := by
    unfold State.logObject
    rw [hop]
    rfl
  unfold State.retireTable
  dsimp only
  rw [hx]
  dsimp only
  rw [if_neg (by simp [hnamed]), State.commit_room _ _ _ _ _ _ hroom, hobject, hop]
  rfl

/-- Settles O18: RETIRE_TABLE moves the table's slots together (`State.retired_own`, `State.retired_other`), then logs and answers
like any change. -/
theorem retireTableDrainsThenFrees : Obligations.RetireTableDrainsThenFrees := by
  intro m i x s haccepted hroom hlegal hi hx hnamed
  have hexec : exec (.retireTable m) s =
      .next (((s.retired i.val x).logPut (retireEntry (s.cmd m.val) x)).answer (s.cmd m.val) stOk []) := by
    refine congrArg Host.Outcome.next ((State.runCmd_accepted s m opRetireTable _ _ haccepted rfl).trans ?_)
    rw [hi] at hx hnamed ⊢
    exact State.retireTable_loaded (State.takes_op haccepted.1) hx hnamed hroom
  refine ⟨_, hexec, ?_, ?_, (slots_of_table hlegal (by decide) (s.loadedAt_some.1 hx)).1, fun j hj => ?_, fun j hj hstate => ?_, ?_⟩
  · exact State.answer_answered s _ m stOk [] (by simp; rfl) (by simp; rfl) _ rfl rfl
  · obtain ⟨more, hmore⟩ := (s.retired i.val x).logPut_entries (retireEntry (s.cmd m.val) x)
    refine ⟨more, ?_⟩
    rw [State.answer_log, hmore, hi, retireEntry, BitVec.ofNat_toNat, BitVec.setWidth_eq]
    rfl
  · simp [s.retired_own hj]
  · simp [s.retired_other hj hstate]
  · rw [State.answer_slots, State.logPut_slots]
    exact State.logPut_answer_eq (s.retired i.val x) _ _ _ _

end Sys2Proof.Machine
end

section
/-! PROOFS. LOAD_TABLE (R151). -/

namespace Sys2Proof.Machine
open Sys2Proof.Safety

/-- The table that a LOAD_TABLE replaces: REPLACES of its third word, where it names one (R154). -/
def Cmd.tableReplaced (c : Cmd) : Option Nat := if bit (c.arg 3) 20 then some (bits (c.arg 3) 25 24) else none

/-- The log entry of a LOAD_TABLE that is accepted (Table 16.9). -/
def State.loadEntry (s : State) (c : Cmd) (x : Table) : LogInfo where
  origin := c.m
  kind := kTable
  result := stAccepted
  tag := c.tag.toNat
  object := s.logObject c
  oldh := match c.tableReplaced.bind s.loadedAt with
    | some o => hash4 o.hash
    | none => 0
  newh := hash4 x.hash

/-- Its long operation, none of the table's entries written. -/
def State.loadOp (s : State) (c : Cmd) (x : Table) : LongOp where
  origin := c.m
  tag := c.tag
  opcode := c.op
  done := 0
  total := 2 ^ x.bits
  object := BitVec.ofNat 64 (bits (c.arg 3) 17 16)
  logObj := BitVec.ofNat 32 (s.logObject c)
  oldh := BitVec.ofNat 32 (s.loadEntry c x).oldh
  failed := none

/-- The load begins: its long operation is in progress and its slots are LOADING. -/
def State.loadBegins (s : State) (c : Cmd) (op : LongOp) (x : Table) : State :=
  let first := bits (c.arg 3) 17 16
  { s.setSlots (slotRange first x.nslots) { state := .loading, first := first, table := some x } with
    loads := s.loads ++ [{ first := first, replaces := c.tableReplaced, origin := c.m, tag := c.tag }]
    longOps := s.longOps ++ [op] }

/-- LOAD_TABLE of an image that passes its checks is accepted, where the log has room. -/
theorem State.accept_load (u : State) (c : Cmd) (x : Table) (hop : c.op = opLoadTable) (hroom : u.logRoom true = true) :
    u.accept c (2 ^ x.bits) (bits (c.arg 3) 17 16) (u.loadEntry c x).oldh (hash4 x.hash) (fun s =>
      { s.setSlots (slotRange (bits (c.arg 3) 17 16) x.nslots)
          { state := .loading, first := bits (c.arg 3) 17 16, table := some x } with
        loads := s.loads ++ [{ first := bits (c.arg 3) 17 16, replaces := c.tableReplaced, origin := c.m, tag := c.tag }] }) =
    ((u.logPut (u.loadEntry c x)).loadBegins c (u.loadOp c x) x).answer c stAccepted [] := by
  have hkind : kindOfOp c.op = kTable := by rw [hop]; rfl
  unfold State.accept
  rw [if_pos hroom]
  dsimp only
  rw [hkind]
  rfl

/-- LOAD_TABLE reads the image, and judges it. -/
theorem State.loadTable_passes {s u : State} {c : Cmd} {img : List Byte} {x : Table} (hop : c.op = opLoadTable)
    (hroom : u.logRoom true = true) (halign : c.addr 1 % 128 = 0) (hvane : s.vaneReads = true)
    (hu : s.countReads (ceilDiv (bits (c.arg 3) 12 0) 128) (bits (c.arg 3) 12 0) = u)
    (hpass : u.tableStep (bits (c.arg 3) 12 0) (bits (c.arg 3) 17 16) c.tableReplaced img = .ok x) :
    s.loadTable c (.data img) = ((u.logPut (u.loadEntry c x)).loadBegins c (u.loadOp c x) x).answer c stAccepted [] := by
  rw [← u.accept_load c x hop hroom]
  unfold State.loadTable
  rw [State.withRead_data _ _ _ _ _ _ _ halign hvane, hu]
  unfold Cmd.tableReplaced at hpass
  dsimp only
  rw [hpass]
  rfl

namespace State
variable (s : State) (c : Cmd) (op : LongOp) (x : Table)

@[simp] theorem loadBegins_mbx : (s.loadBegins c op x).mbx = s.mbx := rfl
@[simp] theorem loadBegins_bells : (s.loadBegins c op x).bells = s.bells := rfl
@[simp] theorem loadBegins_log : (s.loadBegins c op x).log = s.log := rfl
@[simp] theorem loadBegins_chains : (s.loadBegins c op x).chains = s.chains := rfl
@[simp] theorem loadBegins_streams : (s.loadBegins c op x).streams = s.streams := rfl
@[simp] theorem loadBegins_tiles : (s.loadBegins c op x).tiles = s.tiles := rfl
@[simp] theorem loadBegins_loads : (s.loadBegins c op x).loads = s.loads ++
    [{ first := bits (c.arg 3) 17 16, replaces := c.tableReplaced, origin := c.m, tag := c.tag }] := rfl
@[simp] theorem loadBegins_longOps : (s.loadBegins c op x).longOps = s.longOps ++ [op] := rfl
@[simp] theorem loadBegins_bands : (s.loadBegins c op x).bands = s.bands := rfl

end State

theorem State.loadBegins_own (s : State) (c : Cmd) (op : LongOp) {x : Table} {i : Fin 4} (h1 : bits (c.arg 3) 17 16 ≤ i.val)
    (h2 : i.val < bits (c.arg 3) 17 16 + x.nslots) :
    (s.loadBegins c op x).slots.get i = { state := .loading, first := bits (c.arg 3) 17 16, table := some x } :=
  (s.setSlots_get _ _ i).trans (if_pos (mem_slotRange.2 ⟨h1, h2⟩))

theorem State.loadBegins_other (s : State) (c : Cmd) (op : LongOp) {x : Table} {i : Fin 4}
    (h : i.val < bits (c.arg 3) 17 16 ∨ bits (c.arg 3) 17 16 + x.nslots ≤ i.val) :
    (s.loadBegins c op x).slots.get i = s.slots.get i :=
  (s.setSlots_get _ _ i).trans (if_neg (by rw [mem_slotRange]; omega))

/-- Settles O19: LOAD_TABLE reads the image, and the load begins as `State.loadTable_passes` says. -/
theorem loadTableIsAccepted : Obligations.LoadTableIsAccepted := by
  intro m img x s c first repl haccepted hroom halign hvane hpass
  generalize hu : s.countReads (ceilDiv (bits (c.arg 3) 12 0) 128) (bits (c.arg 3) 12 0) = u
  have hstep : u.tableStep (bits (c.arg 3) 12 0) first repl img = .ok x := hu ▸ hpass
  have hmbx : u.mbx = s.mbx ∧ u.bells = s.bells := hu ▸ ⟨rfl, rfl⟩
  have hkept : u.slots = s.slots ∧ u.loads = s.loads ∧ u.longOps = s.longOps := hu ▸ ⟨rfl, rfl, rfl⟩
  have hrows : u.chains = s.chains ∧ u.streams = s.streams ∧ u.tiles = s.tiles := hu ▸ ⟨rfl, rfl, rfl⟩
  obtain ⟨hslots, hloads, hlong⟩ := hkept
  have hexec : exec (.loadTable m (.data img)) s =
      .next (((u.logPut (u.loadEntry c x)).loadBegins c (u.loadOp c x) x).answer c stAccepted []) :=
    congrArg Host.Outcome.next ((State.runCmd_accepted s m opLoadTable _ _ haccepted rfl).trans
      (State.loadTable_passes (State.takes_op haccepted.1) (hu ▸ hroom) halign hvane hu hstep))
  refine ⟨_, hexec, ?_, ⟨(u.loadEntry c x).oldh, ?_⟩, fun i h1 h2 => ?_, fun i hi => ?_, ?_, ⟨u.loadOp c x, ?_, rfl, rfl, rfl, rfl⟩, ?_⟩
  · exact State.answer_answered s _ m stAccepted [] (by simp [hmbx]) (by simp [hmbx]) _ rfl rfl
  · obtain ⟨more, hmore⟩ := u.logPut_entries (u.loadEntry c x)
    refine ⟨more, ?_⟩
    rw [State.answer_log, State.loadBegins_log, hmore, State.loadEntry, BitVec.ofNat_toNat, BitVec.setWidth_eq]
    subst hu
    rfl
  · rw [State.answer_slots, State.loadBegins_own _ _ _ h1 h2]
  · rw [State.answer_slots, State.loadBegins_other _ _ _ hi, State.logPut_slots, hslots]
  · rw [State.answer_loads, State.loadBegins_loads, State.logPut_loads, hloads]
    rfl
  · rw [State.answer_longOps, State.loadBegins_longOps, State.logPut_longOps, hlong]
  · simp [hrows]

end Sys2Proof.Machine
end

section
/-! PROOFS. Chain ids and their newest versions, the room of the log, and the re-point of the chains that name a table (R154, R391). -/

namespace Sys2Proof.Machine
open Sys2Proof.Safety

/-! ### The newest version of a chain id -/

/-- The chain id stands in its place, and every other where it was. -/
theorem find_insertChain {x : Nat × List Chain} {xs : List (Nat × List Chain)} (hx : ∀ y ∈ xs, y.1 ≠ x.1) (j : Nat) :
    (insertChain x xs).find? (fun y => y.1 == j) = if x.1 = j then some x else xs.find? (fun y => y.1 == j) := by
  induction xs with
  | nil => by_cases h : x.1 = j <;> simp [insertChain, h]
  | cons y ys ih =>
    have hy : y.1 ≠ x.1 := hx y List.mem_cons_self
    rw [insertChain]
    split
    · by_cases h : x.1 = j <;> simp [h]
    · rw [List.find?_cons, ih fun z hz => hx z (List.mem_cons_of_mem _ hz), List.find?_cons]
      by_cases h : x.1 = j
      · subst h
        simp [beq_false_of_ne hy]
      · simp [h]

/-- What an id has once the versions of `id` are set. -/
theorem find_setVersions (id : Nat) (v : Chain) (vs : List Chain) (xs : List (Nat × List Chain)) (j : Nat) :
    (setVersions id (v :: vs) xs).find? (fun y => y.1 == j) =
      if id = j then some (id, v :: vs) else xs.find? (fun y => y.1 == j) := by
  unfold setVersions
  dsimp only
  rw [if_neg (by simp), find_insertChain (by simp), List.find?_filter]
  split
  · rfl
  · next h =>
    congr 1
    funext y
    by_cases hj : y.1 = j <;> simp [hj, Ne.symm h]

namespace State
variable (s : State)

theorem chain_of_find {s t : State} {j : Nat}
    (h : t.chains.find? (fun y => y.1 == j) = s.chains.find? (fun y => y.1 == j)) : t.chain? j = s.chain? j := by
  unfold chain? versions
  rw [h]

/-- The newest version of an id once its versions are set. -/
theorem chain_setVersions {s t : State} {id : Nat} {v : Chain} {vs : List Chain} (h : t.chains = setVersions id (v :: vs) s.chains)
    (j : Nat) : t.chain? j = if id = j then some v else s.chain? j := by
  have hfind := find_setVersions id v vs s.chains j
  rw [← h] at hfind
  split at hfind
  · next hj =>
    rw [if_pos hj]
    unfold chain? versions
    rw [hfind]
    rfl
  · next hj =>
    rw [if_neg hj]
    exact chain_of_find hfind

/-- The release of old versions leaves the newest of each id. -/
theorem prune_chain (j : Nat) : s.prune.chain? j = s.chain? j := by
  have hfind : s.prune.chains.find? (fun y => y.1 == j) = (s.chains.find? (fun y => y.1 == j)).map (fun c => (c.1, match c.2 with
      | [] => []
      | v :: vs => v :: vs.filter (fun w => s.heldVersions.contains w.ver))) := List.find?_map ..
  unfold chain? versions
  rw [hfind]
  cases s.chains.find? (fun y => y.1 == j) with
  | none => rfl
  | some c =>
    obtain ⟨k, vs⟩ := c
    cases vs <;> rfl

/-- The chain that an id has is one of the resident chains. -/
theorem mem_of_chain {j : Nat} {v : Chain} (h : s.chain? j = some v) :
    ∃ c ∈ s.chains, c.1 = j ∧ c.2.head? = some v := by
  unfold chain? versions at h
  split at h
  · next c hc => exact ⟨c, List.mem_of_find?_eq_some hc, by simpa using List.find?_some hc, h⟩
  · cases h

/-- The newest version of chain `id` names slot `a`. -/
def Names (a id : Nat) : Prop := ∃ v, s.chain? id = some v ∧ v.slotsNamed.contains a = true

theorem mem_namers {a id : Nat} (h : s.Names a id) : id ∈ s.namers a := by
  obtain ⟨v, hv, hnames⟩ := h
  obtain ⟨c, hc, rfl, hhead⟩ := s.mem_of_chain hv
  exact List.mem_map_of_mem (List.mem_filter.2 ⟨hc, by simpa [hhead] using hnames⟩)

end State

/-! ### A version re-pointed -/

theorem Stage.repoint_func {a b : Nat} (hb : b < 256) (st : Stage) (h : st.op = opEval) (hf : st.func = a) :
    (st.repoint a b).func = b := by
  have hparam : (st.repoint a b).param = st.param - st.func + b := by simp [repoint, h, hf]
  unfold Stage.func bits at *
  rw [hparam]
  omega

/-- A stage that is re-pointed names slot `a` no longer. -/
theorem slotsNamed_repointed (s : State) {a b : Nat} (hb : b < 4) (hab : a ≠ b) (v : Chain) :
    (s.repointed a b v).slotsNamed.contains a = false := by
  have hstages : (s.repointed a b v).stages = v.stages.map (Stage.repoint (0x10 + a) (0x10 + b)) := rfl
  simp only [Chain.slotsNamed, hstages]
  rw [← Bool.not_eq_true, List.contains_iff_mem, List.mem_filterMap]
  rintro ⟨w, hw, hwa⟩
  obtain ⟨st, -, rfl⟩ := List.mem_map.1 hw
  split at hwa
  · next hcond =>
    simp only [Bool.and_eq_true, beq_iff_eq, decide_eq_true_eq] at hcond
    have hfunc := Option.some.inj hwa
    by_cases hst : st.op = opEval ∧ st.func = 0x10 + a
    · rw [Stage.repoint_func (by omega) st hst.1 hst.2] at hfunc
      omega
    · have hsame : st.repoint (0x10 + a) (0x10 + b) = st := by
        unfold Stage.repoint
        rw [if_neg (by simpa using hst)]
      rw [hsame] at hfunc hcond
      exact hst ⟨hcond.1.1, by omega⟩
  · cases hwa

/-! ### The log's room for the re-points (R391) -/

namespace State
variable (s : State)

/-- The log has room for `n` changes of Glomen's and for the LOG_WRAP that may come among them. -/
def RoomFor (n : Nat) : Prop := 17 + n ≤ s.logAvail ∨ (16 + n ≤ s.logAvail ∧ s.log.nextSeq.toNat + n < 2 ^ 32)

theorem RoomFor.room {s : State} {n : Nat} (h : s.RoomFor (n + 1)) : s.logRoom false = true := by
  unfold RoomFor at h
  simp only [logRoom, Bool.false_eq_true, if_false, ge_iff_le, decide_eq_true_eq]
  omega

theorem logAppend_avail (i : LogInfo) : (s.logAppend i).logAvail = s.logAvail - 1 := by
  have hentries : (s.logAppend i).log.entries.length = s.log.entries.length + 1 := by
    unfold logAppend
    dsimp only
    split <;> simp
  have hlong : (s.logAppend i).longOps = s.longOps := by rw [logAppend_frame]
  unfold logAvail logFree
  rw [hentries, hlong]
  omega

theorem logAppend_nextSeq (i : LogInfo) : (s.logAppend i).log.nextSeq = s.log.nextSeq + 1 := by
  unfold logAppend
  dsimp only
  split <;> rfl

/-- Where SEQ has gone round, LOG_WRAP takes an entry. -/
theorem logWrap_wraps {u : State} (hzero : u.log.nextSeq = 0) (h : 1 ≤ u.logAvail) :
    u.logWrap.logAvail = u.logAvail - 1 ∧ u.logWrap.log.nextSeq = 1 := by
  unfold logWrap
  rw [if_pos (beq_iff_eq.2 hzero)]
  extract_lets old _ v
  have havail : v.logAvail = u.logAvail := rfl
  have hseq : v.log.nextSeq = 0 := hzero
  rw [if_pos (havail ▸ h), logAppend_avail, logAppend_nextSeq, havail, hseq]
  exact ⟨rfl, rfl⟩

/-- An entry takes the room of one change, and of the LOG_WRAP where SEQ goes round. -/
theorem RoomFor.logPut {s : State} {n : Nat} (h : s.RoomFor (n + 1)) (i : LogInfo) : (s.logPut i).RoomFor n := by
  have havail := s.logAppend_avail i
  have hseq := s.logAppend_nextSeq i
  have hmax : s.logAvail ≤ 4096 := by unfold logAvail logFree; omega
  unfold State.logPut
  generalize s.logAppend i = u at havail hseq
  by_cases hzero : u.log.nextSeq = 0
  · have hcarry : s.log.nextSeq.toNat + 1 = 2 ^ 32 := by
      rw [hzero] at hseq
      bv_omega
    have hwide : 17 + (n + 1) ≤ s.logAvail := by
      rcases h with h | ⟨-, h⟩
      · exact h
      · omega
    obtain ⟨hwrap, hone⟩ := logWrap_wraps hzero (by omega)
    refine .inr ⟨by omega, ?_⟩
    have : (1 : Word).toNat = 1 := rfl
    rw [hone]
    omega
  · have hstays : u.logWrap = u := by
      unfold logWrap
      rw [if_neg (by simpa using hzero)]
    rw [hstays]
    rcases h with h | ⟨h, hlt⟩
    · exact .inl (by omega)
    · refine .inr ⟨by omega, ?_⟩
      rw [hseq] at hzero ⊢
      bv_omega

/-! ### The re-point of the chains that name a slot -/

/-- The chain `id` re-pointed from slot `a` to slot `b`, before its log entry. -/
def repointedId (a b id : Nat) (v : Chain) : State :=
  s.booked fun s => { s with
    chains := setVersions id (s.repointed a b v :: s.versions id) s.chains
    nextVer := s.nextVer + 1 }

/-- The re-point of an id that names the slot is logged, where the log has room. -/
theorem repointId_named {a b id : Nat} {v : Chain} (hv : s.chain? id = some v) (hnames : v.slotsNamed.contains a = true)
    (hroom : s.logRoom false = true) :
    s.repointId a b id = (s.repointedId a b id v).logPut { origin := 4, kind := kChain, result := 0, tag := 0xFFFF, object := id,
                                                            oldh := v.sig.toNat, newh := (s.repointed a b v).sig.toNat } := by
  have hroom' : (s.repointedId a b id v).logRoom false = true := hroom
  unfold repointId
  rw [hv]
  dsimp only
  rw [if_pos hnames, glomenChange_room _ _ _ _ _ _ hroom]
  unfold logGlomen
  exact if_pos hroom'

theorem repointId_other {a b id : Nat} (h : ¬s.Names a id) : s.repointId a b id = s := by
  unfold repointId
  split
  · rfl
  · next v hv => exact if_neg fun hn => h ⟨v, hv, hn⟩

/-- After the re-point of `id`, it names slot `a` no longer, and other ids as before. -/
theorem names_repointId {a b id : Nat} (hb : b < 4) (hab : a ≠ b) {v : Chain} (hv : s.chain? id = some v)
    (hnames : v.slotsNamed.contains a = true) (hroom : s.logRoom false = true) {j : Nat} (h : (s.repointId a b id).Names a j) :
    s.Names a j ∧ j ≠ id := by
  obtain ⟨w, hw, hwa⟩ := h
  have hchains : (s.repointId a b id).chains = setVersions id (s.repointed a b v :: s.versions id) s.chains := by
    rw [repointId_named s hv hnames hroom, logPut_chains]
    rfl
  rw [chain_setVersions hchains] at hw
  split at hw
  · obtain rfl := Option.some.inj hw
    rw [slotsNamed_repointed s hb hab v] at hwa
    cases hwa
  · next hj => exact ⟨⟨w, hw, hwa⟩, Ne.symm hj⟩

/-- The re-points of `ids`, for which the log has room, leave no id among them that names slot `a`. -/
theorem names_foldl_repointId {a b : Nat} (hb : b < 4) (hab : a ≠ b) (ids : List Nat) :
    ∀ (s : State) (N : Finset Nat), (∀ j, s.Names a j → j ∈ N) → (N.Nonempty → s.RoomFor N.card) →
      ∀ j, (ids.foldl (fun s id => s.repointId a b id) s).Names a j → s.Names a j ∧ j ∉ ids := by
  induction ids with
  | nil => exact fun s N _ _ j hj => ⟨hj, List.not_mem_nil⟩
  | cons id ids ih =>
    intro s N hN hroom j hj
    rw [List.foldl_cons] at hj
    by_cases hid : s.Names a id
    · obtain ⟨v, hv, hnames⟩ := hid
      have hmem : id ∈ N := hN id ⟨v, hv, hnames⟩
      have hready : s.RoomFor ((N.erase id).card + 1) := by
        rw [Finset.card_erase_add_one hmem]
        exact hroom ⟨id, hmem⟩
      have hstep (k : Nat) (hk : (s.repointId a b id).Names a k) : s.Names a k ∧ k ≠ id :=
        s.names_repointId hb hab hv hnames hready.room hk
      have hroom' : (N.erase id).Nonempty → (s.repointId a b id).RoomFor (N.erase id).card := fun _ => by
        rw [s.repointId_named hv hnames hready.room]
        exact RoomFor.logPut (s := s.repointedId a b id v) hready _
      obtain ⟨hk, hrest⟩ := ih _ (N.erase id) (fun k hk => Finset.mem_erase.2 ⟨(hstep k hk).2, hN k (hstep k hk).1⟩) hroom' j hj
      obtain ⟨hold, hne⟩ := hstep j hk
      exact ⟨hold, by simp [hne, hrest]⟩
    · rw [repointId_other s hid] at hj
      obtain ⟨hold, hrest⟩ := ih s N hN hroom j hj
      exact ⟨hold, by rintro (_ | ⟨_, hm⟩); exacts [hid hold, hrest hm]⟩

/-- With room for all its entries the re-point of slot `a` leaves no id that names it. -/
theorem names_repointChains {a b : Nat} (hb : b < 4) (hab : a ≠ b)
    (hroom : s.namers a = [] ∨ s.logAvail ≥ 17 + (s.namers a).length) (j : Nat) : ¬(s.repointChains a b).Names a j := by
  intro hj
  have hN : ∀ k, s.Names a k → k ∈ (s.namers a).toFinset := fun k hk => List.mem_toFinset.2 (s.mem_namers hk)
  have hready : (s.namers a).toFinset.Nonempty → s.RoomFor (s.namers a).toFinset.card := fun hne => by
    have hcard := List.toFinset_card_le (s.namers a)
    rcases hroom with h | h
    · rw [h] at hne
      exact absurd hne (by simp)
    · exact .inl (by omega)
  obtain ⟨⟨v, hv, -⟩, hnot⟩ := names_foldl_repointId hb hab _ s _ hN hready j hj
  obtain ⟨c, hc, rfl, -⟩ := s.mem_of_chain hv
  exact hnot (List.mem_map_of_mem hc)

end State

end Sys2Proof.Machine
end

section
/-! PROOFS. TABLE_WRITE_DONE (R153, R154). -/

namespace Sys2Proof.Machine
open Sys2Proof.Safety

/-! ### What the end of a load leaves alone -/

/-- Tiles, bands, streams and long operations stand, and no event is counted but those of LOG_DROPPED. -/
structure LeavesRest (s t : State) : Prop where
  tiles : t.tiles = s.tiles
  bands : t.bands = s.bands
  streams : t.streams = s.streams
  longOps : t.longOps = s.longOps
  counts : ∀ a c, c ≠ evLogDropped → t.kindCount a c = s.kindCount a c

theorem LeavesRest.refl (s : State) : LeavesRest s s := ⟨rfl, rfl, rfl, rfl, fun _ _ _ => rfl⟩

theorem LeavesRest.trans {s t u : State} (h : LeavesRest s t) (g : LeavesRest t u) : LeavesRest s u :=
  ⟨g.tiles.trans h.tiles, g.bands.trans h.bands, g.streams.trans h.streams, g.longOps.trans h.longOps,
    fun a c hc => (g.counts a c hc).trans (h.counts a c hc)⟩

theorem logPut_leavesRest (s : State) (i : LogInfo) : LeavesRest s (s.logPut i) :=
  ⟨by simp, by simp, by simp, by simp, fun a c hc => s.logPut_kindCount i a c hc⟩

theorem repointId_leavesRest (s : State) (a b id : Nat) : LeavesRest s (s.repointId a b id) := by
  by_cases hid : s.Names a id
  · obtain ⟨v, hv, hnames⟩ := hid
    cases hroom : s.logRoom false
    · unfold State.repointId
      rw [hv]
      dsimp only
      rw [if_pos hnames, State.glomenChange_full _ _ _ _ _ _ hroom]
      exact .refl s
    · rw [s.repointId_named hv hnames hroom]
      exact .trans (t := s.repointedId a b id v) ⟨rfl, rfl, rfl, rfl, fun _ _ _ => rfl⟩ (logPut_leavesRest _ _)
  · rw [s.repointId_other hid]
    exact .refl s

theorem repointChains_leavesRest (s : State) (a b : Nat) : LeavesRest s (s.repointChains a b) := by
  unfold State.repointChains
  generalize s.chains.map (fun c => c.1) = ids
  induction ids generalizing s with
  | nil => exact .refl s
  | cons id ids ih => exact (repointId_leavesRest s a b id).trans (ih _)

theorem prune_leavesRest (s : State) : LeavesRest s s.prune := ⟨rfl, rfl, rfl, rfl, fun _ _ _ => rfl⟩

/-! ### The end of a load, slot by slot -/

/-- The table that a load replaces, once its new table is LOADED: its chains are re-pointed and its slots DRAINING. -/
def State.drainReplaced (s : State) (a b : Nat) (y : Table) : State :=
  (s.repointChains a b).setSlots (slotRange a y.nslots) { state := .draining, first := a, table := some y }

theorem loadReplaced_cases {s : State} (h : SlotsLegal s) {l : TableLoad} {k : Nat} {x : Table}
    (hk : s.slot k = { state := .loading, first := k, table := some x }) :
    s.loadReplaced l k x = s.loadOver k x ∧ (∀ r, l.replaces = some r → (s.loadOver k x).loadedAt r = none) ∨
    ∃ r y, l.replaces = some r ∧ (s.loadOver k x).loadedAt r = some y ∧
      s.loadReplaced l k x = ((s.loadOver k x).drainReplaced r k y).prune := by
  unfold State.loadReplaced
  split
  · next r hr =>
    split
    · next hloaded =>
      obtain ⟨y, hy⟩ := Option.isSome_iff_exists.1 hloaded
      exact .inr ⟨r, y, hr, hy, repointAll_slots (loadOver_legal h hk) hy⟩
    · next hloaded =>
      refine .inl ⟨rfl, fun r' hr' => ?_⟩
      obtain rfl := Option.some.inj (hr.symm.trans hr')
      simpa using hloaded
  · next hr => exact .inl ⟨rfl, fun r' hr' => by rw [hr] at hr'; cases hr'⟩

theorem loadReplaced_leavesRest {s : State} (h : SlotsLegal s) {l : TableLoad} {k : Nat} {x : Table}
    (hk : s.slot k = { state := .loading, first := k, table := some x }) : LeavesRest s (s.loadReplaced l k x) := by
  have hover : LeavesRest s (s.loadOver k x) := ⟨rfl, rfl, rfl, rfl, fun _ _ _ => rfl⟩
  rcases loadReplaced_cases h hk with ⟨heq, -⟩ | ⟨r, y, -, -, heq⟩
  · exact heq ▸ hover
  · rw [heq]
    exact ((hover.trans (repointChains_leavesRest _ r k)).trans
      (u := (s.loadOver k x).drainReplaced r k y) ⟨rfl, rfl, rfl, rfl, fun _ _ _ => rfl⟩).trans (prune_leavesRest _)

theorem loadOver_own (s : State) {k : Nat} {x : Table} {i : Fin 4} (hi : i.val ∈ slotRange k x.nslots) :
    (s.loadOver k x).slots.get i = { state := .loaded, first := k, table := some x } :=
  (State.setSlots_get _ _ _ i).trans (if_pos hi)

/-- The slots of the new table are LOADED. -/
theorem loadReplaced_own {s : State} (h : SlotsLegal s) {l : TableLoad} {k : Nat} {x : Table}
    (hk : s.slot k = { state := .loading, first := k, table := some x }) (hrepl : ∀ r, l.replaces = some r → r ∉ slotRange k x.nslots)
    {i : Fin 4} (hi : i.val ∈ slotRange k x.nslots) :
    (s.loadReplaced l k x).slots.get i = { state := .loaded, first := k, table := some x } := by
  have hown := loadOver_own s hi
  rcases loadReplaced_cases h hk with ⟨heq, -⟩ | ⟨r, y, hr, hy, heq⟩
  · exact heq ▸ hown
  · have hslot := (s.loadOver k x).loadedAt_some.1 hy
    have hother : i.val ∉ slotRange r y.nslots := fun hmem => by
      have := (slots_of_table (loadOver_legal h hk) (by decide) hslot).2.2 i hmem
      rw [hown, hslot] at this
      obtain rfl : k = r := congrArg Slot.first this
      exact hrepl k hr (slots_of_table h (by decide) hk).1
    have hdrained : ((s.loadOver k x).drainReplaced r k y).slots.get i = { state := .loaded, first := k, table := some x } := by
      refine ((State.setSlots_get _ _ _ i).trans (if_neg hother)).trans ?_
      rw [((s.loadOver k x).repointChains_tables r k).1, hown]
    rw [heq, ← State.slot_val, State.slot_drains _ ((State.prune_drains _).2 _ (.refl _)) ?_, State.slot_val, hdrained]
    rw [State.slot_val, hdrained]
    simp

/-- The replaced table's first slot is LOADED no longer. -/
theorem drainReplaced_old {s : State} (h : SlotsLegal s) {r : Fin 4} {b : Nat} {y : Table} (hy : s.loadedAt r.val = some y) :
    ((s.drainReplaced r.val b y).prune.slots.get r).state ≠ .loaded := by
  have hdraining : (s.drainReplaced r.val b y).slots.get r = { state := .draining, first := r.val, table := some y } :=
    (State.setSlots_get _ _ _ r).trans (if_pos (slots_of_table h (by decide) (s.loadedAt_some.1 hy)).1)
  obtain ⟨gone, hgone⟩ := (State.prune_drains (s.drainReplaced r.val b y)).2 _ (.refl _)
  rw [State.drains_get hgone, hdraining]
  split <;> simp [freed]

/-- Room for the re-points of a replaced table is room for each chain that names it. -/
theorem repointRoom_namers {s : State} {l : TableLoad} {r : Nat} (hroom : s.repointRoom l = true) (hr : l.replaces = some r)
    (hloaded : s.loadedAt r ≠ none) : s.namers r = [] ∨ s.logAvail ≥ 17 + (s.namers r).length := by
  obtain ⟨y, hy⟩ := Option.ne_none_iff_exists'.1 hloaded
  unfold State.repointRoom at hroom
  rw [hr] at hroom
  simpa [hy] using hroom

/-- A replaced table is LOADED no longer, and no chain's newest version names it (R154). -/
theorem loadReplaced_old {s : State} (h : SlotsLegal s) {l : TableLoad} {k : Fin 4} {x : Table}
    (hk : s.slot k.val = { state := .loading, first := k.val, table := some x }) {r : Fin 4} (hr : l.replaces = some r.val)
    (hapart : r.val ∉ slotRange k.val x.nslots) (hloaded : s.loadedAt r.val ≠ none) (hroom : s.repointRoom l = true) :
    ((s.loadReplaced l k.val x).slots.get r).state ≠ .loaded ∧
      ∀ id v, (s.loadReplaced l k.val x).chain? id = some v → v.slotsNamed.contains r.val = false := by
  have hover := s.loadOver_loadedAt (x := x) hapart
  rcases loadReplaced_cases h hk with ⟨-, hnone⟩ | ⟨r', y, hr', hy, heq⟩
  · exact absurd (hover ▸ hnone r.val hr) hloaded
  · obtain rfl := Option.some.inj (hr'.symm.trans hr)
    rw [heq]
    refine ⟨drainReplaced_old (loadOver_legal h hk) hy, fun id v hv => ?_⟩
    rw [State.prune_chain] at hv
    have hrk : r.val ≠ k.val := fun he => hapart (he ▸ (slots_of_table h (by decide) hk).1)
    have hroom' : (s.loadOver k.val x).namers r.val = [] ∨
        (s.loadOver k.val x).logAvail ≥ 17 + ((s.loadOver k.val x).namers r.val).length := repointRoom_namers (s := s) hroom hr hloaded
    have hnames := (s.loadOver k.val x).names_repointChains (a := r.val) (b := k.val) k.isLt hrk hroom' id
    exact Bool.eq_false_iff.2 fun hc => hnames ⟨v, hv, hc⟩

/-! ### The end of its long operation -/

theorem finishLong_rows (s : State) (o : Nat) (g : BitVec 16) (r a b : Nat) :
    (s.finishLong o g r a b).chains = s.chains ∧ (s.finishLong o g r a b).tiles = s.tiles ∧
      (s.finishLong o g r a b).bands = s.bands ∧ (s.finishLong o g r a b).streams = s.streams := by
  unfold State.finishLong
  split <;> simp

/-- The long operation `l` ends with its completion notice, all of its work done. -/
def State.loadDone (s : State) (l : TableLoad) (old new : Nat) : State :=
  (s.modLong l.origin l.tag (fun o => { o with done := o.total })).finishLong l.origin l.tag stOk old new

theorem State.loadDone_kindCount {s : State} {l : TableLoad} {o : LongOp} (ho : s.longOp? l.origin l.tag = some o)
    (hop : o.opcode = opLoadTable) (old new : Nat) :
    (s.loadDone l old new).kindCount srcMgmt evTableLoaded = satInc (s.kindCount srcMgmt evTableLoaded) := by
  have hmod := s.modLong_longOp l.origin l.tag (fun o => { o with done := o.total }) (fun _ => ⟨rfl, rfl⟩) l.origin l.tag
  rw [ho, Option.map_some] at hmod
  unfold State.loadDone
  rw [State.finishLong_kindCount _ _ _ _ _ hmod _ _ (by decide)]
  have hdone : doneEvent (if o.origin == l.origin && o.tag == l.tag then { o with done := o.total } else o).opcode = evTableLoaded := by
    split <;> exact congrArg doneEvent hop
  rw [hdone, if_pos ⟨rfl, rfl⟩]
  rfl

/-- Settles O20: the load's slots are LOADED (`loadReplaced_own`), a replaced table is re-pointed and drains (`loadReplaced_old`),
for which the log has room (`State.RoomFor`), and the long operation ends (`State.loadDone`). -/
theorem tableWriteCompletesTheLoad : Obligations.TableWriteCompletesTheLoad := by
  intro first l x s hruns hlegal hl hx
  have hk := load_slot hlegal hl hx
  have hexec : exec (.tableWriteDone first) s = .next (if s.repointRoom l then
      (s.loadReplaced l first.val x).loadDone l (s.replacedHash l) (hash4 x.hash) else s) := by
    have : exec (.tableWriteDone first) s = .next (s.tableWritten first.val) :=
      congrArg Host.Outcome.next (if_pos hruns)
    rw [this, tableWritten_eq hl hx]
    rfl
  have hfirst : l.first = first.val := by simpa using List.find?_some hl
  have hrepl : ∀ r, l.replaces = some r → r ∉ slotRange first.val x.nslots := fun r hr =>
    hfirst ▸ (hlegal.2.1 l (List.mem_of_find?_eq_some hl)).2.2 r x hr (hfirst ▸ hx)
  have hrest := loadReplaced_leavesRest (l := l) hlegal hk
  refine ⟨fun hroom => by rw [hexec, hroom]; rfl, fun hroom => ⟨_, by rw [hexec, if_pos hroom], ?_⟩⟩
  generalize hu : s.loadReplaced l first.val x = u at hrest
  have hkeeps : KeepsTables u (u.loadDone l (s.replacedHash l) (hash4 x.hash)) := by simp [State.loadDone]
  obtain ⟨hchains, htiles, hbands, hstreams⟩ : _ ∧ _ ∧ _ ∧ _ :=
    finishLong_rows (u.modLong l.origin l.tag (fun o => { o with done := o.total })) l.origin l.tag stOk (s.replacedHash l) (hash4 x.hash)
  have hchain : ∀ id, (u.loadDone l (s.replacedHash l) (hash4 x.hash)).chain? id = u.chain? id := fun id =>
    State.chain_of_find (congrArg (List.find? _) hchains)
  refine ⟨fun i hi => ?_, fun r hr hloaded => ?_, fun y hy => ?_, State.finishLong_longOp_self _ _ _ _ _ _, fun o ho hop => ?_,
    htiles.trans hrest.tiles, hbands.trans hrest.bands, hstreams.trans hrest.streams⟩
  · rw [hkeeps.1, ← hu]
    exact loadReplaced_own hlegal hk hrepl hi
  · obtain ⟨hstate, hnames⟩ := loadReplaced_old hlegal hk hr (hrepl _ hr) hloaded hroom
    rw [hu] at hstate hnames
    exact ⟨hkeeps.1 ▸ hstate, fun id v hv => hnames id v (hchain id ▸ hv)⟩
  · have hloads : u.loads = s.loads.filter (fun l => l.first != first.val) := by
      rw [← hu]
      rcases loadReplaced_cases (l := l) hlegal hk with ⟨heq, -⟩ | ⟨r, z, -, -, heq⟩
      · rw [heq]
        rfl
      · rw [heq]
        exact (State.prune_drains _).1.trans ((s.loadOver first.val x).repointChains_tables r first.val).2
    rw [hkeeps.2, hloads] at hy
    simpa using (List.mem_filter.1 hy).2
  · have ho' : u.longOp? l.origin l.tag = some o := by
      unfold State.longOp? at ho ⊢
      rw [hrest.longOps, ho]
    rw [State.loadDone_kindCount ho' hop, hrest.counts _ _ (by decide)]

end Sys2Proof.Machine
end

section
/-! PROOFS. What Glomen does of itself: a counter request that the host has answered (R347, R391). -/

namespace Sys2Proof.Machine
open Sys2Proof.Safety

/-! ### The change log of the answered counter request -/

/-- The log keeps its entries and gains some behind them. -/
def LogGrows (s t : State) : Prop := ∃ more, t.log.entries = s.log.entries ++ more

theorem LogGrows.refl (s : State) : LogGrows s s := ⟨[], (List.append_nil _).symm⟩

theorem LogGrows.trans {s t u : State} (h : LogGrows s t) (g : LogGrows t u) : LogGrows s u := by
  obtain ⟨a, ha⟩ := h
  obtain ⟨b, hb⟩ := g
  exact ⟨a ++ b, by rw [hb, ha, List.append_assoc]⟩

theorem logPut_grows (s : State) (i : LogInfo) : LogGrows s (s.logPut i) :=
  let ⟨_, h⟩ := s.logPut_entries i
  ⟨_, h⟩

theorem finishLong_grows (s : State) (o : Nat) (g : BitVec 16) (r a b : Nat) : LogGrows s (s.finishLong o g r a b) := by
  unfold State.finishLong
  split
  · exact .refl s
  · obtain ⟨more, h⟩ := logPut_grows { s with longOps := s.longOps.filter (fun y => !(y.origin == o && y.tag == g)) } _
    refine ⟨more, ?_⟩
    rw [State.notice, State.report_log]
    exact h

theorem endActivate_grows (s : State) (o : Nat) (g : BitVec 16) (r d v : Nat) : LogGrows s (s.endActivate o g r d v) :=
  finishLong_grows (s.modLong o g (fun l => { l with done := d })) _ _ _ _ _

theorem endMet_grows (s : State) (ws : List ArcWait) : LogGrows s (s.endMet ws) := by
  induction ws generalizing s with
  | nil => exact .refl s
  | cons w ws ih =>
    rw [State.endMet]
    split
    · exact (endActivate_grows { s with arcWaits := ws } w.origin w.tag stOk 4 (s.activateOld w.origin w.tag)).trans (ih _)
    · exact .refl s

theorem askArc_grows (s : State) : LogGrows s s.askArc := by
  by_cases h : s.arcReq = none
  · rw [State.askArc_none h]
    exact endMet_grows s s.arcWaits
  · rw [State.askArc_out h]
    exact .refl s

/-- The use of the counter is the next entry of the log (R391). -/
theorem counterRead_logged {s : State} (h : s.logRoom false = true) (arc : BitVec 64) (rest : List ArcWait) :
    Logged s (s.counterRead arc rest) 4 kKeyUse 0 0xFFFF 1 (s.keyArc.toNat % 2 ^ 32) (arc.toNat % 2 ^ 32) := by
  have hroom : ({ s with keyArc := arc } : State).logRoom false = true := h
  rw [State.counterRead, State.glomenChange_room _ _ _ _ _ _ h, State.logGlomen, if_pos hroom]
  exact State.logPut_entries { s with keyArc := arc } _

theorem logged_of_grows {s t u : State} {o k r : Nat} {g : BitVec 16} {x a b : Nat} (h : Logged s t o k r g x a b) (hg : LogGrows t u) :
    Logged s u o k r g x a b := by
  obtain ⟨m, hm⟩ := h
  obtain ⟨n, hn⟩ := hg
  exact ⟨m ++ n, by rw [hn, hm, List.append_assoc, List.cons_append]⟩

/-! ### What Glomen does of itself (log entry 42) -/

/-- Without an answered request and room in the log nothing happens. -/
theorem ownWork_idle {s : State} (h : s.mgmtRuns = false ∨ (∀ w ∈ s.arcWaits.head?, w.seen = none) ∨ s.logRoom false = false) :
    s.ownWork = s := by
  unfold State.ownWork
  split
  · next hruns =>
    rcases h with h | h | h
    · rw [h] at hruns
      cases hruns
    · unfold State.settleArc
      split
      · next w rest hw =>
        rw [h w (by simp [hw])]
      · rfl
    · exact State.settleArc_full h
  · rfl

/-- While the next request of the line needs the host, no FW_ACTIVATE ends behind the one that is done. -/
theorem askArc_arcWaits {s : State} (h : ∀ v ∈ s.arcWaits.head?, v.seen ≠ none ∨ s.keyArc.toNat < v.want.toNat) :
    s.askArc.arcWaits = s.arcWaits := by
  by_cases hreq : s.arcReq = none
  · obtain ⟨met, hsplit, hmet, -, hsame⟩ := s.endMet_split s.arcWaits rfl
    have hnone : met = [] := by
      cases met with
      | nil => rfl
      | cons v vs =>
        obtain ⟨hseen, hwant, -⟩ := hmet v List.mem_cons_self
        rcases h v (by rw [hsplit]; rfl) with hv | hv
        · exact absurd hseen hv
        · omega
    rw [State.askArc_none hreq, hsame hnone]
  · rw [State.askArc_out hreq]

/-- An answered request is logged, and its FW_ACTIVATE ends. -/
theorem ownWork_settles {s : State} {w : ArcWait} {rest : List ArcWait} {arc : BitVec 64} (hruns : s.mgmtRuns = true)
    (hw : s.arcWaits = w :: rest) (hseen : w.seen = some arc) (hroom : s.logRoom false = true) :
    Logged s s.ownWork 4 kKeyUse 0 0xFFFF 1 (s.keyArc.toNat % 2 ^ 32) (arc.toNat % 2 ^ 32) ∧ s.ownWork.keyArc = arc ∧
      ((∀ v ∈ rest.head?, v.seen ≠ none ∨ arc.toNat < v.want.toNat) → s.ownWork.arcWaits = rest) ∧
      s.ownWork.longOp? w.origin w.tag = none := by
  obtain ⟨r, old, hsettle⟩ := State.settleArc_room hw hseen hroom
  have hown : s.ownWork = ((s.counterRead arc rest).endActivate w.origin w.tag r 4 old).askArc := (if_pos hruns).trans hsettle
  have hfirm := (State.endActivate_firmware (s.counterRead arc rest) w.origin w.tag r 4 old).trans
    (State.counterRead_firmware hroom arc rest)
  have hlogged := logged_of_grows (counterRead_logged hroom arc rest) (endActivate_grows _ w.origin w.tag r 4 old)
  have hself := State.endActivate_longOp_self (s.counterRead arc rest) w.origin w.tag r 4 old
  rw [hown]
  generalize (s.counterRead arc rest).endActivate w.origin w.tag r 4 old = u at *
  have hkey : u.keyArc = arc := congrArg Firmware.keyArc hfirm
  have hwaits : u.arcWaits = rest := congrArg Firmware.arcWaits hfirm
  refine ⟨logged_of_grows hlogged (askArc_grows u), (congrArg Firmware.keyArc u.askArc_firmware).trans hkey, fun hrest => ?_,
    State.askArc_longOp_none hself⟩
  rw [askArc_arcWaits (by rwa [hwaits, hkey]), hwaits]

end Sys2Proof.Machine
end

section
/-! PROOFS. A tick (log entry 9): the slot counters, the evaluators' grants and the long operations. -/

namespace Sys2Proof.Machine
open Sys2Proof.Safety

/-! ### The evaluators' grants (R130 to R132) -/

/-- Where no lane asks, every slot serves a waiting XEV request. -/
theorem slotServesXev_always (slot xevq : Nat) : slotServesXev slot xevq = true := by
  have hlanes : (arbLanes (List.replicate 16 none) 0).1 = [] := by decide
  unfold slotServesXev arbGrant
  simp only [hlanes]
  split <;> rfl

/-- A counter counts one more where it is among those that are counted, each once. -/
theorem refOf_foldl_countAt {es : List Nat} (hes : es.Nodup) (l : List (Nat × Nat)) (e : Nat) :
    refOf (es.foldl (fun l e => countAt e l) l) e = refOf l e + if e ∈ es then 1 else 0 := by
  induction es generalizing l with
  | nil => simp
  | cons a es ih =>
    obtain ⟨ha, hes⟩ := List.nodup_cons.1 hes
    rw [List.foldl_cons, ih hes, refOf_countAt]
    by_cases hea : e = a
    · subst hea
      simp [ha]
    · simp [hea]

theorem serveXev_length (busy : List Nat) (rs : List XevRsp) : (serveXev busy rs).length = rs.length := by
  induction rs generalizing busy with
  | nil => rfl
  | cons r rs ih => exact congrArg (· + 1) (ih _)

/-- A request keeps its place at the evaluators that have an older one, and leaves it at the others. -/
theorem serveXev_get {busy : List Nat} {rs : List XevRsp} {k : Nat} {r : XevRsp} (h : rs[k]? = some r) :
    ∃ a, (serveXev busy rs)[k]? = some a ∧ r = { a with places := r.places } ∧
      ∀ e, e ∈ a.places ↔ e ∈ r.places ∧ (e ∈ busy ∨ ∃ j < k, ∃ p, rs[j]? = some p ∧ e ∈ p.places) := by
  induction rs generalizing busy k with
  | nil => cases h
  | cons q rs ih =>
    cases k with
    | zero =>
      obtain rfl : q = r := by simpa using h
      exact ⟨_, rfl, rfl, fun e => by simp⟩
    | succ k =>
      obtain ⟨a, ha, hsame, hplaces⟩ := ih (busy := busy ++ q.places) (by simpa using h)
      refine ⟨a, ha, hsame, fun e => ?_⟩
      rw [hplaces e, List.mem_append, or_assoc]
      refine and_congr_right fun _ => or_congr_right ⟨?_, ?_⟩
      · rintro (hq | ⟨j, hj, p, hp, he⟩)
        · exact ⟨0, by omega, q, rfl, hq⟩
        · exact ⟨j + 1, by omega, p, by simpa using hp, he⟩
      · rintro ⟨j, hj, p, hp, he⟩
        cases j with
        | zero =>
          obtain rfl : q = p := by simpa using hp
          exact .inl he
        | succ j => exact .inr ⟨j, by omega, p, by simpa using hp, he⟩

/-! ### A tile's cycle -/

/-- XEVQ that was set takes effect at slot 0 (R135). -/
def Tile.xevqAt (x : Tile) (slot : Nat) : Nat := if slot = 0 then x.xevqSet else x.xevq

theorem Tile.tick_stands (x : Tile) (slot : Nat) : x.tick slot false = { x with xevq := x.xevqAt slot } := by
  unfold Tile.tick Tile.xevqAt
  by_cases h : slot = 0 <;> simp [h]

/-- In a tile that runs each evaluator with a waiting request grants its oldest. -/
theorem Tile.tick_runs (x : Tile) (slot : Nat) :
    x.tick slot true = { x with
      xevq := x.xevqAt slot, xevBuf := serveXev [] x.xevBuf
      evalGrants := (x.xevBuf.flatMap (fun r => r.places)).dedup.foldl (fun l e => countAt e l) x.evalGrants
      evalResults := (x.xevBuf.flatMap (fun r => r.places)).dedup.foldl (fun l e => countAt e l) x.evalResults } := by
  unfold Tile.tick Tile.xevqAt Tile.grant
  by_cases h : slot = 0 <;> simp [h, slotServesXev_always]

/-- Each evaluator with a waiting request has a grant more. -/
theorem refOf_granted (x : Tile) (l : List (Nat × Nat)) (e : Nat) :
    refOf ((x.xevBuf.flatMap (fun r => r.places)).dedup.foldl (fun l e => countAt e l) l) e =
      refOf l e + if ∃ r ∈ x.xevBuf, e ∈ r.places then 1 else 0 := by
  rw [refOf_foldl_countAt (List.nodup_dedup _)]
  simp

/-! ### The block's tick -/

namespace State
variable (s : State)

/-- The slot counters have advanced. -/
def bandsTick : State := { s with bands := s.bands.map Band.tick }

/-- A tile once its band's slot counter has advanced. -/
def tileTick (t : Nat) (x : Tile) : Tile :=
  if (s.bandsTick.band (bandOf t)).ticks then x.tick (s.bandsTick.band (bandOf t)).slotCtr (s.bandsTick.tileRuns t) else x

def tilesTick : State := s.bandsTick.booked fun v => { v with tiles := v.tiles.mapIdx s.tileTick }

/-- The CTL port and the long operations, where MCLK runs. -/
def mgmtTick (u : State) : State :=
  if s.mclk then { u with ctlAck := false, ctlRdata := 0, longOps := u.longOps.map (LongOp.tick s.paused) } else u

theorem tick_eq : tick s = (s.ownWork.mgmtTick s.ownWork.tilesTick).drainSlots := rfl

theorem bandsTick_band {b : Nat} (hb : b < 8) : s.bandsTick.band b = (s.band b).tick := by
  simp [bandsTick, band, hb]

theorem tilesTick_tile (i : Fin 88) : s.tilesTick.tile i.val = s.tileTick i.val (s.tile i.val) := by
  simp [tilesTick, booked, bandsTick, tile]

theorem bandsTick_bandRuns {b : Nat} (hb : b < 8) : s.bandsTick.bandRuns b = s.bandRuns b := by
  unfold bandRuns
  rw [bandsTick_band s hb]
  unfold Band.tick
  split <;> rfl

/-- The tile's cycle in terms of its band as it was. -/
theorem tileTick_eq (i : Fin 88) (x : Tile) :
    s.tileTick i.val x = if (s.band (bandOf i.val)).ticks then
      x.tick (((s.band (bandOf i.val)).slotCtr + 1) % 16) (s.tileRuns i.val) else x := by
  have hb : bandOf i.val < 8 := by
    unfold bandOf
    omega
  have hruns : s.bandsTick.tileRuns i.val = s.tileRuns i.val := by
    unfold tileRuns
    rw [bandsTick_bandRuns s hb]
    rfl
  unfold tileTick
  rw [hruns, bandsTick_band s hb]
  cases hticks : (s.band (bandOf i.val)).ticks
  · simp [Band.tick, hticks]
  · have hstill : (Band.tick (s.band (bandOf i.val))).ticks = true := by
      rw [Band.tick, if_pos hticks]
      exact hticks
    rw [hstill, if_pos rfl, if_pos rfl, Band.tick, if_pos hticks]

end State

/-- A tick moves the position of a long operation at most. -/
theorem LongOp.tick_done (paused : Bool) (o : LongOp) : { o.tick paused with done := 0 } = { o with done := 0 } := by
  unfold LongOp.tick
  split
  · rfl
  · split <;> rfl

/-! ### What a tick does -/

/-- A tick changes what the bands' clocks and MCLK drive, and frees drained tables. -/
theorem tick_frame (s : State) : tick s = { s.ownWork with
    bands := (tick s).bands, tiles := (tick s).tiles, slots := (tick s).slots, longOps := (tick s).longOps
    ctlAck := (tick s).ctlAck, ctlRdata := (tick s).ctlRdata, books := (tick s).books } := by
  rw [State.tick_eq]
  generalize s.ownWork = w
  unfold State.mgmtTick
  split <;> rfl

theorem tick_tiles (s : State) : (tick s).tiles = s.ownWork.tilesTick.tiles := by
  rw [State.tick_eq]
  generalize s.ownWork = w
  unfold State.mgmtTick
  split <;> rfl

/-- A tile whose band's clock runs takes its cycle. -/
theorem tick_tile (s : State) (i : Fin 88) :
    (tick s).tile i.val = if (s.ownWork.band (bandOf i.val)).ticks then
      (s.ownWork.tile i.val).tick (((s.ownWork.band (bandOf i.val)).slotCtr + 1) % 16) (s.ownWork.tileRuns i.val)
    else s.ownWork.tile i.val := by
  have h : (tick s).tile i.val = s.ownWork.tilesTick.tile i.val := by
    unfold State.tile
    rw [tick_tiles]
  rw [h, State.tilesTick_tile, State.tileTick_eq]

theorem tick_band (s : State) (b : Fin 8) : (tick s).band b.val = (s.ownWork.band b.val).tick := by
  have h : (tick s).bands = s.ownWork.bandsTick.bands := by
    rw [State.tick_eq]
    generalize s.ownWork = w
    unfold State.mgmtTick
    split <;> rfl
  have hb : (tick s).band b.val = s.ownWork.bandsTick.band b.val := by
    unfold State.band
    rw [h]
  rw [hb, State.bandsTick_band _ b.isLt]

theorem tick_books (s : State) : (tick s).books = s.ownWork.books.follow s.ownWork.inUse (tick s).inUse := by
  rw [State.tick_eq]
  generalize s.ownWork = w
  unfold State.mgmtTick
  split <;> rfl

theorem tick_slot (s : State) (k : Fin 4) :
    (tick s).slots.get k = if (s.ownWork.slots.get k).state = .draining ∧ (tick s).slotHeld (s.ownWork.slots.get k).first = false
      then freed k.val else s.ownWork.slots.get k := by
  rw [State.tick_eq]
  generalize s.ownWork = w
  have hslots : (w.mgmtTick w.tilesTick).slots = w.slots := by
    unfold State.mgmtTick
    split <;> rfl
  rw [State.drainSlots_get, hslots]
  rfl

/-- The positions of the long operations apart, they stand. -/
theorem tick_longOps (s : State) :
    (tick s).longOps.map (fun o => { o with done := 0 }) = s.ownWork.longOps.map (fun o => { o with done := 0 }) := by
  have h : (tick s).longOps = if s.ownWork.mclk then s.ownWork.longOps.map (LongOp.tick s.ownWork.paused) else s.ownWork.longOps := by
    rw [State.tick_eq]
    generalize s.ownWork = w
    unfold State.mgmtTick
    split <;> rfl
  rw [h]
  split
  · exact (List.map_map ..).trans (List.map_congr_left fun o _ => LongOp.tick_done _ o)
  · rfl

theorem ownWork_mclk (s : State) : s.ownWork.mclk = s.mclk := congrArg Kept.mclk s.ownWork_kept

/-- Where MCLK is stopped the management plane stands (R319). -/
theorem tick_stopped {s : State} (h : s.mclk = false) :
    (tick s).longOps = s.longOps ∧ (tick s).ctlAck = s.ctlAck ∧ (tick s).ctlRdata = s.ctlRdata := by
  have hown : s.ownWork = s := ownWork_idle (.inl (by simp [State.mgmtRuns, h]))
  rw [State.tick_eq, hown, State.mgmtTick, h]
  exact ⟨rfl, rfl, rfl⟩

/-- Where it runs no CTL access completes (R304). -/
theorem tick_ctl {s : State} (h : s.mclk = true) : (tick s).ctlAck = false ∧ (tick s).ctlRdata = 0 := by
  rw [State.tick_eq, State.mgmtTick, ownWork_mclk, h]
  exact ⟨rfl, rfl⟩

/-- Settles O3: what Glomen does of itself (`ownWork_idle`, `ownWork_settles`), and what a tick does to each part of the block. -/
theorem idleStepAdvancesSlotCounters : Obligations.IdleStepAdvancesSlotCounters := by
  intro s hpending
  refine ⟨ownWork_idle, fun w rest arc => ownWork_settles, tick s, step_tick hpending, fun i => ?_, tick_books s, tick_slot s,
    tick_band s, tick_longOps s, tick_stopped, tick_ctl, tick_frame s⟩
  have htile := tick_tile s i
  generalize (tick s).tile i.val = y at htile
  generalize s.ownWork.tile i.val = x at htile
  refine ⟨fun hstopped => ?_, fun hclock => ⟨fun hstands => ?_, fun hruns => ?_⟩⟩
  · rw [htile, Band.ticks, hstopped]
    rfl
  · rw [htile, Band.ticks, hclock, hstands, if_pos rfl, Tile.tick_stands]
    rfl
  · rw [Band.ticks, hclock, hruns, if_pos rfl, Tile.tick_runs] at htile
    subst htile
    refine ⟨rfl, serveXev_length _ _, fun k r hr => ?_, fun e => ⟨refOf_granted x _ e, refOf_granted x _ e⟩⟩
    obtain ⟨a, ha, hsame, hplaces⟩ := serveXev_get (busy := []) hr
    exact ⟨a, ha, hsame, fun e => by simpa using hplaces e⟩

end Sys2Proof.Machine
end

section
/-! PROOFS. The bytes of a row record (R183 to R185, Table 8.2): what a field of a byte list reads, the CRC, and the record read back. -/

namespace Sys2Proof.Machine

/-! ### Little-endian fields of a byte list (R11) -/

@[simp] theorem toLe_length (n v : Nat) : (toLe n v).length = n := by
  induction n generalizing v with
  | zero => rfl
  | succ n ih => rw [toLe, List.length_cons, ih]

@[simp] theorem leNat_toLe (n v : Nat) : leNat (toLe n v) = v % 256 ^ n := by
  induction n generalizing v with
  | zero => simp [toLe, leNat, Nat.mod_one]
  | succ n ih =>
    have hcons : leNat (toLe (n + 1) v) = v % 256 + 256 * leNat (toLe n (v / 256)) := by
      simp [toLe, leNat]
    rw [hcons, ih, pow_succ', Nat.mod_mul]

/-- A word of `w` bits reads back from a field that is wide enough. -/
theorem leAt_word {w n : Nat} (x : BitVec w) (bs : List Byte) (h : w ≤ 8 * n) : leAt (toLe n x.toNat ++ bs) 0 n = x.toNat := by
  have hlt : x.toNat < 256 ^ n := calc
    x.toNat < 2 ^ w := x.isLt
    _ ≤ 2 ^ (8 * n) := Nat.pow_le_pow_right (by decide) h
    _ = 256 ^ n := pow_mul 2 8 n
  have hslice : slice (toLe n x.toNat ++ bs) 0 n = toLe n x.toNat := by simp [slice]
  rw [leAt, hslice, leNat_toLe, Nat.mod_eq_of_lt hlt]

/-- A field reads past another one that stands before it. -/
theorem leAt_toLe_past {n off : Nat} (m v : Nat) (bs : List Byte) (h : n ≤ off) :
    leAt (toLe n v ++ bs) off m = leAt bs (off - n) m := by
  simp [leAt, slice, List.drop_append, List.drop_eq_nil_of_le, h]

theorem leAt_cons (x : Byte) (bs : List Byte) : leAt (x :: bs) 0 1 = x.toNat := by simp [leAt, slice, leNat]

theorem leAt_cons_past {off : Nat} (m : Nat) (x : Byte) (bs : List Byte) (h : 1 ≤ off) :
    leAt (x :: bs) off m = leAt bs (off - 1) m := by
  obtain ⟨k, rfl⟩ : ∃ k, off = k + 1 := ⟨off - 1, by omega⟩
  rfl

/-! ### CRC-32C (R185) -/

theorem crcBit_lt {c : Nat} (h : c < 2 ^ 32) : crcBit c < 2 ^ 32 := by
  have hshift : c >>> 1 < 2 ^ 32 := lt_of_le_of_lt (Nat.shiftRight_le c 1) h
  unfold crcBit
  split
  · exact Nat.xor_lt_two_pow hshift (by decide)
  · exact hshift

theorem crcByte_lt {c : Nat} (b : Byte) (h : c < 2 ^ 32) : crcByte c b < 2 ^ 32 := by
  have hxor : c ^^^ b.toNat < 2 ^ 32 := Nat.xor_lt_two_pow h (lt_trans b.isLt (by decide))
  unfold crcByte
  iterate 8 apply crcBit_lt
  exact hxor

theorem foldl_crcByte_lt (bs : List Byte) {c : Nat} (h : c < 2 ^ 32) : bs.foldl crcByte c < 2 ^ 32 := by
  induction bs generalizing c with
  | nil => exact h
  | cons b bs ih => exact ih (crcByte_lt b h)

theorem crc32c_lt (bs : List Byte) : crc32c bs < 2 ^ 32 :=
  Nat.xor_lt_two_pow (foldl_crcByte_lt bs (by decide)) (by decide)

/-! ### The record -/

@[simp] theorem recBody_length (r : Rec) : (recBody r).length = 60 := by simp [recBody]

@[simp] theorem recBytes_length (r : Rec) : (recBytes r).length = 64 := by simp [recBytes]

/-- Every field of Table 8.2 stands where `parseRec` reads it. -/
theorem parseRec_recBytes (r : Rec) : parseRec (recBytes r) = r := by
  simp [parseRec, recBytes, recBody, leAt_word, leAt_toLe_past, leAt_cons, leAt_cons_past]

/-- The CRC covers the 60 bytes before it. -/
theorem recCrcOk_recBytes (r : Rec) : recCrcOk (recBytes r) = true := by
  have hslice : slice (recBytes r) 0 60 = recBody r := by simp [slice, recBytes]
  have hfield : leAt (recBytes r) 60 4 = crc32c (recBody r) := by
    have hdrop : slice (recBytes r) 60 4 = toLe 4 (crc32c (recBody r)) := by
      simp [slice, recBytes]
    rw [leAt, hdrop, leNat_toLe]
    exact Nat.mod_eq_of_lt (crc32c_lt _)
  rw [recCrcOk, hslice, hfield, beq_self_eq_true]

/-- Settles O55: the length of the record, its fields read back (`parseRec_recBytes`), and its CRC (`recCrcOk_recBytes`). -/
theorem recordsReadBackAsWritten : Obligations.RecordsReadBackAsWritten :=
  fun r => ⟨recBytes_length r, parseRec_recBytes r, recCrcOk_recBytes r⟩

end Sys2Proof.Machine
end

section
/-! PROOFS. Merging row records (R179, R195, R196): what one merge does to each field, and that the merge of a row's records depends
neither on their order nor on how they are grouped. -/

namespace Sys2Proof.Machine

/-! ### The larger of two words -/

section
variable {w : Nat} (x y z : BitVec w)

/-- The word of the larger number, as `mergeRec` takes MAXKEY and ABSMAX. -/
def maxWord : BitVec w := if x.toNat ≥ y.toNat then x else y

/-- The word of the larger signed number, as `mergeRec` takes E. -/
def maxSigned : BitVec w := if x.toInt ≥ y.toInt then x else y

theorem maxWord_toNat : (maxWord x y).toNat = max x.toNat y.toNat := by
  unfold maxWord
  split <;> omega

theorem maxSigned_toInt : (maxSigned x y).toInt = max x.toInt y.toInt := by
  unfold maxSigned
  split <;> omega

theorem maxWord_comm : maxWord x y = maxWord y x := BitVec.eq_of_toNat_eq (by simp only [maxWord_toNat, max_comm])

theorem maxWord_assoc : maxWord (maxWord x y) z = maxWord x (maxWord y z) :=
  BitVec.eq_of_toNat_eq (by simp only [maxWord_toNat, max_assoc])

theorem maxSigned_comm : maxSigned x y = maxSigned y x := BitVec.eq_of_toInt_eq (by simp only [maxSigned_toInt, max_comm])

theorem maxSigned_assoc : maxSigned (maxSigned x y) z = maxSigned x (maxSigned y z) :=
  BitVec.eq_of_toInt_eq (by simp only [maxSigned_toInt, max_assoc])

end

@[simp] theorem maxWord_self {w : Nat} (x : BitVec w) : maxWord x x = x := ite_self x

@[simp] theorem maxWord_zero {w : Nat} (x : BitVec w) : maxWord x 0#w = x := by simp [maxWord]

/-- 0x8000 is the smallest E. -/
@[simp] theorem maxSigned_least (x : BitVec 16) : maxSigned x 0x8000#16 = x := by
  have hle : (0x8000#16).toInt ≤ x.toInt := BitVec.le_toInt x
  exact if_pos hle

/-! ### FLAGS (Table 8.4) -/

/-- FLAGS of a merge: POISON, NAN_SEEN and SAT_SEEN of either part, ZERO_ROW of both. -/
def mergeFlags (x y : Byte) : Byte := ((x ||| y) &&& 0x0E) ||| (x &&& y &&& 0x01)

theorem mergeFlags_getLsbD (x y : Byte) (i : Fin 8) : (mergeFlags x y).getLsbD i.val =
    if i.val = 0 then x.getLsbD 0 && y.getLsbD 0 else (i.val == 1 || i.val == 2 || i.val == 3) && (x.getLsbD i.val || y.getLsbD i.val) := by
  unfold mergeFlags
  fin_cases i <;> simp

theorem mergeFlags_comm (x y : Byte) : mergeFlags x y = mergeFlags y x := by
  rw [mergeFlags, mergeFlags, BitVec.or_comm x y, BitVec.and_comm x y]

theorem mergeFlags_assoc (x y z : Byte) : mergeFlags (mergeFlags x y) z = mergeFlags x (mergeFlags y z) := by
  have hbit : ∀ a b c m k : Bool, ((((a || b) && m || a && b && k) || c) && m || (((a || b) && m || a && b && k) && c) && k) =
      ((a || ((b || c) && m || b && c && k)) && m || (a && ((b || c) && m || b && c && k)) && k) := by decide
  refine BitVec.eq_of_getLsbD_eq fun i _ => ?_
  simp only [mergeFlags, BitVec.getLsbD_or, BitVec.getLsbD_and, hbit]

/-- The zero record's FLAGS leave those of a record that has none of the flags above SAT_SEEN. -/
theorem mergeFlags_zero {x : Byte} (h : x.toNat < 16) : mergeFlags x 0x01 = x := by
  refine BitVec.eq_of_getLsbD_eq fun i hi => ?_
  have hhigh (hi4 : 4 ≤ i) : x.getLsbD i = false :=
    Nat.testBit_lt_two_pow (lt_of_lt_of_le h (Nat.pow_le_pow_right (n := 2) Nat.two_pos hi4))
  rw [mergeFlags_getLsbD x 0x01 ⟨i, hi⟩]
  obtain rfl | rfl | rfl | rfl | hi4 : i = 0 ∨ i = 1 ∨ i = 2 ∨ i = 3 ∨ 4 ≤ i := by omega
  · simp
  · simp
  · simp
  · simp
  · have hlow : (i == 1 || i == 2 || i == 3) = false := by simp; omega
    rw [if_neg (by simp; omega), hlow, hhigh hi4, Bool.false_and]

/-! ### A field that KIND may leave to the first part -/

/-- A field of a merge: combined where KIND has it, else the first part's. -/
def onlyIf {α : Type} (has : Bool) (op : α → α → α) (x y : α) : α := if has then op x y else x

section
variable {α : Type} {has : Bool} {op : α → α → α} {x y : α}

theorem onlyIf_assoc (hassoc : ∀ x y z, op (op x y) z = op x (op y z)) (x y z : α) :
    onlyIf has op (onlyIf has op x y) z = onlyIf has op x (onlyIf has op y z) := by
  cases has
  · rfl
  · exact hassoc x y z

theorem onlyIf_right_comm (hassoc : ∀ x y z, op (op x y) z = op x (op y z)) (hcomm : ∀ x y, op x y = op y x) (x y z : α) :
    onlyIf has op (onlyIf has op x y) z = onlyIf has op (onlyIf has op x z) y := by
  cases has
  · rfl
  · change op (op x y) z = op (op x z) y
    rw [hassoc, hcomm y z, ← hassoc]

/-- The order of two parts does not matter to a field that KIND has, nor to one that is alike in both. -/
theorem onlyIf_comm (hcomm : ∀ x y, op x y = op y x) (h : has = false → x = y) : onlyIf has op x y = onlyIf has op y x := by
  cases has
  · exact h rfl
  · exact hcomm x y

end

/-! ### One merge (R196) -/

theorem mergeRec_eq (a b : Rec) : mergeRec a b = { a with
    maxkey := onlyIf (kMax a.kind.toNat) maxWord a.maxkey b.maxkey
    absmax := onlyIf (kAbsmax a.kind.toNat) maxWord a.absmax b.absmax
    e := onlyIf (kExpo a.kind.toNat) maxSigned a.e b.e
    sum := onlyIf (kSum a.kind.toNat) (· + ·) a.sum b.sum
    sumsq := onlyIf (kSumsq a.kind.toNat) (· + ·) a.sumsq b.sumsq
    count := a.count + b.count
    satuf := a.satuf + b.satuf
    nanc := a.nanc + b.nanc
    flags := mergeFlags a.flags b.flags } := rfl

/-- Two parts that come after another one may change places. -/
theorem mergeRec_right_comm (a b c : Rec) : mergeRec (mergeRec a b) c = mergeRec (mergeRec a c) b := by
  simp only [mergeRec_eq, Rec.mk.injEq, true_and]
  exact ⟨by rw [mergeFlags_assoc, mergeFlags_comm b.flags, mergeFlags_assoc], add_right_comm .., onlyIf_right_comm maxWord_assoc maxWord_comm ..,
    onlyIf_right_comm maxWord_assoc maxWord_comm .., onlyIf_right_comm BitVec.add_assoc BitVec.add_comm ..,
    onlyIf_right_comm BitVec.add_assoc BitVec.add_comm .., onlyIf_right_comm maxSigned_assoc maxSigned_comm ..,
    add_right_comm .., add_right_comm ..⟩

/-- A merge of merges is the merge of all their parts. -/
theorem mergeRec_assoc {a b : Rec} (h : b.kind = a.kind) (c : Rec) : mergeRec (mergeRec a b) c = mergeRec a (mergeRec b c) := by
  simp only [mergeRec_eq, Rec.mk.injEq, true_and, h]
  exact ⟨mergeFlags_assoc .., add_assoc .., onlyIf_assoc maxWord_assoc .., onlyIf_assoc maxWord_assoc ..,
    onlyIf_assoc BitVec.add_assoc .., onlyIf_assoc BitVec.add_assoc .., onlyIf_assoc maxSigned_assoc ..,
    add_assoc .., add_assoc ..⟩

/-! ### Records of one row, and what a KIND has of them (R195) -/

/-- Two records of the same row, pass and stage, under one signature and KIND. -/
def Rec.SamePlace (a b : Rec) : Prop := a.sig = b.sig ∧ a.kind = b.kind ∧ a.row = b.row ∧ a.pass = b.pass ∧ a.step = b.step

/-- They agree by R195: the references of their sums are equal too. -/
def Rec.Agree (a b : Rec) : Prop := a.SamePlace b ∧ (kSum a.kind.toNat = true → a.maxkey = b.maxkey) ∧
  (kSumsq a.kind.toNat = true → a.e = b.e)

/-- They are equal in every field that their KIND has. -/
def Rec.SameOfKind (a b : Rec) : Prop := a.SamePlace b ∧ a.count = b.count ∧ a.satuf = b.satuf ∧ a.nanc = b.nanc ∧ a.flags = b.flags ∧
  (kMax a.kind.toNat = true ∨ kSum a.kind.toNat = true → a.maxkey = b.maxkey) ∧
  (kAbsmax a.kind.toNat = true → a.absmax = b.absmax) ∧
  (kExpo a.kind.toNat = true ∨ kSumsq a.kind.toNat = true → a.e = b.e) ∧
  (kSum a.kind.toNat = true → a.sum = b.sum) ∧ (kSumsq a.kind.toNat = true → a.sumsq = b.sumsq)

/-- They are equal in the fields that a merge leaves to the first part. -/
def Rec.AlikeElsewhere (a b : Rec) : Prop := (kMax a.kind.toNat = false → a.maxkey = b.maxkey) ∧
  (kAbsmax a.kind.toNat = false → a.absmax = b.absmax) ∧ (kExpo a.kind.toNat = false → a.e = b.e) ∧
  (kSum a.kind.toNat = false → a.sum = b.sum) ∧ (kSumsq a.kind.toNat = false → a.sumsq = b.sumsq)

/-- They are equal but for STREAM. -/
def Rec.SameButStream (a b : Rec) : Prop := { a with stream := b.stream } = b

section
variable {a b c : Rec}

theorem Rec.SamePlace.refl (a : Rec) : a.SamePlace a := ⟨rfl, rfl, rfl, rfl, rfl⟩

theorem Rec.SameOfKind.refl (a : Rec) : a.SameOfKind a :=
  ⟨.refl a, rfl, rfl, rfl, rfl, fun _ => rfl, fun _ => rfl, fun _ => rfl, fun _ => rfl, fun _ => rfl⟩

theorem Rec.SameOfKind.trans (hab : a.SameOfKind b) (hbc : b.SameOfKind c) : a.SameOfKind c := by
  obtain ⟨⟨hsig, hkind, hrow, hpass, hstep⟩, hcount, hsatuf, hnanc, hflags, hmaxkey, habsmax, he, hsum, hsumsq⟩ := hab
  unfold SameOfKind SamePlace at hbc ⊢
  rw [hkind] at *
  grind

/-- The first part may be replaced by one that is equal in the fields of KIND. -/
theorem Rec.SameOfKind.mergeRec (hab : a.SameOfKind b) (c : Rec) : (mergeRec a c).SameOfKind (mergeRec b c) := by
  obtain ⟨hplace, hcount, hsatuf, hnanc, hflags, hmaxkey, habsmax, he, hsum, hsumsq⟩ := hab
  obtain ⟨-, hkind, -⟩ := id hplace
  refine ⟨hplace, ?_⟩
  simp only [mergeRec_eq, hcount, hsatuf, hnanc, hflags, ← hkind, true_and]
  exact ⟨fun h => by rw [hmaxkey h], fun h => by rw [habsmax h], fun h => by rw [he h], fun h => by rw [hsum h],
    fun h => by rw [hsumsq h]⟩

/-- Two parts may change places where the references are equal that the merge does not itself take. -/
theorem mergeRec_comm (hplace : a.SamePlace b) (hmaxkey : kMax a.kind.toNat = false → kSum a.kind.toNat = true → a.maxkey = b.maxkey)
    (he : kExpo a.kind.toNat = false → kSumsq a.kind.toNat = true → a.e = b.e) :
    (mergeRec a b).SameOfKind (mergeRec b a) := by
  obtain ⟨-, hkind, -⟩ := id hplace
  refine ⟨hplace, ?_⟩
  simp only [mergeRec_eq, ← hkind]
  exact ⟨add_comm .., add_comm .., add_comm .., mergeFlags_comm ..,
    fun h => onlyIf_comm maxWord_comm fun hmax => hmaxkey hmax (by simpa [hmax] using h),
    fun h => onlyIf_comm maxWord_comm fun habsmax => by simp [h] at habsmax,
    fun h => onlyIf_comm maxSigned_comm fun hexpo => he hexpo (by simpa [hexpo] using h),
    fun h => onlyIf_comm BitVec.add_comm fun hsum => by simp [h] at hsum,
    fun h => onlyIf_comm BitVec.add_comm fun hsumsq => by simp [h] at hsumsq⟩

theorem Rec.Agree.mergeRec_comm (h : a.Agree b) : (Machine.mergeRec a b).SameOfKind (Machine.mergeRec b a) :=
  Machine.mergeRec_comm h.1 (fun _ => h.2.1) (fun _ => h.2.2)

theorem Rec.SameButStream.mergeRec (hab : a.SameButStream b) (c : Rec) : (mergeRec a c).SameButStream (mergeRec b c) := by
  unfold SameButStream at *
  rw [← hab]
  rfl

theorem Rec.Agree.mergeRec_comm_all (h : a.Agree b) (halike : a.AlikeElsewhere b) :
    (Machine.mergeRec a b).SameButStream (Machine.mergeRec b a) := by
  obtain ⟨⟨hsig, hkind, hrow, hpass, hstep⟩, -, -⟩ := h
  obtain ⟨hmaxkey, habsmax, he, hsum, hsumsq⟩ := halike
  simp only [SameButStream, mergeRec_eq, Rec.mk.injEq, hsig, hrow, hpass, hstep, ← hkind, true_and]
  exact ⟨mergeFlags_comm .., add_comm .., onlyIf_comm maxWord_comm hmaxkey, onlyIf_comm maxWord_comm habsmax,
    onlyIf_comm BitVec.add_comm hsum, onlyIf_comm BitVec.add_comm hsumsq, onlyIf_comm maxSigned_comm he, add_comm .., add_comm ..⟩

theorem Rec.SameButStream.trans (hab : a.SameButStream b) (hbc : b.SameButStream c) : a.SameButStream c := by
  unfold SameButStream at *
  rw [← hbc, ← hab]

end

/-! ### The merge of a list of records (R179) -/

/-- A relation between records that merging keeps on the left, and that two mergeable records have when they change places, relates
the merges of a list in any two orders. -/
theorem mergeAll_perm {P R : Rec → Rec → Prop} (hrefl : ∀ a, R a a) (htrans : ∀ {a b c}, R a b → R b c → R a c)
    (hmerge : ∀ {a b}, R a b → ∀ c, R (mergeRec a c) (mergeRec b c)) (hcomm : ∀ {a b}, P a b → R (mergeRec a b) (mergeRec b a))
    {l₁ l₂ : List Rec} (hperm : l₁.Perm l₂) (hP : ∀ x ∈ l₁, ∀ y ∈ l₁, P x y) {a b : Rec} (ha : mergeAll l₁ = some a)
    (hb : mergeAll l₂ = some b) : R a b := by
  have hfold {x y : Rec} (h : R x y) (l : List Rec) : R (l.foldl mergeRec x) (l.foldl mergeRec y) := by
    induction l generalizing x y with
    | nil => exact h
    | cons z l ih => exact ih (hmerge h z)
  induction hperm generalizing a b with
  | nil => cases ha
  | cons x hperm _ =>
    have hsame := hperm.foldl_eq' (fun y _ z _ w => mergeRec_right_comm w y z) x
    cases ha
    cases hb
    rw [hsame]
    exact hrefl _
  | swap x y l =>
    cases ha
    cases hb
    exact hfold (hcomm (hP y (by simp) x (by simp))) l
  | trans h₁ h₂ ih₁ ih₂ =>
    rename_i l₁ l₂ l₃
    obtain ⟨c, hc⟩ : ∃ c, mergeAll l₂ = some c := by
      cases l₁ with
      | nil => cases ha
      | cons x l₁ => cases l₂ with
        | nil => cases h₁.eq_nil
        | cons y l₂ => exact ⟨_, rfl⟩
    exact htrans (ih₁ hP ha hc) (ih₂ (fun x hx y hy => hP x (h₁.mem_iff.2 hx) y (h₁.mem_iff.2 hy)) hc hb)

@[simp] theorem foldl_mergeRec_kind (l : List Rec) (r : Rec) : (l.foldl mergeRec r).kind = r.kind := by
  induction l generalizing r with
  | nil => rfl
  | cons x l ih => rw [List.foldl_cons, ih, mergeRec_kind]

/-- Merging on from a merged record is merging it with the merge of the rest. -/
theorem foldl_mergeRec {a x : Rec} (h : x.kind = a.kind) (l : List Rec) : l.foldl mergeRec (mergeRec a x) = mergeRec a (l.foldl mergeRec x) := by
  induction l generalizing x with
  | nil => rfl
  | cons y l ih => rw [List.foldl_cons, mergeRec_assoc h, ih (x := mergeRec x y) h, List.foldl_cons]

theorem mergeAll_append {l₁ l₂ : List Rec} {a b : Rec} (hkind : ∀ x ∈ l₁ ++ l₂, ∀ y ∈ l₁ ++ l₂, x.kind = y.kind)
    (ha : mergeAll l₁ = some a) (hb : mergeAll l₂ = some b) : mergeAll (l₁ ++ l₂) = some (mergeRec a b) := by
  cases l₁ with
  | nil => cases ha
  | cons x l₁ => cases l₂ with
    | nil => cases hb
    | cons y l₂ =>
      cases ha
      cases hb
      have hxy : y.kind = (l₁.foldl mergeRec x).kind := by
        rw [foldl_mergeRec_kind]
        exact hkind y (by simp) x (by simp)
      rw [← foldl_mergeRec hxy]
      simp [mergeAll]

/-! ### The zero record (R196) -/

/-- A merge with the zero record leaves every field of KIND. -/
theorem mergeRec_zero {r : Rec} (h : r.flags.toNat < 16) : (mergeRec r (zeroRec r)).SameOfKind r := by
  refine ⟨.refl r, ?_⟩
  simp only [mergeRec_eq, zeroRec, add_zero, mergeFlags_zero h, true_and]
  refine ⟨fun hmaxkey => ?_, fun habsmax => ?_, fun he => ?_, fun hsum => ?_, fun hsumsq => ?_⟩
  · cases hsum : kSum r.kind.toNat <;> simp [onlyIf]
  · simp [onlyIf]
  · cases hexpo : kExpo r.kind.toNat <;> simp [onlyIf]
  · simp [onlyIf]
  · simp [onlyIf]

/-- So does one onto it. -/
theorem zero_mergeRec {r : Rec} (h : r.flags.toNat < 16) : (mergeRec (zeroRec r) r).SameOfKind r := by
  refine (mergeRec_comm (a := zeroRec r) (b := r) (.refl r) (fun _ hsum => if_pos hsum) (fun hexpo hsumsq => ?_)).trans (mergeRec_zero h)
  exact (if_neg (ne_true_of_eq_false hexpo)).trans (if_pos hsumsq)

/-- Settles O56: a merge field by field (`mergeRec_eq`), the fields that do not follow the order of a list (`mergeAll_perm`), grouping
(`mergeAll_append`), and the zero record (`mergeRec_zero`, `zero_mergeRec`). -/
theorem mergingRecordsHasNoOrder : Obligations.MergingRecordsHasNoOrder := by
  unfold Obligations.MergingRecordsHasNoOrder
  intro sameRow agree same alike
  refine ⟨fun a b => ?_, fun r => ?_, fun l₁ l₂ hperm hagree a b ha hb => ⟨?_, fun halike => ?_⟩, fun l₁ l₂ a b hagree ha hb => ?_,
    fun r h => ⟨zero_mergeRec h, mergeRec_zero h⟩⟩
  · refine ⟨Rec.SamePlace.refl a, rfl, ?_, ?_, ?_, ?_, ?_, rfl, rfl, rfl, mergeFlags_getLsbD a.flags b.flags⟩
    all_goals simp only [mergeRec_eq, onlyIf]; split
    · exact maxWord_toNat ..
    · rfl
    · exact maxWord_toNat ..
    · rfl
    · exact maxSigned_toInt ..
    all_goals rfl
  · refine ⟨Rec.SamePlace.refl r, rfl, rfl, ?_, rfl, ?_, rfl, rfl, rfl, rfl, rfl⟩
    · cases hsum : kSum r.kind.toNat <;> simp [zeroRec, hsum]
    · cases hexpo : kExpo r.kind.toNat <;> cases hsumsq : kSumsq r.kind.toNat <;> simp [zeroRec, hexpo, hsumsq]
  · exact mergeAll_perm Rec.SameOfKind.refl Rec.SameOfKind.trans Rec.SameOfKind.mergeRec Rec.Agree.mergeRec_comm hperm hagree ha hb
  · exact mergeAll_perm (P := fun x y => x.Agree y ∧ x.AlikeElsewhere y) (R := Rec.SameButStream) (fun _ => rfl) Rec.SameButStream.trans
      Rec.SameButStream.mergeRec (fun h => h.1.mergeRec_comm_all h.2) hperm (fun x hx y hy => ⟨hagree x hx y hy, halike x hx y hy⟩) ha hb
  · refine mergeAll_append (fun x hx y hy => ?_) ha hb
    obtain ⟨⟨-, hkind, -⟩, -⟩ := hagree x hx y hy
    exact hkind

end Sys2Proof.Machine
end

section
/-! PROOFS. The merges of a band (R181, R200): a merge found by its row and stage, and what the operations on merges change. -/

namespace Sys2Proof.Machine

/-- The merge of a row's STAT stage. -/
def Merge.Of (m : Merge) (sid row step : Nat) : Prop := m.sid = sid ∧ m.row = row ∧ m.step = step

namespace State

variable {s : State} {b sid row step : Nat} {m old : Merge}

theorem merge_of (h : s.merge? b sid row step = some m) : m.Of sid row step := by
  have hkey := List.find?_some h
  simp only [Bool.and_eq_true, beq_iff_eq] at hkey
  obtain ⟨⟨hsid, hrow⟩, hstep⟩ := hkey
  exact ⟨hsid, hrow, hstep⟩

/-- The search for a merge sees the band's merges alone. -/
theorem merge_congr {t : State} (h : (t.band b).merges = (s.band b).merges) (sid row step : Nat) :
    t.merge? b sid row step = s.merge? b sid row step := by
  unfold merge?
  rw [h]

/-- A merge put in its place is found there. -/
theorem putMerge_merge (hb : b < 8) (h : s.merge? b sid row step = some old) (hm : m.Of sid row step) :
    (s.putMerge b m).merge? b sid row step = some m := by
  obtain ⟨rfl, rfl, rfl⟩ := hm
  obtain ⟨hsid, hrow, hstep⟩ := merge_of h
  unfold merge? at h ⊢
  rw [putMerge_band hb]
  have hkeep : (fun y : Merge => y.sid == m.sid && y.row == m.row && y.step == m.step) ∘
      (fun y => if y.sid == m.sid && y.row == m.row && y.step == m.step then m else y) =
      (fun y => y.sid == m.sid && y.row == m.row && y.step == m.step) := by
    funext y
    simp only [Function.comp]
    split <;> simp_all
  rw [List.find?_map, hkeep, h, Option.map_some, if_pos (by simp [hsid, hrow, hstep])]

theorem putMerge_band_ne {k : Nat} (h : b ≠ k) : (s.putMerge b m).band k = s.band k := modBand_band_ne _ _ _ _ h

theorem putMerge_queue (hb : b < 8) : ((s.putMerge b m).band b).fabQueue = (s.band b).fabQueue := by rw [putMerge_band hb]

theorem queueFab_band (hb : b < 8) (rs : List FabReq) :
    (s.queueFab b rs).band b = { s.band b with fabQueue := (s.band b).fabQueue ++ rs } := modBand_band _ _ _ hb

theorem queueFab_band_ne {k : Nat} (h : b ≠ k) (rs : List FabReq) : (s.queueFab b rs).band k = s.band k :=
  modBand_band_ne _ _ _ _ h

theorem queueFab_tile (b : Nat) (rs : List FabReq) (k : Nat) : (s.queueFab b rs).tile k = s.tile k := rfl

/-- A merge that asks is found in its place. -/
theorem askMerge_merge (hb : b < 8) (h : s.merge? b sid row step = some old) (hm : m.Of sid row step) :
    (s.askMerge b m).merge? b sid row step = some { m with asked := m.reads.length, again := false } := by
  refine (merge_congr ?_ _ _ _).trans (putMerge_merge hb h hm)
  rw [askMerge, queueFab_band hb]

end State

end Sys2Proof.Machine
end

section
/-! PROOFS. Re-reads and waits of merges and of GATHER windows (R201, R205, R250). -/

namespace Sys2Proof.Machine

/-- The band of a stream id is one of the eight (R261). -/
theorem sidBand_lt (sid : BitVec 14) : sidBand sid.toNat < 8 := by
  have := sid.isLt
  simp only [sidBand]
  omega

/-- So is the band of a tile (R25). -/
theorem bandOf_lt (i : Fin 88) : bandOf i.val < 8 := by
  have := i.isLt
  simp only [bandOf]
  omega

namespace State

variable {s : State}

/-! ### MERGE_REREAD and MWAIT_EXPIRY -/

section
variable {sid : BitVec 14} {row : BitVec 48} {step : Fin 12} {m : Merge}
  (hm : s.merge? (sidBand sid.toNat) sid.toNat row.toNat step.val = some m)
include hm

theorem exec_mergeReread : exec (.mergeReread sid row step) s = .next
    (if m.again && m.asked == 0 && (s.band (sidBand sid.toNat)).fabUp && s.bandRuns (sidBand sid.toNat) then
      s.askMerge (sidBand sid.toNat) m else s) := by
  simp only [exec, execMergeReread, mergeReread, hm]

theorem exec_mwaitExpiry : exec (.mwaitExpiry sid row step) s = .next
    (if s.bandRuns (sidBand sid.toNat) && s.policy.mwait != 0 && m.began && !m.waitReported then
      (s.putMerge (sidBand sid.toNat) { m with waitReported := true }).notice (srcBand (sidBand sid.toNat)) evMergeWait (waitPayload m)
    else s) := by
  simp only [exec, execMwaitExpiry, mwaitExpiry, hm]

end

/-! ### Lists of GATHER windows -/

/-- What the read of a list begins with: its first 16 bytes, line by line, at the list's own address. -/
def headerReads (i : Nat) (w : Block) : List FabReq :=
  readRange (fun off => .list i w.sid w.pass w.index off) 2 (listAddr w % 2 ^ 52) 0 16

/-- A window whose list is being read from its beginning. -/
def readHeader (i : Nat) (w : Block) : Block :=
  { w with phase := .header, want := 16, gbytes := List.replicate 16 0, readBad := false, asked := (headerReads i w).length }

theorem askHeader_eq (i : Nat) (w : Block) : s.askList i w .header 16 =
    (s.modTile i (fun x => x.putBlock (readHeader i w))).queueFab (bandOf i) (headerReads i w) := rfl

theorem askHeader_queue (i : Fin 88) (w : Block) : ((s.askList i.val w .header 16).band (bandOf i.val)).fabQueue =
    (s.band (bandOf i.val)).fabQueue ++ headerReads i.val w := by
  rw [askHeader_eq, queueFab_band (bandOf_lt i), modTile_band]

theorem askHeader_tile (i : Fin 88) (w : Block) : (s.askList i.val w .header 16).tile i.val =
    (s.tile i.val).putBlock (readHeader i.val w) := by
  rw [askHeader_eq, queueFab_tile, modTile_tile _ _ _ i.isLt]

theorem askHeader_tile_ne {i k : Fin 88} (hk : k ≠ i) (w : Block) : (s.askList i.val w .header 16).tile k.val = s.tile k.val := by
  rw [askHeader_eq, queueFab_tile, modTile_tile_ne _ _ _ _ fun h => hk (Fin.ext h.symm)]

section
variable {i : Fin 88} {sid : BitVec 14} {p : Fin 4} {w : Block}

theorem exec_gatherListRead (hruns : s.tileRuns i.val = true) (hw : (s.tile i.val).window? sid.toNat p.val
    (fun w => w.phase == .collecting && s.windowFull i.val w) = some w) :
    exec (.gatherListRead i sid p) s = .next (s.askList i.val w .header 16) := by
  simp only [exec, execGatherListRead, listAsk, hruns, if_true, hw]

theorem exec_gatherListRead_idle (h : s.tileRuns i.val = false ∨ (s.tile i.val).window? sid.toNat p.val
    (fun w => w.phase == .collecting && s.windowFull i.val w) = none) : exec (.gatherListRead i sid p) s = .next s := by
  simp only [exec, execGatherListRead, listAsk]
  rcases h with h | h <;> simp [h]

theorem exec_gatherListReread (hruns : s.tileRuns i.val = true)
    (hw : (s.tile i.val).window? sid.toNat p.val (fun w => w.phase == .waiting) = some w) :
    exec (.gatherListReread i sid p) s = .next (s.askList i.val w .header 16) := by
  simp only [exec, execGatherListReread, listReread, hruns, if_true, hw]

theorem exec_gatherListReread_idle (h : s.tileRuns i.val = false ∨
    (s.tile i.val).window? sid.toNat p.val (fun w => w.phase == .waiting) = none) :
    exec (.gatherListReread i sid p) s = .next s := by
  simp only [exec, execGatherListReread, listReread]
  rcases h with h | h <;> simp [h]

/-- A window whose wait has been reported. -/
def waitTold (s : State) (i : Nat) (w : Block) : State :=
  (s.modTile i (fun x => x.putBlock { w with waitReported := true })).notice (srcBand (bandOf i)) evGatherWait
    (layoutS w.sid w.pass w.stage i 0 w.index w.count w.indexCount)

theorem exec_gatherWaitExpiry (hruns : s.tileRuns i.val = true) (hmwait : s.policy.mwait ≠ 0)
    (hw : (s.tile i.val).window? sid.toNat p.val (fun w => w.waiting && !w.waitReported) = some w) :
    exec (.gatherWaitExpiry i sid p) s = .next (s.waitTold i.val w) := by
  simp [exec, execGatherWaitExpiry, gatherWait, hruns, hw, hmwait, waitTold]

theorem exec_gatherWaitExpiry_idle (h : s.tileRuns i.val = false ∨ s.policy.mwait = 0 ∨
    (s.tile i.val).window? sid.toNat p.val (fun w => w.waiting && !w.waitReported) = none) :
    exec (.gatherWaitExpiry i sid p) s = .next s := by
  simp only [exec, execGatherWaitExpiry, gatherWait]
  rcases h with h | h | h
  · simp [h]
  · cases (s.tile i.val).window? sid.toNat p.val (fun w => w.waiting && !w.waitReported) <;> simp [h]
  · simp [h]

end

theorem waitTold_tile (i : Fin 88) (w : Block) :
    (s.waitTold i.val w).tile i.val = (s.tile i.val).putBlock { w with waitReported := true } := by
  rw [waitTold, notice_tile, modTile_tile _ _ _ i.isLt]

theorem waitTold_tile_ne {i k : Fin 88} (hk : k ≠ i) (w : Block) : (s.waitTold i.val w).tile k.val = s.tile k.val := by
  rw [waitTold, notice_tile, modTile_tile_ne _ _ _ _ fun h => hk (Fin.ext h.symm)]

theorem waitTold_kindCount (i : Nat) (w : Block) : (s.waitTold i w).kindCount (srcBand (bandOf i)) evGatherWait =
    satInc (s.kindCount (srcBand (bandOf i)) evGatherWait) := by
  rw [waitTold, notice_kindCount, if_pos ⟨rfl, rfl⟩]
  rfl

theorem waitTold_frame (i : Nat) (w : Block) : s.waitTold i w = { s with
    tiles := (s.waitTold i w).tiles, taps := (s.waitTold i w).taps, arb := (s.waitTold i w).arb
    intStatus := (s.waitTold i w).intStatus } := by
  unfold waitTold
  refine (notice_frame ..).trans ?_
  rw [notice_tiles]
  rfl

end State

/-- Windows that stand for the same list are one window once it is put in its place. -/
theorem Tile.mem_putBlock {x : Tile} {w v : Block} (hv : v ∈ (x.putBlock w).blocks) (hsame : v.same w = true) : v = w := by
  obtain ⟨y, -, hy⟩ := List.mem_map.1 hv
  split at hy
  · exact hy.symm
  · exact absurd (hy ▸ hsame) (by assumption)

/-- Settles O44: the re-read of a merge (`State.askMerge_band`), the report of its wait, which the merge remembers
(`State.putMerge_merge`), and the same of a window's list (`State.askHeader_eq`, `Tile.mem_putBlock`). -/
theorem waitsAreReReadAndReportedOnce : Obligations.WaitsAreReReadAndReportedOnce := by
  constructor
  · intro sid row step m s b hm
    have hb := sidBand_lt sid
    have hof := State.merge_of hm
    refine ⟨fun hagain hasked hup hruns => ?_, fun hidle => ?_, fun hstands => ?_, fun hruns hmwait hbegan hnew => ?_, fun hmwait => ?_⟩
    · refine ⟨s.askMerge b m, ?_, ?_, State.askMerge_merge hb hm hof, fun k hk => ?_, rfl⟩
      · rw [State.exec_mergeReread hm, if_pos (by simp [b, hagain, hasked, hup, hruns])]
      · rw [State.askMerge_band hb]
      · exact State.askMerge_band_ne (Ne.symm hk) m
    · rw [State.exec_mergeReread hm, if_neg (by rcases hidle with h | h | h <;> simp [b, h])]
    · rw [State.exec_mwaitExpiry hm, if_neg (by simp [b, hstands])]
    · have hfound : ((s.putMerge b { m with waitReported := true }).notice (srcBand b) evMergeWait (waitPayload m)).merge? b
          sid.toNat row.toNat step.val = some { m with waitReported := true } :=
        (State.merge_congr (by rw [State.notice_band]) _ _ _).trans (State.putMerge_merge hb hm hof)
      refine ⟨_, ?_, hfound, ?_, ?_, ?_, ?_⟩
      · rw [State.exec_mwaitExpiry hm, if_pos (by simp [b, hruns, hmwait, hbegan, hnew])]
      · rw [State.notice_kindCount, if_pos ⟨rfl, rfl⟩]
        rfl
      · rw [State.notice_band, State.putMerge_queue hb]
      · refine (State.notice_frame ..).trans ?_
        rw [State.notice_bands]
        rfl
      · rw [State.exec_mwaitExpiry hfound, if_neg (by simp)]
    · rw [State.exec_mwaitExpiry hm, if_neg (by simp [hmwait])]
  · intro i sid p w s b asks due
    have hasks : asks (s.askList i.val w .header 16) (State.headerReads i.val w) :=
      ⟨rfl, State.askHeader_queue i w, State.askHeader_tile i w, fun k hk => State.askHeader_tile_ne hk w, rfl⟩
    refine ⟨fun hruns => ⟨fun hw => ⟨_, _, State.exec_gatherListRead hruns hw, hasks⟩,
      fun hw => ⟨_, _, State.exec_gatherListReread hruns hw, hasks⟩, fun hmwait hw => ?_⟩,
      State.exec_gatherListRead_idle, State.exec_gatherListReread_idle, State.exec_gatherWaitExpiry_idle⟩
    refine ⟨_, State.exec_gatherWaitExpiry hruns hmwait hw, State.waitTold_tile i w, fun k hk => State.waitTold_tile_ne hk w,
      State.waitTold_kindCount i.val w, State.waitTold_frame i.val w, fun v hv hsame => ?_⟩
    rw [State.waitTold_tile] at hv
    exact congrArg Block.waitReported (Tile.mem_putBlock hv hsame)

end Sys2Proof.Machine
end

section
/-! PROOFS. What the row passes, the blocks and the service operations of a tile never touch as they go on: the mailboxes and their
doorbells, and of each band its merges and its outstanding requests. One lemma for each operation. -/

namespace Sys2Proof.Machine

/-- The mailboxes, the order of doorbells, and the merges and outstanding requests of each band. -/
structure Apart where
  mbx    : Vector Mailbox 4
  bells  : List (Fin 4)
  merges : Vector (List Merge) 8
  fabOut : Vector (List (Nat × FabReq)) 8

namespace State

def apart (s : State) : Apart where
  mbx := s.mbx
  bells := s.bells
  merges := s.bands.map Band.merges
  fabOut := s.bands.map Band.fabOut

section
variable {s t : State} (h : t.apart = s.apart)
include h

theorem mbx_of_apart : t.mbx = s.mbx := congrArg Apart.mbx h

theorem bells_of_apart : t.bells = s.bells := congrArg Apart.bells h

theorem merges_of_apart {b : Nat} (hb : b < 8) : (t.band b).merges = (s.band b).merges := by
  have hget : t.bands[b].merges = s.bands[b].merges := by simpa [apart] using congrArg (fun x => x.merges[b]) h
  simpa [band, hb] using hget

theorem fabOut_of_apart {b : Nat} (hb : b < 8) : (t.band b).fabOut = (s.band b).fabOut := by
  have hget : t.bands[b].fabOut = s.bands[b].fabOut := by simpa [apart] using congrArg (fun x => x.fabOut[b]) h
  simpa [band, hb] using hget

end

variable (s : State)

@[simp] theorem apart_ite (c : Prop) [Decidable c] (a b : State) : (if c then a else b).apart = if c then a.apart else b.apart :=
  apply_ite _ _ _ _

theorem foldl_apart {α : Type} (f : State → α → State) (l : List α) (h : ∀ u a, (f u a).apart = u.apart) :
    (l.foldl f s).apart = s.apart := by
  induction l generalizing s with
  | nil => rfl
  | cons a l ih => exact (ih _).trans (h s a)

/-! ### Basic updates -/

/-- What a change of a band leaves of each band. -/
theorem modBand_map {α : Type} (g : Band → α) (b : Nat) (f : Band → Band) (hg : ∀ x, g (f x) = g x) :
    (s.modBand b f).bands.map g = s.bands.map g := by
  change (s.bands.setIfInBounds b (f (s.band b))).map g = s.bands.map g
  refine Vector.ext fun i hi => ?_
  rw [Vector.getElem_map, Vector.getElem_map, Vector.getElem_setIfInBounds hi]
  split
  · next heq =>
    subst heq
    rw [hg]
    simp [band, hi]
  · rfl

/-- A change of a band that leaves its merges and its outstanding requests. -/
@[simp] theorem modBand_apart (b : Nat) (f : Band → Band) (h : ∀ x, (f x).merges = x.merges ∧ (f x).fabOut = x.fabOut) :
    (s.modBand b f).apart = s.apart :=
  congrArg₂ (Apart.mk s.mbx s.bells) (s.modBand_map _ b f fun x => (h x).1) (s.modBand_map _ b f fun x => (h x).2)

@[simp] theorem modTile_apart (t : Nat) (f : Tile → Tile) : (s.modTile t f).apart = s.apart := rfl
@[simp] theorem modTiles_apart (ts : List Nat) (f : Tile → Tile) : (s.modTiles ts f).apart = s.apart := by rw [modTiles_frame]; rfl
@[simp] theorem modStream_apart (n : Nat) (f : Stream → Stream) : (s.modStream n f).apart = s.apart := rfl
@[simp] theorem dropStream_apart (n : Nat) : (s.dropStream n).apart = s.apart := rfl
@[simp] theorem setInt_apart (k : Nat) : (s.setInt k).apart = s.apart := rfl
@[simp] theorem modLong_apart (o : Nat) (g : BitVec 16) (f : LongOp → LongOp) : (s.modLong o g f).apart = s.apart := rfl
@[simp] theorem booked_apart (f : State → State) : (s.booked f).apart = (f s).apart := rfl
@[simp] theorem prune_apart : s.prune.apart = s.apart := rfl

/-! ### Reports and the change log -/

@[simp] theorem report_apart (src code : Nat) (p : Nat → Nat) : (s.report src code p).apart = s.apart := by rw [report_frame]; rfl
@[simp] theorem report2_apart (src code : Nat) (p : Nat → Nat) (q : Option Nat) : (s.report2 src code p q).apart = s.apart := by
  rw [report2_frame]; rfl
@[simp] theorem notice_apart (src code p : Nat) : (s.notice src code p).apart = s.apart := by rw [notice_frame]; rfl
@[simp] theorem logPut_apart (i : LogInfo) : (s.logPut i).apart = s.apart := by rw [logPut_frame]; rfl
@[simp] theorem logHw_apart (k x m n : Nat) : (s.logHw k x m n).apart = s.apart := by rw [logHw_frame]; rfl
@[simp] theorem countTap_apart (src code n : Nat) : (s.countTap src code n).apart = s.apart := by
  unfold countTap; split <;> rfl
@[simp] theorem finishLong_apart (o : Nat) (g : BitVec 16) (r m n : Nat) : (s.finishLong o g r m n).apart = s.apart := by
  unfold finishLong
  split
  · rfl
  · rw [notice_apart, logPut_apart]; rfl

/-! ### Suspension and late row passes -/

@[simp] theorem suspend_apart (sid : Nat) (f : Causes → Causes) : (s.suspend sid f).apart = s.apart := rfl

@[simp] theorem resume_apart (sid : Nat) : (s.resume sid).apart = s.apart := by
  unfold resume
  split <;> simp

@[simp] theorem passEnded_apart (sid row pass ticks : Nat) (promised : Bool) :
    (s.passEnded sid row pass ticks promised).apart = s.apart := by
  unfold passEnded
  split <;> simp

/-! ### The map and the service operations -/

@[simp] theorem setSvc_apart (b : Nat) (o : Option SvcOp) : (s.setSvc b o).apart = s.apart := modBand_apart _ _ _ fun _ => ⟨rfl, rfl⟩
@[simp] theorem setSpare_apart (b : Nat) (t : Option Nat) : (s.setSpare b t).apart = s.apart := modBand_apart _ _ _ fun _ => ⟨rfl, rfl⟩
@[simp] theorem gate_apart (t : Nat) : (s.gate t).apart = s.apart := rfl
@[simp] theorem powerUp_apart (t : Nat) : (s.powerUp t).apart = s.apart := rfl
@[simp] theorem setActive_apart (t : Nat) (on : Bool) : (s.setActive t on).apart = s.apart := rfl
@[simp] theorem svcCount_apart (o : SvcOp) : (s.svcCount o).apart = s.apart := rfl
@[simp] theorem svcRestore_apart (b : Nat) (o : SvcOp) : (s.svcRestore b o).apart = s.apart := by simp [svcRestore]
@[simp] theorem refreshService_apart : s.refreshService.apart = s.apart := by rw [refreshService_frame]; rfl
@[simp] theorem refreshBand_apart (b : Nat) : (s.refreshBand b).apart = s.apart := by simp [refreshBand]
@[simp] theorem reportMap_apart (b old : Nat) : (s.reportMap b old).apart = s.apart := by simp [reportMap]

@[simp] theorem changeMap_apart (b : Nat) (f : State → State) (h : ∀ u, (f u).apart = u.apart) : (s.changeMap b f).apart = s.apart := by
  simp [changeMap, h]

@[simp] theorem svcEnd_apart (b : Nat) : (s.svcEnd b).apart = s.apart := by
  unfold svcEnd
  split <;> simp

@[simp] theorem svcStop_apart (b : Nat) : (s.svcStop b).apart = s.apart := by
  unfold svcStop
  split <;> simp

@[simp] theorem svcFail_apart (b : Nat) : (s.svcFail b).apart = s.apart := by
  unfold svcFail
  split <;> simp

@[simp] theorem svcBegin_apart (b : Nat) (o : SvcOp) (t : Nat) : (s.svcBegin b o t).apart = s.apart := by
  have hleaves : (s.changeMap b fun s => s.setActive t false).apart = s.apart := changeMap_apart _ _ _ fun _ => rfl
  unfold svcBegin
  repeat' split
  all_goals simp [hleaves]

@[simp] theorem svcNext_apart (b : Nat) : (s.svcNext b).apart = s.apart := by
  unfold svcNext
  dsimp only
  repeat' split
  all_goals simp

@[simp] theorem svcRetire_apart (b : Nat) (o : SvcOp) : (s.svcRetire b o).apart = s.apart := by simp [svcRetire]

@[simp] theorem svcGate_apart (b : Nat) (o : SvcOp) : (s.svcGate b o).apart = s.apart := by
  unfold svcGate
  repeat' split
  all_goals simp

@[simp] theorem restoreGoOn_apart (t : Nat) : (s.restoreGoOn t).apart = s.apart := by simp [restoreGoOn]

@[simp] theorem svcSettle_apart (b : Nat) : (s.svcSettle b).apart = s.apart := by
  unfold svcSettle
  repeat' split
  all_goals simp

/-- The end of a closing stream (R284). -/
@[simp] theorem finishClose_apart (sid : Nat) : (s.finishClose sid).apart = s.apart := by
  unfold finishClose
  repeat' split
  all_goals simp
  all_goals rfl

/-! ### Findings of a batch, and the trap -/

@[simp] theorem noteSats_apart (t : Nat) (rp : RowPass) (sats : List (Nat × Nat × Nat)) : (s.noteSats t rp sats).apart = s.apart := by
  unfold noteSats
  split <;> simp

@[simp] theorem opdCross_apart (b : Nat) : (s.opdCross b).apart = s.apart := by
  unfold opdCross
  split
  · exact modBand_apart s b (fun x => { x with opdLeft := (bandTiles b).map fun t => min 16 (s.tile t).egress.length }) fun _ => ⟨rfl, rfl⟩
  · rfl

@[simp] theorem fabCross_apart (b : Nat) : (s.fabCross b).apart = s.apart :=
  modBand_apart _ _ _ fun x => by split <;> exact ⟨rfl, rfl⟩

@[simp] theorem trapHalted_apart : s.trapHalted.apart = s.apart := rfl

@[simp] theorem haltBand_apart (b : Nat) : (s.haltBand b).apart = s.apart := by
  unfold haltBand
  dsimp only
  rw [foldl_apart _ _ _ fun u x => suspend_apart ..]
  simp

@[simp] theorem noteNans_apart (t : Nat) (rp : RowPass) (nans : List NanNote) : (s.noteNans t rp nans).apart = s.apart := by
  have hlatch (n : NanNote) (more : List NanNote) : (s.latchNan t rp n more).apart = s.apart := by
    rw [latchNan_frame]
    rfl
  obtain h | ⟨n, more, h⟩ := noteNans_cases s t rp nans
  · rw [h]
    rfl
  · rw [h]
    split
    · rw [haltBand_apart, hlatch]
    · exact hlatch n more

@[simp] theorem addNotes_apart (t : Nat) (rp : RowPass) (n : Notes) : (s.addNotes t rp n).apart = s.apart := by simp [addNotes]

/-! ### Row passes -/

@[simp] theorem placePass_apart (t : Nat) (rp : RowPass) : (s.placePass t rp).apart = s.apart := rfl
@[simp] theorem putPass_apart (t : Nat) (rp : RowPass) : (s.putPass t rp).apart = s.apart := rfl
@[simp] theorem passRan_apart (t : Nat) (rp : RowPass) (qs : List (Nat × List (List EvalKind))) : (s.passRan t rp qs).apart = s.apart := rfl
@[simp] theorem releasePass_apart (t : Nat) (rp : RowPass) : (s.releasePass t rp).apart = s.apart := rfl
@[simp] theorem freeHold_apart (sid row : Nat) : (s.freeHold sid row).apart = s.apart := rfl
@[simp] theorem claimRow_apart (rp : RowPass) : (s.claimRow rp).apart = s.apart := by rw [claimRow_frame]; rfl
@[simp] theorem startClock_apart (t : Nat) (rp : RowPass) : (s.startClock t rp).apart = s.apart := by simp [startClock]

@[simp] theorem beginPass_apart (t : Nat) (rp : RowPass) : (s.beginPass t rp).apart = s.apart := by
  unfold beginPass
  dsimp only
  repeat' split
  all_goals simp

@[simp] theorem finishPass_apart (t : Nat) (rp : RowPass) : (s.finishPass t rp).apart = s.apart := by simp [finishPass]

@[simp] theorem handOn_apart (t : Nat) (rp : RowPass) : (s.handOn t rp).apart = s.apart := by
  unfold handOn
  dsimp only
  split <;> simp

@[simp] theorem measurePass_apart (t : Nat) (rp : RowPass) (r : RowCtx) : (s.measurePass t rp r).apart = s.apart := by
  simp [measurePass]

@[simp] theorem endPass_apart (t : Nat) (rp : RowPass) : (s.endPass t rp).apart = s.apart := by
  unfold endPass
  dsimp only
  repeat' split
  all_goals simp

@[simp] theorem advancePass_apart (t sid row pass : Nat) : (s.advancePass t sid row pass).apart = s.apart := by
  unfold advancePass
  extract_lets s1 s2 s3 s4
  have h1 : s1.apart = s.apart := by
    subst s1
    split <;> simp
  have h2 : s2.apart = s1.apart := by
    subst s2
    split <;> simp
  have h3 : s3.apart = s2.apart := by
    subst s3
    split <;> simp
  have h4 : s4.apart = s3.apart := by
    subst s4
    split <;> simp
  have h5 : s4.apart = s.apart := by rw [h4, h3, h2, h1]
  split <;> simp [h5]

@[simp] theorem settlePass_apart (t sid row pass : Nat) : (s.settlePass t sid row pass).apart = s.apart := by simp [settlePass]

@[simp] theorem sendBlocks_apart (t : Nat) : (s.sendBlocks t).apart = s.apart := by simp [sendBlocks, foldl_apart]

@[simp] theorem settleBlocks_apart (t : Nat) : (s.settleBlocks t).apart = s.apart := by simp [settleBlocks]

@[simp] theorem settleTile_apart (t : Nat) : (s.settleTile t).apart = s.apart := by simp [settleTile, foldl_apart]

@[simp] theorem settleTiles_apart (ts : List Nat) : (s.settleTiles ts).apart = s.apart := by simp [settleTiles, foldl_apart]

end State

end Sys2Proof.Machine
end

section
/-! PROOFS. The end of a merge (R200, R206, R418), and MERGE ABANDON. -/

namespace Sys2Proof.Machine
open Sys2Proof.Safety

/-! ### The end of a merge -/

/-- A band that a merge leaves: its requests are withdrawn, and its READERS add is queued (R200). -/
def Band.endMerge (x : Band) (m : Merge) : Band :=
  { x with
    merges := x.merges.filter (fun y => !(y.sid == m.sid && y.row == m.row && y.step == m.step))
    fabQueue := dropRequests m x.fabQueue ++ [addReq (m.owner .addReaders) false m.control 1] }

/-- A row with the final record of a merge. -/
def RowCtx.addFinal (c : RowCtx) (m : Merge) (rcd : Rec) : RowCtx := { c with finals := c.finals ++ [{ step := m.step, rcd := rcd }] }

namespace State

variable {s : State} {b sid row step : Nat} {m : Merge} {rcd : Rec} {x : Stream} {r : RowCtx}

/-- The merge has left its place and its row has the final record; nothing has gone on with the record yet. -/
def mergeEnded (s : State) (b : Nat) (m : Merge) (rcd : Rec) : State :=
  ((s.endWait m).modBand b (fun x => x.endMerge m)).modStream m.sid (fun x => x.modRow m.row (fun c => c.addFinal m rcd))

theorem mergeEnded_band (hb : b < 8) : (s.mergeEnded b m rcd).band b = (s.band b).endMerge m :=
  modBand_band (s.endWait m) b (fun x => x.endMerge m) hb

theorem mergeEnded_band_ne {k : Nat} (h : b ≠ k) : (s.mergeEnded b m rcd).band k = s.band k :=
  modBand_band_ne (s.endWait m) b k (fun x => x.endMerge m) h

/-- The ended merge is found no more. -/
theorem mergeEnded_merge (hb : b < 8) (hm : m.Of sid row step) : (s.mergeEnded b m rcd).merge? b sid row step = none := by
  obtain ⟨rfl, rfl, rfl⟩ := hm
  unfold merge?
  rw [mergeEnded_band hb, List.find?_eq_none]
  intro y hy
  have hkey := (List.mem_filter.1 hy).2
  exact ne_true_of_eq_false (Bool.not_eq_true' _ ▸ hkey)

/-- The row passes learn that the wait of a merge is over, and nothing else of a tile changes. -/
theorem mergeEnded_tile (i : Fin 88) : { (s.mergeEnded b m rcd).tile i.val with rows := [] } = { s.tile i.val with rows := [] } := by
  have htile : (s.mergeEnded b m rcd).tile i.val = (s.tile i.val).mapPasses m.sid (fun r => r.waitOver (m.row, m.step)) := by
    change (s.tiles.map _)[i.val]?.getD _ = _
    simp [tile]
  rw [htile]
  rfl

theorem mergeEnded_stream_map (k : Nat) : (s.mergeEnded b m rcd).stream? k =
    (s.stream? k).map (fun x => if x.sid == m.sid then x.modRow m.row (fun c => c.addFinal m rcd) else x) :=
  modStream_stream _ m.sid k (fun x => x.modRow m.row (fun c => c.addFinal m rcd)) fun _ => rfl

theorem mergeEnded_stream (hx : s.stream? m.sid = some x) : (s.mergeEnded b m rcd).stream? m.sid =
    some (x.modRow m.row (fun c => c.addFinal m rcd)) := by
  rw [mergeEnded_stream_map, hx, Option.map_some, if_pos (by simp [sid_of_stream hx])]

theorem mergeEnded_stream_ne {k : Nat} (hk : k ≠ m.sid) : (s.mergeEnded b m rcd).stream? k = s.stream? k := by
  rw [mergeEnded_stream_map]
  cases hx : s.stream? k with
  | none => rfl
  | some x => rw [Option.map_some, if_neg (by simp [sid_of_stream hx, hk])]

/-- Then the tiles of the row go on (R31, R180). -/
theorem endMerge_eq (hx : s.stream? m.sid = some x) (hr : x.row? m.row = some r) :
    s.endMerge b m rcd = (s.mergeEnded b m rcd).settleTiles r.tiles := by
  have hrow : ((s.mergeEnded b m rcd).stream? m.sid).bind (fun x => x.row? m.row) =
      some (r.addFinal m rcd) := by
    rw [mergeEnded_stream hx]
    exact Stream.modRow_row hr (fun c => c.addFinal m rcd) fun _ => rfl
  change (match ((s.mergeEnded b m rcd).stream? m.sid).bind (fun x => x.row? m.row) with
    | none => s.mergeEnded b m rcd
    | some c => (s.mergeEnded b m rcd).settleTiles c.tiles) = _
  rw [hrow]
  rfl

/-! ### MERGE ABANDON (R206) -/

/-- The log entry of MERGE (Table 16.9). -/
def mergeEntry (s : State) (c : Cmd) : LogInfo where
  origin := c.m
  kind := kMerge
  result := stOk
  tag := c.tag.toNat
  object := s.logObject c
  oldh := c.arg 2 % 2 ^ 32
  newh := 0

/-- A change that MERGE makes, where the log has room. -/
theorem commit_merge {c : Cmd} {f : State → State} (hop : c.op = opMergeCmd) (hroom : s.logRoom false = true) :
    s.commit c (bits (c.arg 2) 31 0) 0 f (fun _ => []) = ((f s).logPut (s.mergeEntry c)).answer c stOk [] := by
  have hbits : bits (c.arg 2) 31 0 = c.arg 2 % 2 ^ 32 := rfl
  rw [commit_room _ _ _ _ _ _ hroom, hop, hbits]
  rfl

theorem mergeAbandon_eq {c : Cmd} (hop : c.op = opMergeCmd) (hroom : s.logRoom false = true)
    (h4 : c.arg 4 = 0) (h5 : c.arg 5 = 0) (haway : (s.band (sidBand (bits (c.arg 1) 29 16))).away = false)
    (hm : s.merge? (sidBand (bits (c.arg 1) 29 16)) (bits (c.arg 1) 29 16) c.mergeRow (bits (c.arg 1) 11 8) = some m)
    (hbegan : m.began = true) : s.mergeAbandon c =
      ((s.failMerge (sidBand (bits (c.arg 1) 29 16)) m).logPut (s.mergeEntry c)).answer c stOk [] := by
  unfold mergeAbandon
  dsimp only
  rw [if_neg (by simp [haway]), if_neg (by simp [h4, h5]), hm]
  dsimp only
  rw [if_neg (by simp [hbegan]), commit_merge hop hroom]

end State

/-- Settles O27: the merge has left its place (`State.mergeEnded`), and what the tiles of its row then do touches neither the merges of
the band nor the mailboxes (`State.settleTiles_apart`). -/
theorem abandonPoisonsTheRow : Obligations.AbandonPoisonsTheRow := by
  intro m g x r s c sid b poisoned haccepted hroom hop0 h4 h5 hg hbegan hx hr haway
  have hb : b < 8 := by
    have hsid : sid < 2 ^ 14 := Nat.mod_lt _ (by decide)
    simp only [b, sidBand]
    omega
  have hof := State.merge_of hg
  obtain ⟨hgsid, hgrow, -⟩ := id hof
  have hexec : exec (.mergeAbandon m) s =
      .next ((((s.mergeEnded b g poisoned).settleTiles r.tiles).logPut (s.mergeEntry c)).answer c stOk []) := by
    refine congrArg Host.Outcome.next ((State.runCmd_accepted s m opMergeCmd _ _ haccepted (by simpa using hop0)).trans ?_)
    rw [State.mergeAbandon_eq (State.takes_op haccepted.1) hroom h4 h5 haway hg hbegan, State.failMerge,
      State.endMerge_eq (hgsid ▸ hx) (hgrow ▸ hr)]
  have hapart := State.settleTiles_apart (s.mergeEnded b g poisoned) r.tiles
  refine ⟨BitVec.or_comm .., rfl, rfl, rfl, s.mergeEnded b g poisoned, _, _, hexec, ?_, ?_, rfl, rfl, hgsid ▸ State.mergeEnded_stream (hgsid ▸ hx), ?_,
    fun k hk => State.mergeEnded_stream_ne (hgsid ▸ hk), congrArg Band.fabQueue (State.mergeEnded_band hb),
    fun k hk => State.mergeEnded_band_ne (Ne.symm hk), State.mergeEnded_tile⟩
  · refine State.answer_answered s _ m stOk [] ?_ ?_ _ rfl rfl
    · rw [State.logPut_mbx, State.mbx_of_apart hapart]
      rfl
    · rw [State.logPut_bells, State.bells_of_apart hapart]
      rfl
  · refine (State.merge_congr (s := s.mergeEnded b g poisoned) ?_ _ _ _).trans (State.mergeEnded_merge hb hof)
    rw [← State.merges_of_apart hapart hb]
    simp [State.band]
  · rw [← hgrow]
    exact Stream.modRow_row (hgrow ▸ hr) (fun c => c.addFinal g poisoned) fun _ => rfl

end Sys2Proof.Machine
end

section
/-! PROOFS. MERGE COMBINE (R195 to R197, R206): what the record of an area is, and what the command changes. -/

namespace Sys2Proof.Machine
open Sys2Proof.Safety

/-! ### The parts of an area -/

/-- A part in a slot that was read. -/
def partIn (row pass step : Nat) (p : HostRead × Nat) : Option (Nat × Rec) :=
  match p.1 with
  | .failed .. => none
  | .data bs =>
    let bs := padTake bs 64
    let r := parseRec bs
    if recCrcOk bs && r.row.toNat == row && r.pass.toNat == pass && r.step.toNat == step then some (p.2, r) else none

theorem readParts_eq (row pass step : Nat) (area : List HostRead) :
    readParts row pass step area = area.zipIdx.filterMap (partIn row pass step) := rfl

/-- Where there are as many parts as slots, every slot was read. -/
theorem read_of_readParts {row pass step : Nat} {area : List HostRead} (h : (readParts row pass step area).length = area.length)
    {p : HostRead × Nat} (hp : p ∈ area.zipIdx) : ∃ bs, p.1 = .data bs := by
  rw [readParts_eq, List.length_filterMap_eq_countP, ← List.length_zipIdx (l := area) (i := 0), List.countP_eq_length] at h
  have hsome := h p hp
  cases hread : p.1 with
  | data bs => exact ⟨bs, rfl⟩
  | failed poison line => simp [partIn, hread] at hsome

theorem mismatchReason_stream (a b : Rec) (n : BitVec 14) : mismatchReason { a with stream := n } b = mismatchReason a b := rfl

theorem mismatchReason_self (a : Rec) : mismatchReason a a = 0 := by simp [mismatchReason]

/-- The parts of an area that agree with its first merge onto the zero record, and none disagrees. -/
theorem mergeParts_agree {own : Rec} {parts : List (Nat × Rec)} (h : ∀ q ∈ parts, mismatchReason own q.2 = 0) :
    mergeParts own parts = ((parts.map (fun q => q.2)).foldl mergeRec (zeroRec own), []) := by
  have hbad : parts.filterMap (fun p => if mismatchReason own p.2 == 0 then none else some (p.1, p.2, mismatchReason own p.2)) = [] :=
    List.filterMap_eq_nil_iff.2 fun q hq => by simp [h q hq]
  have hgood : parts.filter (fun p => mismatchReason own p.2 == 0) = parts := List.filter_eq_self.2 fun q hq => by simp [h q hq]
  unfold mergeParts
  dsimp only
  rw [hbad, hgood, List.foldl_map]

namespace State

variable {s : State}

/-! ### The record of COMBINE -/

/-- A slot whose read failed: the line that it was read in, and whether its bytes came poisoned. -/
def failedRead (base : Nat) (p : HostRead × Nat) : Option (Nat × Bool) :=
  match p.1 with
  | .failed poison _ => some (base + 64 * p.2 - (base + 64 * p.2) % 128, poison)
  | .data _ => none

/-- The record that stands for the own one: the first part present, or what the chain says of the row. -/
def combineOwn (x : Stream) (v : Chain) (k row : Nat) (parts : List (Nat × Rec)) : Rec :=
  match parts with
  | (_, r) :: _ => { r with stream := BitVec.ofNat 14 x.sid }
  | [] => v.noPart x.sid row k

theorem combineRecord_eq (s : State) (x : Stream) (v : Chain) (k row base : Nat) (area : List HostRead) :
    s.combineRecord x v k row base area =
      let parts := readParts row (v.stage k).pass k area
      let own := combineOwn x v k row parts
      let failed := area.zipIdx.filterMap (failedRead base)
      if failed.isEmpty then s.combineArea (sidBand x.sid) (s.combineTotal x v k row parts) own parts
      else (failed.foldl (fun s p => s.readError s.vaneBand p.1 p.2) s, poisonedFinal own own) := rfl

/-- COMBINE's record is the complete merge where every slot holds a part that agrees with the first, and the counts make up N. -/
theorem combineRecord_whole {x : Stream} {v : Chain} {k row base : Nat} {area : List HostRead} {first all : Rec} {rest : List Rec}
    (hparts : (readParts row (v.stage k).pass k area).map (fun q => q.2) = first :: rest)
    (hread : (readParts row (v.stage k).pass k area).length = area.length) (hagree : ∀ y ∈ rest, mismatchReason first y = 0)
    (hall : mergeAll (zeroRec first :: first :: rest) = some all) (hvar : x.desc.var = false)
    (hcount : all.count.toNat = x.desc.len.getD ((v.stage k).pass - 1) 0) :
    (s.combineRecord x v k row base area).2 = finalOf x.sid all := by
  have hagree' : ∀ q ∈ readParts row (v.stage k).pass k area, mismatchReason { first with stream := BitVec.ofNat 14 x.sid } q.2 = 0 := by
    intro q hq
    have hmem : q.2 ∈ first :: rest := hparts ▸ List.mem_map_of_mem hq
    rw [mismatchReason_stream]
    rcases List.mem_cons.1 hmem with heq | hrest
    · rw [heq, mismatchReason_self]
    · exact hagree _ hrest
  have hmerge : (first :: rest).foldl mergeRec (zeroRec first) = all := Option.some.inj hall
  have htotal : s.combineTotal x v k row (readParts row (v.stage k).pass k area) = all.count.toNat := by
    rw [combineTotal, hcount, hvar]
    rfl
  have hfailed : area.zipIdx.filterMap (failedRead base) = [] := by
    refine List.filterMap_eq_nil_iff.2 fun p hp => ?_
    obtain ⟨bs, hbs⟩ := read_of_readParts hread hp
    simp [failedRead, hbs]
  rw [combineRecord_eq, hfailed]
  dsimp only
  generalize readParts row (v.stage k).pass k area = parts at hparts hagree' htotal
  obtain ⟨⟨i, r⟩, tail, rfl⟩ : ∃ q tail, parts = q :: tail := List.exists_cons_of_ne_nil (by rintro rfl; cases hparts)
  obtain rfl : r = first := (List.cons.inj hparts).1
  have hzero : zeroRec { r with stream := BitVec.ofNat 14 x.sid } = zeroRec r := rfl
  rw [if_pos List.isEmpty_nil, combineOwn, combineArea, mergeParts_agree hagree', hparts, hzero, hmerge, htotal]
  dsimp only
  rw [if_pos (beq_self_eq_true _), finalOf, BitVec.ofNat_toNat, BitVec.setWidth_eq]
  rfl

theorem mismatch_told (s : State) (b : Nat) (f : Rec) (p : Nat) (g : Rec) (q reason : Nat) : Told s (s.mismatch b f p g q reason) :=
  report2_frame s ..

theorem combineArea_told (s : State) (b total : Nat) (own : Rec) (parts : List (Nat × Rec)) : Told s (s.combineArea b total own parts).1 := by
  unfold combineArea
  dsimp only
  split
  · split
    · exact .refl s
    · exact mismatch_told s ..
  · exact .foldl s _ (fun s x => mismatch_told s ..) _

/-- Making the record reports its mismatches and failed reads, and changes nothing else. -/
theorem combineRecord_told (s : State) (x : Stream) (v : Chain) (k row base : Nat) (area : List HostRead) :
    Told s (s.combineRecord x v k row base area).1 := by
  rw [combineRecord_eq]
  dsimp only
  split
  · exact combineArea_told s ..
  · exact .foldl s _ (fun s p => .report s _ _ _) _

/-! ### What COMBINE changes -/

theorem lowestBand_congr {t : State} (h : ∀ b : Fin 8, (t.band b.val).present = (s.band b.val).present) :
    t.lowestBand = s.lowestBand := List.find?_congr fun b hb => h ⟨b, List.mem_range.1 hb⟩

theorem vaneBand_of_lowest {low : Nat} (h : s.lowestBand = some low) : s.vaneBand = low := by
  rw [vaneBand, h]

/-- The reads of COMBINE go over the lowest band of the map, whose port counts them, and which keeps its requests. -/
theorem countReads_band {low : Fin 8} (h : s.lowestBand = some low.val) (n bytes : Nat) : (s.countReads n bytes).band low.val =
    { s.band low.val with
      fabCredits := (s.band low.val).fabCredits - n, fabReturned := (s.band low.val).fabReturned + (n - (s.band low.val).fabCredits)
      fabSpent := (s.band low.val).fabSpent + n, fabIssued := min ((s.band low.val).fabIssued + n) 0xFFFFFFFF
      fabBytes := (s.band low.val).fabBytes + bytes } := by
  unfold countReads
  rw [vaneBand_of_lowest h, modBand_band _ _ _ low.isLt]

theorem countReads_band_ne {low b : Fin 8} (h : s.lowestBand = some low.val) (hb : b ≠ low) (n bytes : Nat) :
    (s.countReads n bytes).band b.val = s.band b.val := by
  unfold countReads
  rw [vaneBand_of_lowest h, modBand_band_ne _ _ _ _ fun heq => hb (Fin.ext heq.symm)]

/-- The reads of COMBINE leave the map. -/
theorem countReads_lowest {low : Fin 8} (h : s.lowestBand = some low.val) (n bytes : Nat) :
    (s.countReads n bytes).lowestBand = some low.val := by
  rw [← h]
  refine lowestBand_congr fun b => ?_
  rcases eq_or_ne b low with rfl | hb
  · rw [countReads_band h]
  · rw [countReads_band_ne h hb]

theorem told_band {t : State} (h : Told s t) (b : Nat) : t.band b = s.band b := by
  rw [h]
  rfl

section
variable {low : Fin 8} (h : s.lowestBand = some low.val) (x : Stream) (v : Chain) (k row dst base : Nat) (area : List HostRead)

/-- The reads of COMBINE are counted, and its mismatches and failed reads reported: the state, and the record. -/
def combineOut (s : State) : State × Rec := (s.countReads area.length (64 * area.length)).combineRecord x v k row base area

theorem combineOut_band (b : Nat) : (combineOut x v k row base area s).1.band b =
    (s.countReads area.length (64 * area.length)).band b := told_band (combineRecord_told ..) b

include h

/-- Then the record is queued on the lowest band of the map. -/
theorem combineInto_eq : s.combineInto x v k row dst base area = (combineOut x v k row base area s).1.queueFab low.val
    [writeSlot .combine dst (recBytes (combineOut x v k row base area s).2)] := by
  have hlow : (combineOut x v k row base area s).1.lowestBand = some low.val := by
    rw [← countReads_lowest h area.length (64 * area.length)]
    exact lowestBand_congr fun b => by rw [combineOut_band]
  unfold combineInto
  change (match (combineOut x v k row base area s).1.lowestBand with
    | some low => (combineOut x v k row base area s).1.queueFab low [writeSlot .combine dst (recBytes (combineOut x v k row base area s).2)]
    | none => (combineOut x v k row base area s).1) = _
  rw [hlow]

theorem combineInto_frame : s.combineInto x v k row dst base area = { s with
    bands := (s.combineInto x v k row dst base area).bands, intStatus := (s.combineInto x v k row dst base area).intStatus
    arb := (s.combineInto x v k row dst base area).arb, taps := (s.combineInto x v k row dst base area).taps } := by
  have htold : Told (s.countReads area.length (64 * area.length)) (combineOut x v k row base area s).1 := combineRecord_told ..
  rw [combineInto_eq h]
  generalize combineOut x v k row base area s = out at htold
  obtain ⟨t, rcd⟩ := out
  unfold Told at htold
  dsimp only at htold ⊢
  rw [htold]
  rfl

theorem combineInto_band : (s.combineInto x v k row dst base area).band low.val = { s.band low.val with
    fabCredits := (s.band low.val).fabCredits - area.length
    fabReturned := (s.band low.val).fabReturned + (area.length - (s.band low.val).fabCredits)
    fabSpent := (s.band low.val).fabSpent + area.length
    fabIssued := min ((s.band low.val).fabIssued + area.length) 0xFFFFFFFF
    fabBytes := (s.band low.val).fabBytes + 64 * area.length
    fabQueue := (s.band low.val).fabQueue ++
      [writeSlot .combine dst (recBytes (combineOut x v k row base area s).2)] } := by
  rw [combineInto_eq h, queueFab_band low.isLt, combineOut_band, countReads_band h]

theorem combineInto_band_ne {b : Fin 8} (hb : b ≠ low) : (s.combineInto x v k row dst base area).band b.val = s.band b.val := by
  rw [combineInto_eq h, queueFab_band_ne fun heq => hb (Fin.ext heq.symm), combineOut_band, countReads_band_ne h hb]

end

/-- COMBINE of a row of a GATHER stage, where the Vane path and the log have room. -/
theorem mergeCombine_eq {c : Cmd} {area : List HostRead} {x : Stream} {v : Chain} {i : Nat} {st : Stage} (hop : c.op = opMergeCmd)
    (hroom : s.logRoom false = true) (haway : (s.band (sidBand (bits (c.arg 1) 29 16))).away = false) (haddr : c.addr 4 % 64 = 0)
    (hx : s.stream? (bits (c.arg 1) 29 16) = some x) (hv : s.chain? x.desc.chain = some v)
    (hm : v.mergeOf (bits (c.arg 1) 11 8) = some (i, st)) (hlay : st.mlay = 1) (hreads : s.vaneReads = true)
    (hvane : (s.band s.vaneBand).vaneRoom = true) : s.mergeCombine c area =
      ((s.combineInto x v (bits (c.arg 1) 11 8) c.mergeRow (c.addr 4) (areaAddr v x.desc i c.mergeRow)
        (area.take x.desc.p)).logPut (s.mergeEntry c)).answer c stOk [] := by
  have hbind : (s.stream? (bits (c.arg 1) 29 16)).bind (fun x => (s.chain? x.desc.chain).map (fun v => (x, v))) = some (x, v) := by
    rw [hx, Option.bind_some, hv, Option.map_some]
  unfold mergeCombine
  dsimp only
  rw [if_neg (by simp [haway]), if_neg (by simp [haddr]), hbind]
  dsimp only
  rw [hm]
  dsimp only
  rw [if_neg (by simp [hlay]), if_neg (by simp [hreads, hvane]), commit_merge hop hroom]

/-- The entry of MERGE, where the change itself makes none. -/
theorem mergeEntry_logged {u : State} (c : Cmd) (ws : List Nat) (hlog : u.log = s.log) (htime : u.time = s.time) :
    Logged s ((u.logPut (s.mergeEntry c)).answer c stOk ws) c.m kMerge stOk c.tag (s.logObject c) (c.arg 2 % 2 ^ 32) 0 := by
  obtain ⟨more, hmore⟩ := u.logPut_entries (s.mergeEntry c)
  refine ⟨more, ?_⟩
  rw [answer_log, hmore, entryAt, entryAt, hlog, htime, mergeEntry, BitVec.ofNat_toNat, BitVec.setWidth_eq]

end State

/-- Settles O28: what COMBINE makes of the block (`State.combineInto_eq`), and its record where the area is whole
(`State.combineRecord_whole`). -/
theorem combineWritesOneRecord : Obligations.CombineWritesOneRecord := by
  intro m area x v i st low s c sid k slots parts rcd haccepted hroom hop haddr hreads hx hv hm hlay haway hlow hvane
  refine ⟨?_, fun first all rest hparts hread hagree hall hvar hcount =>
    State.combineRecord_whole hparts hread hagree hall hvar hcount⟩
  let u := s.combineInto x v k c.mergeRow (c.addr 4) (areaAddr v x.desc i c.mergeRow) slots
  have hexec : exec (.mergeCombine m area) s = .next ((u.logPut (s.mergeEntry c)).answer c stOk []) := by
    refine congrArg Host.Outcome.next ((State.runCmd_accepted s m opMergeCmd _ _ haccepted hop).trans ?_)
    exact State.mergeCombine_eq (State.takes_op haccepted.1) hroom haway haddr hx hv hm hlay hreads
      (by rw [State.vaneBand_of_lowest hlow]; exact hvane)
  have hframe : u = { s with bands := u.bands, intStatus := u.intStatus, arb := u.arb, taps := u.taps } :=
    State.combineInto_frame hlow ..
  have hband (b : Nat) : ((u.logPut (s.mergeEntry c)).answer c stOk []).band b = u.band b := by simp [State.band]
  refine ⟨_, hexec, ?_, ?_, ?_, ?_, fun b hb => ?_, ?_⟩
  · refine State.answer_answered s _ m stOk [] ?_ ?_ _ rfl rfl
    · rw [State.logPut_mbx, hframe]
    · rw [State.logPut_bells, hframe]
  · exact State.mergeEntry_logged c [] (by rw [hframe]) (by rw [hframe])
  · rw [hband, State.combineInto_band hlow]
    rfl
  · rw [hband, State.combineInto_band hlow]
  · rw [hband, State.combineInto_band_ne hlow _ _ _ _ _ _ _ hb]
  · have hbands : ((u.logPut (s.mergeEntry c)).answer c stOk []).bands = u.bands := by simp
    refine (State.logPut_answer_eq u (s.mergeEntry c) c stOk []).trans ?_
    rw [hbands]
    generalize (u.logPut (s.mergeEntry c)).answer c stOk [] = t
    rw [hframe]
    rfl

end Sys2Proof.Machine
end

section
/-! PROOFS. What merges, lists, rings and row passes leave as they go on with a response: the outstanding requests of each
band, whose tags stay as they are. One lemma for each operation. -/

namespace Sys2Proof.Machine
namespace State

/-- The outstanding requests of each band, with their tags (R302). -/
def outstanding (s : State) : Vector (List (Nat × FabReq)) 8 := s.bands.map Band.fabOut

theorem outstanding_of_bands {s t : State} (h : t.bands = s.bands) : t.outstanding = s.outstanding :=
  congrArg (fun v => v.map Band.fabOut) h

theorem outstanding_of_apart {s t : State} (h : t.apart = s.apart) : t.outstanding = s.outstanding := congrArg Apart.fabOut h

theorem fabOut_of_outstanding {s t : State} {b : Nat} (h : t.outstanding = s.outstanding) (hb : b < 8) :
    (t.band b).fabOut = (s.band b).fabOut := by
  have hget : t.bands[b].fabOut = s.bands[b].fabOut := by simpa [outstanding] using congrArg (fun x => x[b]) h
  simpa [band, hb] using hget

variable (s : State) (b : Nat) (m : Merge)

theorem modBand_outstanding (f : Band → Band) (h : ∀ x, (f x).fabOut = x.fabOut) :
    (s.modBand b f).outstanding = s.outstanding := s.modBand_map Band.fabOut b f h

/-! ### Merges -/

@[simp] theorem queueFab_outstanding (rs : List FabReq) : (s.queueFab b rs).outstanding = s.outstanding :=
  s.modBand_outstanding b _ fun _ => rfl

@[simp] theorem putMerge_outstanding : (s.putMerge b m).outstanding = s.outstanding := s.modBand_outstanding b _ fun _ => rfl

@[simp] theorem keepWaiting_outstanding : (s.keepWaiting m).outstanding = s.outstanding := rfl

@[simp] theorem endWait_outstanding : (s.endWait m).outstanding = s.outstanding := rfl

@[simp] theorem askMerge_outstanding : (s.askMerge b m).outstanding = s.outstanding := by simp [askMerge]

@[simp] theorem blockMerge_outstanding : (s.blockMerge b m).outstanding = s.outstanding := by simp [blockMerge]

@[simp] theorem readOn_outstanding (p : MergePhase) : (s.readOn b m p).outstanding = s.outstanding := by simp [readOn]

@[simp] theorem sendOn_outstanding (p : MergePhase) (rs : List FabReq) : (s.sendOn b m p rs).outstanding = s.outstanding := by
  simp [sendOn]

@[simp] theorem mismatch_outstanding (first second : Rec) (p q why : Nat) :
    (s.mismatch b first p second q why).outstanding = s.outstanding := outstanding_of_apart (s.report2_apart ..)

@[simp] theorem putFinal_outstanding (sid row step : Nat) (r : Rec) : (s.putFinal sid row step r).outstanding = s.outstanding := by
  unfold putFinal
  extract_lets t
  split
  · rfl
  · exact outstanding_of_apart (settleTiles_apart ..)

@[simp] theorem endMerge_outstanding (r : Rec) : (s.endMerge b m r).outstanding = s.outstanding := by
  refine (putFinal_outstanding ..).trans ?_
  exact (s.endWait m).modBand_outstanding b (fun x => x.endMerge m) fun _ => rfl

@[simp] theorem failMerge_outstanding : (s.failMerge b m).outstanding = s.outstanding := s.endMerge_outstanding ..

@[simp] theorem completeMerge_outstanding (r : Rec) (part : Nat) : (s.completeMerge b m r part).outstanding = s.outstanding := by
  unfold completeMerge
  split <;> simp

@[simp] theorem gathered_outstanding : (s.gathered b m).outstanding = s.outstanding := by
  unfold gathered
  dsimp only
  split
  · simp
  · rw [failMerge_outstanding]
    exact outstanding_of_apart (foldl_apart _ _ _ fun u x => u.report2_apart ..)

@[simp] theorem mergeRead_outstanding (q : MergeReq) (bs : List Byte) : (s.mergeRead b m q bs).outstanding = s.outstanding := by
  unfold mergeRead
  dsimp only
  repeat' split
  all_goals simp

@[simp] theorem mergeDone_outstanding (q : MergeReq) : (s.mergeDone b m q).outstanding = s.outstanding := by
  unfold mergeDone
  repeat' split
  all_goals simp

@[simp] theorem mergeResponse_outstanding (sid row step : Nat) (q : MergeReq) (res : Option (List Byte)) :
    (s.mergeResponse b sid row step q res).outstanding = s.outstanding := by
  unfold mergeResponse
  repeat' split
  all_goals simp

/-! ### Lists of GATHER windows -/

variable (t : Nat) (w : Block)

@[simp] theorem modTile_outstanding (f : Tile → Tile) : (s.modTile t f).outstanding = s.outstanding := rfl

@[simp] theorem settleTile_outstanding : (s.settleTile t).outstanding = s.outstanding := outstanding_of_apart (s.settleTile_apart t)

@[simp] theorem windowWait_outstanding (on : Bool) : (s.windowWait t w on).outstanding = s.outstanding := rfl

@[simp] theorem askList_outstanding (p : ListPhase) (want : Nat) : (s.askList t w p want).outstanding = s.outstanding := by
  simp [askList]

@[simp] theorem listFinding_outstanding : (s.listFinding t w).outstanding = s.outstanding := outstanding_of_apart (s.notice_apart ..)

@[simp] theorem freeWindow_outstanding (sent : Bool) : (s.freeWindow t w sent).outstanding = s.outstanding := by simp [freeWindow]

theorem listRead_outstanding (l : List Byte) : (s.listRead t w l).outstanding = s.outstanding := by
  have hbad (u : State) (x : Nat) : ((u.listFinding t w).noteBadIndex t w x).apart = u.apart := by
    unfold noteBadIndex
    split
    · exact u.notice_apart ..
    · exact (noteNans_apart ..).trans (u.notice_apart ..)
  refine (settleTile_outstanding ..).trans ?_
  exact outstanding_of_apart (foldl_apart _ _ _ hbad)

@[simp] theorem listStep_outstanding : (s.listStep t w).outstanding = s.outstanding := by
  unfold listStep
  dsimp only
  repeat' split
  all_goals simp [listRead_outstanding]

@[simp] theorem listGoOn_outstanding : (s.listGoOn t w).outstanding = s.outstanding := by
  unfold listGoOn
  repeat' split
  all_goals simp

@[simp] theorem listResponse_outstanding (sid pass index off : Nat) (res : Option (List Byte)) :
    (s.listResponse t sid pass index off res).outstanding = s.outstanding := by
  unfold listResponse
  dsimp only
  repeat' split
  all_goals simp

/-! ### The response's owner -/

@[simp] theorem markFull_outstanding : s.markFull.outstanding = s.outstanding := by
  unfold markFull
  split <;> rfl

@[simp] theorem eventDone_outstanding (old ok : Bool) : (s.eventDone old ok).outstanding = s.outstanding := by
  unfold eventDone
  dsimp only
  split
  · exact outstanding_of_bands rfl
  split
  · exact (markFull_outstanding _).trans (outstanding_of_bands rfl)
  · exact outstanding_of_bands rfl

@[simp] theorem mirrorDone_outstanding (seq : Word) (old ok : Bool) : (s.mirrorDone seq old ok).outstanding = s.outstanding := by
  unfold mirrorDone
  split
  · exact outstanding_of_bands rfl
  split <;> exact outstanding_of_bands rfl

@[simp] theorem storeDone_outstanding (sid row pass : Nat) (ok : Bool) :
    (s.storeDone t sid row pass ok).outstanding = s.outstanding := by simp [storeDone]

/-- Whatever the owner of a request does with the response, no tag is taken or freed. -/
theorem fabDone_outstanding (r : FabReq) (ok : Bool) (data : BitVec 1024) : (s.fabDone b r ok data).outstanding = s.outstanding := by
  unfold fabDone bandDone
  cases r.owner <;> simp

end State
end Sys2Proof.Machine
end

section
/-! PROOFS. FAB_RESPONSE (R302, R303): the response frees its tag, and its request's owner is told. -/

namespace Sys2Proof.Machine
open Sys2Proof.Safety

/-- A merge one of whose requests is answered. -/
def Merge.answered (m : Merge) : Merge := { m with asked := m.asked - 1 }

namespace State

/-! ### The tag and the finding -/

/-- A record that enters the arbiter, or is lost there, does not change how many have been written. -/
theorem holdEvent_written (s : State) (e : Event) : (s.holdEvent e).arb.written = s.arb.written := by
  unfold holdEvent markFull
  split <;> rfl

theorem takeTaps_written (s : State) (n : Nat) : (s.takeTaps n).arb.written = s.arb.written := by
  induction n generalizing s with
  | zero => rfl
  | succ n ih =>
    unfold takeTaps
    split
    · split
      · rfl
      · exact (ih _).trans (holdEvent_written ..)
    · rfl

theorem report_written (s : State) (src code : Nat) (p : Nat → Nat) : (s.report src code p).arb.written = s.arb.written := by
  unfold report report2
  dsimp only
  split
  · split
    · exact (holdEvent_written ..).trans (takeTaps_written ..)
    · exact takeTaps_written ..
  split
  · exact takeTaps_written ..
  split
  · exact (holdEvent_written ..).trans (takeTaps_written ..)
  · exact takeTaps_written ..

/-- The band with a tag freed. -/
def tagFreed (s : State) (b : Nat) (tag : BitVec 10) : State :=
  s.setBand b { s.band b with fabOut := (s.band b).fabOut.filter (fun o => o.1 != tag.toNat) }

/-- Status 3 counts as ERROR, 1 (R302). -/
def fabStatus (status : BitVec 2) : Nat := if status = 3 then 1 else status.toNat

theorem fabStatus_eq (status : BitVec 2) : (if status.toNat == 3 then 1 else status.toNat) = fabStatus status := by
  simp [fabStatus, BitVec.toNat_eq]

theorem fabStatus_beq (status : BitVec 2) : (fabStatus status == 0) = (status == 0) := by
  revert status
  decide

/-- The tag of a request is freed, and a response that is not OK is a finding. -/
def fabTaken (s : State) (b : Nat) (tag : BitVec 10) (r : FabReq) (status : BitVec 2) : State :=
  if status = 0 then s.tagFreed b tag
  else (s.tagFreed b tag).fabFinding b evFabError r.owner.stream.1 r.owner.stream.2 r.addr.toNat r.op.code (fabStatus status)

section
variable {s : State} {b : Nat} {tag : BitVec 10} {r : FabReq} {status : BitVec 2}

theorem fabTaken_ok (h : status = 0) : s.fabTaken b tag r status = s.tagFreed b tag := if_pos h

/-- Beyond the freed tag, only the finding is told. -/
theorem fabTaken_told : Told (s.tagFreed b tag) (s.fabTaken b tag r status) := by
  unfold fabTaken
  split
  · exact .refl _
  · exact .report _ _ _ _

theorem fabTaken_kindCount : (s.fabTaken b tag r status).kindCount (srcBand b) evFabError =
    if status = 0 then s.kindCount (srcBand b) evFabError else satInc (s.kindCount (srcBand b) evFabError) := by
  unfold fabTaken
  split
  · rfl
  · exact (report_kindCount ..).trans (if_pos ⟨rfl, rfl⟩)

theorem fabTaken_written : (s.fabTaken b tag r status).arb.written = s.arb.written := by
  unfold fabTaken
  split
  · rfl
  · exact report_written ..

theorem fabTaken_evq : (s.fabTaken b tag r status).evq = s.evq := by
  rw [fabTaken_told]
  rfl

theorem fabTaken_logm : (s.fabTaken b tag r status).logm = s.logm := by
  rw [fabTaken_told]
  rfl

theorem fabTaken_log : (s.fabTaken b tag r status).log = s.log := by
  rw [fabTaken_told]
  rfl

theorem fabTaken_tile (k : Nat) : (s.fabTaken b tag r status).tile k = s.tile k := by
  rw [fabTaken_told]
  rfl

theorem fabTaken_band (hb : b < 8) : (s.fabTaken b tag r status).band b =
    { s.band b with fabOut := (s.band b).fabOut.filter (fun o => o.1 != tag.toNat) } := by
  rw [fabTaken_told]
  exact setBand_band s b _ hb

theorem fabTaken_merge (hb : b < 8) (sid row step : Nat) :
    (s.fabTaken b tag r status).merge? b sid row step = s.merge? b sid row step :=
  merge_congr (by rw [fabTaken_band hb]) sid row step

end

/-! ### What a response does -/

theorem exec_fabResponse {s : State} (b : Fin 8) (tag : BitVec 10) (status : BitVec 2) (data : BitVec 1024)
    (hclk : s.fclkOut = true) :
    exec (.fabResponse b tag status data) s = .next (s.fabResponse b.val tag.toNat status.toNat data) := by
  have hruns : s.fabRuns b.val = true := by simp [fabRuns, hclk]
  exact congrArg Host.Outcome.next (if_pos hruns)

/-- A response whose tag is not outstanding. -/
theorem fabResponse_stray {s : State} {b tag status : Nat} {data : BitVec 1024} (h : ∀ o ∈ (s.band b).fabOut, o.1 ≠ tag) :
    s.fabResponse b tag status data = s.fabFinding b evFabTag 0 0 0 0 status := by
  have hnone : (s.band b).fabOut.find? (fun o => o.1 == tag) = none := by
    rw [List.find?_eq_none]
    exact fun o ho => by simpa using h o ho
  unfold fabResponse
  dsimp only
  rw [hnone]

/-- Any other response. -/
theorem fabResponse_taken {s : State} {b : Nat} {tag : BitVec 10} {status : BitVec 2} {data : BitVec 1024} {r : FabReq}
    (h : (s.band b).fabOut.find? (fun o => o.1 == tag.toNat) = some (tag.toNat, r)) :
    s.fabResponse b tag.toNat status.toNat data =
      if (s.band b).stands && !r.owner.vane then
        (s.fabTaken b tag r status).modBand b (fun y => { y with
          fabHeld := y.fabHeld ++ [{ tag := tag.toNat, req := r, ok := status == 0, data := data }] })
      else (s.fabTaken b tag r status).fabDone b r (status == 0) data := by
  unfold fabResponse
  dsimp only
  rw [h]
  dsimp only
  rw [fabStatus_eq, fabStatus_beq, fabTaken]
  simp only [beq_iff_eq]
  rfl

/-! ### The rings (R383, R389, R396, R398) -/

theorem commit_eq (q : RingRegs) : q.commit = { q with base := q.baseLo.toNat + q.baseHi.toNat % 2 ^ 20 * 2 ^ 32 } := by
  unfold RingRegs.commit bits
  simp

theorem markFull_frame (s : State) : s.markFull = { s with intStatus := s.markFull.intStatus } := by
  unfold markFull
  split <;> rfl

theorem markFull_arb (s : State) : s.markFull.arb = s.arb := by rw [markFull_frame]

theorem markFull_evq (s : State) : s.markFull.evq = s.evq := by rw [markFull_frame]

theorem setInt_bits (s : State) (j : Nat) (k : Fin 32) :
    (s.setInt j).intStatus.getLsbD k.val = (s.intStatus.getLsbD k.val || k.val == j) := by
  change (s.intStatus ||| BitVec.ofNat 32 (2 ^ j)).getLsbD k.val = _
  rw [BitVec.getLsbD_or, BitVec.getLsbD_ofNat, Nat.testBit_two_pow, decide_eq_true k.isLt, Bool.true_and]
  congr 1
  rw [Bool.eq_iff_iff, decide_eq_true_iff, beq_iff_eq, eq_comm]

theorem markFull_bits (s : State) (k : Fin 32) : s.markFull.intStatus.getLsbD k.val =
    (s.intStatus.getLsbD k.val || (k.val == 9 && s.evq.shut && (!s.arb.held.isEmpty || s.arb.second.isSome))) := by
  unfold markFull
  split
  · next h =>
    rw [setInt_bits, Bool.and_assoc, h, Bool.and_true]
    rfl
  · next h => rw [Bool.and_assoc, (Bool.not_eq_true _).mp h, Bool.and_false, Bool.or_false]

/-- The arbiter after the response to an event record's write. -/
def eventArb (a : Arbiter) (ok : Bool) : Arbiter :=
  { a with inFlight := false, written := if ok then satInc a.written else a.written }

/-- The arbiter's write is answered, and TAIL passes the record: what comes before the interrupts. -/
def eventWritten (s : State) : State :=
  { s with arb := eventArb s.arb true, evq := { s.evq with tail := (s.evq.tail + 1) % max s.evq.size 1 } }

theorem eventDone_ok (s : State) : s.eventDone false true = (s.eventWritten.setInt 8).markFull := rfl

theorem eventDone_failed (s : State) : s.eventDone false false = { s with arb := eventArb s.arb false } := rfl

theorem eventDone_old (s : State) (ok : Bool) : s.eventDone true ok = { s with arb := eventArb s.arb ok, evq := s.evq.commit } := rfl

theorem eventDone_arb (s : State) (old ok : Bool) : (s.eventDone old ok).arb = eventArb s.arb ok := by
  cases old
  · cases ok
    · rw [eventDone_failed]
    · rw [eventDone_ok, markFull_arb]
      rfl
  · rw [eventDone_old]

theorem eventDone_frame (s : State) (old ok : Bool) : s.eventDone old ok =
    { s with arb := (s.eventDone old ok).arb, evq := (s.eventDone old ok).evq, intStatus := (s.eventDone old ok).intStatus } := by
  cases old
  · cases ok
    · rw [eventDone_failed]
    · have hframe : s.eventDone false true = { s with
          arb := s.eventWritten.arb, evq := s.eventWritten.evq, intStatus := (s.eventDone false true).intStatus } := markFull_frame _
      rw [hframe]
  · rw [eventDone_old]

theorem eventDone_ok_evq (s : State) : (s.eventDone false true).evq = { s.evq with tail := (s.evq.tail + 1) % max s.evq.size 1 } := by
  rw [eventDone_ok, markFull_evq]
  rfl

/-- EVQ_NEW is set, and EVQ_FULL where an event is held while the ring is full (R396). -/
theorem eventDone_ok_bits (s : State) (k : Fin 32) : (s.eventDone false true).intStatus.getLsbD k.val =
    (s.intStatus.getLsbD k.val || k.val == 8 ||
      (k.val == 9 && (s.eventDone false true).evq.shut && (!s.arb.held.isEmpty || s.arb.second.isSome))) := by
  rw [eventDone_ok_evq, eventDone_ok, markFull_bits, setInt_bits]
  rfl

/-! ### Merges (R200, R201, R303) -/

/-- A merge has gone on: it stands as `m`, the requests `rs` are queued, and nothing beside bands and tiles has changed. -/
structure MergeWentOn (s t : State) (b sid row step : Nat) (m : Merge) (rs : List FabReq) : Prop where
  found  : t.merge? b sid row step = some m
  queued : (t.band b).fabQueue = (s.band b).fabQueue ++ rs
  frame  : t = { s with bands := t.bands, tiles := t.tiles }

section
variable {s : State} {b sid row step : Nat} {m old : Merge} {q : MergeReq} {slot : List Byte}

theorem mergeResponse_none (h : q = .addReaders ∨ s.merge? b sid row step = none) (res : Option (List Byte)) :
    s.mergeResponse b sid row step q res = s := by
  unfold mergeResponse
  obtain rfl | h := h
  · rfl
  · rw [h]
    split <;> rfl

theorem mergeRead_readers (hphase : m.phase = .readers) : s.mergeRead b m .readReaders slot =
    if leAt slot 0 4 = m.need.toNat then
      if m.layout = 2 then s.sendOn b m .writing [writeSlot (m.owner .arm) m.base (armBytes m.own)]
      else s.sendOn b m .writing [writeSlot (m.owner .writePart) (m.base + 64 * m.pidx)
        (recBytes { m.own with stream := BitVec.ofNat 14 m.sid })]
    else s.blockMerge b m := by
  unfold mergeRead
  rw [hphase]
  simp only [beq_iff_eq]

/-- The phase that begins with reads once a write or an add is complete. -/
def FollowsOn (m : Merge) (q : MergeReq) (p : MergePhase) : Prop :=
  m.phase = .writing ∧ q = .writePart ∧ p = .reading ∨ m.phase = .writing ∧ q = .arm ∧ p = .arming ∨
    m.phase = .committing ∧ q = .addCount ∧ p = .counting

theorem mergeDone_followsOn {p : MergePhase} (hf : FollowsOn m q p) : s.mergeDone b m q = s.readOn b m p := by
  obtain ⟨hphase, rfl, rfl⟩ | ⟨hphase, rfl, rfl⟩ | ⟨hphase, rfl, rfl⟩ := hf <;> simp [mergeDone, hphase]

variable (h : s.merge? b sid row step = some m)
include h

theorem mergeResponse_failed (hq : q ≠ .addReaders) : s.mergeResponse b sid row step q none =
    s.endMerge b m.answered (poisonedFinal m.own m.own) := by
  unfold mergeResponse
  rw [if_neg (by simpa using hq), h]
  rfl

/-- The area is free or not yet (R200, R201): the part's record is written, or with MLAY 2 the arming, or a re-read is due. -/
theorem mergeResponse_readers (hphase : m.phase = .readers) : s.mergeResponse b sid row step .readReaders (some slot) =
    if leAt slot 0 4 = m.need.toNat then
      if m.layout = 2 then s.sendOn b m.answered .writing [writeSlot (m.owner .arm) m.base (armBytes m.own)]
      else s.sendOn b m.answered .writing [writeSlot (m.owner .writePart) (m.base + 64 * m.pidx)
        (recBytes { m.own with stream := BitVec.ofNat 14 m.sid })]
    else s.blockMerge b m.answered := by
  unfold mergeResponse
  rw [h]
  exact mergeRead_readers (m := m.answered) hphase

theorem mergeResponse_done (hq : q = .writePart ∨ q = .arm ∨ q = .addCount) : s.mergeResponse b sid row step q (some slot) =
    s.mergeDone b m.answered q := by
  unfold mergeResponse
  rw [h]
  obtain rfl | rfl | rfl := hq <;> rfl

variable (hb : b < 8) (hm : old.Of sid row step)
include hb hm

theorem blockMerge_wentOn : MergeWentOn s (s.blockMerge b old) b sid row step
    { old with began := true, waiting := true, again := true } [] where
  found := putMerge_merge (s := s.keepWaiting old) hb h hm
  queued := (putMerge_queue (s := s.keepWaiting old) hb).trans (List.append_nil _).symm
  frame := rfl

theorem sendOn_wentOn (p : MergePhase) (rs : List FabReq) :
    MergeWentOn s (s.sendOn b old p rs) b sid row step { old with phase := p, waiting := false, asked := rs.length } rs where
  found := by
    refine (merge_congr ?_ _ _ _).trans (putMerge_merge (s := s.endWait old) hb h hm)
    rw [sendOn, queueFab_band hb]
  queued := by
    rw [sendOn, queueFab_band hb, putMerge_queue hb]
    rfl
  frame := rfl

theorem readOn_wentOn (p : MergePhase) : MergeWentOn s (s.readOn b old p) b sid row step
    { old with phase := p, waiting := false, asked := ({ old with phase := p, waiting := false } : Merge).reads.length, again := false }
    ({ old with phase := p, waiting := false } : Merge).reads where
  found := askMerge_merge (s := s.endWait old) hb h hm
  queued := by
    rw [readOn, askMerge_band hb]
    rfl
  frame := rfl

end

/-! ### Lists of GATHER windows (R250, R303) -/

/-- A window whose list read has its response: the bytes of the line take their place, or the read counts as failed. -/
def windowAnswered (w : Block) (off : Nat) : Option (List Byte) → Block
  | some line => { w with
      asked := w.asked - 1
      gbytes := placeBytes w.gbytes off (line.drop ((listAddr w + w.phaseOffset + off) % 128)) }
  | none => { w with asked := w.asked - 1, readBad := true }

/-- The window that a list read is for. -/
def readsList (sid pass index : Nat) (w : Block) : Bool := w.sid == sid && w.pass == pass && w.index == index && w.gather

section
variable {s : State} {t sid pass index off : Nat} {w : Block}

theorem listResponse_none (h : (s.tile t).blocks.find? (readsList sid pass index) = none) (res : Option (List Byte)) :
    s.listResponse t sid pass index off res = s := by
  have hfind : (s.tile t).blocks.find? (fun b => b.sid == sid && b.pass == pass && b.index == index && b.gather) = none := h
  unfold listResponse
  rw [hfind]

/-- While reads of the list are still to be answered, the window keeps what it has. -/
theorem listResponse_more (h : (s.tile t).blocks.find? (readsList sid pass index) = some w) (hmore : 2 ≤ w.asked)
    (res : Option (List Byte)) :
    s.listResponse t sid pass index off res = s.modTile t (fun x => x.putBlock (windowAnswered w off res)) := by
  have hasked : (windowAnswered w off res).asked > 0 := by
    cases res <;> exact Nat.sub_pos_of_lt hmore
  have hfind : (s.tile t).blocks.find? (fun b => b.sid == sid && b.pass == pass && b.index == index && b.gather) = some w := h
  unfold listResponse
  rw [hfind]
  cases res <;> exact if_pos hasked

end

/-! ### The owners -/

section
variable {s : State} {b : Nat} {r : FabReq} {ok : Bool} {data : BitVec 1024}

theorem fabDone_combine (h : r.owner = .combine) : s.fabDone b r ok data = s := by
  simp [fabDone, bandDone, h]

theorem fabDone_event {old : Bool} (h : r.owner = .event old) : s.fabDone b r ok data = s.eventDone old ok := by
  simp [fabDone, h]

theorem fabDone_logMirror {seq : Word} {old : Bool} (h : r.owner = .logMirror seq old) :
    s.fabDone b r ok data = s.mirrorDone seq old ok := by
  simp [fabDone, h]

theorem fabDone_store {k sid row pass : Nat} (h : r.owner = .store k sid row pass) :
    s.fabDone b r ok data = s.storeDone k sid row pass ok := by
  simp [fabDone, bandDone, h]

theorem fabDone_list {k sid pass index off : Nat} (h : r.owner = .list k sid pass index off) : s.fabDone b r ok data =
    s.listResponse k sid pass index off (if ok then some (toLe 128 data.toNat) else none) := by
  simp [fabDone, bandDone, h]

/-- The half of a line in which a request has its slot. -/
def slotOf (r : FabReq) (data : BitVec 1024) : List Byte :=
  if r.be.toNat % 2 ^ 64 = 0 then (toLe 128 data.toNat).drop 64 else (toLe 128 data.toNat).take 64

theorem fabDone_merge {sid row step : Nat} {q : MergeReq} (h : r.owner = .merge sid row step q) : s.fabDone b r ok data =
    s.mergeResponse b sid row step q (if ok then some (slotOf r data) else none) := by
  simp [fabDone, bandDone, h, slotOf]

end

/-! ### What each owner's clause says of a response -/

section
variable {s : State} {b : Nat} {tag : BitVec 10} {r : FabReq} {status : BitVec 2} {data : BitVec 1024}

/-- The state in which the owner of the request has been told. -/
def fabTold (s : State) (b : Nat) (tag : BitVec 10) (r : FabReq) (status : BitVec 2) (data : BitVec 1024) : State :=
  (s.fabTaken b tag r status).fabDone b r (status == 0) data

theorem fabTold_fabOut (hb : b < 8) : ((s.fabTold b tag r status data).band b).fabOut =
    (s.band b).fabOut.filter (fun o => o.1 != tag.toNat) := by
  rw [fabTold, fabOut_of_outstanding (fabDone_outstanding ..) hb, fabTaken_band hb]

/-- The log mirror (R389, R398). -/
theorem fabTold_logMirror {seq : Word} {old : Bool} (h : r.owner = .logMirror seq old) : s.fabTold b tag r status data =
    if old then { s.fabTaken b tag r status with
      logm := { s.logm with base := s.logm.baseLo.toNat + s.logm.baseHi.toNat % 2 ^ 20 * 2 ^ 32 } }
    else if status = 0 then { s.tagFreed b tag with
      log := { s.log with entries := setMirror seq (.at s.logm.tail) s.log.entries }
      logm := { s.logm with tail := (s.logm.tail + 1) % max s.logm.size 1 }
      intStatus := s.intStatus ||| 0x00000400 }
    else { s.fabTaken b tag r status with log := { s.log with entries := setMirror seq .lost s.log.entries } } := by
  rw [fabTold, fabDone_logMirror h, mirrorDone]
  split
  · rw [fabTaken_logm, commit_eq]
  by_cases hok : status = 0
  · rw [if_pos (by simpa using hok), if_pos hok, fabTaken_ok hok]
    rfl
  · rw [if_neg (by simpa using hok), if_neg hok, fabTaken_log]

/-- The event ring (R383, R396, R398). -/
theorem fabTold_event {old : Bool} (h : r.owner = .event old) :
    s.fabTold b tag r status data = (s.fabTaken b tag r status).eventDone old (status == 0) := fabDone_event h

/-- A GATHER window (R250, R303). -/
theorem fabTold_list {k sid pass index off : Nat} (h : r.owner = .list k sid pass index off) : s.fabTold b tag r status data =
    (s.fabTaken b tag r status).listResponse k sid pass index off (if status = 0 then some (toLe 128 data.toNat) else none) := by
  rw [fabTold, fabDone_list h]
  simp only [beq_iff_eq]

/-- A merge (R200, R201, R303). -/
theorem fabTold_merge {sid row step : Nat} {q : MergeReq} (h : r.owner = .merge sid row step q) : s.fabTold b tag r status data =
    (s.fabTaken b tag r status).mergeResponse b sid row step q (if status = 0 then some (slotOf r data) else none) := by
  rw [fabTold, fabDone_merge h]
  simp only [beq_iff_eq]

end

/-- A merge that goes on once the tag is freed has gone on in the state before. -/
theorem MergeWentOn.of_fabTaken {s t : State} {b sid row step : Nat} {tag : BitVec 10} {r : FabReq} {status : BitVec 2} {m : Merge}
    {rs : List FabReq} (hok : status = 0) (hb : b < 8) (h : MergeWentOn (s.fabTaken b tag r status) t b sid row step m rs) :
    MergeWentOn s t b sid row step m rs where
  found := h.found
  queued := by rw [h.queued, fabTaken_band hb]
  frame := by
    rw [h.frame, fabTaken_ok hok]
    rfl

section
variable {s : State} {b sid row step : Nat} {tag : BitVec 10} {r : FabReq} {data : BitVec 1024} {m : Merge}
  (hb : b < 8) (hm : s.merge? b sid row step = some m)
include hb hm

/-- A failed request ends its merge (R303). -/
theorem fabTold_mergeFailed {q : MergeReq} {status : BitVec 2} (h : r.owner = .merge sid row step q) (hq : q ≠ .addReaders)
    (hbad : status ≠ 0) : s.fabTold b tag r status data =
      (s.fabTaken b tag r status).endMerge b m.answered (poisonedFinal m.own m.own) := by
  rw [fabTold_merge h, if_neg hbad, mergeResponse_failed ((fabTaken_merge hb ..).trans hm) hq]

/-- READERS is not yet what the merge needs (R200, R201). -/
theorem fabTold_readersWait (h : r.owner = .merge sid row step .readReaders) (hphase : m.phase = .readers)
    (hneed : leAt (slotOf r data) 0 4 ≠ m.need.toNat) : MergeWentOn s (s.fabTold b tag r 0 data) b sid row step
      { m.answered with began := true, waiting := true, again := true } [] := by
  have hof : m.Of sid row step := merge_of hm
  have hfound := (fabTaken_merge (tag := tag) (r := r) (status := 0) hb ..).trans hm
  rw [fabTold_merge h, if_pos rfl, mergeResponse_readers hfound hphase, if_neg hneed]
  exact (blockMerge_wentOn (old := m.answered) hfound hb hof).of_fabTaken rfl hb

/-- READERS is what the merge needs: its part is written (R200). -/
theorem fabTold_readersWrite (h : r.owner = .merge sid row step .readReaders) (hphase : m.phase = .readers)
    (hneed : leAt (slotOf r data) 0 4 = m.need.toNat) (hlay : m.layout ≠ 2) : MergeWentOn s (s.fabTold b tag r 0 data) b sid row step
      { m with phase := .writing, waiting := false, asked := 1 }
      [writeSlot (m.owner .writePart) (m.base + 64 * m.pidx) (recBytes { m.own with stream := BitVec.ofNat 14 m.sid })] := by
  have hof : m.Of sid row step := merge_of hm
  have hfound := (fabTaken_merge (tag := tag) (r := r) (status := 0) hb ..).trans hm
  rw [fabTold_merge h, if_pos rfl, mergeResponse_readers hfound hphase, if_pos hneed, if_neg hlay]
  exact (sendOn_wentOn (old := m.answered) hfound hb hof ..).of_fabTaken rfl hb

/-- With MLAY 2 it is armed (R203). -/
theorem fabTold_readersArm (h : r.owner = .merge sid row step .readReaders) (hphase : m.phase = .readers)
    (hneed : leAt (slotOf r data) 0 4 = m.need.toNat) (hlay : m.layout = 2) : MergeWentOn s (s.fabTold b tag r 0 data) b sid row step
      { m with phase := .writing, waiting := false, asked := 1 } [writeSlot (m.owner .arm) m.base (armBytes m.own)] := by
  have hof : m.Of sid row step := merge_of hm
  have hfound := (fabTaken_merge (tag := tag) (r := r) (status := 0) hb ..).trans hm
  rw [fabTold_merge h, if_pos rfl, mergeResponse_readers hfound hphase, if_pos hneed, if_pos hlay]
  exact (sendOn_wentOn (old := m.answered) hfound hb hof ..).of_fabTaken rfl hb

/-- A write or an add that ends a phase: the next one begins with its reads (R201, R203). -/
theorem fabTold_followsOn {q : MergeReq} {p : MergePhase} (h : r.owner = .merge sid row step q) (hf : FollowsOn m q p) :
    let m2 := { m.answered with phase := p, waiting := false }
    MergeWentOn s (s.fabTold b tag r 0 data) b sid row step { m2 with asked := m2.reads.length, again := false } m2.reads := by
  have hof : m.Of sid row step := merge_of hm
  have hfound := (fabTaken_merge (tag := tag) (r := r) (status := 0) hb ..).trans hm
  have hq : q = .writePart ∨ q = .arm ∨ q = .addCount := by
    obtain ⟨-, rfl, -⟩ | ⟨-, rfl, -⟩ | ⟨-, rfl, -⟩ := hf <;> simp
  rw [fabTold_merge h, if_pos rfl, mergeResponse_done hfound hq, mergeDone_followsOn (m := m.answered) hf]
  exact (readOn_wentOn (old := m.answered) hfound hb hof ..).of_fabTaken rfl hb

end
end State

/-- Settles O46: a response frees its tag (`State.fabTaken`), and the owner of the request goes on with it (`State.fabDone`), which
takes and frees no other tag (`State.fabDone_outstanding`). -/
theorem fabResponseFreesItsTag : Obligations.FabResponseFreesItsTag := by
  intro b tag status data s hclk x src freed line answers
  have hb : b.val < 8 := b.isLt
  have hexec := State.exec_fabResponse b tag status data hclk
  constructor
  · intro hstray
    refine ⟨_, hexec.trans (congrArg Host.Outcome.next (State.fabResponse_stray hstray)), ?_, ?_⟩
    · exact (State.report_kindCount ..).trans (if_pos ⟨rfl, rfl⟩)
    · exact State.report_frame ..
  intro r hfind s0 st s1
  have htaken := hexec.trans (congrArg Host.Outcome.next (State.fabResponse_taken hfind))
  refine ⟨State.fabTaken_kindCount, State.fabTaken_told, fun hstands hvane => ?_, fun hgo => ?_⟩
  · have hwait : ((s.band b.val).stands && !r.owner.vane) = true := by
      simpa [Band.stands, hvane] using hstands
    rw [if_pos hwait] at htaken
    exact htaken
  have hnow : ¬ ((s.band b.val).stands && !r.owner.vane) = true := by
    obtain ⟨haway, hhalted⟩ | hvane := hgo
    · simp [Band.stands, show (s.band b.val).away = false from haway, show (s.band b.val).halted = false from hhalted]
    · simp [hvane]
  rw [if_neg hnow] at htaken
  change exec _ s = .next (s.fabTold b.val tag r status data) at htaken
  refine ⟨⟨_, htaken, State.fabTold_fabOut hb⟩, fun howner => ?_, fun old howner => ?_, fun seq old howner => ?_,
    fun k sid row p howner => ?_, fun k sid p idx off howner => ?_, fun sid row step q howner => ?_⟩
  · rwa [State.fabTold, State.fabDone_combine howner] at htaken
  · rw [State.fabTold_event howner] at htaken
    refine ⟨_, htaken, ?_, ?_, fun hold => ?_, fun hold hbad => ?_, fun hold hok => ⟨?_, fun k => ?_⟩, State.eventDone_frame ..⟩
    · rw [State.eventDone_arb]
      rfl
    · rw [State.eventDone_arb, State.eventArb, State.fabTaken_written]
      simp only [beq_iff_eq]
    · rw [hold, State.eventDone_old, State.fabTaken_evq, State.commit_eq]
    · rw [hold, beq_false_of_ne hbad, State.eventDone_failed]
      exact State.fabTaken_evq
    · rw [hold, hok, beq_self_eq_true, State.eventDone_ok_evq, State.fabTaken_evq]
    · rw [hold, hok, beq_self_eq_true, State.eventDone_ok_bits, State.fabTaken_ok rfl]
      rfl
  · rw [State.fabTold_logMirror howner] at htaken
    refine ⟨fun hold => ?_, fun hold hbad => ?_, fun hold hok => ?_⟩
    · rwa [if_pos hold] at htaken
    · rwa [if_neg (by simp [hold]), if_neg hbad] at htaken
    · rw [if_neg (by simp [hold]), if_pos hok] at htaken
      rw [show s1 = s.tagFreed b.val tag from State.fabTaken_ok hok]
      exact htaken
  · rw [State.fabTold, State.fabDone_store howner] at htaken
    exact htaken
  · intro mine
    rw [State.fabTold_list howner] at htaken
    refine ⟨htaken, fun w hw hmore => ?_, fun hnone => ?_⟩
    · rw [State.listResponse_more (by rw [State.fabTaken_tile]; exact hw) hmore] at htaken
      split at htaken
      · next hok =>
        rw [if_pos hok]
        exact htaken
      · next hbad =>
        rw [if_neg hbad]
        exact htaken
    · rwa [State.listResponse_none (by rw [State.fabTaken_tile]; exact hnone)] at htaken
  · intro slot
    refine ⟨State.fabTold_merge howner ▸ htaken, fun hnone => ?_, fun m hm => ?_⟩
    · rw [State.fabTold_merge howner] at htaken
      rwa [State.mergeResponse_none (hnone.imp_right (State.fabTaken_merge hb ..).trans)] at htaken
    intro fin goes m1
    have hgoes {m' : Merge} {rs : List FabReq}
        (h : State.MergeWentOn s (s.fabTold b.val tag r status data) b.val sid row step m' rs) : goes m' rs :=
      ⟨_, htaken, h.found, h.queued, h.frame⟩
    refine ⟨fun hq hbad => ?_, fun hok hq hphase => ?_, fun p hok hf => ?_⟩
    · rw [State.fabTold_mergeFailed hb hm howner hq hbad] at htaken
      exact htaken
    · subst hok hq
      exact ⟨fun hneed => hgoes (State.fabTold_readersWait hb hm howner hphase hneed),
        fun hneed hlay => hgoes (State.fabTold_readersWrite hb hm howner hphase hneed hlay),
        fun hneed hlay => hgoes (State.fabTold_readersArm hb hm howner hphase hneed hlay)⟩
    · subst hok
      exact hgoes (State.fabTold_followsOn hb hm howner hf)

end Sys2Proof.Machine
end

section
/-! PROOFS. A change that is logged and answered, and RETIRE_CHAIN (R257). -/

namespace Sys2Proof.Machine
open Sys2Proof.Safety

/-! ### A change that is logged and answered -/

namespace State

/-- The log entry of a command's change (R388). -/
def changeEntry (s : State) (c : Cmd) (old new : Nat) : LogInfo where
  origin := c.m
  kind := kindOfOp c.op
  result := stOk
  tag := c.tag.toNat
  object := s.logObject c
  oldh := old
  newh := new

/-- The state `u` that a change has made, logged and answered. -/
def changed (s u : State) (c : Cmd) (old new : Nat) : State := (u.logPut (s.changeEntry c old new)).answer c stOk []

theorem commit_changed {s : State} (c : Cmd) (old new : Nat) (f : State → State) (h : s.logRoom false = true) :
    s.commit c old new f (fun _ => []) = s.changed (f s) c old new := s.commit_room c old new f _ h

/-- It is answered as its command, where the change leaves the mailboxes and the doorbells. -/
theorem changed_answered {s v u : State} {m : Fin 4} (hm : u.mbx = s.mbx) (hb : u.bells = s.bells) (old new : Nat) :
    Answered s (v.changed u (s.cmd m.val) old new) m stOk [] :=
  answer_answered s _ m stOk [] (by simp [hm]) (by simp [hb]) _ rfl rfl

/-- It is logged, where the change leaves the log and TIME. -/
theorem changed_logged {s v u : State} (hlog : u.log = s.log) (htime : u.time = s.time) (c : Cmd) (old new : Nat) :
    Logged s (v.changed u c old new) c.m (kindOfOp c.op) stOk c.tag (v.logObject c) old new := by
  obtain ⟨more, hmore⟩ := u.logPut_entries (v.changeEntry c old new)
  refine ⟨more, ?_⟩
  rw [changed, answer_log, hmore, changeEntry, BitVec.ofNat_toNat, BitVec.setWidth_eq, entryAt, entryAt, hlog, htime]

section
variable (s u : State) (c : Cmd) (old new : Nat)

@[simp] theorem changed_chains : (s.changed u c old new).chains = u.chains := by simp [changed]
@[simp] theorem changed_slots : (s.changed u c old new).slots = u.slots := by simp [changed]
@[simp] theorem changed_nextVer : (s.changed u c old new).nextVer = u.nextVer := by simp [changed]
@[simp] theorem changed_streams : (s.changed u c old new).streams = u.streams := by simp [changed]
@[simp] theorem changed_tiles : (s.changed u c old new).tiles = u.tiles := by simp [changed]
@[simp] theorem changed_bands : (s.changed u c old new).bands = u.bands := by simp [changed]
@[simp] theorem changed_loads : (s.changed u c old new).loads = u.loads := by simp [changed]
@[simp] theorem changed_longOps : (s.changed u c old new).longOps = u.longOps := by simp [changed]
@[simp] theorem changed_books : (s.changed u c old new).books = u.books := by
  rw [changed, answer_frame]
  dsimp only
  rw [logPut_frame]

theorem changed_versions (id : Nat) : (s.changed u c old new).versions id = u.versions id := by
  simp only [versions, changed_chains]

theorem changed_chain (id : Nat) : (s.changed u c old new).chain? id = u.chain? id := by
  simp only [chain?, changed_versions]

end

end State

/-! ### RETIRE_CHAIN -/

/-- An id without versions is not there, and every other is found as before. -/
theorem find_setVersions_nil (id : Nat) (xs : List (Nat × List Chain)) (j : Nat) :
    (setVersions id [] xs).find? (fun y => y.1 == j) = if id = j then none else xs.find? (fun y => y.1 == j) := by
  simp only [setVersions, List.isEmpty_nil, if_true, List.find?_filter]
  split
  case isTrue h =>
    subst h
    simp
  case isFalse h =>
    congr 1
    funext y
    by_cases hj : y.1 = j <;> simp [hj, Ne.symm h]

namespace State

/-- The release of old versions adds none. -/
theorem prune_versions_nil {s : State} {id : Nat} (h : s.versions id = []) : s.prune.versions id = [] := by
  have hnewest : s.prune.chain? id = none := by
    rw [prune_chain, chain?, h]
    rfl
  exact List.head?_eq_none_iff.1 hnewest

theorem dropChain_versions (s : State) (id : Nat) : (s.dropChain id).versions id = [] := by
  refine prune_versions_nil ?_
  rw [versions, booked_chains, find_setVersions_nil, if_pos rfl]

theorem dropChain_chain_ne (s : State) {id j : Nat} (h : j ≠ id) : (s.dropChain id).chain? j = s.chain? j := by
  rw [dropChain, prune_chain]
  exact chain_of_find (by rw [booked_chains, find_setVersions_nil, if_neg h.symm])

/-- Versions set in the books' sight, and the release that follows, change only chains, slots and books. -/
theorem prune_chains_frame {s u : State} {n : Nat} (h : u = { s with chains := u.chains, nextVer := n, books := u.books }) :
    u.prune = { s with chains := u.prune.chains, slots := u.prune.slots, books := u.prune.books, nextVer := n } := by
  have hprune := u.prune_frame
  generalize u.prune = p at hprune ⊢
  calc
    p = { u with chains := p.chains, slots := p.slots, books := p.books } := hprune
    _ = { s with chains := p.chains, slots := p.slots, books := p.books, nextVer := n } := by rw [h]

theorem dropChain_frame (s : State) (id : Nat) : s.dropChain id = { s with
    chains := (s.dropChain id).chains, slots := (s.dropChain id).slots, books := (s.dropChain id).books } :=
  prune_chains_frame (u := s.booked _) (n := s.nextVer) rfl

/-- A change of chains, slots and books, logged and answered, leaves the rest of the block. -/
theorem changed_frame {s u : State} (h : u = { s with chains := u.chains, slots := u.slots, books := u.books }) (c : Cmd)
    (old new : Nat) :
    let t := s.changed u c old new
    t = { s with
      chains := t.chains, slots := t.slots, books := t.books, log := t.log, mbx := t.mbx, bells := t.bells
      commandsTaken := satInc s.commandsTaken, handover := handoverAfter s c.m, intStatus := t.intStatus, taps := t.taps
      arb := t.arb } := by
  dsimp only
  have hanswer : s.changed u c old new = { u with
      log := (s.changed u c old new).log, mbx := (s.changed u c old new).mbx, bells := (s.changed u c old new).bells
      commandsTaken := satInc u.commandsTaken, handover := handoverAfter u c.m
      intStatus := (s.changed u c old new).intStatus, taps := (s.changed u c old new).taps
      arb := (s.changed u c old new).arb } := logPut_answer_eq u ..
  have hhand : handoverAfter u c.m = handoverAfter s c.m := by
    rw [h]
    rfl
  rw [hhand] at hanswer
  rw [changed_chains, changed_slots, changed_books]
  generalize s.changed u c old new = t at hanswer ⊢
  refine hanswer.trans ?_
  rw [h]

/-- RETIRE_CHAIN of a chain on which no stream is open, where the log has room. -/
theorem retireChain_unused {s : State} {c : Cmd} {v : Chain} (hv : s.chain? (bits (c.arg 1) 9 0) = some v)
    (hopen : s.openOn (bits (c.arg 1) 9 0) = 0) (hroom : s.logRoom false = true) :
    s.retireChain c = s.changed (s.dropChain (bits (c.arg 1) 9 0)) c v.sig.toNat 0 := by
  rw [← commit_changed c v.sig.toNat 0 (fun u => u.dropChain (bits (c.arg 1) 9 0)) hroom, retireChain]
  simp [hv, hopen]

end State

/-- Settles O17: RETIRE_CHAIN takes the id's versions away (`State.dropChain_versions`, `State.dropChain_chain_ne`), then logs and
answers like any change. -/
theorem retireChainFreesItsId : Obligations.RetireChainFreesItsId := by
  intro m v s haccepted hroom hv hopen
  have hop : (s.cmd m.val).op = opRetireChain := State.takes_op haccepted.1
  have hobject : s.logObject (s.cmd m.val) = bits ((s.cmd m.val).arg 1) 9 0 := by
    unfold State.logObject
    rw [hop]
    rfl
  have hexec : exec (.retireChain m) s =
      .next (s.changed (s.dropChain (bits ((s.cmd m.val).arg 1) 9 0)) (s.cmd m.val) v.sig.toNat 0) :=
    congrArg Host.Outcome.next ((State.runCmd_accepted s m opRetireChain _ _ haccepted rfl).trans
      (State.retireChain_unused hv hopen hroom))
  refine ⟨_, hexec, ?_, ?_, ?_, fun id hid => ?_, ?_⟩
  · exact State.changed_answered (by rw [State.dropChain_frame]) (by rw [State.dropChain_frame]) _ _
  · have hlogged := State.changed_logged (s := s) (v := s) (u := s.dropChain (bits ((s.cmd m.val).arg 1) 9 0))
      (by rw [State.dropChain_frame]) (by rw [State.dropChain_frame]) (s.cmd m.val) v.sig.toNat 0
    rwa [hop, hobject] at hlogged
  · rw [State.changed_versions, State.dropChain_versions]
  · rw [State.changed_chain, State.dropChain_chain_ne s hid]
  · exact State.changed_frame (State.dropChain_frame _ _) _ _ _

end Sys2Proof.Machine
end

section
/-! PROOFS. LOAD_CHAIN (R252). -/

namespace Sys2Proof.Machine
open Sys2Proof.Safety

/-! ### The checks do not see the read of the descriptor -/

namespace State
variable (s : State)

/-- Admission sees of the bands only their floors (R266 to R272). -/
theorem admission_bands {bs : Vector Band 8} (h : ∀ b, (({ s with bands := bs } : State).band b).floor = (s.band b).floor)
    (sid : Nat) (v : Chain) (d : StreamDesc) : ({ s with bands := bs } : State).admission sid v d = s.admission sid v d := by
  have hresources : ({ s with bands := bs } : State).resources sid v d = s.resources sid v d := by
    unfold resources
    simp only [h]
    rfl
  have hlatency : ({ s with bands := bs } : State).latency sid v d = s.latency sid v d := by
    unfold latency passW
    simp only [h]
    rfl
  rw [admission, admission, hresources, hlatency]

/-- Reads that are counted change no floor. -/
theorem countReads_floor (n k b : Nat) : ((s.countReads n k).band b).floor = (s.band b).floor := by
  unfold countReads
  by_cases hb : s.vaneBand = b
  · subst hb
    by_cases h8 : s.vaneBand < 8
    · rw [modBand_band _ _ _ h8]
    · simp [band, h8]
  · rw [modBand_band_ne _ _ _ _ hb]

theorem readmit_bands {bs : Vector Band 8} (h : ∀ b, (({ s with bands := bs } : State).band b).floor = (s.band b).floor)
    (affected : Stream → Bool) : ({ s with bands := bs } : State).readmit affected = s.readmit affected := by
  unfold readmit
  simp only [s.admission_bands h]
  rfl

/-- The re-admission of the streams that a new version affects is the same after the read of its descriptor. -/
theorem countReads_replaceCheck (n k : Nat) (v : Chain) : (s.countReads n k).replaceCheck v = s.replaceCheck v :=
  ({ s with chains := setVersions v.id (v :: s.versions v.id) s.chains } : State).readmit_bands (s.countReads_floor n k) _

end State

/-! ### The version installed -/

namespace State

theorem installChain_frame (u : State) (v : Chain) : u.installChain v = { u with
    chains := (u.installChain v).chains, slots := (u.installChain v).slots, books := (u.installChain v).books
    nextVer := u.nextVer + 1 } := prune_chains_frame (u := u.booked _) (n := u.nextVer + 1) rfl

theorem installChain_chain (u : State) (v : Chain) (j : Nat) :
    (u.installChain v).chain? j = if v.id = j then some v else u.chain? j := by
  rw [installChain, prune_chain]
  exact chain_setVersions (by rw [booked_chains]) j

/-- New promise records leave what a stream is and does. -/
theorem repromise_streams (u : State) (affected : Stream → Bool) :
    (u.repromise affected).streams.map (fun x => (x.sid, x.desc, x.closing, x.suspended, x.rows)) =
      u.streams.map (fun x => (x.sid, x.desc, x.closing, x.suspended, x.rows)) := by
  unfold repromise
  rw [List.map_map]
  refine List.map_congr_left fun x _ => ?_
  simp only [Function.comp]
  split
  · split <;> rfl
  · rfl

/-- The newest version of a chain, installed, with the promise records of the streams that it affects. -/
def chainLoaded (u : State) (id : Nat) (v : Chain) : State := (u.installChain v).repromise (u.chainAffects id)

/-- Chains, promise records, slots and books change, and the next version number. -/
theorem chainLoaded_frame (u : State) (id : Nat) (v : Chain) : u.chainLoaded id v = { u with
    chains := (u.chainLoaded id v).chains, slots := (u.chainLoaded id v).slots, books := (u.chainLoaded id v).books
    nextVer := u.nextVer + 1, streams := (u.chainLoaded id v).streams } := by
  have hinstall := u.installChain_frame v
  have hpromise : u.chainLoaded id v = { u.installChain v with streams := (u.chainLoaded id v).streams } := rfl
  generalize u.chainLoaded id v = t at hpromise ⊢
  generalize u.installChain v = w at hinstall hpromise
  have hkept : t.chains = w.chains ∧ t.slots = w.slots ∧ t.books = w.books := by
    rw [hpromise]
    exact ⟨rfl, rfl, rfl⟩
  obtain ⟨hchains, hslots, hbooks⟩ := hkept
  rw [hchains, hslots, hbooks]
  refine hpromise.trans ?_
  rw [hinstall]

/-- The signature that an id has, 0 where it is free (Table 16.9). -/
def chainSigOf (u : State) (id : Nat) : Nat :=
  match u.chain? id with
  | some v => v.sig.toNat
  | none => 0

/-- LOAD_CHAIN reads the descriptor, and installs the version that it gives where all its checks pass. -/
theorem loadChain_passes {s u : State} {c : Cmd} {img : List Byte} {v : Chain} (hroom : u.logRoom false = true)
    (halign : c.addr 1 % 128 = 0) (hvane : s.vaneReads = true)
    (hu : s.countReads (ceilDiv (bits (c.arg 3) 17 0) 128) (bits (c.arg 3) 17 0) = u)
    (hheader : headerOk (padTake img 32) (bits (c.arg 3) 17 0) = true)
    (hv : u.newChain (bits (c.arg 4) 9 0) (padTake img (bits (c.arg 3) 17 0)) = v)
    (hid : u.chainSlotCheck (bits (c.arg 4) 9 0) (bit (c.arg 4) 16) = none)
    (hchecks : chainChecks u.slots u.resident v = none) (hrepl : u.replaceCheck v = none) :
    s.loadChain c (.data img) = u.changed (u.chainLoaded (bits (c.arg 4) 9 0) v) c (u.chainSigOf (bits (c.arg 4) 9 0))
      v.sig.toNat := by
  rw [← commit_changed c _ v.sig.toNat (fun u => u.chainLoaded (bits (c.arg 4) 9 0) v) hroom]
  unfold loadChain
  rw [withRead_data _ _ _ _ _ _ _ halign hvane, hu]
  dsimp only
  rw [if_neg (by simp [hheader]), hv, hid, orRefuse_none, hchecks, orRefuse_none, hrepl]
  rfl

end State

/-- Settles O21: where the checks pass, the version is installed (`State.installChain_chain`), and the change is logged and
answered like any other (`State.loadChain_passes`). -/
theorem loadChainInstallsTheVersion : Obligations.LoadChainInstallsTheVersion := by
  intro m img s c len id v haccepted hroom halign hvane hheader hid hchecks hrepl
  have hop : c.op = opLoadChain := State.takes_op haccepted.1
  obtain ⟨u, hu⟩ : ∃ u, s.countReads (ceilDiv len 128) len = u := ⟨_, rfl⟩
  have hreads : u = { s with bands := u.bands } := by
    rw [← hu]
    exact s.countReads_frame _ _
  have hobject : u.logObject c = id := by
    unfold State.logObject
    rw [hop]
    rfl
  have hload := State.loadChain_passes (u := u) (v := v) (by rw [hreads]; exact hroom) halign hvane hu hheader
    (by rw [hreads]; rfl) (by rw [hreads]; exact hid) (by rw [hreads]; exact hchecks)
    (by rw [← hu, State.countReads_replaceCheck]; exact hrepl)
  have hexec : exec (.loadChain m (.data img)) s = .next (u.changed (u.chainLoaded id v) c (u.chainSigOf id) v.sig.toNat) :=
    congrArg Host.Outcome.next ((State.runCmd_accepted s m opLoadChain _ _ haccepted rfl).trans hload)
  have hframe := u.chainLoaded_frame id v
  have hchain (j : Nat) : (u.changed (u.chainLoaded id v) c (u.chainSigOf id) v.sig.toNat).chain? j =
      if id = j then some v else s.chain? j := by
    rw [State.changed_chain]
    refine (u.installChain_chain v j).trans ?_
    rw [hreads]
    rfl
  refine ⟨_, hexec, ?_, ⟨u.chainSigOf id, ?_⟩, ?_, rfl, rfl, ?_, fun k hk => ?_, ?_, ?_, ?_, ?_, ?_⟩
  · exact State.changed_answered (by rw [hframe, hreads]) (by rw [hframe, hreads]) _ _
  · have hlogged := State.changed_logged (s := s) (v := u) (u := u.chainLoaded id v)
      (by rw [hframe, hreads]) (by rw [hframe, hreads]) c (u.chainSigOf id) v.sig.toNat
    rwa [hop, hobject] at hlogged
  · rw [hchain, if_pos rfl]
  · rw [State.changed_nextVer, hframe, hreads]
  · rw [hchain, if_neg hk.symm]
  · rw [State.changed_tiles, hframe, hreads]
  · rw [State.changed_bands, hframe, hu]
  · rw [State.changed_loads, hframe, hreads]
  · rw [State.changed_longOps, hframe, hreads]
  · rw [State.changed_streams, State.chainLoaded, State.repromise_streams, State.installChain_frame, hreads]

end Sys2Proof.Machine
end

section
/-! PROOFS. Credits of OPD_OUT and of FAB (R244, R245, R294 to R296, R300, R302). -/

namespace Sys2Proof.Machine
open Sys2Proof.Safety

/-! ### The stream whose beat leaves next (R294) -/

theorem leastOf_eq (l : List Nat) : leastOf l = l.min? := by cases l <;> rfl

/-- A stream that is to send has a beat there. It is the lowest from `opdNext` on, and the lowest of all where none stands there. -/
theorem Tile.nextSender_spec {x : Tile} {n : Nat} (h : x.nextSender = some n) :
    (∃ c ∈ x.egress, c.sid.toNat = n) ∧
    (∀ c ∈ x.egress, x.opdNext ≤ c.sid.toNat → x.opdNext ≤ n ∧ n ≤ c.sid.toNat) ∧
    ((∀ c ∈ x.egress, c.sid.toNat < x.opdNext) → ∀ c ∈ x.egress, n ≤ c.sid.toNat) := by
  simp only [nextSender, leastOf_eq] at h
  split at h
  case h_1 k hk =>
    obtain rfl := Option.some.inj h
    obtain ⟨hmem, hleast⟩ := List.min?_eq_some_iff.1 hk
    simp only [List.mem_filter, List.mem_map, decide_eq_true_eq] at hmem hleast
    obtain ⟨⟨c, hc, rfl⟩, hturn⟩ := hmem
    exact ⟨⟨c, hc, rfl⟩, fun d hd hge => ⟨hturn, hleast _ ⟨⟨d, hd, rfl⟩, hge⟩⟩, fun hlow => absurd hturn (Nat.not_le.2 (hlow c hc))⟩
  case h_2 hnone =>
    obtain ⟨hmem, hleast⟩ := List.min?_eq_some_iff.1 h
    obtain ⟨c, hc, rfl⟩ := List.mem_map.1 hmem
    rw [List.min?_eq_none_iff, List.filter_eq_nil_iff] at hnone
    exact ⟨⟨c, hc, rfl⟩, fun d hd hge => absurd (decide_eq_true hge) (hnone _ (List.mem_map_of_mem hd)),
      fun _ d hd => hleast _ (List.mem_map_of_mem hd)⟩

theorem Tile.nextSender_none {x : Tile} (h : x.egress = []) : x.nextSender = none := by simp [nextSender, leastOf, h]

theorem Tile.nextSender_some {x : Tile} (h : x.egress ≠ []) : ∃ n, x.nextSender = some n := by
  simp only [nextSender, leastOf_eq]
  split
  · exact ⟨_, rfl⟩
  · exact Option.ne_none_iff_exists'.1 fun hnone => h (List.map_eq_nil_iff.1 (List.min?_eq_none_iff.1 hnone))

/-- The beat that leaves is one of the stream's, and the others stay. -/
theorem splitFirst_spec {n : Nat} {l : List OpdBeat} {b : OpdBeat} {rest : List OpdBeat} (h : splitFirst n l = some (b, rest)) :
    b ∈ l ∧ b.sid.toNat = n ∧ rest.length + 1 = l.length := by
  induction l generalizing rest with
  | nil => cases h
  | cons c cs ih =>
    rw [splitFirst] at h
    split at h
    case isTrue hsid =>
      cases h
      exact ⟨List.mem_cons_self, by simpa using hsid, rfl⟩
    case isFalse =>
      obtain ⟨⟨d, ds⟩, hsplit, heq⟩ := Option.map_eq_some_iff.1 h
      cases heq
      obtain ⟨hmem, hsid, hlen⟩ := ih hsplit
      exact ⟨List.mem_cons_of_mem _ hmem, hsid, congrArg (· + 1) hlen⟩

theorem splitFirst_some {l : List OpdBeat} {c : OpdBeat} (h : c ∈ l) : ∃ p, splitFirst c.sid.toNat l = some p := by
  induction l with
  | nil => cases h
  | cons d ds ih =>
    rw [splitFirst]
    split
    case isTrue => exact ⟨_, rfl⟩
    case isFalse hsid =>
      rcases List.mem_cons.1 h with rfl | hmem
      · exact absurd (beq_self_eq_true _) hsid
      · obtain ⟨p, hp⟩ := ih hmem
        exact ⟨_, congrArg _ hp⟩

/-! ### OPD_BEAT -/

/-- A tile one beat of which has left. -/
def Tile.beatLeft (x : Tile) (n : Nat) (b : OpdBeat) (rest : List OpdBeat) : Tile :=
  { x with
    egress := rest, opdCredits := x.opdCredits - 1, opdSpent := x.opdSpent + 1, opdOut := some b, opdNext := n + 1
    rows := x.rows.map (beatSent b) }

namespace State
variable {s : State} {i : Fin 88}

/-- Whether a tile runs depends on its own power and on its band. -/
theorem tileRuns_congr {t : State} {k : Nat} (hpower : (t.tile k).power = (s.tile k).power)
    (hruns : t.bandRuns (bandOf k) = s.bandRuns (bandOf k)) : t.tileRuns k = s.tileRuns k := by
  rw [tileRuns, tileRuns, hpower, hruns]

/-- In a tile that stands still nothing goes on (R328, R379). -/
theorem settleTile_stands {k : Nat} (h : s.tileRuns k = false) : s.settleTile k = s := by
  have hpass (sid row pass : Nat) : s.settlePass k sid row pass = s := by simp [settlePass, h]
  have hsweep (l : List (Nat × Nat × Nat)) : l.foldl (fun s q => s.settlePass k q.1 q.2.1 q.2.2) s = s :=
    List.foldl_fixed' (fun q => hpass q.1 q.2.1 q.2.2) l
  have hblocks : s.settleBlocks k = s := by simp [settleBlocks, h]
  simp only [settleTile, hsweep]
  exact List.foldl_fixed' (fun _ => by rw [hblocks, hsweep]) _

/-- Without a credit or a beat nothing leaves. -/
theorem sendBeat_idle {k : Nat} (h : (s.tile k).opdCredits = 0 ∨ (s.tile k).egress = []) : s.sendBeat k = s := by
  unfold sendBeat
  rcases h with h | h
  · simp [h]
  · simp [Tile.nextSender_none h]

theorem sendBeat_sends {k n : Nat} {b : OpdBeat} {rest : List OpdBeat} (hcredit : (s.tile k).opdCredits ≠ 0)
    (hnext : (s.tile k).nextSender = some n) (hsplit : splitFirst n (s.tile k).egress = some (b, rest)) :
    s.sendBeat k = (s.setTile k ((s.tile k).beatLeft n b rest)).settleTile k := by
  simp [sendBeat, Tile.beatLeft, hcredit, hnext, hsplit]

/-- Where a beat waits, one leaves against a credit. -/
theorem sendBeat_some {k : Nat} (hcredit : (s.tile k).opdCredits ≠ 0) (hbeats : (s.tile k).egress ≠ []) :
    ∃ n b rest, splitFirst n (s.tile k).egress = some (b, rest) ∧
      s.sendBeat k = (s.setTile k ((s.tile k).beatLeft n b rest)).settleTile k := by
  obtain ⟨n, hnext⟩ := Tile.nextSender_some hbeats
  obtain ⟨⟨c, hc, rfl⟩, -⟩ := Tile.nextSender_spec hnext
  obtain ⟨⟨b, rest⟩, hsplit⟩ := splitFirst_some hc
  exact ⟨_, b, rest, hsplit, sendBeat_sends hcredit hnext hsplit⟩

theorem exec_opdBeat_runs (hruns : s.tileRuns i.val = true) : exec (.opdBeat i) s = .next (s.sendBeat i.val) :=
  congrArg Host.Outcome.next (if_pos hruns)

theorem exec_opdBeat_stands (hstands : s.tileRuns i.val = false) (hport : s.portRuns i.val = true) :
    exec (.opdBeat i) s = .next (s.sendCrossed i.val) := by
  simp [exec, execOpdBeat, hstands, hport]

/-- A tile that stands still sends nothing where its port does not work, or its queue is empty, or a credit is missing. -/
theorem exec_opdBeat_idle (hstands : s.tileRuns i.val = false) (h : s.portRuns i.val = false ∨ (s.tile i.val).opdCredits = 0 ∨
    (s.tile i.val).egress = [] ∨ s.opdLeft i.val = 0) : exec (.opdBeat i) s = .next s := by
  simp only [exec, execOpdBeat, hstands, Bool.false_eq_true, if_false, sendCrossed]
  rcases h with h | h | h | h <;> simp [h]

/-- One beat less stands in the OPD_OUT queue of a tile that stands still. -/
def crossed (s : State) (k : Nat) : State :=
  s.modBand (bandOf k) (fun y => { y with opdLeft := y.opdLeft.set (k % 11) (s.opdLeft k - 1) })

theorem crossed_opdLeft (h : s.opdLeft i.val ≠ 0) : (s.crossed i.val).opdLeft i.val = s.opdLeft i.val - 1 := by
  have hband := modBand_band s (bandOf i.val)
    (fun y => { y with opdLeft := y.opdLeft.set (i.val % 11) (s.opdLeft i.val - 1) }) (bandOf_lt i)
  have hplace : i.val % 11 < (s.band (bandOf i.val)).opdLeft.length := by
    by_contra hout
    exact h (List.getD_eq_default _ _ (Nat.not_lt.1 hout))
  rw [opdLeft, crossed, hband, List.getD_eq_getElem?_getD, List.getElem?_set_self hplace]
  rfl

theorem crossed_bandRuns (k b : Nat) : (s.crossed k).bandRuns b = s.bandRuns b := by
  by_cases hb : bandOf k = b
  · subst hb
    by_cases h8 : bandOf k < 8
    · simp only [bandRuns, crossed, modBand_band _ _ _ h8]
    · simp [bandRuns, crossed, modBand, setBand, band, h8]
  · simp only [bandRuns, crossed, modBand_band_ne _ _ _ _ hb]

/-- What leaves a tile that stands still changes nothing but the tile and how many beats of it its band's crossing holds. -/
theorem exec_opdBeat_crossed (hstands : s.tileRuns i.val = false) (hport : s.portRuns i.val = true)
    (hcredit : (s.tile i.val).opdCredits ≠ 0) (hbeats : (s.tile i.val).egress ≠ []) (hleft : s.opdLeft i.val ≠ 0) :
    ∃ n b rest, splitFirst n (s.tile i.val).egress = some (b, rest) ∧
      exec (.opdBeat i) s = .next ((s.crossed i.val).setTile i.val ((s.tile i.val).beatLeft n b rest)) := by
  obtain ⟨n, b, rest, hsplit, hsends⟩ := sendBeat_some (s := s.crossed i.val) hcredit hbeats
  refine ⟨n, b, rest, hsplit, (exec_opdBeat_stands hstands hport).trans (congrArg _ ?_)⟩
  have hcross : s.sendCrossed i.val = (s.crossed i.val).sendBeat i.val := by
    simp [sendCrossed, crossed, hcredit, hbeats, hleft]
  have hsame : ((s.crossed i.val).setTile i.val ((s.tile i.val).beatLeft n b rest)).tileRuns i.val = s.tileRuns i.val :=
    tileRuns_congr (by rw [setTile_tile _ _ _ i.isLt]; rfl) (crossed_bandRuns i.val _)
  rw [hcross, hsends]
  exact settleTile_stands (hsame.trans hstands)

/-! ### OPD_CREDIT_RETURN -/

/-- The tile with `n` credits more, at most 255 (R296). -/
def opdReturned (s : State) (i : Nat) (n : BitVec 4) : State :=
  let sum := (s.tile i).opdCredits + n.toNat
  s.modTile i (fun x => { x with
    opdCredits := min sum 255, opdReturned := x.opdReturned + (min sum 255 - x.opdCredits) })

theorem exec_opdCreditReturn {n : BitVec 4} (hport : s.portRuns i.val = true) : exec (.opdCreditReturn i n) s = .next
    (if n = 0 ∨ (s.tile i.val).opdCredits + n.toNat > 255 then (s.opdReturned i.val n).portFinding i.val evOpdCredit 1 0 0
      else s.opdReturned i.val n) := by
  simp [exec, execOpdCreditReturn, hport, opdReturned]

/-! ### FAB_CREDIT_RETURN -/

/-- The band with `n` credits more, at most 255 (R302). -/
def fabReturned (s : State) (b : Nat) (n : BitVec 4) : State :=
  let sum := (s.band b).fabCredits + n.toNat
  s.modBand b (fun x => { x with
    fabCredits := min sum 255, fabReturned := x.fabReturned + (min sum 255 - x.fabCredits) })

theorem fabRuns_of_clock {b : Fin 8} (h : s.fclkOut = true) : s.fabRuns b.val = true := by simp [fabRuns, h]

theorem exec_fabCreditReturn {b : Fin 8} {n : BitVec 4} (hclk : s.fclkOut = true) : exec (.fabCreditReturn b n) s = .next
    (if n = 0 ∨ (s.band b.val).fabCredits + n.toNat > 255 then (s.fabReturned b.val n).fabFinding b.val evFabCredit 0 0 0 0 0
      else s.fabReturned b.val n) := by
  simp [exec, execFabCreditReturn, fabRuns_of_clock hclk, fabReturned]

theorem told_tile {t : State} (h : Told s t) (k : Nat) : t.tile k = s.tile k := by
  rw [h]
  rfl

/-- A finding that is raised where `c` holds is counted there, and nothing else changes. -/
theorem findingIf_spec {c : Prop} [Decidable c] {u v : State} {src code : Nat} (htold : Told u v)
    (hcount : v.kindCount src code = satInc (u.kindCount src code)) :
    Told u (if c then v else u) ∧
      (if c then v else u).kindCount src code = if c then satInc (u.kindCount src code) else u.kindCount src code := by
  split
  · exact ⟨htold, hcount⟩
  · exact ⟨.refl u, rfl⟩

end State

/-! ### FAB_REQUEST -/

theorem takeFirst_none {skip : FabReq → Bool} {l : List FabReq} (h : ∀ q ∈ l, skip q = true) : takeFirst skip l = none := by
  induction l with
  | nil => rfl
  | cons q qs ih =>
    obtain ⟨hq, hqs⟩ := List.forall_mem_cons.1 h
    rw [takeFirst, if_pos hq, ih hqs]
    rfl

theorem takeFirst_append {skip : FabReq → Bool} {pre rest : List FabReq} {r : FabReq} (hpre : ∀ q ∈ pre, skip q = true)
    (hr : skip r = false) : takeFirst skip (pre ++ r :: rest) = some (r, pre ++ rest) := by
  induction pre with
  | nil => simp [takeFirst, hr]
  | cons q qs ih =>
    obtain ⟨hq, hqs⟩ := List.forall_mem_cons.1 hpre
    rw [List.cons_append, takeFirst, if_pos hq, ih hqs]
    rfl

theorem Band.stuck_iff (x : Band) (q : FabReq) :
    x.stuck q = true ↔ (x.away = true ∨ x.halted = true) ∧ q.owner.vane = false ∧ x.fabLeft = 0 := by
  simp [stuck, stands, and_assoc]

/-- The place of a tag among the dataless responses that the band has not yet taken is free for the request (Table 13.2). -/
def Band.placeFree (x : Band) (r : FabReq) (tag : Nat) : Prop :=
  r.op ≠ .read → r.owner.vane = false → ∀ h ∈ x.fabHeld, h.req.op ≠ .read → h.tag ≠ tag

theorem Band.tagTaken_iff (x : Band) (r : FabReq) (tag : Nat) :
    x.tagTaken r tag = true ↔ (∃ o ∈ x.fabOut, o.1 = tag) ∨ ¬ x.placeFree r tag := by
  simp only [tagTaken, placeFree, Bool.or_eq_true, Bool.and_eq_true, List.any_eq_true, beq_iff_eq, bne_iff_ne, Bool.not_eq_true',
    not_forall, not_not, exists_prop, and_assoc, and_comm (a := _ = tag)]

theorem Band.maySend_iff {x : Band} {r : FabReq} (h : x.stuck r = false) :
    x.maySend r = true ↔ r.op ≠ .read ∨ x.readLines < 64 := by
  simp [maySend, h]

namespace State
variable {s : State} {b : Fin 8} {tag : BitVec 10}

/-- A request has gone out with a tag, against a credit. -/
def fabSent (s : State) (b : Nat) (tag : Nat) (r : FabReq) (queue : List FabReq) : State :=
  let x := s.band b
  s.setBand b { x with
    fabLeft := if r.owner.vane then x.fabLeft else x.fabLeft - 1
    fabQueue := queue, fabCredits := x.fabCredits - 1, fabSpent := x.fabSpent + 1
    fabOut := x.fabOut ++ [(tag, r)], fabLast := some (tag, r), fabIssued := satInc x.fabIssued
    fabBytes := x.fabBytes + r.bytes }

theorem exec_fabRequest (hclk : s.fclkOut = true) : exec (.fabRequest b tag) s = .next (s.fabIssue b.val tag.toNat) :=
  congrArg Host.Outcome.next (if_pos (fabRuns_of_clock hclk))

/-- Nothing goes out where each request is held, without a credit, or with a tag that is outstanding. -/
theorem fabIssue_idle {b tag : Nat} (h : (∀ q ∈ (s.band b).fabQueue, (s.band b).stuck q = true) ∨ (s.band b).fabCredits = 0 ∨
    (∃ o ∈ (s.band b).fabOut, o.1 = tag)) : s.fabIssue b tag = s := by
  unfold fabIssue
  dsimp only
  split
  case h_1 => rfl
  case h_2 r rest hfirst =>
    refine if_pos ?_
    rcases h with h | h | h
    · rw [takeFirst_none h] at hfirst
      cases hfirst
    · simp [h]
    · simp [(Band.tagTaken_iff (s.band b) r tag).2 (.inl h)]

section
variable {b tag : Nat} {pre rest : List FabReq} {r : FabReq} (hqueue : (s.band b).fabQueue = pre ++ r :: rest)
  (hpre : ∀ q ∈ pre, (s.band b).stuck q = true) (hr : (s.band b).stuck r = false)
include hqueue hpre hr

/-- The first request that is not held decides. -/
theorem fabIssue_first : s.fabIssue b tag =
    if (s.band b).fabCredits = 0 ∨ (s.band b).tagTaken r tag = true ∨ (s.band b).maySend r = false then s
    else (s.fabSent b tag r (pre ++ rest)).storeSent r := by
  unfold fabIssue
  dsimp only
  rw [hqueue, takeFirst_append hpre hr]
  simp [fabSent, or_assoc]

/-- It waits for a response line, or for the place of its tag. -/
theorem fabIssue_waits (h : ¬ (r.op ≠ .read ∨ (s.band b).readLines < 64) ∨ ¬ (s.band b).placeFree r tag) :
    s.fabIssue b tag = s := by
  rw [fabIssue_first hqueue hpre hr, if_pos]
  rcases h with hline | hplace
  · exact .inr (.inr (Bool.eq_false_iff.2 fun hmay => hline ((Band.maySend_iff hr).1 hmay)))
  · exact .inr (.inl ((Band.tagTaken_iff ..).2 (.inr hplace)))

theorem fabIssue_goes (hline : r.op ≠ .read ∨ (s.band b).readLines < 64) (hplace : (s.band b).placeFree r tag)
    (hcredit : (s.band b).fabCredits ≠ 0) (hout : ∀ o ∈ (s.band b).fabOut, o.1 ≠ tag) :
    s.fabIssue b tag = (s.fabSent b tag r (pre ++ rest)).storeSent r := by
  have hmay : (s.band b).maySend r = true := (Band.maySend_iff hr).2 hline
  have htag : (s.band b).tagTaken r tag ≠ true := fun h =>
    ((Band.tagTaken_iff ..).1 h).elim (fun ⟨o, ho, heq⟩ => hout o ho heq) (· hplace)
  rw [fabIssue_first hqueue hpre hr, if_neg (by simp [hcredit, htag, hmay])]

end

theorem storeSent_store {r : FabReq} {k sid row p : Nat} (h : r.owner = .store k sid row p) : s.storeSent r =
    (s.modTile k (fun y => y.modPass sid row p (fun q => { q with unsent := q.unsent - 1 }))).settleTile k := by
  simp only [storeSent, h]

theorem storeSent_other {r : FabReq} (h : ∀ k sid row p, r.owner ≠ .store k sid row p) : s.storeSent r = s := by
  unfold storeSent
  split
  case h_1 k sid row p howner => exact absurd howner (h k sid row p)
  case h_2 => rfl

end State

/-! ### The statement -/

/-- Settles O45: a beat of the stream whose turn it is (`Tile.nextSender_spec`, `State.sendBeat_sends`), one from a tile that stands
still (`State.exec_opdBeat_crossed`), the first request that is not held (`State.fabIssue_waits`, `State.fabIssue_goes`), and the
returns of credits, which add up to 255 with a finding where they would not (`State.findingIf_spec`). -/
theorem creditsAreTakenAndReturned : Obligations.CreditsAreTakenAndReturned := by
  refine ⟨fun i s hruns => ⟨fun hidle => ?_, fun n b rest hcredit hnext hsplit => ?_⟩, fun i s hstands => ⟨fun hidle => ?_,
    fun hport hcredit hbeats hleft => ?_⟩, fun i n s hport => ?_, fun b tag s hclk => ⟨fun hidle => ?_,
    fun pre r rest hqueue hpre hr => ?_⟩, fun b n s hclk => ?_⟩
  · rw [State.exec_opdBeat_runs hruns, State.sendBeat_idle hidle]
  · obtain ⟨-, hturn, hround⟩ := Tile.nextSender_spec hnext
    obtain ⟨hmem, hsid, -⟩ := splitFirst_spec hsplit
    exact ⟨(State.exec_opdBeat_runs hruns).trans (congrArg _ (State.sendBeat_sends hcredit hnext hsplit)), hmem, hsid, hturn, hround⟩
  · exact State.exec_opdBeat_idle hstands hidle
  · obtain ⟨n, b, rest, hsplit, hexec⟩ := State.exec_opdBeat_crossed hstands hport hcredit hbeats hleft
    obtain ⟨hmem, -, hlen⟩ := splitFirst_spec hsplit
    have htile := State.setTile_tile (s.crossed i.val) i.val ((s.tile i.val).beatLeft n b rest) i.isLt
    refine ⟨_, b, hexec, hmem, ?_, ?_, State.crossed_opdLeft hleft, ?_, fun k hk => ?_, rfl⟩
    · rw [htile]; rfl
    · rw [htile]; rfl
    · rw [htile]; exact hlen
    · exact State.setTile_tile_ne _ _ _ _ fun h => hk (Fin.ext h.symm)
  · intro y sum
    obtain ⟨htold, hcount⟩ := State.findingIf_spec (c := n = 0 ∨ sum > 255)
      ((s.opdReturned i.val n).portFinding_told i.val evOpdCredit 1 0 0)
      ((State.portFinding_kindCount ..).trans (if_pos ⟨rfl, rfl⟩))
    refine ⟨_, State.exec_opdCreditReturn hport, ?_, fun k hk => ?_, hcount, ?_⟩
    · rw [State.told_tile htold]
      exact State.modTile_tile s i.val _ i.isLt
    · rw [State.told_tile htold]
      exact State.modTile_tile_ne s i.val k.val _ fun h => hk (Fin.ext h.symm)
    · rw [htold]; rfl
  · simp only [← Band.stuck_iff] at hidle
    rw [State.exec_fabRequest hclk, State.fabIssue_idle hidle]
  · simp only [← Band.stuck_iff, Bool.not_eq_true] at hpre hr
    intro line sent place
    refine ⟨fun hwaits => ?_, fun hline hplace hcredit hout => ?_⟩
    · rw [State.exec_fabRequest hclk]
      exact congrArg _ (State.fabIssue_waits hqueue hpre hr hwaits)
    · rw [State.exec_fabRequest hclk, State.fabIssue_goes hqueue hpre hr hline hplace hcredit hout]
      exact ⟨fun k sid row p howner => congrArg _ (State.storeSent_store howner),
        fun hother => congrArg _ (State.storeSent_other hother)⟩
  · intro x sum
    obtain ⟨htold, hcount⟩ := State.findingIf_spec (c := n = 0 ∨ sum > 255)
      (.report (s.fabReturned b.val n) (srcBand b.val) evFabCredit (fun k => layoutP (0x80 + b.val) 3 0 0 0 0 0 k))
      ((State.report_kindCount ..).trans (if_pos ⟨rfl, rfl⟩))
    refine ⟨_, State.exec_fabCreditReturn hclk, ?_, fun k hk => ?_, hcount, ?_⟩
    · rw [State.fabFinding, State.told_band htold]
      exact State.modBand_band s b.val _ b.isLt
    · rw [State.fabFinding, State.told_band htold]
      exact State.modBand_band_ne s b.val k.val _ fun h => hk (Fin.ext h.symm)
    · rw [State.fabFinding, htold]; rfl

end Sys2Proof.Machine
end

section
/-! PROOFS. REARM, RESUME, TEL_SNAP and the read of TIME (R278, R328, R377, R379, R395, R401, R403). -/

namespace Sys2Proof.Machine
open Sys2Proof.Safety

/-! ### The two halves of TIME (R395) -/

theorem bits_high (x : BitVec 64) : bits x.toNat 63 32 = x.toNat / 2 ^ 32 := by
  have hx := x.isLt
  rw [bits, Nat.shiftRight_eq_div_pow]
  omega

theorem bits_low (n : Nat) : w32 (bits n 31 0) = BitVec.ofNat 32 n := by
  simp [w32, bits, BitVec.ofNat, Fin.ofNat]

theorem w32_high_toNat (x : BitVec 64) : (w32 (x.toNat / 2 ^ 32)).toNat = x.toNat / 2 ^ 32 := by
  have hx := x.isLt
  rw [w32, BitVec.toNat_ofNat]
  omega

namespace State
variable (s : State)

theorem read_timeHi : s.read 0x24 = (s.timeShadow.map BitVec.toNat).getD (s.time.toNat / 2 ^ 32) := by
  rw [← bits_high]
  rfl

/-- A read of TIME_LO returns the lower half and keeps the upper. -/
theorem ctlRead_timeLo : s.ctlRead 0x20 = { s with
    ctlAck := true, ctlRdata := BitVec.ofNat 32 s.time.toNat
    timeShadow := some (BitVec.ofNat 32 (s.time.toNat / 2 ^ 32)) } := by
  rw [← bits_high, ← bits_low s.time.toNat]
  rfl

/-- A read of TIME_HI returns the half that was kept, and takes it. -/
theorem ctlRead_timeHi {v : BitVec 64} (h : s.timeShadow = some (BitVec.ofNat 32 (v.toNat / 2 ^ 32))) :
    (s.ctlRead 0x24).ctlRdata.toNat = v.toNat / 2 ^ 32 ∧ (s.ctlRead 0x24).read 0x24 = s.time.toNat / 2 ^ 32 := by
  have hdata : (s.ctlRead 0x24).ctlRdata = w32 (s.read 0x24) := rfl
  constructor
  · rw [hdata, read_timeHi, h, Option.map_some, Option.getD_some]
    exact (congrArg (fun n => (w32 n).toNat) (w32_high_toNat v)).trans (w32_high_toNat v)
  · rw [read_timeHi]
    rfl

/-! ### RESUME and the streams of the halted bands (R278, R379) -/

/-- A stream that returns keeps its causes. -/
theorem resume_causes (n : Nat) : ∀ y ∈ (s.resume n).streams, ∃ z ∈ s.streams, z.sid = y.sid ∧ z.causes = y.causes := by
  have hreturn (y : Stream) (hy : y ∈ (s.modStream n (fun x => { x with suspended := false })).streams) :
      ∃ z ∈ s.streams, z.sid = y.sid ∧ z.causes = y.causes := by
    obtain ⟨z, hz, rfl⟩ := List.mem_map.1 hy
    exact ⟨z, hz, by split <;> rfl, by split <;> rfl⟩
  unfold resume
  split
  · exact fun y hy => ⟨y, hy, rfl, rfl⟩
  split
  · dsimp only
    split
    · rw [notice, report_streams]
      exact hreturn
    · exact hreturn
  · exact fun y hy => ⟨y, hy, rfl, rfl⟩

/-- Where the end of a cause makes a stream's causes meet `P`, those of every stream of the list do, and those that did do. -/
theorem unsuspend_causes {P : Causes → Prop} {f : Causes → Causes} (hf : ∀ c, P (f c)) (l : List Nat) :
    ∀ y ∈ (s.unsuspend l f).streams, ∃ z ∈ s.streams, z.sid = y.sid ∧ (P z.causes ∨ z.sid ∈ l → P y.causes) := by
  unfold unsuspend
  induction l generalizing s with
  | nil => exact fun y hy => ⟨y, hy, rfl, fun h => h.resolve_right (by simp)⟩
  | cons n l ih =>
    intro y hy
    obtain ⟨z, hz, hsid, hP⟩ := ih _ y hy
    obtain ⟨w, hw, hwz, hcauses⟩ := resume_causes _ n z hz
    obtain ⟨v, hv, rfl⟩ := List.mem_map.1 hw
    rw [← hwz, ← hcauses] at hP
    by_cases hn : v.sid = n
    · rw [if_pos (by simpa using hn)] at hwz hP
      exact ⟨v, hv, hwz.trans hsid, fun _ => hP (.inl (hf _))⟩
    · rw [if_neg (by simpa using hn)] at hwz hP
      exact ⟨v, hv, hwz.trans hsid, fun h => hP (h.imp_right (List.mem_of_ne_of_mem hn))⟩

/-- Once the halt of the bands `l` is over for their streams, it is a cause of none of them. -/
theorem foldl_endHaltOf_causes (l : List Nat) : ∀ y ∈ (l.foldl endHaltOf s).streams,
    ∃ z ∈ s.streams, z.sid = y.sid ∧ (z.causes.halt = false ∨ sidBand z.sid ∈ l → y.causes.halt = false) := by
  induction l generalizing s with
  | nil => exact fun y hy => ⟨y, hy, rfl, fun h => h.resolve_right (by simp)⟩
  | cons b l ih =>
    intro y hy
    obtain ⟨z, hz, hsid, hhalt⟩ := ih _ y hy
    obtain ⟨v, hv, hvz, hover⟩ := s.unsuspend_causes (P := fun c => c.halt = false) (fun _ => rfl) _ z hz
    refine ⟨v, hv, hvz.trans hsid, fun h => ?_⟩
    rw [← hvz] at hhalt
    rcases h with h | h
    · exact hhalt (.inl (hover (.inl h)))
    · rcases List.mem_cons.1 h with h | h
      · exact hhalt (.inl (hover (.inr (List.mem_map.2 ⟨v, List.mem_filter.2 ⟨hv, by simp [h]⟩, rfl⟩))))
      · exact hhalt (.inr h)

theorem mem_haltedBands {b : Nat} (h : (s.band b).halted = true) : b ∈ s.haltedBands := by
  refine List.mem_filter.2 ⟨List.mem_range.2 ?_, h⟩
  by_contra hb
  simp [band, hb, Band.resetWith] at h

/-- No stream of a band that was halted keeps the halt as a cause. -/
theorem resumeHalt_causes {s : State} (h : NothingWaits s) :
    ∀ y ∈ s.resumeHalt.streams, (s.band (sidBand y.sid)).halted = true → y.causes.halt = false := by
  intro y hy hhalted
  rw [resumeHalt_idle h] at hy
  obtain ⟨z, -, hsid, hover⟩ := foldl_endHaltOf_causes _ _ y hy
  exact hover (.inr (by rw [hsid]; exact s.mem_haltedBands hhalted))

theorem resumeHalt_frame {s : State} (h : NothingWaits s) : s.resumeHalt = { s with
    trap := s.resumeHalt.trap, bands := s.resumeHalt.bands, streams := s.resumeHalt.streams, taps := s.resumeHalt.taps
    arb := s.resumeHalt.arb, intStatus := s.resumeHalt.intStatus } := by
  rw [resumeHalt_idle h, foldl_endHaltOf_frame, unhalt_frame]

end State

/-- Settles O38: REARM and TEL_SNAP as one write each, the read of TIME_LO by `State.ctlRead_timeLo` and that of TIME_HI by
`State.ctlRead_timeHi`, RESUME by what `State.resumeHalt_idle` leaves of the halt. -/
theorem rearmSnapAndTimeRead : Obligations.RearmSnapAndTimeRead := by
  refine ⟨fun v s hruns => ⟨?rearm, fun hbit hidle => ?snap, fun h => ?ignored, ?time⟩, fun s hruns hheld htiles => ?resume⟩
  case rearm => exact congrArg Host.Outcome.next (s.ctlWrite_out State.rearm hruns)
  case snap =>
    refine congrArg Host.Outcome.next ((s.ctlWrite_out _ hruns).trans ?_)
    rw [State.snap, hbit, hidle]
    rfl
  case ignored =>
    refine congrArg Host.Outcome.next ((s.ctlWrite_out _ hruns).trans ?_)
    have hoff : ¬ (v.getLsbD 0 && !s.tel.busy) = true := by
      rcases h with h | h
      · rw [h, Bool.false_and]; exact Bool.false_ne_true
      · simp [h]
    rw [State.snap, if_neg hoff]
    rfl
  case time =>
    have hexec : exec .timeLoRead s = .next (s.ctlRead 0x20) := congrArg Host.Outcome.next (if_pos hruns)
    refine ⟨_, hexec, s.ctlRead_timeLo, ?_, fun u hu => u.ctlRead_timeHi ?_⟩
    · rw [State.ctlRead_timeLo, State.read_timeHi]
      exact w32_high_toNat s.time
    · rw [hu, State.ctlRead_timeLo]
  case resume =>
    have hwaits : s.NothingWaits := .of_units hheld htiles
    refine ⟨_, congrArg Host.Outcome.next (s.ctlWrite_out _ hruns), State.resumeHalt_trap hwaits,
      fun b => State.resumeHalt_band hwaits b.val b.isLt, State.resumeHalt_causes hwaits, ?_⟩
    have hframe := State.resumeHalt_frame hwaits
    generalize s.resumeHalt = u at hframe ⊢
    rw [hframe]
    rfl

end Sys2Proof.Machine
end

section
/-! PROOFS. The clock monitor before READY of start-up (R328, R332). -/

namespace Sys2Proof.Machine
open Sys2Proof.Safety

/-- A band that the map has formed with, its clocks there. -/
def mappedBand : Band := { Band.resetWith false with
  cclkOut := true, hclkOut := true, clocked := true, fabUp := true, present := true, cur := 2 }

/-- The map has formed, READY still waits behind mailbox 0, and band 7 has been without its clocks for a window. -/
def bootWithoutClock : State := { State.reset with
  mgmtOut := true
  tclkOut := true
  bootPhase := .ready
  bands := (Vector.replicate 8 mappedBand).setIfInBounds 7 { mappedBand with zeroWins := 1 } }

/-- A window in which every band but 7 counts 650 MHz of CCLK. -/
def cclkBut7 : Vector (BitVec 16) 8 := (Vector.replicate 8 650).setIfInBounds 7 0

/-- Refutes O49: until READY has been reported every map word reads 0 (Table 13.8), so a band that loses its clocks in a second
window while READY waits (the statement's case `bootPhase = .ready`) leaves the map without a change of its word, and no
SERVICE_MAP notice counts. The block `bootWithoutClock` meets the hypotheses: the other bands measure 650 MHz, band 7 no CCLK. -/
theorem not_timeAndClocksAreMonitored : ¬ Obligations.TimeAndClocksAreMonitored := by
  rintro ⟨-, -, hmonitor⟩
  obtain ⟨-, hband⟩ := hmonitor cclkBut7 (Vector.replicate 8 650) bootWithoutClock (by decide) (by decide) (by decide)
  obtain ⟨-, -, -, -, hlost, -⟩ := hband 7 (by decide +kernel)
  obtain ⟨t, hexec, -, -, -, -, -, hcount, -⟩ :=
    hlost (.inl (by decide)) (by decide) (by decide) (by decide) (.inr rfl)
  have hwindow : exec (.clockMonitorWindow cclkBut7 (Vector.replicate 8 650)) bootWithoutClock =
      .next (bootWithoutClock.monitorWindow cclkBut7 (Vector.replicate 8 650)) := congrArg Host.Outcome.next (if_pos (by decide))
  have hnone : (bootWithoutClock.monitorWindow cclkBut7 (Vector.replicate 8 650)).kindCount srcMgmt evServiceMap = 0 := by
    decide +kernel
  have hzero : bootWithoutClock.kindCount srcMgmt evServiceMap = 0 := by decide
  obtain rfl : bootWithoutClock.monitorWindow cclkBut7 (Vector.replicate 8 650) = t :=
    Host.Outcome.next.inj (hwindow.symm.trans hexec)
  rw [hnone, hzero] at hcount
  exact absurd hcount (by decide)

end Sys2Proof.Machine
end

section
/-! PROOFS. Squalls that a point begins (R276, R277, R317). -/

namespace Sys2Proof.Machine

namespace State
variable (s : State)

/-! ### Streams suspended together (R277) -/

/-- Where the cause makes a stream's causes meet `P`, every stream of the list stands suspended with `P`, and those that stood so
do. -/
theorem foldl_suspend_streams {P : Causes → Prop} {f : Causes → Causes} (hf : ∀ c, P (f c)) (l : List Stream) :
    ∀ y ∈ (l.foldl (fun s x => s.suspend x.sid f) s).streams, ∃ z ∈ s.streams, z.sid = y.sid ∧
      ((z.suspended = true ∧ P z.causes) ∨ (∃ x ∈ l, x.sid = z.sid) → y.suspended = true ∧ P y.causes) := by
  induction l generalizing s with
  | nil => exact fun y hy => ⟨y, hy, rfl, fun h => h.resolve_right (by simp)⟩
  | cons x l ih =>
    intro y hy
    obtain ⟨z, hz, hsid, hstop⟩ := ih _ y hy
    obtain ⟨w, hw, rfl⟩ := List.mem_map.1 hz
    by_cases hx : w.sid = x.sid
    · rw [if_pos (by simpa using hx)] at hsid hstop
      refine ⟨w, hw, ?_, fun _ => hstop (.inl ?_)⟩
      · rw [← hsid]
        dsimp only
        split <;> rfl
      · dsimp only
        split
        case isTrue h => exact ⟨h, hf _⟩
        case isFalse => exact ⟨rfl, hf _⟩
    · rw [if_neg (by simpa using hx)] at hsid hstop
      refine ⟨w, hw, hsid, fun h => hstop (h.imp_right ?_)⟩
      rintro ⟨v, hv, hvw⟩
      rcases List.mem_cons.1 hv with rfl | hmem
      · exact absurd hvw.symm hx
      · exact ⟨v, hmem, hvw⟩

theorem foldl_suspend_frame (f : Causes → Causes) (l : List Stream) : l.foldl (fun s x => s.suspend x.sid f) s =
    { s with streams := (l.foldl (fun s x => s.suspend x.sid f) s).streams } := by
  induction l generalizing s with
  | nil => rfl
  | cons x l ih =>
    rw [List.foldl_cons, ih]
    rfl

/-! ### The beginning of a squall (R276) -/

/-- Band `b` with the squall in progress that `cause` has opened, before its streams are suspended. -/
def squallOpened (s : State) (b cause : Nat) : State := s.modBand b (fun y => { y with sqCause := cause, squalls := satInc y.squalls })

/-- The streams of the band are suspended for the squall. -/
def becalm (s : State) (b : Nat) : State :=
  (s.streamsIn b).foldl (fun s y => s.suspend y.sid (fun c => { c with squall := true })) s

theorem becalm_frame (b : Nat) : s.becalm b = { s with streams := (s.becalm b).streams } := s.foldl_suspend_frame _ _

theorem becalm_band (b k : Nat) : (s.becalm b).band k = s.band k := by
  rw [becalm_frame]
  rfl

theorem becalm_streams (b : Nat) :
    ∀ y ∈ (s.becalm b).streams, sidBand y.sid = b → y.suspended = true ∧ y.causes.squall = true := by
  intro y hy hband
  obtain ⟨z, hz, hsid, hstop⟩ := s.foldl_suspend_streams (P := fun c => c.squall = true) (fun _ => rfl) _ y hy
  refine hstop (.inr ⟨z, List.mem_filter.2 ⟨hz, ?_⟩, rfl⟩)
  simp [hsid, hband]

theorem squallOpened_band {b : Nat} (hb : b < 8) (cause : Nat) :
    (s.squallOpened b cause).band b = { s.band b with sqCause := cause, squalls := satInc (s.band b).squalls } := modBand_band s b _ hb

theorem beginSquall_eq {b : Nat} (cause mhz : Nat) (h : (s.band b).squall = false) : s.beginSquall b cause mhz =
    ((s.squallOpened b cause).becalm b).notice srcMgmt evSquall (((s.squallOpened b cause).becalm b).squallPayload b mhz cause) :=
  if_neg (by simp [h])

theorem beginSquall_held {b : Nat} (cause mhz : Nat) (h : (s.band b).squall = true) : s.beginSquall b cause mhz = s := if_pos h

theorem beginSquall_frame (b cause mhz : Nat) : s.beginSquall b cause mhz = { s with
    bands := (s.beginSquall b cause mhz).bands, streams := (s.beginSquall b cause mhz).streams
    intStatus := (s.beginSquall b cause mhz).intStatus, arb := (s.beginSquall b cause mhz).arb
    taps := (s.beginSquall b cause mhz).taps } := by
  cases h : (s.band b).squall
  · rw [beginSquall_eq s cause mhz h, notice_frame, becalm_frame]
    rfl
  · rw [beginSquall_held s cause mhz h]

/-- A squall begins or not; it shows in its band alone, and there in its cause and its count. -/
theorem beginSquall_bands (b cause mhz : Nat) :
    (s.beginSquall b cause mhz).bands = s.bands ∨ (s.beginSquall b cause mhz).bands = (s.squallOpened b cause).bands := by
  cases h : (s.band b).squall
  · right
    rw [beginSquall_eq s cause mhz h, notice_frame, becalm_frame]
  · left
    rw [beginSquall_held s cause mhz h]

theorem band_congr {s t : State} (h : t.bands = s.bands) (k : Nat) : t.band k = s.band k := by rw [band, band, h]

theorem beginSquall_band_ne {b k : Nat} (hk : b ≠ k) (cause mhz : Nat) : (s.beginSquall b cause mhz).band k = s.band k := by
  rcases s.beginSquall_bands b cause mhz with h | h
  · exact band_congr h k
  · exact (band_congr h k).trans (modBand_band_ne s b k _ hk)

theorem beginSquall_band {b : Nat} (hb : b < 8) (cause mhz : Nat) : (s.beginSquall b cause mhz).band b = { s.band b with
    sqCause := ((s.beginSquall b cause mhz).band b).sqCause, squalls := ((s.beginSquall b cause mhz).band b).squalls } := by
  rcases s.beginSquall_bands b cause mhz with h | h
  · rw [band_congr h]
  · rw [band_congr h, squallOpened, modBand_band _ _ _ hb]

/-! ### The point against the floor (R317) -/

theorem judged_modBand (b : Nat) (f : Band → Band)
    (h : ∀ x, (f x).present = x.present ∧ (f x).away = x.away ∧ (f x).fabUp = x.fabUp) : (s.modBand b f).judged b = s.judged b := by
  unfold judged
  rw [band_modBand]
  split
  · obtain ⟨hpresent, haway, hfab⟩ := h (s.band b)
    rw [hpresent, haway, hfab]
    rfl
  · rfl

theorem pointSquall_unjudged {b : Nat} (h : s.judged b = false) : s.pointSquall b = s := by
  rw [pointSquall, if_neg (by simp [h])]

theorem pointSquall_low {b : Nat} (h : s.judged b = true) (hlow : (s.band b).cur < (s.band b).floor) : s.pointSquall b =
    (s.modBand b (fun y => { y with sqThrottle := true })).beginSquall b 1
      (pointMhz ((s.modBand b (fun y => { y with sqThrottle := true })).band b).cur) := by
  rw [pointSquall, if_pos h]
  simp only [decide_eq_true hlow, if_true]

theorem pointSquall_atFloor {b : Nat} (h : s.judged b = true) (hfloor : (s.band b).floor ≤ (s.band b).cur) :
    s.pointSquall b = s.modBand b (fun y => { y with sqThrottle := false }) := by
  rw [pointSquall, if_pos h]
  simp only [decide_eq_false (Nat.not_lt.2 hfloor)]
  rfl

/-! ### A point that the host applies (R280) -/

/-- Band `b` stands at point `p`, not yet judged. -/
def atPoint (s : State) (b p : Nat) : State := s.modBand b (fun x => { x with cur := p })

theorem atPoint_band {b : Nat} (hb : b < 8) (p : Nat) : (s.atPoint b p).band b = { s.band b with cur := p } := modBand_band s b _ hb

theorem atPoint_judged (b p : Nat) : (s.atPoint b p).judged b = s.judged b := s.judged_modBand b _ fun _ => ⟨rfl, rfl, rfl⟩

theorem applyPoint_unjudged {b : Nat} (p : Nat) (h : s.judged b = false) : s.applyPoint b p = s.atPoint b p :=
  pointSquall_unjudged _ ((s.atPoint_judged b p).trans h)

theorem modBand_modBand (b : Nat) (f g : Band → Band) : (s.modBand b f).modBand b g = s.modBand b (fun x => g (f x)) := by
  by_cases hb : b < 8
  · unfold modBand
    rw [setBand_band _ _ _ hb]
    simp [setBand, Vector.setIfInBounds_setIfInBounds]
  · simp [modBand, setBand, Vector.setIfInBounds_eq_of_size_le (Nat.le_of_not_lt hb)]

theorem applyPoint_atFloor {b p : Nat} (hb : b < 8) (h : s.judged b = true) (hfloor : (s.band b).floor ≤ p) :
    s.applyPoint b p = s.modBand b (fun x => { x with cur := p, sqThrottle := false }) :=
  (pointSquall_atFloor (s.atPoint b p) ((s.atPoint_judged b p).trans h) (by rwa [atPoint_band s hb])).trans (s.modBand_modBand b _ _)

/-- A point below the floor shows as such, and begins a squall of cause 1 where none is in progress. -/
theorem applyPoint_low {b p : Nat} (hb : b < 8) (h : s.judged b = true) (hlow : p < (s.band b).floor) :
    ∃ mhz, s.applyPoint b p = (s.modBand b (fun x => { x with cur := p, sqThrottle := true })).beginSquall b 1 mhz := by
  have hbegins := pointSquall_low (s.atPoint b p) ((s.atPoint_judged b p).trans h) (by rwa [atPoint_band s hb])
  rw [atPoint, modBand_modBand] at hbegins
  exact ⟨_, hbegins⟩

theorem applyPoint_frame (b p : Nat) : s.applyPoint b p = { s with
    bands := (s.applyPoint b p).bands, streams := (s.applyPoint b p).streams, intStatus := (s.applyPoint b p).intStatus
    arb := (s.applyPoint b p).arb, taps := (s.applyPoint b p).taps } := by
  have hpoint (u : State) : u.pointSquall b = { u with
      bands := (u.pointSquall b).bands, streams := (u.pointSquall b).streams, intStatus := (u.pointSquall b).intStatus
      arb := (u.pointSquall b).arb, taps := (u.pointSquall b).taps } := by
    unfold pointSquall
    split
    · dsimp only
      split
      · rw [beginSquall_frame]
        rfl
      · rfl
    · rfl
  rw [applyPoint, hpoint]
  rfl

/-- Wherever it stands, the point is the band's, and no other band changes. -/
theorem applyPoint_bands {b : Nat} (hb : b < 8) (p : Nat) :
    ((s.applyPoint b p).band b).cur = p ∧ ∀ k, b ≠ k → (s.applyPoint b p).band k = s.band k := by
  cases hj : s.judged b
  · rw [applyPoint_unjudged s p hj]
    exact ⟨congrArg Band.cur (s.atPoint_band hb p), fun k hk => modBand_band_ne s b k _ hk⟩
  · rcases Nat.lt_or_ge p (s.band b).floor with hlow | hfloor
    · obtain ⟨mhz, heq⟩ := s.applyPoint_low hb hj hlow
      rw [heq]
      refine ⟨?_, fun k hk => (beginSquall_band_ne _ hk 1 mhz).trans (modBand_band_ne s b k _ hk)⟩
      rw [beginSquall_band _ hb, modBand_band _ _ _ hb]
    · rw [applyPoint_atFloor s hb hj hfloor]
      exact ⟨congrArg Band.cur (modBand_band s b _ hb), fun k hk => modBand_band_ne s b k _ hk⟩

/-- The squall that a point below the floor begins. -/
theorem applyPoint_squall {b p : Nat} (hb : b < 8) (h : s.judged b = true) (hlow : p < (s.band b).floor)
    (hnone : (s.band b).squall = false) :
    let t := s.applyPoint b p
    (t.band b).sqThrottle = true ∧ (t.band b).sqCause = 1 ∧
      t.kindCount srcMgmt evSquall = satInc (s.kindCount srcMgmt evSquall) ∧
      ∀ y ∈ t.streams, sidBand y.sid = b → y.suspended = true ∧ y.causes.squall = true := by
  obtain ⟨mhz, heq⟩ := s.applyPoint_low hb h hlow
  have hband := modBand_band s b (fun x => { x with cur := p, sqThrottle := true }) hb
  dsimp only
  rw [heq, beginSquall_eq _ 1 mhz (by rw [hband]; exact hnone)]
  generalize hu : s.modBand b (fun x => { x with cur := p, sqThrottle := true }) = u at hband
  have htaps : u.taps = s.taps := by rw [← hu]; rfl
  refine ⟨?_, ?_, ?_, ?_⟩
  · rw [notice_band, becalm_band, squallOpened_band _ hb, hband]
  · rw [notice_band, becalm_band, squallOpened_band _ hb]
  · rw [notice_kindCount, if_pos ⟨rfl, rfl⟩, becalm_frame]
    exact congrArg satInc (kindCount_congr htaps _ _)
  · rw [notice, report_streams]
    exact becalm_streams _ b

end State

end Sys2Proof.Machine
end

section
/-! PROOFS. Requests of a clock point within cap and floor, and the choice of a window (R280, R314, R391, R404). -/

namespace Sys2Proof.Machine
open Sys2Proof.Safety

/-! ### The request that cap and floor allow (R314) -/

namespace Band
variable (x : Band) (want : Nat)

theorem requestFor_le_cap : x.requestFor want ≤ x.cap := by
  unfold requestFor
  split
  · exact Nat.le_refl _
  · exact Nat.min_le_left ..

theorem requestFor_below {x : Band} (h : x.cap < x.floor) : x.requestFor want = x.cap := if_pos h

theorem floor_le_requestFor {x : Band} (h : x.floor ≤ x.cap) : x.floor ≤ x.requestFor want := by
  rw [requestFor, if_neg (Nat.not_lt.2 h)]
  exact le_min h (le_max_left ..)

theorem requestFor_cap : x.requestFor x.cap = x.cap := by
  unfold requestFor
  split <;> omega

end Band

namespace State
variable (s : State)

/-! ### A request made, dropped or not made (R391) -/

/-- Band `b` asks for point `p`. -/
def requested (s : State) (b p : Nat) : State := s.modBand b (fun x => { x with req := p })

theorem setRequest_same {b p : Nat} (h : p = (s.band b).req) : s.setRequest b p = s := by
  rw [setRequest]
  exact if_pos (by simp [h])

theorem setRequest_room {b p : Nat} (hp : p ≠ (s.band b).req) (h : s.logRoom false = true) :
    s.setRequest b p = (s.requested b p).logGlomen kClockReq 0 b (s.band b).req p := by
  rw [setRequest]
  simp only [beq_iff_eq]
  rw [if_neg hp, if_pos h]
  exact glomenChange_room _ _ _ _ _ _ h

theorem setRequest_capped {b p : Nat} (hp : p ≠ (s.band b).req) (h : s.logRoom false = false)
    (hcap : (s.band b).cap < (s.band b).req) : s.setRequest b p = (s.requested b p).logHw kClockReq b (s.band b).req p := by
  rw [setRequest]
  simp only [beq_iff_eq]
  rw [if_neg hp, if_neg (by simp [h]), if_pos hcap]
  rfl

theorem setRequest_full {b p : Nat} (h : s.logRoom false = false) (hcap : (s.band b).req ≤ (s.band b).cap) : s.setRequest b p = s := by
  rw [setRequest]
  simp only [beq_iff_eq]
  split
  · rfl
  · rw [if_neg (by simp [h]), if_neg (Nat.not_lt.2 hcap)]

/-- A request is made, or it is not: then it stands already, or the log has no room and the old one is within the cap. -/
theorem setRequest_cases (b p : Nat) : ((s.setRequest b p).bands = (s.requested b p).bands ∧ s.setRequest b p = { s.requested b p with
      log := (s.setRequest b p).log, taps := (s.setRequest b p).taps, arb := (s.setRequest b p).arb
      intStatus := (s.setRequest b p).intStatus }) ∨
    (s.setRequest b p = s ∧ (p = (s.band b).req ∨ s.logRoom false = false ∧ (s.band b).req ≤ (s.band b).cap)) := by
  by_cases hp : p = (s.band b).req
  · exact .inr ⟨s.setRequest_same hp, .inl hp⟩
  · cases h : s.logRoom false
    · by_cases hcap : (s.band b).req ≤ (s.band b).cap
      · exact .inr ⟨s.setRequest_full h hcap, .inr ⟨rfl, hcap⟩⟩
      · left
        rw [setRequest_capped s hp h (Nat.lt_of_not_le hcap), logHw_frame]
        exact ⟨rfl, rfl⟩
    · left
      rw [setRequest_room s hp h, logGlomen_frame]
      exact ⟨rfl, rfl⟩

theorem setRequest_frame (b p : Nat) : s.setRequest b p = { s with
    bands := (s.setRequest b p).bands, log := (s.setRequest b p).log, taps := (s.setRequest b p).taps
    arb := (s.setRequest b p).arb, intStatus := (s.setRequest b p).intStatus } := by
  rcases s.setRequest_cases b p with ⟨hbands, hframe⟩ | ⟨h, -⟩
  · rw [hbands]
    exact hframe
  · rw [h]

theorem setRequest_band_ne {b k : Nat} (hk : b ≠ k) (p : Nat) : (s.setRequest b p).band k = s.band k := by
  rcases s.setRequest_cases b p with ⟨h, -⟩ | ⟨h, -⟩
  · exact (band_congr h k).trans (modBand_band_ne s b k _ hk)
  · rw [h]

theorem setRequest_band {b : Nat} (hb : b < 8) (p : Nat) :
    (s.setRequest b p).band b = { s.band b with req := ((s.setRequest b p).band b).req } := by
  rcases s.setRequest_cases b p with ⟨h, -⟩ | ⟨h, -⟩
  · rw [band_congr h, requested, modBand_band _ _ _ hb]
  · rw [h]

/-- With room for its entry the request is made. -/
theorem setRequest_req {b : Nat} (hb : b < 8) (p : Nat) (hroom : s.logRoom false = true) : ((s.setRequest b p).band b).req = p := by
  rcases s.setRequest_cases b p with ⟨h, -⟩ | ⟨h, hp | ⟨hfull, -⟩⟩
  · rw [band_congr h, requested, modBand_band _ _ _ hb]
  · rw [h, hp]
  · simp [hroom] at hfull

/-- A request within the cap leaves none above it. -/
theorem setRequest_le_cap {b p : Nat} (hb : b < 8) (hp : p ≤ (s.band b).cap) : ((s.setRequest b p).band b).req ≤ (s.band b).cap := by
  rcases s.setRequest_cases b p with ⟨h, -⟩ | ⟨h, hsame | ⟨-, hcap⟩⟩
  · rw [band_congr h, requested, modBand_band _ _ _ hb]
    exact hp
  · rw [h, ← hsame]
    exact hp
  · rw [h]
    exact hcap

/-- An entry of the hardware that finds the log full is reported, and takes its SEQ (R391). -/
theorem logHw_drops {k x old new : Nat} (hfull : s.logAvail = 0) (hseq : s.log.nextSeq ≠ 0xFFFFFFFF) :
    (s.logHw k x old new).kindCount srcMgmt evLogDropped = satInc (s.kindCount srcMgmt evLogDropped) ∧
      (s.logHw k x old new).log = { s.log with nextSeq := s.log.nextSeq + 1 } := by
  have hlog : (s.logDrop k x).log = { s.log with nextSeq := s.log.nextSeq + 1 } := by
    rw [logDrop]
    dsimp only
    rw [report_log]
  have hnext : s.log.nextSeq + 1 ≠ 0 := by bv_omega
  have hdrop : s.logHw k x old new = s.logDrop k x := by
    rw [logHw, if_neg (by simp [hfull]), logWrap, if_neg (by simpa [hlog] using hnext)]
  rw [hdrop]
  exact ⟨(report_kindCount s _ _ _ _ _).trans (if_pos ⟨rfl, rfl⟩), hlog⟩

/-! ### A change of the cap (R314) -/

/-- Band `b` with cap `p`, before its request follows. -/
def capped (s : State) (b p : Nat) : State := s.modBand b (fun x => { x with cap := p })

theorem capped_band {b : Nat} (hb : b < 8) (p : Nat) : (s.capped b p).band b = { s.band b with cap := p } := modBand_band s b _ hb

theorem capped_band_ne {b k : Nat} (h : b ≠ k) (p : Nat) : (s.capped b p).band k = s.band k := modBand_band_ne s b k _ h

/-- The point that a band wants under the cap `p`. -/
def wanted (s : State) (b p : Nat) : Nat :=
  ({ s.band b with cap := p } : Band).requestFor (if (s.band b).clkMode = 1 then p else (s.band b).req)

theorem changeCap_before {b p : Nat} (h : s.glomenUp = false) : s.changeCap b p = s.capped b p := by
  have hdown : (s.capped b p).glomenUp = false := h
  exact if_neg (Bool.eq_false_iff.1 hdown)

theorem changeCap_after {b p : Nat} (hb : b < 8) (h : s.glomenUp = true) :
    s.changeCap b p = (s.capped b p).setRequest b (s.wanted b p) := by
  have hup : (s.capped b p).glomenUp = true := h
  have hcap : s.changeCap b p = if (s.capped b p).glomenUp then (s.capped b p).setRequest b (((s.capped b p).band b).requestFor
      (if ((s.capped b p).band b).clkMode == 1 then p else ((s.capped b p).band b).req)) else s.capped b p := rfl
  rw [hcap, if_pos hup, capped_band s hb, wanted]
  simp only [beq_iff_eq]

theorem wanted_le (b p : Nat) : s.wanted b p ≤ p := Band.requestFor_le_cap _ _

theorem wanted_below {b p : Nat} (h : p < (s.band b).floor) : s.wanted b p = p := Band.requestFor_below _ h

theorem floor_le_wanted {b p : Nat} (h : (s.band b).floor ≤ p) : (s.band b).floor ≤ s.wanted b p :=
  Band.floor_le_requestFor (x := { s.band b with cap := p }) _ h

theorem wanted_fixed {b : Nat} (p : Nat) (h : (s.band b).clkMode = 1) : s.wanted b p = p := by
  rw [wanted, if_pos h]
  exact Band.requestFor_cap { s.band b with cap := p }

/-! ### The gauges of a window (R404) -/

/-- The gauge of tile `i` of band `b` shows its occupancy, where the tile has power. -/
def showGauge (b : Nat) (us : List Nat) (s : State) (i : Nat) : State :=
  if (s.tile (11 * b + i)).power == .ready then s.modTile (11 * b + i) (fun x => { x with occupancy := us.getD i 0 }) else s

/-- The gauges of the band's tiles. -/
def gauged (s : State) (b : Nat) (us : List Nat) : State := (List.range 11).foldl (showGauge b us) s

theorem clockChoice_eq (b : Nat) (us : List Nat) :
    s.clockChoice b us = (s.gauged b us).choosePoint b (maxOf ((List.range 11).map (s.windowOf b us))) := rfl

theorem showGauge_tile_ne {b i k : Nat} (us : List Nat) (h : 11 * b + i ≠ k) : (showGauge b us s i).tile k = s.tile k := by
  unfold showGauge
  split
  · exact modTile_tile_ne _ _ _ _ h
  · rfl

theorem showGauge_tile {b i : Nat} (us : List Nat) (h : 11 * b + i < 88) : (showGauge b us s i).tile (11 * b + i) =
    if (s.tile (11 * b + i)).power = .ready then { s.tile (11 * b + i) with occupancy := us.getD i 0 } else s.tile (11 * b + i) := by
  unfold showGauge
  simp only [beq_iff_eq]
  split
  · exact modTile_tile _ _ _ h
  · rfl

theorem foldl_showGauge_frame (b : Nat) (us : List Nat) (l : List Nat) :
    l.foldl (showGauge b us) s = { s with tiles := (l.foldl (showGauge b us) s).tiles } := by
  induction l generalizing s with
  | nil => rfl
  | cons i l ih =>
    have hshow : showGauge b us s i = { s with tiles := (showGauge b us s i).tiles } := by
      unfold showGauge
      split <;> rfl
    rw [List.foldl_cons, ih]
    generalize showGauge b us s i = u at hshow ⊢
    rw [hshow]

theorem gauged_frame (b : Nat) (us : List Nat) : s.gauged b us = { s with tiles := (s.gauged b us).tiles } :=
  s.foldl_showGauge_frame b us _

theorem foldl_showGauge_outside {b k : Nat} (us : List Nat) (l : List Nat) (h : ∀ i ∈ l, 11 * b + i ≠ k) :
    (l.foldl (showGauge b us) s).tile k = s.tile k := by
  induction l generalizing s with
  | nil => rfl
  | cons i l ih => exact (ih _ fun j hj => h j (List.mem_cons_of_mem _ hj)).trans (s.showGauge_tile_ne us (h i List.mem_cons_self))

/-- What the window shows of each tile. -/
theorem gauged_tile {b : Nat} (hb : b < 8) (us : List Nat) (i : Fin 11) : (s.gauged b us).tile (11 * b + i.val) =
    if (s.tile (11 * b + i.val)).power = .ready then { s.tile (11 * b + i.val) with occupancy := us.getD i.val 0 }
    else s.tile (11 * b + i.val) := by
  obtain ⟨u, hu, hf⟩ := s.foldl_view (fun j u => u.tile (11 * b + j)) (showGauge b us)
    (fun _ _ _ h => showGauge_tile_ne _ us (by omega)) (List.range 11) List.nodup_range i.val (List.mem_range.2 i.isLt)
  exact hf.trans ((u.showGauge_tile us (by omega)).trans (by rw [hu]))

/-! ### The choice of a point (R280) -/

/-- The largest of a list, where some entry reaches the bound that all of them keep. -/
theorem maxOf_eq {l : List Nat} {top : Nat} (hle : ∀ n ∈ l, n ≤ top) (hmem : top = 0 ∨ top ∈ l) : maxOf l = top := by
  have hbound (a n : Nat) : l.foldl max a ≤ n ↔ a ≤ n ∧ ∀ x ∈ l, x ≤ n := by
    clear hle hmem
    induction l generalizing a with
    | nil => simp
    | cons x l ih => simp [ih, and_assoc]
  refine Nat.le_antisymm ((hbound 0 top).2 ⟨Nat.zero_le _, hle⟩) ?_
  rcases hmem with rfl | hmem
  · exact Nat.zero_le _
  · exact ((hbound 0 _).1 (Nat.le_refl _)).2 top hmem

theorem gauge_getD (u : Vector (Fin 1001) 11) (i : Fin 11) : (u.toList.map (fun x => x.val)).getD i.val 0 = (u.get i).val := by
  simp [List.getD_eq_getElem?_getD, Vector.get]

/-- The largest occupancy of the band's powered tiles. -/
theorem maxOf_window {b : Nat} {u : Vector (Fin 1001) 11} {top : Nat}
    (hle : ∀ i : Fin 11, (s.tile (11 * b + i.val)).power = .ready → (u.get i).val ≤ top)
    (hmem : top = 0 ∨ ∃ i : Fin 11, (s.tile (11 * b + i.val)).power = .ready ∧ (u.get i).val = top) :
    maxOf ((List.range 11).map (s.windowOf b (u.toList.map (fun x => x.val)))) = top := by
  have hwindow (i : Fin 11) : s.windowOf b (u.toList.map (fun x => x.val)) i.val =
      if (s.tile (11 * b + i.val)).power = .ready then (u.get i).val else 0 := by
    rw [windowOf, gauge_getD]
    simp only [beq_iff_eq]
  refine maxOf_eq (fun n hn => ?_) (hmem.imp_right fun ⟨i, hup, htop⟩ => ?_)
  · obtain ⟨i, hi, rfl⟩ := List.mem_map.1 hn
    have hi := hwindow ⟨i, List.mem_range.1 hi⟩
    dsimp only at hi
    rw [hi]
    split
    case isTrue h => exact hle _ h
    case isFalse => exact Nat.zero_le _
  · exact List.mem_map.2 ⟨i.val, List.mem_range.2 i.isLt, by rw [hwindow, if_pos hup, htop]⟩

theorem choosePoint_none {b u : Nat} (h : s.paused = true ∨ (s.band b).present = false) : s.choosePoint b u = s := by
  rw [choosePoint]
  exact if_neg (by rcases h with h | h <;> simp [h])

theorem choosePoint_asks {b : Nat} (u : Nat) (hrun : s.paused = false) (hmap : (s.band b).present = true) :
    s.choosePoint b u = s.setRequest b ((s.band b).requestFor (Band.choice (s.band b) u)) := by
  rw [choosePoint]
  exact if_pos (by simp [hrun, hmap])

/-! ### What a band asks for at the end of a window -/

theorem choice_fixed {x : Band} {u : Nat} (h : x.clkMode = 1) : x.requestFor (Band.choice x u) = x.cap := by
  rw [Band.choice, if_pos (by simp [h]), Band.requestFor_cap]

theorem choice_raise {x : Band} {u : Nat} (h : x.clkMode ≠ 1) (hu : x.uhi ≤ u) : Band.choice x u = min (x.cur + 1) 8 := by
  rw [Band.choice, if_neg (by simp [h]), if_pos hu]

theorem choice_lower {x : Band} {u : Nat} (h : x.clkMode ≠ 1) (hu : u < x.uhi) :
    Band.choice x u = if 0 < x.cur ∧ u * pointMhz x.cur ≤ x.ulo * pointMhz (x.cur - 1) then x.cur - 1 else x.req := by
  rw [Band.choice, if_neg (by simp [h]), if_neg (Nat.not_le.2 hu)]
  simp only [Bool.and_eq_true, decide_eq_true_eq]

/-! ### The statement -/

/-- The frame of a change of the cap. -/
theorem changeCap_frame {b p : Nat} (hb : b < 8) (h : s.glomenUp = true) : s.changeCap b p = { s with
    bands := (s.changeCap b p).bands, log := (s.changeCap b p).log, taps := (s.changeCap b p).taps
    arb := (s.changeCap b p).arb, intStatus := (s.changeCap b p).intStatus } := by
  rw [changeCap_after s hb h, setRequest_frame]
  rfl

theorem changeCap_band_ne {b k p : Nat} (hb : b < 8) (h : s.glomenUp = true) (hk : b ≠ k) : (s.changeCap b p).band k = s.band k := by
  rw [changeCap_after s hb h, setRequest_band_ne _ hk, capped_band_ne s hk]

theorem changeCap_band {b p : Nat} (hb : b < 8) (h : s.glomenUp = true) :
    (s.changeCap b p).band b = { s.band b with cap := p, req := ((s.changeCap b p).band b).req } := by
  rw [changeCap_after s hb h, setRequest_band _ hb, capped_band s hb]

theorem changeCap_le {b p : Nat} (hb : b < 8) (h : s.glomenUp = true) : ((s.changeCap b p).band b).req ≤ p := by
  have hcap := capped_band s hb p
  have hle := (s.capped b p).setRequest_le_cap (p := s.wanted b p) hb (by rw [hcap]; exact s.wanted_le b p)
  rw [hcap] at hle
  rwa [changeCap_after s hb h]

theorem changeCap_req {b p : Nat} (hb : b < 8) (h : s.glomenUp = true) (hroom : s.logRoom false = true) :
    ((s.changeCap b p).band b).req = s.wanted b p := by
  rw [changeCap_after s hb h, setRequest_req _ hb _ (show (s.capped b p).logRoom false = true from hroom)]

/-- Without room for an entry a request within the new cap stays. -/
theorem changeCap_stays {b p : Nat} (hb : b < 8) (h : s.glomenUp = true) (hfull : s.logRoom false = false) (hreq : (s.band b).req ≤ p) :
    s.changeCap b p = s.capped b p := by
  rw [changeCap_after s hb h]
  exact setRequest_full _ hfull (by rwa [capped_band s hb])

/-- Without any entry free a request above the new cap comes down to it, and the entry is dropped. -/
theorem changeCap_drops {b p : Nat} (hb : b < 8) (h : s.glomenUp = true) (hfull : s.logAvail = 0) (hseq : s.log.nextSeq ≠ 0xFFFFFFFF)
    (hreq : p < (s.band b).req) : (s.changeCap b p).kindCount srcMgmt evLogDropped = satInc (s.kindCount srcMgmt evLogDropped) ∧
      (s.changeCap b p).log = { s.log with nextSeq := s.log.nextSeq + 1 } := by
  have hwant := s.wanted_le b p
  have hcap := capped_band s hb p
  have hnoroom : (s.capped b p).logRoom false = false := by
    show s.logRoom false = false
    simp [logRoom, hfull]
  rw [changeCap_after s hb h, setRequest_capped _ (by rw [hcap]; dsimp only; omega) hnoroom (by rw [hcap]; exact hreq)]
  exact logHw_drops (s := ((s.capped b p).requested b (s.wanted b p))) hfull hseq

/-- What a window shows, as the statement says it of each tile. -/
theorem gauged_gauges {b : Nat} (hb : b < 8) (u : Vector (Fin 1001) 11) :
    (∀ i : Fin 11, ((s.tile (11 * b + i.val)).power = .ready →
        (s.gauged b (u.toList.map (fun x => x.val))).tile (11 * b + i.val) = { s.tile (11 * b + i.val) with occupancy := (u.get i).val }) ∧
      (¬ (s.tile (11 * b + i.val)).power = .ready →
        (s.gauged b (u.toList.map (fun x => x.val))).tile (11 * b + i.val) = s.tile (11 * b + i.val))) ∧
    ∀ i : Fin 88, bandOf i.val ≠ b → (s.gauged b (u.toList.map (fun x => x.val))).tile i.val = s.tile i.val := by
  refine ⟨fun i => ⟨fun hup => ?_, fun hup => ?_⟩, fun i hi => s.foldl_showGauge_outside _ _ fun j hj hij => hi ?_⟩
  · rw [gauged_tile s hb, if_pos hup, gauge_getD]
  · rw [gauged_tile s hb, if_neg hup]
  · have hj := List.mem_range.1 hj
    unfold bandOf
    omega

end State

/-- Settles O50: a point by where it stands to the floor (`State.applyPoint_squall`, `State.applyPoint_atFloor`), a cap by the request
that it leaves (`State.changeCap_req`, `State.changeCap_stays`, `State.changeCap_drops`), a window by its gauges
(`State.gauged_gauges`) and the point that its largest occupancy asks for (`State.maxOf_window`). -/
theorem pointsFollowCapFloorAndChoice : Obligations.PointsFollowCapFloorAndChoice := by
  refine ⟨fun b p s hruns hp => ?point, fun b p s hruns hp hdown => ?capBefore, fun b p s hruns hp hup => ?cap,
    fun b u top s hruns => ?window⟩
  case point =>
    have hexec : exec (.clockPointApplied b p) s = .next (s.applyPoint b.val p.toNat) :=
      congrArg Host.Outcome.next (if_pos (by simp [hruns, hp]))
    obtain ⟨hcur, hother⟩ := s.applyPoint_bands b.isLt p.toNat
    refine ⟨_, hexec, hcur, fun k hk => hother k.val fun h => hk (Fin.ext h.symm), ?_, ?_, fun hj => ?_,
      fun hj hlow hnone => s.applyPoint_squall b.isLt hj hlow hnone, fun hj hfloor => ?_⟩
    · rw [State.applyPoint_frame]
    · rw [State.applyPoint_frame]
    · rw [State.applyPoint_unjudged s _ hj]
      exact ⟨s.atPoint_band b.isLt _, rfl⟩
    · rw [State.applyPoint_atFloor s b.isLt hj hfloor]
      exact ⟨State.modBand_band s b.val _ b.isLt, rfl⟩
  case capBefore =>
    refine ⟨_, congrArg Host.Outcome.next ((if_pos (by simp [hruns, hp])).trans (s.changeCap_before hdown)),
      s.capped_band b.isLt _, fun k hk => s.capped_band_ne (fun h => hk (Fin.ext h.symm)) _, rfl⟩
  case cap =>
    have hexec : exec (.throttleCapChange b p) s = .next (s.changeCap b.val p.toNat) :=
      congrArg Host.Outcome.next (if_pos (by simp [hruns, hp]))
    refine ⟨_, hexec, s.changeCap_band b.isLt hup, s.changeCap_le b.isLt hup,
      fun hroom hlow => (s.changeCap_req b.isLt hup hroom).trans (s.wanted_below hlow),
      fun hroom hfloor => (s.floor_le_wanted hfloor).trans (s.changeCap_req b.isLt hup hroom).ge,
      fun hroom hmode => (s.changeCap_req b.isLt hup hroom).trans (s.wanted_fixed _ hmode), fun hfull hreq => ?_,
      fun hfull hseq hreq => s.changeCap_drops b.isLt hup hfull hseq hreq,
      fun k hk => s.changeCap_band_ne b.isLt hup fun h => hk (Fin.ext h.symm), s.changeCap_frame b.isLt hup⟩
    rw [State.changeCap_stays s b.isLt hup hfull hreq]
    exact ⟨by rw [s.capped_band b.isLt], rfl⟩
  case window =>
    intro x up gauges
    have hexec : exec (.clockChoiceWindow b u) s = .next (s.clockChoice b.val (u.toList.map (fun x => x.val))) :=
      congrArg Host.Outcome.next (if_pos hruns)
    have hframe := s.gauged_frame b.val (u.toList.map (fun x => x.val))
    have hgauges := s.gauged_gauges b.isLt u
    refine ⟨fun hidle => ?_, fun hrun hmap hroom hle htop => ?_⟩
    · rw [State.clockChoice_eq, State.choosePoint_none _ (by rw [hframe]; exact hidle)] at hexec
      exact ⟨_, hexec, hgauges, hframe⟩
    · rw [State.clockChoice_eq, s.maxOf_window hle htop] at hexec
      generalize s.gauged b.val (u.toList.map (fun x => x.val)) = g at hexec hframe hgauges
      have hbands : g.bands = s.bands := by rw [hframe]
      have hx : g.band b.val = x := State.band_congr hbands _
      have hgroom : g.logRoom false = true := by rw [hframe]; exact hroom
      rw [State.choosePoint_asks g top (by rw [hframe]; exact hrun) (by rw [hx]; exact hmap), hx] at hexec
      have hreq := g.setRequest_req b.isLt (x.requestFor (State.Band.choice x top)) hgroom
      have hset := g.setRequest_frame b.val (x.requestFor (State.Band.choice x top))
      have hband := g.setRequest_band b.isLt (x.requestFor (State.Band.choice x top))
      have hother (k : Nat) (hk : b.val ≠ k) := g.setRequest_band_ne hk (x.requestFor (State.Band.choice x top))
      rw [hx] at hband
      generalize g.setRequest b.val (x.requestFor (State.Band.choice x top)) = t at hexec hreq hset hband hother
      have htiles (k : Nat) : t.tile k = g.tile k := by rw [hset]; rfl
      refine ⟨t, hexec, hband, fun hmode => hreq.trans (State.choice_fixed hmode),
        fun hmode hhigh => hreq.trans (congrArg x.requestFor (State.choice_raise hmode hhigh)), fun hmode hlow => ?_, fun k hk => ?_, ?_, ?_⟩
      · rw [hreq, State.choice_lower hmode hlow]
        exact ⟨fun h => congrArg x.requestFor (if_pos h), fun h => congrArg x.requestFor (if_neg h)⟩
      · rw [hother k.val fun h => hk (Fin.ext h.symm), State.band_congr hbands]
      · simp only [gauges, htiles]
        exact hgauges
      · rw [hset, hframe]

end Sys2Proof.Machine
end

section
/-! PROOFS. OPEN_STREAM (R264, R273, R387). -/

namespace Sys2Proof.Machine
open Sys2Proof.Safety

/-! ### A stream put in its place -/

/-- A stream with an id of its own is found by it, and every other as before. -/
theorem find_insertStream {x : Stream} {l : List Stream} (h : ∀ y ∈ l, y.sid ≠ x.sid) (n : Nat) :
    (insertStream x l).find? (fun y => y.sid == n) = if x.sid = n then some x else l.find? (fun y => y.sid == n) := by
  have hhead (ys : List Stream) : (x :: ys).find? (fun y => y.sid == n) = if x.sid = n then some x else ys.find? (fun y => y.sid == n) := by
    by_cases hn : x.sid = n <;> simp [hn]
  induction l with
  | nil => exact hhead []
  | cons y ys ih =>
    have hy := h y List.mem_cons_self
    rw [insertStream]
    split
    · exact hhead _
    · rw [if_neg (by simpa using hy.symm)]
      by_cases hn : y.sid = n
      · rw [List.find?_cons_of_pos (by simpa using hn), List.find?_cons_of_pos (by simpa using hn), if_neg fun hx => hy (hn.trans hx.symm)]
      · rw [List.find?_cons_of_neg (by simpa using hn), List.find?_cons_of_neg (by simpa using hn),
          ih fun z hz => h z (List.mem_cons_of_mem _ hz)]

/-! ### The checks do not see the read of the descriptor -/

theorem firstRefuse_none {l : List (Option Refuse)} (h : firstRefuse l = none) : ∀ r ∈ l, r = none := by
  induction l with
  | nil => simp
  | cons r l ih =>
    cases r with
    | some r => cases h
    | none => exact List.forall_mem_cons.2 ⟨rfl, ih h⟩

namespace State
variable (s : State)

theorem countReads_present (n k b : Nat) : ((s.countReads n k).band b).present = (s.band b).present := by
  rw [countReads, band_modBand]
  split <;> rfl

theorem countReads_svc (n k b : Nat) : ((s.countReads n k).band b).svc = (s.band b).svc := by
  rw [countReads, band_modBand]
  split <;> rfl

theorem countReads_contextCheck (n k sid : Nat) (d : StreamDesc) : (s.countReads n k).contextCheck sid d = s.contextCheck sid d := by
  have hleaving (t : Nat) : (s.countReads n k).leaving t = s.leaving t := by
    rw [leaving, countReads_svc]
    rfl
  unfold contextCheck
  simp only [countReads_present, hleaving]
  rfl

theorem countReads_admission (n k sid : Nat) (v : Chain) (d : StreamDesc) :
    (s.countReads n k).admission sid v d = s.admission sid v d := s.admission_bands (s.countReads_floor n k) sid v d

/-- The context that a stream opens in is FREE (R264). -/
theorem contextCheck_free {s : State} {sid : Nat} {d : StreamDesc} (h : s.contextCheck sid d = none) : s.stream? sid = none := by
  have hfree := firstRefuse_none h (need (s.stream? sid).isNone (.capacity 0x10 0xF 0xFFFF 1 0 0 0)) (by simp)
  by_contra hopen
  simp [need, hopen] at hfree

/-! ### The stream opened -/

/-- The stream in its place and in the intervals that list it, logged and answered with its promise record. -/
def opened (u : State) (c : Cmd) (x : Stream) (atRisk : Bool) (h : Nat) : State :=
  ((u.addStream x atRisk).logPut (u.changeEntry c 0 h)).answer c stOk (((u.addStream x atRisk).logPut (u.changeEntry c 0 h)).promiseWords x)

theorem logObject_openStream (c : Cmd) (h : c.op = opOpenStream) : s.logObject c = bits (c.arg 1) 13 0 + c.cls * 2 ^ 16 := by
  rw [logObject, h]
  rfl

/-- OPEN_STREAM reads the descriptor, and opens its stream where all its checks pass. -/
theorem openStream_passes {u : State} {c : Cmd} {img bs : List Byte} {d : StreamDesc} {v : Chain} (halign : c.addr 2 % 128 = 0)
    (hvane : s.vaneReads = true) (hu : s.countReads 1 128 = u) (hbs : padTake img 128 = bs) (hd : parseStream (bits (c.arg 1) 13 0) bs = d)
    (hfails : u.descFails bs d = none) (hcontext : u.contextCheck (bits (c.arg 1) 13 0) d = none) (hv : u.chain? d.chain = some v)
    (hadmission : u.admission (bits (c.arg 1) 13 0) v d = none) (hroom : u.logRoom false = true) :
    s.openStream c (.data img) = u.opened { c with cls := d.cls }
      (u.newStream (bits (c.arg 1) 13 0) v d (BitVec.ofNat 32 (leAt (sha256 bs) 0 4))) v.usesFab (leAt (sha256 bs) 0 4) := by
  unfold openStream
  rw [withRead_data _ _ _ _ _ _ _ halign hvane, show ceilDiv 128 128 = 1 from rfl, hu]
  dsimp only
  rw [hbs, hd, hfails]
  dsimp only
  rw [hcontext, orRefuse_none, hv]
  dsimp only
  rw [hadmission, orRefuse_none]
  exact commit_room _ _ _ _ _ _ hroom

section
variable (u : State) (c : Cmd) (x : Stream) (atRisk : Bool) (h : Nat)

theorem opened_streams : (u.opened c x atRisk h).streams = insertStream x u.streams := by
  rw [opened, answer_streams, logPut_streams]
  rfl

/-- The opened stream is found by its id, and every other stream stays. -/
theorem opened_stream {u : State} {x : Stream} (hfree : u.stream? x.sid = none) (k : Nat) :
    (u.opened c x atRisk h).stream? k = if x.sid = k then some x else u.stream? k := by
  rw [stream?, opened_streams, find_insertStream]
  · rfl
  · intro y hy
    simpa using List.find?_eq_none.1 hfree y hy

theorem opened_frame : u.opened c x atRisk h = { u with
    streams := (u.opened c x atRisk h).streams, books := (u.opened c x atRisk h).books, intervals := (u.opened c x atRisk h).intervals
    log := (u.opened c x atRisk h).log, mbx := (u.opened c x atRisk h).mbx, bells := (u.opened c x atRisk h).bells
    commandsTaken := satInc u.commandsTaken, handover := handoverAfter u c.m, intStatus := (u.opened c x atRisk h).intStatus
    taps := (u.opened c x atRisk h).taps, arb := (u.opened c x atRisk h).arb } := by
  unfold opened
  rw [logPut_answer_eq]
  rfl

/-- The books follow what the stream takes (R387). -/
theorem opened_books : (u.opened c x atRisk h).books = u.books.follow u.inUse (u.opened c x atRisk h).inUse := by
  have hused : (u.opened c x atRisk h).inUse = (u.addStream x atRisk).inUse := by
    unfold opened
    rw [logPut_answer_eq]
    rfl
  rw [hused, opened, logPut_answer_eq]
  rfl

theorem opened_promise : (u.opened c x atRisk h).promiseWords x =
    ((u.addStream x atRisk).logPut (u.changeEntry c 0 h)).promiseWords x := by
  rw [promiseWords, promiseWords, opened, answer_band]

end

end State

/-- Settles O22: where the checks pass the stream is opened (`State.openStream_passes`), found by its id (`State.opened_stream`), logged
and answered; the read of the descriptor changes only what its band counts. -/
theorem openStreamOpensTheContext : Obligations.OpenStreamOpensTheContext := by
  intro m img v s c sid bs d haccepted hroom halign hvane hfails hcontext hv hadmission
  have hop : c.op = opOpenStream := State.takes_op haccepted.1
  obtain ⟨u, hu⟩ : ∃ u, s.countReads 1 128 = u := ⟨_, rfl⟩
  have hreads : u = { s with bands := (s.countReads 1 128).bands } := by
    rw [← hu]
    exact s.countReads_frame _ _
  have hopen := s.openStream_passes (u := u) (c := c) (v := v) (img := img) halign hvane hu rfl rfl (by rw [hreads]; exact hfails)
    (by rw [← hu, State.countReads_contextCheck]; exact hcontext) (by rw [hreads]; exact hv)
    (by rw [← hu, State.countReads_admission]; exact hadmission) (by rw [hreads]; exact hroom)
  have hexec : exec (.openStream m (.data img)) s = _ :=
    congrArg Host.Outcome.next ((State.runCmd_accepted s m opOpenStream _ _ haccepted rfl).trans hopen)
  obtain ⟨x, hx⟩ : ∃ x, u.newStream sid v d (BitVec.ofNat 32 (leAt (sha256 bs) 0 4)) = x := ⟨_, rfl⟩
  have hxsid : x.sid = sid := by rw [← hx]; rfl
  have hfree : u.stream? x.sid = none := by
    have hnone : s.stream? sid = none := State.contextCheck_free hcontext
    rw [hxsid, hreads]
    exact hnone
  obtain ⟨hdesc, hclosing, hmigration, hrows, hdone, hlate⟩ : x.desc = d ∧ x.closing = false ∧ x.migration = none ∧ x.rows = [] ∧
      x.done = 0 ∧ x.lateCount = 0 := by
    rw [← hx]
    exact ⟨rfl, rfl, rfl, rfl, rfl, rfl⟩
  obtain ⟨c', hc'⟩ : ∃ c', ({ c with cls := d.cls } : Cmd) = c' := ⟨_, rfl⟩
  obtain ⟨hm, htag, hkind, hobject⟩ : c'.m = m.val ∧ c'.tag = c.tag ∧ kindOfOp c'.op = kStream ∧
      u.logObject c' = sid + d.cls * 2 ^ 16 := by
    rw [← hc']
    exact ⟨rfl, rfl, congrArg kindOfOp hop, State.logObject_openStream u { c with cls := d.cls } hop⟩
  rw [hx, hc'] at hexec
  obtain ⟨n, hn⟩ : ∃ n, leAt (sha256 bs) 0 4 = n := ⟨_, rfl⟩
  rw [hn] at hexec ⊢
  have hstream := State.opened_stream c' v.usesFab n hfree
  rw [hxsid] at hstream
  refine ⟨u.opened c' x v.usesFab n, x, hexec, (hstream sid).trans (if_pos rfl), hxsid, hdesc, hclosing, hmigration, hrows, hdone,
    hlate, ?_, ?_, fun k hk => ?_, ?_, ?_⟩
  · rw [State.opened_promise]
    exact State.answer_answered s _ m stOk _ (by simp [State.addStream, hreads]) (by simp [State.addStream, hreads]) _ hm htag
  · obtain ⟨more, hmore⟩ := (u.addStream x v.usesFab).logPut_entries (u.changeEntry c' 0 n)
    refine ⟨more, ?_⟩
    rw [State.opened, State.answer_log, hmore, State.changeEntry, hm, htag, hkind, hobject, BitVec.ofNat_toNat, BitVec.setWidth_eq,
      hreads]
    rfl
  · rw [hstream k, if_neg hk.symm, hreads]
    rfl
  · rw [State.opened_books, hreads]
    rfl
  · rw [State.opened_frame, hm, hreads]
    rfl

end Sys2Proof.Machine
end

section
/-! PROOFS. What lasts of the streams while what waits in the tiles goes on (R284): no stream comes to be, none that is open ends, none
changes its descriptor, and one of which nothing is in flight gets nothing. One lemma for each operation. -/

namespace Sys2Proof.Machine
open Sys2Proof.Safety

/-- The stream `w` is the stream `z`, further on: with no row where `z` has none. -/
structure Stream.Onward (z w : Stream) : Prop where
  sid       : w.sid = z.sid
  desc      : w.desc = z.desc
  closing   : w.closing = z.closing
  migration : w.migration = z.migration
  rows      : z.rows = [] → w.rows = []

namespace Stream.Onward

theorem refl (z : Stream) : z.Onward z := ⟨rfl, rfl, rfl, rfl, id⟩

theorem trans {a b c : Stream} (h : a.Onward b) (g : b.Onward c) : a.Onward c :=
  ⟨g.sid.trans h.sid, g.desc.trans h.desc, g.closing.trans h.closing, g.migration.trans h.migration, g.rows ∘ h.rows⟩

theorem modRow (z : Stream) (row : Nat) (f : RowCtx → RowCtx) : z.Onward (z.modRow row f) :=
  ⟨rfl, rfl, rfl, rfl, fun h => by simp [Stream.modRow, h]⟩

end Stream.Onward

/-- Nothing of the streams `N` is in flight in a tile: no row pass, no beat, no open pass and no row of a block. -/
structure Silent (N : Nat → Prop) (x : Tile) : Prop where
  rows       : ∀ p ∈ x.rows, ¬ N p.sid
  queue      : ∀ q ∈ x.queue, ¬ N q.sid
  openPasses : ∀ o ∈ x.openPasses, N o.sid → o.isOpen = false ∨ o.stray = true
  blocks     : ∀ b ∈ x.blocks, N b.sid → b.rows = []

theorem Silent.of_cleared (N : Nat → Prop) (x : Tile) : Silent N x.cleared := by constructor <;> simp [Tile.cleared]

namespace Silent
variable {N : Nat → Prop} {x : Tile} (h : Silent N x)
include h

/-- A tile that holds the same is silent too. -/
theorem of_parts {y : Tile} (hrows : y.rows = x.rows) (hqueue : y.queue = x.queue) (hopen : y.openPasses = x.openPasses)
    (hblocks : y.blocks = x.blocks) : Silent N y :=
  ⟨hrows ▸ h.rows, hqueue ▸ h.queue, hopen ▸ h.openPasses, hblocks ▸ h.blocks⟩

theorem mapRows {f : RowPass → RowPass} (hf : ∀ p ∈ x.rows, ¬ N (f p).sid) : Silent N { x with rows := x.rows.map f } :=
  ⟨List.forall_mem_map.2 hf, h.queue, h.openPasses, h.blocks⟩

theorem modPass {sid row pass : Nat} {f : RowPass → RowPass} (hf : ∀ p, ¬ N p.sid → ¬ N (f p).sid) :
    Silent N (x.modPass sid row pass f) :=
  h.mapRows fun p hp => by
    split
    · exact hf p (h.rows p hp)
    · exact h.rows p hp

theorem claim (sid row rhold : Nat) : Silent N (x.claim sid row rhold) := by
  unfold Tile.claim
  dsimp only
  split
  · exact h.of_parts rfl rfl rfl rfl
  · exact h

theorem serve (qs : List (Nat × List (List EvalKind))) : Silent N (qs.foldl Tile.serve x) := by
  induction qs generalizing x with
  | nil => exact h
  | cons q qs ih => exact ih (h.of_parts rfl rfl rfl rfl)

theorem bankRelease (sid row pass : Nat) : Silent N (x.bankRelease sid row pass) := by
  unfold Tile.bankRelease
  dsimp only
  split <;> exact h.of_parts rfl rfl rfl rfl

end Silent

/-- The row of another stream enters no block of the streams `N`. -/
theorem addToBlock_silent {N : Nat → Prop} {r : OutRow} {fresh : Block} (hfresh : ¬ N fresh.sid) {bs : List Block}
    (h : ∀ b ∈ bs, N b.sid → b.rows = []) : ∀ b ∈ addToBlock r fresh bs, N b.sid → b.rows = [] := by
  induction bs with
  | nil => simp [addToBlock, hfresh]
  | cons a bs ih =>
    obtain ⟨ha, hbs⟩ := List.forall_mem_cons.1 h
    unfold addToBlock
    split
    case isTrue hsame =>
      have hsid : a.sid = fresh.sid := by simp only [Bool.and_eq_true, beq_iff_eq] at hsame; exact hsame.1.1
      exact List.forall_mem_cons.2 ⟨fun hn => absurd (hsid ▸ hn) hfresh, hbs⟩
    case isFalse => exact List.forall_mem_cons.2 ⟨ha, ih hbs⟩

/-- Nothing of the streams `N` is in flight in any tile. -/
def Still (N : Nat → Prop) (s : State) : Prop := ∀ k, Silent N (s.tile k)

/-- A row pass of a tile is none of a stream of which nothing is in flight. -/
theorem Still.of_pass {N : Nat → Prop} {s : State} (h : Still N s) {t sid row pass : Nat} {rp : RowPass}
    (hp : (s.tile t).pass? sid row pass = some rp) : ¬ N rp.sid :=
  (h t).rows rp (List.mem_of_find?_eq_some hp)

/-- What lasts from `s` to `t` while what waits goes on: the log, the hand-over, the streams, those that are open among them, and the
streams `N` of which nothing is in flight. -/
structure Lasting (N : Nat → Prop) (s t : State) : Prop where
  log      : LogGrows s t
  handover : t.handover = s.handover
  found    : ∀ k w, t.stream? k = some w → ∃ z, s.stream? k = some z ∧ z.Onward w
  stays    : ∀ k z, s.stream? k = some z → z.closing = false → ∃ w, t.stream? k = some w
  still    : Still N s → Still N t

theorem LogGrows.of_eq {s t : State} (h : t.log = s.log) : LogGrows s t := ⟨[], by rw [h, List.append_nil]⟩

theorem logAppend_grows (s : State) (i : LogInfo) : LogGrows s (s.logAppend i) := by
  unfold State.logAppend
  dsimp only
  split <;> exact ⟨_, rfl⟩

theorem logDrop_grows (s : State) (k x : Nat) : LogGrows s (s.logDrop k x) :=
  ⟨[], by simp [State.logDrop]⟩

theorem logWrap_grows (s : State) : LogGrows s s.logWrap := by
  unfold State.logWrap
  dsimp only
  split
  · split
    · exact logAppend_grows { s with log := { s.log with epoch := s.log.epoch + 1 } } _
    · exact logDrop_grows { s with log := { s.log with epoch := s.log.epoch + 1 } } _ _
  · exact .refl s

theorem logHw_grows (s : State) (k x a b : Nat) : LogGrows s (s.logHw k x a b) := by
  unfold State.logHw
  split
  · exact logPut_grows s _
  · exact (logDrop_grows s k x).trans (logWrap_grows _)

namespace Lasting
variable {N : Nat → Prop} {s u v : State}

theorem refl (s : State) : Lasting N s s :=
  ⟨.refl s, rfl, fun _ w h => ⟨w, h, .refl w⟩, fun _ z h _ => ⟨z, h⟩, id⟩

theorem trans (h : Lasting N s u) (g : Lasting N u v) : Lasting N s v where
  log := h.log.trans g.log
  handover := g.handover.trans h.handover
  found k w hw := by
    obtain ⟨y, hy, hyw⟩ := g.found k w hw
    obtain ⟨z, hz, hzy⟩ := h.found k y hy
    exact ⟨z, hz, hzy.trans hyw⟩
  stays k z hz hopen := by
    obtain ⟨y, hy⟩ := h.stays k z hz hopen
    obtain ⟨z', hz', hzy⟩ := h.found k y hy
    obtain rfl : z = z' := Option.some.inj (hz.symm.trans hz')
    exact g.stays k y hy (hzy.closing.trans hopen)
  still := g.still ∘ h.still

/-- A stream that is not there does not come to be. -/
theorem none_of_none (h : Lasting N s u) {k : Nat} (hk : s.stream? k = none) : u.stream? k = none := by
  by_contra hu
  obtain ⟨w, hw⟩ := Option.ne_none_iff_exists'.1 hu
  obtain ⟨z, hz, -⟩ := h.found k w hw
  simp [hk] at hz

theorem foldl {α : Type} {f : State → α → State} (hf : ∀ v a, Lasting N s v → Lasting N s (f v a)) (l : List α) (h : Lasting N s u) :
    Lasting N s (l.foldl f u) := by
  induction l generalizing u with
  | nil => exact h
  | cons a l ih => exact ih (hf u a h)

/-! ### Changes of the state's parts -/

theorem of_parts (hlog : LogGrows s u) (hhandover : u.handover = s.handover) (hstreams : u.streams = s.streams) (htiles : u.tiles = s.tiles) :
    Lasting N s u where
  log := hlog
  handover := hhandover
  found k w hw := ⟨w, by rwa [State.stream?, hstreams] at hw, .refl w⟩
  stays k z hz _ := ⟨z, by rwa [State.stream?, hstreams]⟩
  still h k := by
    rw [State.tile, htiles]
    exact h k

/-- A change beside the log, the hand-over, the streams and the tiles. -/
theorem beside (h : Lasting N s u) (hlog : v.log = u.log) (hhandover : v.handover = u.handover) (hstreams : v.streams = u.streams)
    (htiles : v.tiles = u.tiles) : Lasting N s v :=
  h.trans (.of_parts (.of_eq hlog) hhandover hstreams htiles)

theorem of_tiles (hlog : u.log = s.log) (hhandover : u.handover = s.handover) (hstreams : u.streams = s.streams)
    (htiles : ∀ k, Silent N (s.tile k) → Silent N (u.tile k)) : Lasting N s u where
  log := .of_eq hlog
  handover := hhandover
  found k w hw := ⟨w, by rwa [State.stream?, hstreams] at hw, .refl w⟩
  stays k z hz _ := ⟨z, by rwa [State.stream?, hstreams]⟩
  still h k := htiles k (h k)

section
variable (h : Lasting N s u)
include h

theorem modBand (b : Nat) (f : Band → Band) : Lasting N s (u.modBand b f) := h.beside rfl rfl rfl rfl
theorem modLong (o : Nat) (g : BitVec 16) (f : LongOp → LongOp) : Lasting N s (u.modLong o g f) := h.beside rfl rfl rfl rfl
theorem setInt (k : Nat) : Lasting N s (u.setInt k) := h.beside rfl rfl rfl rfl
theorem trapHalted : Lasting N s u.trapHalted := h.beside rfl rfl rfl rfl
theorem prune : Lasting N s u.prune := h.beside rfl rfl rfl rfl

theorem modTile (t : Nat) {f : Tile → Tile} (hf : ∀ x, Silent N x → Silent N (f x)) : Lasting N s (u.modTile t f) := by
  refine h.trans (.of_tiles rfl rfl rfl fun k hk => ?_)
  by_cases htk : t = k
  · subst htk
    by_cases ht : t < 88
    · rw [u.modTile_tile t f ht]
      exact hf _ hk
    · simpa [State.modTile, State.setTile, State.tile, ht] using hk
  · rwa [u.modTile_tile_ne t k f htk]

/-- A change of a tile that leaves what is in flight there. -/
theorem modTile_parts (t : Nat) {f : Tile → Tile} (hf : ∀ x, (f x).rows = x.rows ∧ (f x).queue = x.queue ∧
    (f x).openPasses = x.openPasses ∧ (f x).blocks = x.blocks) : Lasting N s (u.modTile t f) :=
  h.modTile t fun x hx => by
    obtain ⟨hrows, hqueue, hopen, hblocks⟩ := hf x
    exact hx.of_parts hrows hqueue hopen hblocks

theorem modTiles (ts : List Nat) {f : Tile → Tile} (hf : ∀ x, Silent N x → Silent N (f x)) : Lasting N s (u.modTiles ts f) :=
  foldl (fun _ t hv => hv.modTile t hf) ts h

theorem mapTiles {f : Tile → Tile} (hf : ∀ x, Silent N x → Silent N (f x)) : Lasting N s { u with tiles := u.tiles.map f } := by
  refine h.trans (.of_tiles rfl rfl rfl fun k hk => ?_)
  by_cases hlt : k < 88
  · have htile : State.tile { u with tiles := u.tiles.map f } k = f (u.tile k) := by simp [State.tile, hlt]
    rw [htile]
    exact hf _ hk
  · simpa [State.tile, hlt] using hk

/-- A change of one stream that takes it further on. -/
theorem modStream (n : Nat) {f : Stream → Stream} (hsid : ∀ y, y.sid = n → (f y).sid = n)
    (hf : ∀ y, u.stream? n = some y → y.Onward (f y)) : Lasting N s (u.modStream n f) := by
  have hstream (k : Nat) : (u.modStream n f).stream? k = (u.stream? k).map fun y => if y.sid == n then f y else y := by
    unfold State.stream? State.modStream
    rw [List.find?_map]
    congr 2
    funext y
    by_cases hy : y.sid = n <;> simp [hy, hsid]
  refine h.trans ⟨.of_eq rfl, rfl, fun k w hw => ?_, fun k z hz _ => ⟨_, (hstream k).trans (congrArg _ hz)⟩, fun hq => hq⟩
  rw [hstream k] at hw
  obtain ⟨z, hz, rfl⟩ := Option.map_eq_some_iff.1 hw
  refine ⟨z, hz, ?_⟩
  split
  case isTrue hn =>
    obtain rfl : n = k := (beq_iff_eq.1 hn).symm.trans (State.sid_of_stream hz)
    exact hf z hz
  case isFalse => exact .refl z

/-! ### Reports and the change log -/

theorem report (src code : Nat) (p : Nat → Nat) : Lasting N s (u.report src code p) := by
  rw [State.report_frame]
  exact h.beside rfl rfl rfl rfl

theorem notice (src code p : Nat) : Lasting N s (u.notice src code p) := h.report src code _

theorem countTap (src code n : Nat) : Lasting N s (u.countTap src code n) := by
  unfold State.countTap
  split
  · exact h
  · exact h.beside rfl rfl rfl rfl

theorem logHw (k x a b : Nat) : Lasting N s (u.logHw k x a b) := by
  refine h.trans (.of_parts (logHw_grows u k x a b) ?_ ?_ ?_) <;> rw [State.logHw_frame]

theorem finishLong (o : Nat) (g : BitVec 16) (r a b : Nat) : Lasting N s (u.finishLong o g r a b) := by
  refine h.trans (.of_parts (finishLong_grows u o g r a b) ?_ ?_ ?_) <;> unfold State.finishLong <;> split <;> simp

omit h in
theorem booked {f : State → State} (hf : Lasting N s (f u)) : Lasting N s (u.booked f) := hf.beside rfl rfl rfl rfl

/-! ### The map and the service operations -/

theorem gate (t : Nat) : Lasting N s (u.gate t) :=
  booked (f := fun s => s.modTile t _) (h.modTile t fun x _ => (Silent.of_cleared N x).of_parts rfl rfl rfl rfl)

theorem powerUp (t : Nat) : Lasting N s (u.powerUp t) :=
  booked (f := fun s => s.modTile t _) (h.modTile t fun x _ => (Silent.of_cleared N x).of_parts rfl rfl rfl rfl)

theorem setActive (t : Nat) (on : Bool) : Lasting N s (u.setActive t on) := h.modTile_parts t fun _ => ⟨rfl, rfl, rfl, rfl⟩
theorem setSpare (b : Nat) (t : Option Nat) : Lasting N s (u.setSpare b t) := h.modBand b _
theorem setSvc (b : Nat) (o : Option SvcOp) : Lasting N s (u.setSvc b o) := h.modBand b _
theorem svcCount (o : SvcOp) : Lasting N s (u.svcCount o) := h.modLong _ _ _
theorem svcRestore (b : Nat) (o : SvcOp) : Lasting N s (u.svcRestore b o) := (h.powerUp o.cur).setSvc b _

theorem refreshBand (b : Nat) : Lasting N s (u.refreshBand b) := by
  rw [State.refreshBand_frame]
  exact h.beside rfl rfl rfl rfl

theorem refreshService : Lasting N s u.refreshService := by
  rw [State.refreshService_frame]
  exact h.beside rfl rfl rfl rfl

theorem reportMap (b old : Nat) : Lasting N s (u.reportMap b old) := (h.logHw _ _ _ _).notice _ _ _

omit h in
theorem changeMap {f : State → State} (b : Nat) (hf : Lasting N s (f u)) : Lasting N s (u.changeMap b f) := by
  have hmap := (hf.refreshBand b).refreshService
  unfold State.changeMap
  dsimp only
  split
  · exact hmap
  · exact hmap.reportMap b _

theorem svcEnd (b : Nat) : Lasting N s (u.svcEnd b) := by
  unfold State.svcEnd
  split
  · exact h
  · dsimp only
    split
    · exact h.setSvc b _
    · exact (h.setSvc b _).finishLong _ _ _ _ _

theorem svcStop (b : Nat) : Lasting N s (u.svcStop b) := by
  unfold State.svcStop
  split
  · exact h
  · split
    · exact h.setSvc b _
    · exact h.svcEnd b

theorem svcFail (b : Nat) : Lasting N s (u.svcFail b) := by
  unfold State.svcFail
  split
  · exact h
  · exact (h.modLong _ _ _).svcStop b

theorem svcBegin (b : Nat) (o : SvcOp) (t : Nat) : Lasting N s (u.svcBegin b o t) := by
  unfold State.svcBegin
  extract_lets always s1
  have h1 : Lasting N s s1 := by
    subst s1
    split
    · exact changeMap b (h.setSpare b none)
    · exact h
  clear_value always s1
  split
  · split
    · exact (changeMap (f := fun s => s.setActive t false) b (h.setActive t false)).setSvc b _
    · split
      · exact h.setSvc b _
      · exact (h1.powerUp t).setSvc b _
  · split
    · exact (h.powerUp _).setSvc b _
    · exact (h.setSvc b _).svcFail b

theorem svcNext (b : Nat) : Lasting N s (u.svcNext b) := by
  unfold State.svcNext
  split
  · exact h
  · dsimp only
    split
    · exact h.svcEnd b
    · exact h.svcBegin b _ _

/-- The tile in hand as a retired one. -/
theorem retire (t : Nat) : Lasting N s ((u.gate t).modTile t (fun x => { x with retired := true })) :=
  (h.gate t).modTile_parts t fun _ => ⟨rfl, rfl, rfl, rfl⟩

theorem svcRetire (b : Nat) (o : SvcOp) : Lasting N s (u.svcRetire b o) := (h.retire o.cur).svcFail b

theorem svcGate (b : Nat) (o : SvcOp) : Lasting N s (u.svcGate b o) := by
  unfold State.svcGate
  split
  · exact h.svcFail b
  next sp _ =>
  extract_lets has failed s1 s2
  have hmap : Lasting N s s1 := changeMap b (((h.setActive o.cur false).setActive sp has).setSpare b none)
  have hfound : Lasting N s s2 := hmap.modTile_parts o.cur fun _ => ⟨rfl, rfl, rfl, rfl⟩
  clear_value s2
  split
  · exact ((hfound.modLong _ _ _).retire o.cur).svcEnd b
  · extract_lets s4
    have hoff : Lasting N s s4 := booked (hfound.modTile_parts o.cur fun _ => ⟨rfl, rfl, rfl, rfl⟩)
    clear_value s4
    split
    · exact hoff.svcRetire b o
    · exact hoff.svcRestore b o
  · split
    · exact hfound.svcRetire b o
    · exact (booked (f := fun s => s.modTile o.cur Tile.cleared) (hfound.modTile o.cur fun x _ => .of_cleared N x)).setSvc b _

theorem restoreGoOn (t : Nat) : Lasting N s (u.restoreGoOn t) := by
  unfold State.restoreGoOn
  dsimp only
  split
  · exact h.modTile_parts t fun _ => ⟨rfl, rfl, rfl, rfl⟩
  · split
    · exact h.modTile_parts t fun _ => ⟨rfl, rfl, rfl, rfl⟩
    · exact h

theorem svcSettle (b : Nat) : Lasting N s (u.svcSettle b) := by
  unfold State.svcSettle
  split
  · exact h
  next o _ =>
  extract_lets left s1
  have h1 : Lasting N s s1 := by
    subst s1
    split
    · exact h.modLong _ _ _
    · exact h
  clear_value s1
  split
  · split
    · exact h1.svcGate b o
    · exact h1
  · split
    · exact (h1.svcCount o).svcStop b
    · exact h1
  · split
    · exact h1
    · exact h1.svcNext b
  · split
    · exact h1
    · exact h1.restoreGoOn o.cur
  · exact h1

end

end Lasting

end Sys2Proof.Machine
end

section
/-! PROOFS. Row passes, blocks and closing streams: what lasts of the streams as they go on (R266, R284). -/

namespace Sys2Proof.Machine
open Sys2Proof.Safety

/-- The state without a stream and what its tiles and the intervals hold of it (R284). -/
def State.freed (s : State) (sid : Nat) : State :=
  let u := s.booked fun s => s.dropStream sid
  { u with
    tiles := u.tiles.map fun t => { t with
      hold := t.hold.filter fun h => h.sid != sid
      blocks := t.blocks.filter fun b => b.sid != sid
      openPasses := t.openPasses.filter fun o => o.sid != sid }
    intervals := u.intervals.map fun i => { i with streams := i.streams.filter fun n => n != sid } }

/-- The stream is no longer there, and every other stays. -/
theorem State.freed_stream (s : State) (sid k : Nat) : (s.freed sid).stream? k = if k = sid then none else s.stream? k := by
  have hfilter : (s.freed sid).stream? k = s.streams.find? fun y => (y.sid != sid) && (y.sid == k) := by
    change (s.streams.filter _).find? _ = _
    rw [List.find?_filter]
    congr 1
    funext y
    rw [Bool.decide_and, Bool.decide_eq_true, Bool.decide_eq_true]
  rw [hfilter]
  split
  case isTrue h => simp [h]
  case isFalse h =>
    unfold State.stream?
    congr 1
    funext y
    by_cases hy : y.sid = k <;> simp [hy, h]

/-- A row pass enters a block of its stream, or none. -/
theorem Silent.addBlock {N : Nat → Prop} {x : Tile} (h : Silent N x) {r : OutRow} {fresh : Block} (hfresh : ¬ N fresh.sid) (enters : Bool) :
    Silent N { x with blocks := if enters then addToBlock r fresh x.blocks else x.blocks } := by
  refine ⟨h.rows, h.queue, h.openPasses, ?_⟩
  dsimp only
  split
  · exact addToBlock_silent hfresh h.blocks
  · exact h.blocks

namespace Lasting
variable {N : Nat → Prop} {s u v : State}

section
variable (h : Lasting N s u)
include h

/-! ### Closing streams -/

/-- A closing stream is freed. -/
theorem freed {sid : Nat} {x : Stream} (hx : u.stream? sid = some x) (hclosing : x.closing = true) : Lasting N s (u.freed sid) := by
  refine h.trans ⟨.of_eq rfl, rfl, fun k w hw => ?_, fun k z hz hopen => ?_, fun hq k => ?_⟩
  · rw [State.freed_stream] at hw
    split at hw
    · cases hw
    · exact ⟨w, hw, .refl w⟩
  · rw [State.freed_stream, if_neg]
    · exact ⟨z, hz⟩
    · rintro rfl
      obtain rfl : x = z := Option.some.inj (hx.symm.trans hz)
      simp [hopen] at hclosing
  · refine ((Lasting.refl u).mapTiles fun y hy => ?_).still hq k
    exact ⟨hy.rows, hy.queue, fun o ho => hy.openPasses o (List.mem_filter.1 ho).1, fun b hb => hy.blocks b (List.mem_filter.1 hb).1⟩

omit h in
/-- Once a stream is freed, its operation ends, and the band's may go on. -/
theorem of_freed {sid : Nat} {x : Stream} (hx : u.stream? sid = some x) (hends : (x.closing && u.idle x && !u.paused) = true) :
    Lasting N (u.freed sid) (u.finishClose sid) := by
  have hfreed : Lasting N (u.freed sid) (u.freed sid) := .refl _
  unfold State.finishClose
  rw [hx]
  dsimp only
  rw [if_pos hends]
  split
  · exact hfreed.prune.svcSettle _
  · exact (((hfreed.modLong _ _ _).finishLong _ _ _ _ _).prune).svcSettle _

theorem finishClose (sid : Nat) : Lasting N s (u.finishClose sid) := by
  cases hx : u.stream? sid with
  | none => simpa [State.finishClose, hx] using h
  | some x =>
    cases hends : x.closing && u.idle x && !u.paused with
    | false => simpa [State.finishClose, hx, hends] using h
    | true =>
      have hclosing : x.closing = true := by simp only [Bool.and_eq_true] at hends; exact hends.1.1
      exact (h.freed hx hclosing).trans (of_freed hx hends)

/-! ### Suspension and late row passes -/

theorem suspend (sid : Nat) (f : Causes → Causes) : Lasting N s (u.suspend sid f) := by
  refine h.modStream sid (fun y hy => ?_) fun y _ => ?_
  · dsimp only
    split <;> exact hy
  · dsimp only
    split <;> exact ⟨rfl, rfl, rfl, rfl, id⟩

theorem resume (sid : Nat) : Lasting N s (u.resume sid) := by
  unfold State.resume
  split
  · exact h
  · split
    · have hgone := h.modStream sid (f := fun y => { y with suspended := false }) (fun _ hy => hy) fun _ _ => ⟨rfl, rfl, rfl, rfl, id⟩
      dsimp only
      split
      · exact hgone.notice _ _ _
      · exact hgone
    · exact h

/-- The stream of an id becomes what is further on than it. -/
theorem setStream {sid : Nat} {x y : Stream} (hx : u.stream? sid = some x) (hy : x.Onward y) : Lasting N s (u.modStream sid fun _ => y) :=
  h.modStream sid (fun _ _ => hy.sid.trans (State.sid_of_stream hx)) fun z hz => by
    obtain rfl : x = z := Option.some.inj (hx.symm.trans hz)
    exact hy

theorem passEnded (sid row pass ticks : Nat) (promised : Bool) : Lasting N s (u.passEnded sid row pass ticks promised) := by
  unfold State.passEnded
  split
  · exact h
  next x hx =>
  dsimp only
  split
  · exact h.setStream hx ⟨rfl, rfl, rfl, rfl, id⟩
  · split
    · split <;> exact h.setStream hx ⟨rfl, rfl, rfl, rfl, id⟩
    · split
      · split
        · exact h.setStream hx ⟨rfl, rfl, rfl, rfl, id⟩
        · refine Lasting.notice ?_ _ _ _
          exact h.setStream hx ⟨rfl, rfl, rfl, rfl, id⟩
      · exact h.setStream hx ⟨rfl, rfl, rfl, rfl, id⟩

/-! ### Findings of a batch, and the trap -/

theorem noteSats (t : Nat) (rp : RowPass) (sats : List (Nat × Nat × Nat)) : Lasting N s (u.noteSats t rp sats) := by
  unfold State.noteSats
  split
  · dsimp only
    split
    · refine Lasting.countTap ((h.report t _ _).modStream rp.sid ?_ ?_) t _ _
      · exact fun _ hy => hy
      · exact fun _ _ => ⟨rfl, rfl, rfl, rfl, id⟩
    · exact h.countTap _ _ _
  · exact h.countTap _ _ _
  · exact h

theorem opdCross (b : Nat) : Lasting N s (u.opdCross b) := by
  refine h.trans (.of_tiles ?_ ?_ ?_ fun k hk => ?_)
  rotate_left 3
  · rw [State.opdCross_tile]
    exact ⟨hk.rows, hk.queue, hk.openPasses, hk.blocks⟩
  all_goals unfold State.opdCross; split <;> rfl

theorem haltBand (b : Nat) : Lasting N s (u.haltBand b) := by
  have hcrossed : Lasting N s ((u.opdCross b).fabCross b) := (h.opdCross b).modBand b _
  exact foldl (fun _ _ hv => hv.suspend _ _) _ (((hcrossed.modBand b _).setInt intHalt).trapHalted)

theorem noteNans (t : Nat) (rp : RowPass) (nans : List NanNote) : Lasting N s (u.noteNans t rp nans) := by
  have hlatch (n : NanNote) (more : List NanNote) : Lasting N s (u.latchNan t rp n more) := by
    rw [State.latchNan_frame]
    exact h.beside rfl rfl rfl rfl
  obtain hseen | ⟨n, more, hseen⟩ := State.noteNans_cases u t rp nans
  · rw [hseen]
    exact h.beside rfl rfl rfl rfl
  · rw [hseen]
    split
    · exact (hlatch n more).haltBand _
    · exact hlatch n more

theorem addNotes (t : Nat) (rp : RowPass) (n : Notes) : Lasting N s (u.addNotes t rp n) := (h.noteNans t rp _).noteSats t rp _

/-! ### Row passes -/

theorem claimRow (rp : RowPass) : Lasting N s (u.claimRow rp) := by
  unfold State.claimRow
  split
  · exact h
  · split
    · refine Lasting.modTiles (h.modStream rp.sid ?_ ?_) _ fun _ hx => hx.claim _ _ _
      · exact fun _ hy => hy
      · exact fun y _ => Stream.Onward.modRow y rp.row _
    · exact h

section
variable {rp : RowPass} (hn : ¬ N rp.sid)
include hn

theorem placePass (t : Nat) : Lasting N s (u.placePass t rp) :=
  booked (f := fun s => s.modTile t _) (h.modTile t fun x hx =>
    ⟨fun p hp => by
      rcases List.mem_append.1 hp with hp | hp
      · exact hx.rows p hp
      · rwa [List.mem_singleton.1 hp], hx.queue, hx.openPasses, hx.blocks⟩)

theorem putPass (t : Nat) : Lasting N s (u.putPass t rp) := h.modTile t fun _ hx => hx.modPass fun _ _ => hn

theorem beginPass (t : Nat) : Lasting N s (u.beginPass t rp) := by
  unfold State.beginPass
  split
  · have hplaced (c : Option Nat) := (h.claimRow rp).placePass (rp := { rp with conflict := c }) hn t
    dsimp only
    split
    · exact hplaced _
    · exact (hplaced _).notice _ _ _
  · exact h.placePass hn t

theorem passRan (t : Nat) (qs : List (Nat × List (List EvalKind))) : Lasting N s (u.passRan t rp qs) :=
  (h.putPass hn t).modTile t fun _ hx => hx.serve qs

theorem finishPass (t : Nat) : Lasting N s (u.finishPass t rp) := by
  unfold State.finishPass
  refine Lasting.modTile (h.modBand _ _) t fun x hx => ?_
  refine Silent.addBlock (hx.modPass ?_) hn _
  exact fun _ hp => hp

end

theorem startClock (t : Nat) (rp : RowPass) : Lasting N s (u.startClock t rp) := by
  unfold State.startClock
  split
  · exact h.modTile t fun x hx => hx.mapRows fun p hp => by
      split <;> exact hx.rows p hp
  · exact h

theorem handOn {t : Nat} {rp : RowPass} (hn : ¬ N rp.sid) : Lasting N s (u.handOn t rp) := by
  unfold State.handOn
  extract_lets x next s1 s2
  have h1 : Lasting N s s1 := by
    refine h.modTile t fun _ hx => Silent.of_parts (hx.modPass ?_) rfl rfl rfl rfl
    exact fun _ hp => hp
  have h2 : Lasting N s s2 := (h1.beginPass (rp := next) hn t).startClock t next
  split
  · exact h2
  next n hn' =>
  extract_lets r
  have hr : ¬ N r.1.sid := by
    rw [(RowPass.enter_later n [] _).sid, (RowPass.key_of_pass hn').1]
    exact hn
  exact (h2.passRan hr t _).addNotes t _ _

theorem releasePass (t : Nat) (rp : RowPass) : Lasting N s (u.releasePass t rp) := by
  unfold State.releasePass
  refine h.modTile t fun _ hx => Silent.of_parts (hx.modPass ?_) rfl rfl rfl rfl
  exact fun _ hp => hp

theorem measurePass (t : Nat) (rp : RowPass) (r : RowCtx) : Lasting N s (u.measurePass t rp r) := by
  unfold State.measurePass
  extract_lets was took s1 es s2
  have h1 : Lasting N s s1 := h.modTile t fun _ hx => hx.modPass fun _ hp => hp
  refine Lasting.resume ?_ rp.sid
  subst s2
  split
  · exact h1.passEnded _ _ _ _ _
  · exact h1

theorem freeHold (sid row : Nat) : Lasting N s (u.freeHold sid row) :=
  h.mapTiles fun _ hx => ⟨hx.rows, hx.queue, hx.openPasses, hx.blocks⟩

theorem endPass (t : Nat) (rp : RowPass) : Lasting N s (u.endPass t rp) := by
  unfold State.endPass
  extract_lets e s1 s2
  have h1 : Lasting N s s1 := by
    refine booked (h.modTile t fun x hx => Silent.bankRelease ?_ _ _ _)
    exact ⟨fun p hp => hx.rows p (List.mem_filter.1 hp).1, hx.queue, hx.openPasses, hx.blocks⟩
  have h2 : Lasting N s s2 := h1.modStream rp.sid (fun _ hy => hy) fun y _ => Stream.Onward.modRow y rp.row _
  clear_value s2
  split
  · exact h2
  split
  · exact h2
  extract_lets s3 s4 s5 s6
  have h3 : Lasting N s s3 := by
    subst s3
    split
    · exact h2.freeHold _ _
    · exact h2
  have h4 : Lasting N s s4 := booked (h3.modStream rp.sid (fun _ hy => hy) fun y _ =>
    ⟨rfl, rfl, rfl, rfl, fun hrows => by simp [hrows]⟩)
  clear_value s3 s4
  have h5 : Lasting N s s5 := by
    subst s5
    split
    · exact h4.modLong _ _ _
    · exact h4
  clear_value s5
  have h6 : Lasting N s s6 := by
    subst s6
    split
    · exact h5.prune
    · exact h3
  exact (h6.finishClose _).svcSettle _

end

/-! ### What waits in a tile -/

section
variable (h : Lasting N s u) (hstill : Still N s)
include h hstill

/-- A row pass of a tile is none of the streams of which nothing is in flight. -/
theorem not_of_pass {t sid row pass : Nat} {rp : RowPass} (hp : (u.tile t).pass? sid row pass = some rp) : ¬ N rp.sid :=
  (h.still hstill).of_pass hp

theorem advancePass (t sid row pass : Nat) : Lasting N s (u.advancePass t sid row pass) := by
  unfold State.advancePass
  extract_lets s1 s2 s3 s4
  have h1 : Lasting N s s1 := by
    subst s1
    split
    · split
      · exact h.finishPass (h.not_of_pass hstill (by assumption)) t
      · exact h
    · exact h
  clear_value s1
  have h2 : Lasting N s s2 := by
    subst s2
    split
    · split
      · exact h1.handOn (h1.not_of_pass hstill (by assumption))
      · exact h1
    · exact h1
  clear_value s2
  have h3 : Lasting N s s3 := by
    subst s3
    split
    · split
      · exact h2.releasePass t _
      · exact h2
    · exact h2
  clear_value s3
  have h4 : Lasting N s s4 := by
    subst s4
    split
    · split
      · exact h3.measurePass t _ _
      · exact h3
    · exact h3
  clear_value s4
  split
  · split
    · exact h4.endPass t _
    · exact h4
  · exact h4

theorem settlePass (t sid row pass : Nat) : Lasting N s (u.settlePass t sid row pass) := by
  unfold State.settlePass
  split
  · exact h.advancePass hstill t sid row pass
  · exact h

omit hstill in
theorem settleBlocks (t : Nat) : Lasting N s (u.settleBlocks t) := by
  unfold State.settleBlocks State.sendBlocks
  split
  · dsimp only
    refine foldl (fun v b hv => ?_) _ (h.modTile t fun x hx => ?_)
    · split
      · exact hv
      · exact hv.notice _ _ _
    · refine ⟨List.forall_mem_map.2 fun p hp => ?_, hx.queue, hx.openPasses, fun b hb => hx.blocks b (List.mem_filter.1 hb).1⟩
      split <;> exact hx.rows p hp
  · exact h

theorem settleTile (t : Nat) : Lasting N s (u.settleTile t) := by
  unfold State.settleTile
  extract_lets sweep s1
  have hsweep {v : State} (hv : Lasting N s v) : Lasting N s (sweep v) := foldl (fun _ _ hw => hw.settlePass hstill _ _ _ _) _ hv
  exact foldl (fun _ _ hv => hsweep (hv.settleBlocks t)) _ (hsweep (hsweep (hsweep (hsweep h))))

theorem settleTiles (ts : List Nat) : Lasting N s (u.settleTiles ts) := foldl (fun _ t hv => hv.settleTile hstill t) ts h

end

end Lasting

end Sys2Proof.Machine
end

section
/-! PROOFS. CLOSE_STREAM (R284, R343). -/

namespace Sys2Proof.Machine
open Sys2Proof.Safety

/-- Nothing of a stream is in flight in any tile (R284). -/
theorem still_of_quiet {s : State} {sid : Nat}
    (h : ∀ i : Fin 88, (∀ b ∈ (s.tile i.val).blocks, b.sid = sid → b.rows = []) ∧ (∀ q ∈ (s.tile i.val).queue, q.sid ≠ sid) ∧
      (∀ o ∈ (s.tile i.val).openPasses, o.sid = sid → o.isOpen = false ∨ o.stray = true) ∧ ∀ p ∈ (s.tile i.val).rows, p.sid ≠ sid) :
    Still (· = sid) s := by
  intro k
  by_cases hk : k < 88
  · obtain ⟨hblocks, hqueue, hopen, hrows⟩ := h ⟨k, hk⟩
    exact ⟨hrows, hqueue, hopen, hblocks⟩
  · have hnone : s.tile k = Tile.resetWith false Repair.none := by simp [State.tile, hk]
    rw [hnone]
    constructor <;> simp [Tile.resetWith]

/-- Of no stream at all is anything in flight. -/
theorem still_of_none (s : State) : Still (fun _ => False) s := fun _ => ⟨by simp, by simp, by simp, by simp⟩

/-- A stream as it closes by a command, with the rows that it has then. -/
def Stream.closes (y : Stream) (c : Cmd) (rows : Nat) : Stream :=
  { y with closing := true, closeBy := some (c.m, c.tag), closeRows := rows }

namespace State

/-- A stream without a row, of which nothing is in flight in a tile, is idle. -/
theorem idle_of_still {u : State} {x : Stream} (hrows : x.rows = []) (h : Still (· = x.sid) u) : u.idle x = true := by
  unfold idle
  simp only [hrows, List.isEmpty_nil, Bool.true_and, List.all_eq_true]
  intro y hy
  obtain ⟨k, hk, rfl⟩ := Vector.mem_iff_getElem.1 (Vector.mem_toList_iff.1 hy)
  have hsilent : Silent (· = x.sid) u.tiles[k] := by simpa [tile, hk] using h k
  generalize u.tiles[k] = y at hsilent
  have hblocks : ∀ b ∈ y.blocks, b.sid = x.sid → b.rows = [] := hsilent.blocks
  have hqueue : ∀ q ∈ y.queue, q.sid ≠ x.sid := hsilent.queue
  have hopen : ∀ o ∈ y.openPasses, o.sid = x.sid → o.isOpen = false ∨ o.stray = true := hsilent.openPasses
  simp only [Bool.and_eq_true, Bool.not_eq_true', List.all_eq_true, List.any_eq_false]
  refine ⟨⟨fun b hb => ?_, fun q hq => ?_⟩, fun o ho => ?_⟩
  · by_cases hsid : b.sid = x.sid <;> simp [hsid, hblocks b hb]
  · simpa using hqueue q hq
  · by_cases hsid : o.sid = x.sid
    · rcases hopen o ho hsid with h | h <;> simp [h]
    · simp [hsid]

/-- A closing stream of which nothing is in flight is FREE once its close is looked at, unless a hand-over pauses its end. -/
theorem finishClose_none {u : State} {sid : Nat} (hpaused : u.paused = false)
    (hclosing : ∀ x, u.stream? sid = some x → x.closing = true ∧ u.idle x = true) : (u.finishClose sid).stream? sid = none := by
  cases hx : u.stream? sid with
  | none => rwa [finishClose, hx]
  | some x =>
    obtain ⟨hcloses, hidle⟩ := hclosing x hx
    exact (Lasting.of_freed (N := fun _ => False) hx (by simp [hcloses, hidle, hpaused])).none_of_none
      ((u.freed_stream sid sid).trans (if_pos rfl))

/-- The log entry of CLOSE_STREAM accepted. -/
def closeEntry (s : State) (c : Cmd) (x : Stream) : LogInfo where
  origin := c.m
  kind := kindOfOp c.op
  result := stAccepted
  tag := c.tag.toNat
  object := s.logObject c
  oldh := x.hash.toNat
  newh := 0

/-- The long operation of CLOSE_STREAM (R343). -/
def closeOp (s : State) (c : Cmd) (x : Stream) : LongOp where
  origin := c.m
  tag := c.tag
  opcode := c.op
  done := 0
  total := x.rows.length
  object := BitVec.ofNat 64 (bits (c.arg 1) 13 0)
  logObj := BitVec.ofNat 32 (s.logObject c)
  oldh := BitVec.ofNat 32 x.hash.toNat
  failed := none

/-- The entry and the long operation of CLOSE_STREAM are made. -/
def closeNoted (s : State) (c : Cmd) (x : Stream) : State :=
  let u := s.logPut (s.closeEntry c x)
  { u with longOps := u.longOps ++ [s.closeOp c x] }

/-- The stream closes. -/
def closeBegun (s : State) (c : Cmd) (x : Stream) : State :=
  (s.closeNoted c x).modStream (bits (c.arg 1) 13 0) fun y => y.closes c x.rows.length

/-- What waits in the stream's tiles goes on, and the stream ends where nothing of it is left. -/
def closeSettled (s : State) (c : Cmd) (x : Stream) : State :=
  ((s.closeBegun c x).settleTiles x.allTiles).finishClose (bits (c.arg 1) 13 0)

theorem closeStream_accepts {s : State} {c : Cmd} {x : Stream} (hx : s.stream? (bits (c.arg 1) 13 0) = some x) (hopen : x.closing = false)
    (hroom : s.logRoom true = true) : s.closeStream c = (s.closeSettled c x).answer c stAccepted [] := by
  unfold closeStream
  dsimp only
  rw [hx]
  dsimp only
  rw [if_neg (by simp [hopen]), accept, if_pos hroom]
  rfl

section
variable (s : State) (c : Cmd) (x : Stream)

theorem closeBegun_stream (k : Nat) : (s.closeBegun c x).stream? k =
    (s.stream? k).map fun y => if y.sid == bits (c.arg 1) 13 0 then y.closes c x.rows.length else y := by
  have hnoted : (s.closeNoted c x).stream? k = s.stream? k := by simp [closeNoted, stream?]
  rw [closeBegun, modStream_stream _ _ _ (fun y => y.closes c x.rows.length) fun _ => rfl, hnoted]

theorem closeBegun_stream_ne {k : Nat} (hk : k ≠ bits (c.arg 1) 13 0) : (s.closeBegun c x).stream? k = s.stream? k := by
  rw [closeBegun_stream]
  cases hz : s.stream? k with
  | none => rfl
  | some z => simp [sid_of_stream hz, hk]

theorem closeBegun_tile (k : Nat) : (s.closeBegun c x).tile k = s.tile k := by
  simp [closeBegun, closeNoted, tile]

theorem closeBegun_paused : (s.closeBegun c x).paused = s.paused := by
  simp [closeBegun, closeNoted, paused]

theorem closeBegun_apart : (s.closeBegun c x).apart = s.apart := (modStream_apart _ _ _).trans (logPut_apart s _)

end

/-- What lasts of the streams as those of a closing one go on. -/
theorem closeSettled_lasting {N : Nat → Prop} (s : State) (c : Cmd) (x : Stream) (h : Still N (s.closeBegun c x)) :
    Lasting N (s.closeBegun c x) (s.closeSettled c x) := ((Lasting.refl _).settleTiles h _).finishClose _

theorem closeSettled_apart (s : State) (c : Cmd) (x : Stream) : (s.closeSettled c x).apart = s.apart := by
  rw [closeSettled, finishClose_apart, settleTiles_apart, closeBegun_apart]

/-- An open stream of which nothing is in flight is FREE (R284). -/
theorem closeSettled_frees {s : State} {c : Cmd} {x : Stream} (hx : s.stream? (bits (c.arg 1) 13 0) = some x) (hpaused : s.paused = false)
    (hrows : x.rows = []) (hquiet : Still (· = bits (c.arg 1) 13 0) s) : (s.closeSettled c x).stream? (bits (c.arg 1) 13 0) = none := by
  have hstill : Still (· = bits (c.arg 1) 13 0) (s.closeBegun c x) := fun k => (s.closeBegun_tile c x k).symm ▸ hquiet k
  have hsettled := (Lasting.refl (s.closeBegun c x)).settleTiles hstill x.allTiles
  refine finishClose_none ?_ fun w hw => ?_
  · rw [paused, hsettled.handover]
    exact (s.closeBegun_paused c x).trans hpaused
  · obtain ⟨z, hz, hzw⟩ := hsettled.found _ w hw
    rw [closeBegun_stream, hx, Option.map_some, if_pos (beq_iff_eq.2 (sid_of_stream hx))] at hz
    obtain rfl := Option.some.inj hz
    refine ⟨hzw.closing, idle_of_still (hzw.rows hrows) ?_⟩
    rw [sid_of_stream hw]
    exact hsettled.still hstill

/-- It is logged as accepted. -/
theorem closeSettled_logged {s : State} {c : Cmd} {x : Stream} (hx : s.stream? (bits (c.arg 1) 13 0) = some x) (hop : c.op = opCloseStream) :
    Logged s (s.closeSettled c x) c.m kStream stAccepted c.tag (bits (c.arg 1) 13 0 + x.desc.cls * 2 ^ 16) x.hash.toNat 0 := by
  have hobject : s.logObject c = bits (c.arg 1) 13 0 + x.desc.cls * 2 ^ 16 := by
    rw [logObject, hop]
    change bits (c.arg 1) 13 0 + (match s.stream? (bits (c.arg 1) 13 0) with
      | some x => x.desc.cls
      | none => 0) * 2 ^ 16 = _
    rw [hx]
  have hbegun : Logged s (s.closeBegun c x) c.m kStream stAccepted c.tag (bits (c.arg 1) 13 0 + x.desc.cls * 2 ^ 16) x.hash.toNat 0 := by
    obtain ⟨more, hmore⟩ := s.logPut_entries (s.closeEntry c x)
    refine ⟨more, hmore.trans ?_⟩
    rw [closeEntry, BitVec.ofNat_toNat, BitVec.setWidth_eq, hobject, hop]
    rfl
  exact logged_of_grows hbegun (s.closeSettled_lasting (N := fun _ => False) c x (still_of_none _)).log

end State

/-- Settles O23: what waits in the stream's tiles goes on (`Lasting`), and nothing of it makes or changes a stream; the end of the
closing stream itself follows where nothing of it is in flight. -/
theorem closeStreamIsAcceptedAndEnds : Obligations.CloseStreamIsAcceptedAndEnds := by
  intro m x s sid haccepted hroom hx hopen
  have hop : (s.cmd m.val).op = opCloseStream := State.takes_op haccepted.1
  have hexec : exec (.closeStream m) s = .next ((s.closeSettled (s.cmd m.val) x).answer (s.cmd m.val) stAccepted []) :=
    congrArg Host.Outcome.next ((State.runCmd_accepted s m opCloseStream _ _ haccepted rfl).trans (State.closeStream_accepts hx hopen hroom))
  have hapart := s.closeSettled_apart (s.cmd m.val) x
  have hstreams (k : Nat) : ((s.closeSettled (s.cmd m.val) x).answer (s.cmd m.val) stAccepted []).stream? k =
      (s.closeSettled (s.cmd m.val) x).stream? k := by simp [State.stream?]
  refine ⟨_, hexec, State.answer_answered s _ m stAccepted [] (State.mbx_of_apart hapart) (State.bells_of_apart hapart) _ rfl rfl, ?_,
    fun hpaused hrows hquiet => ?_, fun k hk => ?_⟩
  · obtain ⟨more, hmore⟩ := State.closeSettled_logged hx hop
    exact ⟨more, by rw [State.answer_log]; exact hmore⟩
  · rw [hstreams]
    exact State.closeSettled_frees hx hpaused hrows (still_of_quiet hquiet)
  · rw [hstreams, ← s.closeBegun_stream_ne (s.cmd m.val) x hk]
    have hlasts := s.closeSettled_lasting (s.cmd m.val) x (still_of_none _)
    refine ⟨fun w hw => ?_, hlasts.stays k⟩
    obtain ⟨z, hz, hzw⟩ := hlasts.found k w hw
    exact ⟨z, hz, hzw.desc, hzw.closing, hzw.migration⟩

end Sys2Proof.Machine
end
